-- ==== Sys2Proof/Word.lean ====
section
/-! DEFINITION. The data sizes of the spec (R7, R9, R68, R79): bytes, 32-bit words, 64-bit registers, a word with its poison tag, and the sparse table used for every addressed piece of state. -/

namespace Sys2Proof

/-- A byte (R7). -/
abbrev Byte := BitVec 8

/-- A 32-bit word (R9). -/
abbrev Word := BitVec 32

/-- A 64-bit register or operand. -/
abbrev DWord := BitVec 64

/-- A word with the poison tag that scratchpads, stashes, queues and accumulators hold beside it (R79). -/
structure TWord where
  bits : Word
  poison : Bool
  deriving DecidableEq, Repr

/-- +0 with its tag clear: what the on-die memories hold after phase 4 (R116). -/
abbrev TWord.zero : TWord := ⟨0, false⟩

/-- A sparse table: (index, value) pairs, indices strictly rising, no entry equal to the default of its table. -/
abbrev Store (α : Type) := List (Nat × α)

/-- A 64 B line as 16 words with their tags (R9, R183). -/
abbrev Line := List TWord

/-- The one status code set of Table 15.9 (R21, R416). -/
inductive Status where
  | done | abandoned | cancelled | poison | tagFail | busHalt | descMismatch | tainted | nonfiniteVeto | keyRevoked
  | partitionGone | versionUnsupported | miswired | handleStale | deferred | digestMismatch | noResource | accessDenied
  | counterExhausted | timeout
  deriving DecidableEq, Repr

/-- Codes of Table 15.9. -/
def Status.code : Status → Nat
  | .done => 0x00 | .abandoned => 0x01 | .cancelled => 0x02 | .poison => 0x03 | .tagFail => 0x04 | .busHalt => 0x05
  | .descMismatch => 0x06 | .tainted => 0x07 | .nonfiniteVeto => 0x08 | .keyRevoked => 0x09 | .partitionGone => 0x0A
  | .versionUnsupported => 0x0B | .miswired => 0x0C | .handleStale => 0x0D | .deferred => 0x0E | .digestMismatch => 0x0F
  | .noResource => 0x10 | .accessDenied => 0x11 | .counterExhausted => 0x12 | .timeout => 0x13

end Sys2Proof
end

