-- ==== Sys2Proof/Config.lean ====
section
/-! DEFINITION. What the spec leaves free (opaque, no body: no proof can see a value) and the named standards whose functions the spec names without giving (AES-256, KMAC256, SHAKE256, AES-256-GCM, ML-KEM-1024, XMSS). -/

namespace Sys2Proof.Config

/-- Entropy: the n-th 256-bit draw of the conditioned source (R264). -/
opaque entropy : Nat → BitVec 256

/-- The order in which the adder tree takes the 128 products of one slice (R87: not specified): draw, row, column, slice. -/
opaque treeOrder : Nat → Nat → Nat → Nat → List Nat

/-- Candidates for the transcendentals within the bounds of Table 3.9 and R125 (R87, R89). -/
opaque expCandidate : Word → Word
opaque logCandidate : Word → Word
opaque rsqrtCandidate : Word → Word
opaque recipCandidate : Word → Word
opaque geluCandidate : Word → Word
opaque siluCandidate : Word → Word

/-- The bytes at the overlap of one MOVE (R207): draw and byte index. -/
opaque overlapByte : Nat → Nat → Byte

/-- The contents of a range written while it is released (R305): draw and word index. -/
opaque releaseRaceWord : Nat → Nat → Word

/-- SHAKE256 of a byte list, 256 bits of output (R39, R146). -/
opaque shake256 : List Byte → BitVec 256

/-- KMAC256 of key, message, output length in bits and customisation string (R266); the first output byte is the least significant. -/
opaque kmac256 : BitVec 256 → List Byte → Nat → String → Nat

/-- The test-signed firmware key in ROM (R431, Table 10.6); the spec gives no value. -/
opaque testFwKey : List Byte

/-- Flags, length and label of a LINK_IN slot that a restore refills: the schedule record does not carry them (Table 14.4): draw and slot. -/
opaque refilledHeader : Nat → Nat → Nat

/-- TROOT: the fixed value in ROM ("Roots and the test root", R265); the spec gives no value. -/
opaque testRoot : BitVec 256

/-- AES-256 of one 128-bit block under a key (R230). -/
opaque aes256 : BitVec 256 → BitVec 128 → BitVec 128

/-- AES-256-GCM encryption of words under a key, an initialisation vector and associated data (R328). -/
opaque gcmSeal : BitVec 256 → Nat → List Byte → List Byte → List Byte

/-- AES-256-GCM tag over ciphertext (R328). -/
opaque gcmTag : BitVec 256 → Nat → List Byte → List Byte → BitVec 128

/-- AES-256-GCM decryption of a ciphertext (R328). -/
opaque gcmOpen : BitVec 256 → Nat → List Byte → List Byte → List Byte

/-- ML-KEM-1024: the encapsulation key of a decapsulation seed (R271). -/
opaque mlkemPublic : BitVec 512 → List Byte

/-- ML-KEM-1024 decapsulation: secret of seed and ciphertext (R273). -/
opaque mlkemDecaps : BitVec 512 → List Byte → BitVec 256

/-- ML-KEM-1024 encapsulation to a peer key from a draw: ciphertext and secret (R272). -/
opaque mlkemEncaps : List Byte → BitVec 256 → List Byte × BitVec 256

/-- XMSS signature of a digest under a seed at an index (R285). -/
opaque xmssSign : BitVec 256 → Nat → BitVec 256 → List Byte

/-- The public key of an XMSS seed (R284). -/
opaque xmssPublic : BitVec 256 → BitVec 256

/-- XMSS verification of a signature on a digest under a public key (R278, R430). -/
opaque xmssVerify : BitVec 256 → BitVec 256 → List Byte → Bool

end Sys2Proof.Config
end

