-- ==== Sys2Proof/Machine/Formats.lean ====
section
/-! DEFINITION. Element formats, decoding, the one rounding (round-to-nearest, ties-to-even), overflow modes and the numeric flag field (chapter 3, R67 to R80, R88). -/

namespace Sys2Proof.Machine

/-- Element formats of Table 3.1 (U8SQ, the second-moment element, is apart: R94). -/
inductive Fmt where
  | fp32 | bf16 | fp16 | e4m3 | e5m2 | fp4
  deriving DecidableEq, Repr

/-- Format code of Table 3.1; reserved codes and U8SQ give none (R67). -/
def Fmt.ofCode : Nat → Option Fmt
  | 0 => some .fp32
  | 1 => some .bf16
  | 2 => some .fp16
  | 3 => some .e4m3
  | 4 => some .e5m2
  | 5 => some .fp4
  | _ => none

/-- Element width in bits (Table 3.1). -/
def Fmt.bits : Fmt → Nat
  | .fp32 => 32 | .bf16 => 16 | .fp16 => 16 | .e4m3 => 8 | .e5m2 => 8 | .fp4 => 4

/-- Elements per word (R68). -/
def Fmt.perWord (f : Fmt) : Nat := 32 / f.bits

/-- Mantissa bits (Table 3.2). -/
def Fmt.man : Fmt → Nat
  | .fp32 => 23 | .bf16 => 7 | .fp16 => 10 | .e4m3 => 3 | .e5m2 => 2 | .fp4 => 1

/-- Exponent bits (Table 3.2). -/
def Fmt.exps : Fmt → Nat
  | .fp32 => 8 | .bf16 => 8 | .fp16 => 5 | .e4m3 => 4 | .e5m2 => 5 | .fp4 => 2

/-- Exponent bias (Table 3.2). -/
def Fmt.bias : Fmt → Nat
  | .fp32 => 127 | .bf16 => 127 | .fp16 => 15 | .e4m3 => 7 | .e5m2 => 15 | .fp4 => 1

/-- Encoding of the largest finite magnitude (Table 3.2). -/
def Fmt.maxCode : Fmt → Nat
  | .fp32 => 0x7F7FFFFF | .bf16 => 0x7F7F | .fp16 => 0x7BFF | .e4m3 => 0x7E | .e5m2 => 0x7B | .fp4 => 0x7

/-- Canonical NaN as written (Table 3.3); FP4 carries it in the poison tag. -/
def Fmt.nanCode : Fmt → Nat
  | .fp32 => 0x7FC00000 | .bf16 => 0x7FC0 | .fp16 => 0x7E00 | .e4m3 => 0x7F | .e5m2 => 0x7E | .fp4 => 0x8

/-- A numeric value: NaN, an infinity, or the exact dyadic (-1)^neg * m * 2^e; m = 0 is a signed zero. -/
inductive Num where
  | nan
  | inf (neg : Bool)
  | fin (neg : Bool) (m : Nat) (e : Int)
  deriving DecidableEq, Repr

abbrev Num.zero : Num := .fin false 0 0
abbrev Num.one : Num := .fin false 1 0

/-- R80. -/
def Num.nonFinite : Num → Bool
  | .fin _ _ _ => false
  | _ => true

/-- The numeric flag field of Table 3.8. -/
abbrev Flags := BitVec 8

abbrev Flags.invalid : Flags := 0x01
abbrev Flags.nanIn : Flags := 0x02
abbrev Flags.overflow : Flags := 0x04
abbrev Flags.underflow : Flags := 0x08
abbrev Flags.infOut : Flags := 0x10
abbrev Flags.nanOut : Flags := 0x20
abbrev Flags.scaleOdd : Flags := 0x40

/-- A numeric computation: a value and the flags it raised on the way (the flags are sticky, R88). -/
abbrev F := StateM Flags

/-- Hardware sets flags and never clears them (R88). -/
def raise (f : Flags) : F Unit := modify (· ||| f)

def raiseIf (c : Bool) (f : Flags) : F Unit := if c then raise f else pure ()

/-- Value and flags of a computation started with no flag set. -/
def F.exec {α : Type} (x : F α) : α × Flags := x.run 0

/-- Value of a computation whose flags the rule drops. -/
def F.quiet {α : Type} (x : F α) : F α := do
  let g ← get
  let v ← x
  set g
  pure v

/-- R69, R70: the value of an element encoding (any NaN payload reads as NaN). -/
def decodeElem (f : Fmt) (code : Nat) : Num :=
  let neg := (code >>> (f.bits - 1)) % 2 = 1
  let ef := (code >>> f.man) % 2 ^ f.exps
  let mf := code % 2 ^ f.man
  let top := ef = 2 ^ f.exps - 1
  match f with
  | .fp4 => finite f neg ef mf
  | .e4m3 => if top ∧ mf = 7 then .nan else finite f neg ef mf
  | _ => if top then (if mf = 0 then .inf neg else .nan) else finite f neg ef mf
where
  finite (f : Fmt) (neg : Bool) (ef mf : Nat) : Num :=
    if ef = 0 then .fin neg mf (1 - (f.bias : Int) - f.man)
    else .fin neg (2 ^ f.man + mf) ((ef : Int) - f.bias - f.man)

/-- m * 2^e brought to a multiple of 2^q, ties to even (R72). -/
def roundQuantum (m : Nat) (e q : Int) : Nat :=
  if q ≤ e then m <<< (e - q).toNat
  else
    let d := (q - e).toNat
    let k := m >>> d
    let rem := m % 2 ^ d
    let half := 2 ^ (d - 1)
    if rem > half ∨ (rem = half ∧ k % 2 = 1) then k + 1 else k

/-- Magnitude code of a nonzero finite m * 2^e before the overflow test; codes past maxCode are the overflows of Table 3.4. -/
def magCode (f : Fmt) (m : Nat) (e : Int) : Nat :=
  let lead := e + (Nat.log2 m : Int)
  let emin : Int := 1 - f.bias
  let ex := max lead emin
  let r := roundQuantum m e (ex - f.man)
  (((ex - emin).toNat) <<< f.man) + r

def signBit (f : Fmt) (neg : Bool) : Nat := if neg then 1 <<< (f.bits - 1) else 0

/-- One rounding into a format under an overflow mode (R72 to R76, Tables 3.4 and 3.5): the encoding, and whether it stands for NaN. -/
def encodeElem (f : Fmt) (sat : Bool) (x : Num) : F (Nat × Bool) :=
  match x with
  | .nan => pure (f.nanCode, true)
  | .inf neg =>
    match f with
    | .e4m3 => do raise .invalid; pure (f.nanCode, true)
    | .fp4 => do raise .overflow; pure (signBit f neg + f.maxCode, false)
    | _ => pure (signBit f neg + f.maxCode + 1, false)
  | .fin neg m e =>
    if m = 0 then pure (signBit f neg, false)
    else
      let c := magCode f m e
      if c > f.maxCode then
        if sat ∨ f = .fp4 then do raise .overflow; pure (signBit f neg + f.maxCode, false)
        else match f with
          | .e4m3 => do raise (.overflow ||| .invalid); pure (f.nanCode, true)
          | _ => do raise .overflow; pure (signBit f neg + f.maxCode + 1, false)
      else do
        raiseIf (c = 0) .underflow
        pure (signBit f neg + c, false)

/-- One rounding into FP32 in IEEE mode (R72, R89): the value it leaves. -/
def round32 (x : Num) : F Num := do
  let c ← encodeElem .fp32 false x
  pure (decodeElem .fp32 c.1)

/-- An FP32 word read as a value with its tag: a poisoned word is NaN and sets NAN_IN, as does a NaN (R79). -/
def readNum (f : Fmt) (code : Nat) (poison : Bool) : F Num := do
  let x := if poison then Num.nan else decodeElem f code
  raiseIf (x = .nan) .nanIn
  pure x

/-- R79, R88: what writing an element marks. -/
def markWrite (f : Fmt) (code : Nat) (isNan : Bool) : F Unit := do
  raiseIf isNan .nanOut
  raiseIf (!isNan && (match decodeElem f code with | .inf _ => true | _ => false)) .infOut

/-- Element i of a word (R68). -/
def elemOf (f : Fmt) (w : Word) (i : Nat) : Nat := (w.toNat >>> (f.bits * i)) % 2 ^ f.bits

/-- A word with element i replaced (R68). -/
def setElem (f : Fmt) (w : Word) (i code : Nat) : Word :=
  let s := f.bits * i
  BitVec.ofNat 32 (w.toNat - (elemOf f w i <<< s) + (code % 2 ^ f.bits) <<< s)

/-- Bytes that n elements take, rounded up (R68). -/
def Fmt.bytes (f : Fmt) (n : Nat) : Nat := (n * f.bits + 7) / 8

/-- Canonical FP32 value 2^k (R81, R146). -/
def pow2 (k : Int) : Num := .fin false 1 k

end Sys2Proof.Machine
end

