-- ==== Sys2Proof/Machine/Arith.lean ====
section
/-! DEFINITION. Exact arithmetic on values and its one rounding, the transcendentals of Table 3.9 and R125 within their bounds, and max, min and comparisons (R72, R77, R78, R84, R89). -/

namespace Sys2Proof.Machine

def Num.neg : Num → Num
  | .nan => .nan
  | .inf s => .inf (!s)
  | .fin s m e => .fin (!s) m e

def Num.abs : Num → Num
  | .nan => .nan
  | .inf _ => .inf false
  | .fin _ m e => .fin false m e

def Num.isNeg : Num → Bool
  | .nan => false
  | .inf s => s
  | .fin s _ _ => s

def Num.isZero : Num → Bool
  | .fin _ m _ => m = 0
  | _ => false

/-- Signed integer of a finite value in units of 2^q, q at most its exponent. -/
def scaled (s : Bool) (m : Nat) (e q : Int) : Int :=
  let v : Int := (m <<< (e - q).toNat : Nat)
  if s then -v else v

/-- Exact product (R77): infinity times zero is NaN and INVALID. -/
def mulX (x y : Num) : F Num :=
  match x, y with
  | .nan, _ => pure .nan
  | _, .nan => pure .nan
  | .inf s, .inf t => pure (.inf (s != t))
  | .inf s, .fin t m _ => if m = 0 then do raise .invalid; pure .nan else pure (.inf (s != t))
  | .fin s m _, .inf t => if m = 0 then do raise .invalid; pure .nan else pure (.inf (s != t))
  | .fin s m e, .fin t n f => pure (.fin (s != t) (m * n) (e + f))

/-- Exact sum (R77): unlike infinities are NaN and INVALID; x + (-x) and zeros of opposite sign give +0. -/
def addX (x y : Num) : F Num :=
  match x, y with
  | .nan, _ => pure .nan
  | _, .nan => pure .nan
  | .inf s, .inf t => if s = t then pure (.inf s) else do raise .invalid; pure .nan
  | .inf s, .fin _ _ _ => pure (.inf s)
  | .fin _ _ _, .inf t => pure (.inf t)
  | .fin s m e, .fin t n f =>
    if m = 0 ∧ n = 0 then pure (.fin (s && t) 0 0)
    else if m = 0 then pure y
    else if n = 0 then pure x
    else
      let q := min e f
      let v := scaled s m e q + scaled t n f q
      pure (.fin (decide (v < 0)) v.natAbs q)

/-- Quotient of finite values kept to 64 bits and a sticky bit, so that one rounding of it is the rounding of the exact quotient. -/
def divFin (s : Bool) (m : Nat) (e : Int) (t : Bool) (n : Nat) (f : Int) : Num :=
  let k := 64 + Nat.log2 n
  let a := m <<< k
  .fin (s != t) (2 * (a / n) + (if a % n = 0 then 0 else 1)) (e - f - k - 1)

/-- Quotient (R77): 0 / 0 and infinity / infinity are NaN and INVALID. -/
def divX (x y : Num) : F Num :=
  match x, y with
  | .nan, _ => pure .nan
  | _, .nan => pure .nan
  | .inf _, .inf _ => do raise .invalid; pure .nan
  | .inf s, .fin t _ _ => pure (.inf (s != t))
  | .fin s _ _, .inf t => pure (.fin (s != t) 0 0)
  | .fin s m e, .fin t n f =>
    if n = 0 then (if m = 0 then do raise .invalid; pure .nan else pure (.inf (s != t)))
    else pure (divFin s m e t n f)

/-- Integer square root by its binary digits, from bit b downwards. -/
def isqrtFrom (n : Nat) : Nat → Nat → Nat
  | 0, r => if (r + 1) * (r + 1) ≤ n then r + 1 else r
  | b + 1, r =>
    let c := r + 2 ^ (b + 1)
    isqrtFrom n b (if c * c ≤ n then c else r)

def isqrt (n : Nat) : Nat := isqrtFrom n (Nat.log2 n / 2 + 1) 0

/-- Square root of a finite nonzero value to 64 bits and a sticky bit. -/
def sqrtFin (m : Nat) (e : Int) : Num :=
  let odd := e % 2 = 1
  let m' := if odd then 2 * m else m
  let e' := if odd then e - 1 else e
  let a := m' <<< 160
  let r := isqrt a
  .fin false (2 * r + (if r * r = a then 0 else 1)) (e' / 2 - 81)

/-- Square root before rounding (R89): of -0 it is -0, of a negative value NaN and INVALID. -/
def sqrtX (x : Num) : F Num :=
  match x with
  | .nan => pure .nan
  | .inf s => if s then do raise .invalid; pure .nan else pure (.inf false)
  | .fin s m e =>
    if m = 0 then pure (.fin s 0 0)
    else if s then do raise .invalid; pure .nan
    else pure (sqrtFin m e)

/-! ### One operation, one rounding into FP32 (R72, R89) -/

def fadd (x y : Num) : F Num := do round32 (← addX x y)
def fsub (x y : Num) : F Num := fadd x y.neg
def fmul (x y : Num) : F Num := do round32 (← mulX x y)
def fdiv (x y : Num) : F Num := do round32 (← divX x y)
def fsqrt (x : Num) : F Num := do round32 (← sqrtX x)

/-- x * y + z exactly; a NaN addend yields NaN before the product is judged (R77). -/
def fmaX (x y z : Num) : F Num :=
  if z = .nan then pure .nan else do addX (← mulX x y) z

def ffma (x y z : Num) : F Num := do round32 (← fmaX x y z)

/-! ### Order (R78) -/

/-- x < y; false when either is NaN. -/
def Num.lt (x y : Num) : Bool :=
  match x, y with
  | .nan, _ => false
  | _, .nan => false
  | .inf s, .inf t => s && !t
  | .inf s, .fin _ _ _ => s
  | .fin _ _ _, .inf t => !t
  | .fin s m e, .fin t n f =>
    let q := min e f
    decide (scaled s m e q < scaled t n f q)

def Num.le (x y : Num) : Bool :=
  match x, y with
  | .nan, _ => false
  | _, .nan => false
  | _, _ => !(Num.lt y x)

/-- max with NaN propagated; max(+0, -0) = +0. -/
def Num.max (x y : Num) : Num :=
  if x = .nan ∨ y = .nan then .nan
  else if x.lt y then y
  else if y.lt x then x
  else if x.isNeg then y else x

/-- min with NaN propagated; min(+0, -0) = -0. -/
def Num.min (x y : Num) : Num :=
  if x = .nan ∨ y = .nan then .nan
  else if x.lt y then x
  else if y.lt x then y
  else if x.isNeg then x else y

/-! ### Transcendentals (Table 3.9, R125) -/

/-- Exponent of one unit in the last place of FP32 at a finite nonzero value (R69). -/
def ulpExp (m : Nat) (e : Int) : Int := max (e + (Nat.log2 m : Int)) (-126) - 23

/-- c lies within k ulp of the finite value (s, m, e). -/
def withinUlp (k : Nat) (c : Num) (s : Bool) (m : Nat) (e : Int) : Bool :=
  match c with
  | .fin t n f =>
    let u := ulpExp m e
    let q := min (min e f) u
    let d := (scaled s m e q - scaled t n f q).natAbs
    decide (d ≤ k * (1 <<< (u - q).toNat))
  | _ => false

/-- A result the spec bounds by k ulp: the free candidate where it keeps the bound, else the rounded reference; overflow and underflow as Table 3.9 states them. -/
def within (k : Nat) (candidate : Word) (ref : Num) : F Num :=
  match ref with
  | .fin s m e =>
    if m = 0 then pure ref
    else
      let code := magCode .fp32 m e
      if code > Fmt.fp32.maxCode then do raise .overflow; pure (.inf s)
      else
        let c := decodeElem .fp32 candidate.toNat
        if withinUlp k c s m e then do
          raiseIf c.isZero .underflow
          pure c
        else do
          raiseIf (code = 0) .underflow
          pure (decodeElem .fp32 (signBit .fp32 s + code))
  | _ => pure ref

/-- FP32 encoding of a value that is an FP32 value. -/
def word32 (x : Num) : Word := BitVec.ofNat 32 ((encodeElem .fp32 false x).run' 0).1

/-- Fraction bits of the fixed-point references below. -/
abbrev fixBits : Nat := 160

/-- ln 2 in 160 fraction bits. -/
def ln2Fix : Int := 0xb17217f7d1cf79abc9e3b39803f2f6af40f34326

/-- Taylor terms of exp on [0, ln 2), fixed point. -/
def expSeries (r : Int) : Nat → Nat → Int → Int → Int
  | 0, _, _, acc => acc
  | fuel + 1, k, term, acc =>
    let term' := term * r / 2 ^ fixBits / k
    expSeries r fuel (k + 1) term' (acc + term')

/-- exp of x / 2^160: mantissa of 160 fraction bits and a binary exponent. -/
def expFix (x : Int) : Num :=
  let n := x / ln2Fix
  let t := expSeries (x - n * ln2Fix) 48 1 (2 ^ fixBits) (2 ^ fixBits)
  .fin false (2 * t.toNat + 1) (n - fixBits - 1)

/-- Integer of a finite value in units of 2^-160. -/
def toFix (s : Bool) (m : Nat) (e : Int) : Int :=
  let v : Nat := if e + fixBits ≥ 0 then m <<< (e + fixBits).toNat else m >>> (-(e + fixBits)).toNat
  if s then -(v : Int) else v

/-- The reference of exp at a finite argument of magnitude below 2^9. -/
def expRef (s : Bool) (m : Nat) (e : Int) : Num :=
  if m = 0 then .one else expFix (toFix s m e)

/-- |x| at least 2^k. -/
def atLeastPow (m : Nat) (e : Int) (k : Int) : Bool := decide (m ≠ 0 ∧ e + (Nat.log2 m : Int) ≥ k)

/-- exp within 2 ulp (Table 3.9). -/
def fexp (x : Num) : F Num :=
  match x with
  | .nan => pure .nan
  | .inf s => pure (if s then .zero else .inf false)
  | .fin s m e =>
    if atLeastPow m e 8 then
      if s then do raise .underflow; pure .zero else do raise .overflow; pure (.inf false)
    else within 2 (Config.expCandidate (word32 x)) (expRef s m e)

/-- Terms of 2 atanh z, fixed point: z2 = z^2. -/
def atanhSeries (z2 : Int) : Nat → Nat → Int → Int → Int
  | 0, _, _, acc => acc
  | fuel + 1, k, p, acc => atanhSeries z2 fuel (k + 2) (p * z2 / 2 ^ fixBits) (acc + p / k)

/-- The reference of log at a positive finite argument. -/
def logRef (m : Nat) (e : Int) : Num :=
  let k := Nat.log2 m
  let one := 2 ^ k
  let z : Int := ((m - one) <<< fixBits) / (m + one)
  let v := (e + (k : Int)) * ln2Fix + 2 * atanhSeries (z * z / 2 ^ fixBits) 56 1 z 0
  .fin (decide (v < 0)) v.natAbs (-(fixBits : Int))

/-- log within 2 ulp (Table 3.9). -/
def flog (x : Num) : F Num :=
  match x with
  | .nan => pure .nan
  | .inf s => if s then do raise .invalid; pure .nan else pure (.inf false)
  | .fin s m e =>
    if m = 0 then pure (.inf true)
    else if s then do raise .invalid; pure .nan
    else within 2 (Config.logCandidate (word32 x)) (logRef m e)

/-- 1 / sqrt of a positive finite value to about 64 bits and a sticky bit. -/
def rsqrtFin (m : Nat) (e : Int) : Num :=
  let odd := e % 2 = 1
  let m' := if odd then 2 * m else m
  let e' := if odd then e - 1 else e
  let k := 64 + Nat.log2 m'
  let a := 2 ^ (2 * k)
  let r := isqrt (a / m')
  .fin false (2 * r + (if r * r * m' = a then 0 else 1)) (-(e' / 2) - k - 1)

/-- rsqrt within 1 ulp (Table 3.9). -/
def frsqrt (x : Num) : F Num :=
  match x with
  | .nan => pure .nan
  | .inf s => if s then do raise .invalid; pure .nan else pure .zero
  | .fin s m e =>
    if m = 0 then pure (.inf s)
    else if s then do raise .invalid; pure .nan
    else within 1 (Config.rsqrtCandidate (word32 x)) (rsqrtFin m e)

/-- reciprocal within 1 ulp (Table 3.9). -/
def frecip (x : Num) : F Num :=
  match x with
  | .nan => pure .nan
  | .inf s => pure (.fin s 0 0)
  | .fin s m e =>
    if m = 0 then pure (.inf s)
    else within 1 (Config.recipCandidate (word32 x)) (divFin false 1 0 s m e)

/-- x / (1 + exp a), a in units of 2^-160: the reference of GELU and SILU. -/
def logisticRef (s : Bool) (m : Nat) (e : Int) (a : Int) : Num :=
  match (addX .one (if a = 0 then .one else expFix a)).run' 0 with
  | .fin _ n f => divFin s m e false n f
  | _ => .nan

/-- SILU within 4 ulp (R125): x / (1 + exp(-x)); only the final result sets flags. -/
def fsilu (x : Num) : F Num :=
  match x with
  | .nan => pure .nan
  | .inf s => pure (if s then .fin true 0 0 else .inf false)
  | .fin s m e =>
    if m = 0 then pure (.fin s 0 0)
    else if atLeastPow m e 9 then
      if s then do raise .underflow; pure (.fin true 0 0) else within 4 (Config.siluCandidate (word32 x)) x
    else within 4 (Config.siluCandidate (word32 x)) (logisticRef s m e (-(toFix s m e)))

/-- -2 * 0.7978846 * (x + 0.044715 x^3) in units of 2^-160, for |x| below 2^5 (R125). -/
def geluArg (s : Bool) (m : Nat) (e : Int) : Int :=
  let x := toFix s m e
  let cube := x * x / 2 ^ fixBits * x / 2 ^ fixBits
  Int.neg (2 * 7978846 * (x + 44715 * cube / 1000000) / 10000000)

/-- GELU within 4 ulp (R125), by 0.5 (1 + tanh u) = 1 / (1 + exp(-2u)). -/
def fgelu (x : Num) : F Num :=
  match x with
  | .nan => pure .nan
  | .inf s => pure (if s then .fin true 0 0 else .inf false)
  | .fin s m e =>
    if m = 0 then pure (.fin s 0 0)
    else if atLeastPow m e 5 then
      if s then do raise .underflow; pure (.fin true 0 0) else within 4 (Config.geluCandidate (word32 x)) x
    else within 4 (Config.geluCandidate (word32 x)) (logisticRef s m e (geluArg s m e))

end Sys2Proof.Machine
end

