-- ==== Sys2Proof/Machine/Moments.lean ====
section
/-! DEFINITION. The block-scaled moment forms (R91 to R94): blocks of 32 elements with one scale byte, in groups of 64 blocks of 2,112 B. -/

namespace Sys2Proof.Machine

/-- One encoded block: scale byte, element bytes of the elements that are not padding, and whether it stands for non-finite values. -/
structure MomentBlock where
  scale : Nat
  codes : List Nat
  bad : Bool
  deriving DecidableEq, Repr

/-- A non-finite block (R93). -/
def badBlock (n : Nat) : F MomentBlock := do
  raise .nanOut
  pure ⟨0xFF, List.replicate n 0x7F, true⟩

/-- E of Table 3.6 from the exponent k (R92, R94): k + 127 limited to 0 to 254. -/
def scaleByte (k : Int) : Nat := (min (max (k + 127) 0) 254).toNat

def maxAbs (xs : List Num) : Num := xs.foldl (fun a x => a.max x.abs) .zero

/-- First-moment block (R92). -/
def encodeBlock1 (xs : List Num) : F MomentBlock :=
  if xs.any Num.nonFinite then badBlock xs.length
  else match maxAbs xs with
    | .fin _ m e =>
      let lead := e + (Nat.log2 m : Int)
      let k := if 4 * m ≤ 7 * 2 ^ Nat.log2 m then lead - 8 else lead - 7
      let scale := if m = 0 then 0 else scaleByte k
      do
        let codes ← xs.mapM fun x => do
          let y ← mulX x (pow2 (127 - (scale : Int)))
          pure (← encodeElem .e4m3 true y).1
        pure ⟨scale, codes, false⟩
    | _ => badBlock xs.length

/-- First-moment element (R92): exact product rounded once into FP32. -/
def decodeElem1 (scale code : Nat) : F Num := do
  let y ← mulX (decodeElem .e4m3 code) (pow2 ((scale : Int) - 127))
  round32 y

/-- U8SQ element of a root r at scale E (R94). -/
def rootCode (scale : Nat) (r : Num) : F Nat :=
  match r with
  | .fin _ m e => do
    let q := if m = 0 then 0 else min 255 (roundQuantum m (e + 135 - scale) 0)
    raiseIf (decide (m ≠ 0 ∧ q = 0)) .underflow
    pure q
  | _ => pure 0

/-- Second-moment block (R93, R94). -/
def encodeBlock2 (vs : List Num) : F MomentBlock :=
  if vs.any Num.nonFinite then badBlock vs.length
  else if vs.any (fun v => v.isNeg && !v.isZero) then do raise .invalid; badBlock vs.length
  else do
    let rs ← vs.mapM fsqrt
    match maxAbs rs with
    | .fin _ m e =>
      let lead := e + (Nat.log2 m : Int)
      let k := if m * 128 ≤ 255 * 2 ^ Nat.log2 m then lead + 1 else lead + 2
      let scale := if m = 0 then 0 else scaleByte k
      let codes ← rs.mapM (rootCode scale)
      pure ⟨scale, codes, false⟩
    | _ => badBlock vs.length

/-- Second-moment element (R94): v and its root. -/
def decodeElem2 (scale code : Nat) : F (Num × Num) := do
  let r : Num := .fin false code ((scale : Int) - 135)
  let v ← fmul r r
  pure (v, r)

/-- Words per block group (R91). -/
abbrev groupWords : Nat := 528

/-- Groups that n elements take (R91). -/
def groupsFor (n : Nat) : Nat := (n + 2047) / 2048

/-- Pack up to four byte values into a word, missing bytes zero (R68). -/
def packBytes (bs : List Nat) : Word :=
  BitVec.ofNat 32 (bs.foldr (fun b acc => b % 256 + 256 * acc) 0)

/-- The eight element words of a block: padding zero, poison where the block is bad and the word holds an element (R91, R93). -/
def blockWords (b : MomentBlock) : List TWord :=
  (List.range 8).map fun i =>
    let bs := (b.codes.drop (4 * i)).take 4
    ⟨packBytes bs, b.bad && !bs.isEmpty⟩

/-- Encode a run of values into block groups, word by word (R91): the group elements, then its scale bytes. -/
def encodeGroups (enc : List Num → F MomentBlock) (xs : List Num) : F (List TWord) := do
  let groups ← (List.range (groupsFor xs.length)).mapM fun g => do
    let blocks ← (List.range 64).mapM fun b => enc ((xs.drop (g * 2048 + b * 32)).take 32)
    let scales := (List.range 16).map fun i =>
      (⟨packBytes (((blocks.drop (4 * i)).take 4).map MomentBlock.scale), false⟩ : TWord)
    pure ((blocks.map blockWords).flatten ++ scales)
  pure groups.flatten

/-- Word and byte of element k within its run, and word and byte of its scale (R91). -/
def elemPlace (k : Nat) : Nat × Nat × Nat × Nat :=
  let g := k / 2048
  let j := k % 2048
  (g * groupWords + j / 4, j % 4, g * groupWords + 512 + j / 32 / 4, j / 32 % 4)

def byteOf (w : Word) (i : Nat) : Nat := (w.toNat >>> (8 * i)) % 256

/-- Decode element k of a run of block groups (R92 to R94): NaN and NAN_IN for a bad block or a poisoned element word. -/
def decodeRun (form2 : Bool) (word : Nat → TWord) (k : Nat) : F (Num × Num) := do
  let (w, b, sw, sb) := elemPlace k
  let ew := word w
  let scaleW := word sw
  let scale := byteOf scaleW.bits sb
  if ew.poison || scaleW.poison || scale = 0xFF then do
    raise .nanIn
    pure (.nan, .nan)
  else if form2 then decodeElem2 scale (byteOf ew.bits b)
  else do
    let x := decodeElem .e4m3 (byteOf ew.bits b)
    raiseIf (x = .nan) .nanIn
    let v ← decodeElem1 scale (byteOf ew.bits b)
    pure (v, v)

end Sys2Proof.Machine
end

