-- ==== Sys2Proof/Machine/Store.lean ====
section
/-! DEFINITION. Sparse tables in one canonical form, bit fields of numbers, and the byte and word views of lists used by every block. -/

namespace Sys2Proof.Machine

/-- What index k of a sparse table reads as; an unlisted index reads as the table's default. -/
def Store.get {α : Type} (d : α) : Store α → Nat → α
  | [], _ => d
  | (j, v) :: m, k => if k = j then v else Store.get d m k

/-- Write index k; writing the default removes the entry, so equal tables are equal lists. -/
def Store.set {α : Type} [DecidableEq α] (d : α) : Store α → Nat → α → Store α
  | [], k, v => if v = d then [] else [(k, v)]
  | (j, w) :: m, k, v =>
    if k < j then (if v = d then (j, w) :: m else (k, v) :: (j, w) :: m)
    else if k = j then (if v = d then m else (k, v) :: m)
    else (j, w) :: Store.set d m k v

/-- Every listed index is at least n, indices strictly rise, and no entry equals the default. -/
def Store.wfFrom {α : Type} [DecidableEq α] (d : α) : Nat → Store α → Bool
  | _, [] => true
  | n, (j, v) :: m => decide (n ≤ j) && decide (v ≠ d) && Store.wfFrom d (j + 1) m

/-- The canonical form of a table. -/
def Store.wf {α : Type} [DecidableEq α] (d : α) (m : Store α) : Bool := Store.wfFrom d 0 m

/-- Apply a function to one entry. -/
def Store.upd {α : Type} [DecidableEq α] (d : α) (m : Store α) (k : Nat) (f : α → α) : Store α :=
  Store.set d m k (f (Store.get d m k))

/-- Give the indices lo, lo + 1, ... the values of a list. -/
def Store.setMany {α : Type} [DecidableEq α] (d : α) (m : Store α) (lo : Nat) : List α → Store α
  | [] => m
  | v :: vs => Store.setMany d (Store.set d m lo v) (lo + 1) vs

/-- The values at lo, lo + 1, ..., lo + n - 1. -/
def Store.getMany {α : Type} (d : α) (m : Store α) (lo n : Nat) : List α :=
  (List.range n).map fun i => Store.get d m (lo + i)

/-- Every index from lo to lo + n - 1 back at the default. -/
def Store.clear {α : Type} (m : Store α) (lo n : Nat) : Store α :=
  m.filter fun p => decide (p.1 < lo) || decide (lo + n ≤ p.1)

/-- n bits of v from bit lo up (R7). -/
def bits (v lo n : Nat) : Nat := (v >>> lo) % 2 ^ n

/-- Bit i of v. -/
def bit (v i : Nat) : Bool := (v >>> i) % 2 = 1

/-- v with its n bits from bit lo up replaced by x. -/
def setBits (v lo n x : Nat) : Nat := v - (bits v lo n <<< lo) + (x % 2 ^ n) <<< lo

/-- 1 for a true condition. -/
def b2n (b : Bool) : Nat := if b then 1 else 0

/-- n bits read as two's complement. -/
def signed (n v : Nat) : Int := if bit v (n - 1) then (v : Int) - 2 ^ n else v

/-- Ceiling of a quotient. -/
def ceilDiv (a b : Nat) : Nat := (a + b - 1) / b

/-- Ranges [a, a + m) and [b, b + n) share a byte. -/
def overlaps (a m b n : Nat) : Bool := decide (a < b + n) && decide (b < a + m) && decide (0 < m) && decide (0 < n)

/-- The number whose little-endian words these are (R7). -/
def wordsNat : List Word → Nat
  | [] => 0
  | w :: ws => w.toNat + 2 ^ 32 * wordsNat ws

/-- n little-endian words of a number (R7). -/
def natWords (v : Nat) : Nat → List Word
  | 0 => []
  | n + 1 => BitVec.ofNat 32 v :: natWords (v / 2 ^ 32) n

/-- The number whose little-endian bytes these are (R7). -/
def bytesNat : List Byte → Nat
  | [] => 0
  | b :: bs => b.toNat + 256 * bytesNat bs

/-- n little-endian bytes of a number (R7). -/
def natBytes (v : Nat) : Nat → List Byte
  | 0 => []
  | n + 1 => BitVec.ofNat 8 v :: natBytes (v / 256) n

/-- The bytes of words, little-endian (R7). -/
def wordsBytes (ws : List Word) : List Byte := (ws.map fun w => natBytes w.toNat 4).flatten

/-- Bytes as words, little-endian, the last filled with zeros. -/
def bytesWords : List Byte → List Word
  | a :: b :: c :: d :: bs => BitVec.ofNat 32 (bytesNat [a, b, c, d]) :: bytesWords bs
  | [] => []
  | bs => [BitVec.ofNat 32 (bytesNat bs)]

/-- Replace element i of a list. -/
def setAt {α : Type} : List α → Nat → α → List α
  | [], _, _ => []
  | _ :: xs, 0, v => v :: xs
  | x :: xs, i + 1, v => x :: setAt xs i v

/-- Remove element i of a list. -/
def removeAt {α : Type} : List α → Nat → List α
  | [], _ => []
  | _ :: xs, 0 => xs
  | x :: xs, i + 1 => x :: removeAt xs i

/-- A saturating counter of n bits. -/
def satAdd (n v k : Nat) : Nat := min (v + k) (2 ^ n - 1)

/-- Insert into a list sorted by f. -/
def insertBy {α : Type} (f : α → Nat) (x : α) : List α → List α
  | [] => [x]
  | y :: ys => if f x ≤ f y then x :: y :: ys else y :: insertBy f x ys

/-- A list sorted by f, equal ones in their order. -/
def sortBy {α : Type} (f : α → Nat) (l : List α) : List α := l.foldr (insertBy f) []

/-- The first n bytes of a list, zeros after its end. -/
def fitBytes (n : Nat) (bs : List Byte) : List Byte := (List.range n).map fun i => bs.getD i 0

/-! ### The named standards with the lengths that their outputs have -/

/-- AES-256-GCM ciphertext: as long as its plaintext (R328). -/
def gcmSealed (key : BitVec 256) (iv : Nat) (aad body : List Byte) : List Byte := fitBytes body.length (Config.gcmSeal key iv aad body)

/-- AES-256-GCM plaintext: as long as its ciphertext (R328). -/
def gcmOpened (key : BitVec 256) (iv : Nat) (aad c : List Byte) : List Byte := fitBytes c.length (Config.gcmOpen key iv aad c)

/-- An ML-KEM-1024 encapsulation key: 1,568 B (Table 10.3). -/
def kemPublic (seed : BitVec 512) : List Byte := fitBytes 1568 (Config.mlkemPublic seed)

/-- ML-KEM-1024 encapsulation: the 1,568 B ciphertext and the secret (R272). -/
def kemEncaps (pub : List Byte) (r : BitVec 256) : List Byte × BitVec 256 := (fitBytes 1568 (Config.mlkemEncaps pub r).1, (Config.mlkemEncaps pub r).2)

/-- Bytes of a signature of the attestation key (R285). -/
abbrev signatureBytes : Nat := 9893

/-- A signature of a digest under a seed at an index (R285). -/
def signature (seed : BitVec 256) (i : Nat) (digest : BitVec 256) : List Byte := fitBytes signatureBytes (Config.xmssSign seed i digest)

end Sys2Proof.Machine
end

