-- ==== Sys2Proof/Machine/Tile.lean ====
section
/-! DEFINITION. What one physical tile holds (chapters 2 to 8): its memories, its dispatcher, its six units, the registers of its engines, its queue endpoint and its DMA unit. -/

namespace Sys2Proof.Machine

/-- The memories of a tile: scratchpad 4 MiB, stash 1 MiB, accumulator banks 0 to 3 of 128 x 128 FP32 (element 16,384 b + 128 r + c), bank scale registers (R100, R116, R117). -/
structure TileMem where
  sp : Store TWord
  stash : Store TWord
  banks : Store TWord
  scale : Store Word
  deriving DecidableEq, Repr

/-- Cleared memories: +0 with tags clear; scale registers 1.0 (R116, R141). -/
def TileMem.cleared : TileMem := ⟨[], [], [], []⟩

/-- MXE_BANK_SCALE reset value, 1.0 (Table 4.12). -/
abbrev scaleOne : Word := 0x3F800000

/-- A record issued to a unit: its index in the program, opcode, operands after loop adjustment (R53) and its signal. -/
structure Issued where
  idx : Nat
  op : Nat
  a : Nat
  b : Nat
  sen : Bool
  stok : Nat
  /-- Place in the order of issue since release. -/
  ord : Nat
  deriving DecidableEq, Repr

/-- A record in a unit with the status it will complete with and the cost its rules give. -/
structure InFlight where
  issued : Issued
  status : Status
  cycles : Nat
  /-- MXE: banks the record targets (BANK_BUSY); VEC: OP of its descriptor (LAST_OP); COL: instance key. -/
  tag : Nat
  deriving DecidableEq, Repr

/-- One in-order unit: records in it, and records waiting behind them (R46). -/
structure UnitState where
  cur : List InFlight
  queue : List Issued
  deriving DecidableEq, Repr

def UnitState.idle : UnitState := ⟨[], []⟩

/-- An open loop of the dispatcher (R52, R53). -/
structure LoopFrame where
  start : Nat
  stop : Nat
  iter : Nat
  count : Nat
  dstep : Int
  dmod : Nat
  sstep : Int
  deriving DecidableEq, Repr

/-- STATE of TIL_STAGE_STATUS (Table 2.11). -/
inductive StageState where
  | idle | running | atStepEnd | halted | fenced
  deriving DecidableEq, Repr

/-- Encoding of Table 2.11. -/
def StageState.code : StageState → Nat
  | .idle => 0 | .running => 1 | .atStepEnd => 2 | .halted => 3 | .fenced => 4

/-- Stage status fields of Table 2.11 (BLOCKED and BLOCK_TOK are views of the dispatcher). -/
structure Stage where
  state : StageState
  fault : Status
  faultRec : Nat
  faultUnit : Nat
  leftover : Nat
  deriving DecidableEq, Repr

def Stage.reset : Stage := ⟨.idle, .done, 0, 0, 0⟩

/-- IDLE, unless the tile is held for maintenance; the fault fields stand until the next release (R60, R63). -/
def Stage.toIdle (s : Stage) : Stage := { s with state := if s.state = .fenced then .fenced else .idle }

/-- The dispatcher: record at which it stands, open loops innermost first, tokens T0 to T15 (R46, R49, R52). -/
structure Dispatcher where
  pc : Nat
  loops : List LoopFrame
  tokens : Store Nat
  /-- Records dispatched since release. -/
  count : Nat
  deriving DecidableEq, Repr

/-- MXE registers (Tables 4.10 to 4.12); MACs are held singly, KMAC is their view. -/
structure MxeRegs where
  lastStatus : Status
  flags : Flags
  active : Nat
  macs : Nat
  deriving DecidableEq, Repr

/-- VEC registers (Tables 5.8 to 5.11); elements and transcendentals are held singly. -/
structure VecRegs where
  lastStatus : Status
  lastOp : Nat
  rowNan : Bool
  rowInf : Bool
  rowEmpty : Bool
  flags : Flags
  active : Nat
  elems : Nat
  trans : Nat
  mode : Nat
  modeRefused : Bool
  clearing : Bool
  trCmd : List Nat
  trDone : Nat
  trErrMode : Bool
  trLast : Status
  trSig : Nat
  /-- Tile registers TG0 to TG15: word 1,024 r + e (R141). -/
  tg : Store TWord
  deriving DecidableEq, Repr

/-- A QSEND in progress at the producer endpoint (R185): table entry, buffer, packets in all and injected, credits, whether the lock is held. -/
structure TxState where
  entry : Nat
  buf : Nat
  packets : Nat
  sent : Nat
  credits : Nat
  locked : Bool
  /-- A request waits at the consumer. -/
  asked : Bool
  deriving DecidableEq, Repr

/-- A QRECV in progress at the consumer endpoint (R189): stream, buffer, its length, the chosen entry and packets copied. -/
structure RxState where
  stream : Nat
  buf : Nat
  len : Nat
  chosen : Option Nat
  packets : Nat
  copied : Nat
  deriving DecidableEq, Repr

/-- Queue endpoint registers (Tables 7.6 to 7.8) and the transfers behind them. -/
structure Endpoint where
  rxLast : Status
  txLast : Status
  flushDrop : Nat
  parityCnt : Nat
  hdrFixed : Nat
  hdrFatal : Bool
  txPkts : Nat
  rxPkts : Nat
  tx : Option TxState
  rx : Option RxState
  deriving DecidableEq, Repr

/-- STATE of DMA_STATUS (Table 8.10). -/
inductive DmaPhase where
  | idle | fetch | running | waitToken | waitArrival | draining | halted
  deriving DecidableEq, Repr

def DmaPhase.code : DmaPhase → Nat
  | .idle => 0 | .fetch => 1 | .running => 2 | .waitToken => 3 | .waitArrival => 4 | .draining => 5 | .halted => 6

/-- Address spaces of Table 8.5. -/
inductive Space where
  | localSp | localStash | virt | tileSp | ckpt | fwPriv
  deriving DecidableEq, Repr

def Space.code : Space → Nat
  | .localSp => 0 | .localStash => 1 | .virt => 2 | .tileSp => 3 | .ckpt => 4 | .fwPriv => 5

/-- Table 8.5; reserved codes give none. -/
def Space.ofCode : Nat → Option Space
  | 0 => some .localSp | 1 => some .localStash | 2 => some .virt | 3 => some .tileSp | 4 => some .ckpt | 5 => some .fwPriv
  | _ => none

/-- Where one side of a MOVE points: space, logical tile, address (R203). -/
structure DmaAddr where
  space : Space
  ltile : Nat
  addr : Nat
  xform : Nat
  ksel : Nat
  deriving DecidableEq, Repr

/-- A 64 B line request of a MOVE: the part of the line, both sides, retries used, and when the read has returned the data to write (R206, R209, R213). -/
structure LineReq where
  src : DmaAddr
  dst : DmaAddr
  words : Nat
  retries : Nat
  /-- Data of a read that has returned, waiting to be written. -/
  data : Option (List TWord)
  /-- The write has arrived (Table 8.7). -/
  arrived : Bool
  /-- A bus error was met and the request waits for its re-issue (R213). -/
  again : Bool
  /-- Destination bytes [lo, hi) that lie in the source range, and the draw of their free contents (R207). -/
  ov : Option (Nat × Nat × Nat)
  /-- Index of the DMA record that issued it. -/
  recIdx : Nat
  /-- Index of the MOVE in its program. -/
  pc : Nat
  deriving DecidableEq, Repr

/-- An open loop of a DMA program (R204). -/
structure DmaLoop where
  level : Nat
  start : Nat
  stop : Nat
  iter : Nat
  count : Nat
  deriving DecidableEq, Repr

/-- A DMA channel: registers of Tables 8.10 to 8.12 and its program state. -/
structure DmaChan where
  phase : DmaPhase
  pc : Nat
  base : Nat
  loops : List DmaLoop
  step : Nat
  reqs : List LineReq
  lastStatus : Status
  /-- Status the program will complete with once its requests are done. -/
  ending : Option Status
  errAddr : Nat
  errSpace : Nat
  errDst : Bool
  errPc : Nat
  retry : Nat
  rdLines : Nat
  wrLines : Nat
  retries : Nat
  deriving DecidableEq, Repr

def DmaChan.reset : DmaChan := ⟨.idle, 0, 0, [], 0, [], .done, none, 0, 0, false, 0, 3, 0, 0, 0⟩

/-- One physical tile. -/
structure Tile where
  mem : TileMem
  disp : Dispatcher
  /-- Units by the numbers of FAULT_UNIT: 1 MXE, 2 VEC, 3 DMA, 4 QOUT, 5 QIN, 6 COL (Table 2.11). -/
  units : Store UnitState
  stage : Stage
  mxe : MxeRegs
  vec : VecRegs
  ep : Endpoint
  dma : DmaChan
  /-- Step non-finite latch (R155). -/
  nonfin : Bool
  /-- TIL_LABEL (R300). -/
  label : Word
  /-- Bytes of the program region and ranges of resident regions of the bound image (R59). -/
  progBytes : Nat
  resident : List (Nat × Nat)
  /-- Lowest byte of the queue area (R181, R182). -/
  queueBase : Nat
  /-- Owning partition and the logical tile bound here (R42). -/
  part : Option Nat
  ltile : Option Nat
  deriving DecidableEq, Repr

/-- Registers at the start of phase 4 (R66, R117, R144, R197, R220). -/
def Tile.reset : Tile where
  mem := .cleared
  disp := ⟨0, [], [], 0⟩
  units := []
  stage := .reset
  mxe := ⟨.done, 0, 0, 0⟩
  vec := ⟨.done, 0, false, false, false, 0, 0, 0, 0, 0, false, false, [], 0, false, .done, 0, []⟩
  ep := ⟨.done, .done, 0, 0, 0, false, 0, 0, none, none⟩
  dma := .reset
  nonfin := false
  label := 0
  progBytes := 0
  resident := []
  queueBase := 0x3FF000
  part := none
  ltile := none

/-- Bytes of a scratchpad and of a stash (Table 1.3). -/
abbrev spBytes : Nat := 4194304
abbrev stashBytes : Nat := 1048576

/-- The step parameter area: the top 4 KiB of the scratchpad (R146). -/
abbrev spaBase : Nat := 0x3FF000

/-- Units by their numbers in FAULT_UNIT (Table 2.11). -/
abbrev unitMxe : Nat := 1
abbrev unitVec : Nat := 2
abbrev unitDma : Nat := 3
abbrev unitQout : Nat := 4
abbrev unitQin : Nat := 5
abbrev unitCol : Nat := 6

/-- The memory a LOC bit selects: 0 scratchpad, 1 stash. -/
def TileMem.loc (m : TileMem) (stash : Bool) : Store TWord := if stash then m.stash else m.sp

/-- The memories with one of them replaced. -/
def TileMem.setLoc (m : TileMem) (stash : Bool) (s : Store TWord) : TileMem :=
  if stash then { m with stash := s } else { m with sp := s }

/-- Word w of the scratchpad. -/
def TileMem.word (m : TileMem) (w : Nat) : TWord := Store.get .zero m.sp w

/-- n words of the scratchpad from byte offset off. -/
def TileMem.spWords (m : TileMem) (off n : Nat) : List TWord := Store.getMany .zero m.sp (off / 4) n

/-- A byte range that a record may not write: program region, resident regions, SPA (R59, R146). -/
def Tile.guarded (t : Tile) (off n : Nat) : Bool :=
  overlaps off n 0 t.progBytes || overlaps off n spaBase 4096 || t.resident.any fun r => overlaps off n r.1 r.2

/-- A byte range that reaches the queue area, which only the endpoint reaches (R182). -/
def Tile.inQueueArea (t : Tile) (off n : Nat) : Bool := overlaps off n t.queueBase (spaBase - t.queueBase)

/-- Capacity of a LOC in bytes. -/
def locBytes (stash : Bool) : Nat := if stash then stashBytes else spBytes

/-- Unit n of the tile. -/
def Tile.unit (t : Tile) (n : Nat) : UnitState := Store.get .idle t.units n

def Tile.setUnit (t : Tile) (n : Nat) (u : UnitState) : Tile := { t with units := Store.set .idle t.units n u }

/-! ### Rows of elements (R68, R79, R122) -/

/-- Elements 0 to n - 1 of the row that begins at word w: encoding and the tag of its word. -/
def rowElems (f : Fmt) (m : Store TWord) (w n : Nat) : List (Nat × Bool) :=
  (List.range n).map fun i =>
    let x := Store.get TWord.zero m (w + i / f.perWord)
    (elemOf f x.bits (i % f.perWord), x.poison)

/-- A word with some elements replaced: none keeps an element; the tag follows R79 over all of them, an element kept from a poisoned word counting as NaN (R122). -/
def rewriteWord (f : Fmt) (old : TWord) (vals : List (Option (Nat × Bool))) : TWord :=
  let step := fun (acc : Word × Bool × Nat) (v : Option (Nat × Bool)) =>
    match v with
    | some (c, n) => (setElem f acc.1 acc.2.2 c, acc.2.1 || n, acc.2.2 + 1)
    | none => (acc.1, acc.2.1 || old.poison || decide (decodeElem f (elemOf f old.bits acc.2.2) = .nan), acc.2.2 + 1)
  let r := vals.foldl step (old.bits, false, 0)
  ⟨r.1, r.2.1⟩

/-- Write a row of elements from word w; none leaves an element as it stands, and a word of nothing but none is not written (R99, R122, R126). -/
def writeRow (f : Fmt) (m : Store TWord) (w : Nat) (vals : List (Option (Nat × Bool))) : Store TWord :=
  (List.range (ceilDiv vals.length f.perWord)).foldl (fun acc i =>
    let part := (vals.drop (i * f.perWord)).take f.perWord
    if part.all Option.isNone then acc
    else
      let full := part ++ List.replicate (f.perWord - part.length) none
      let old := Store.get TWord.zero acc (w + i)
      Store.set .zero acc (w + i) (rewriteWord f old full)) m

/-- Write bytes at a byte offset; a word rewritten in part keeps its tag, a word rewritten whole is clear (R79, R122). -/
def writeBytes (m : Store TWord) (off : Nat) (bs : List Byte) : Store TWord :=
  if bs.isEmpty then m
  else (List.range ((off + bs.length - 1) / 4 - off / 4 + 1)).foldl (fun acc i =>
    let w := off / 4 + i
    let old := Store.get TWord.zero acc w
    let at_ := fun k => if 4 * w + k < off then none else bs[4 * w + k - off]?
    let whole := (List.range 4).all fun k => (at_ k).isSome
    let v := (List.range 4).foldl (fun (v : Nat) k => match at_ k with
      | some b => setBits v (8 * k) 8 b.toNat
      | none => v) old.bits.toNat
    Store.set .zero acc w ⟨BitVec.ofNat 32 v, !whole && old.poison⟩) m

/-- Round a value into a format under an overflow mode and mark what is written (R75, R76, R88). -/
def encodeMarked (f : Fmt) (sat : Bool) (x : Num) : F (Nat × Bool) := do
  let c ← encodeElem f sat x
  markWrite f c.1 c.2
  pure c

/-- SCALE_ODD: a scale word that is zero, negative, subnormal or non-finite (R82). -/
def scaleOdd (x : Num) : Bool :=
  match x with
  | .fin s m e => s || decide (m = 0) || decide (e + (Nat.log2 m : Int) < -126)
  | _ => true

/-- An FP32 scale word in the scratchpad, or 1.0 when not enabled (R82). -/
def readScale (m : TileMem) (en : Bool) (off : Nat) : F Num := do
  if en then
    let w := m.word (off / 4)
    let x ← readNum .fp32 w.bits.toNat w.poison
    raiseIf (scaleOdd x) .scaleOdd
    pure x
  else pure .one

end Sys2Proof.Machine
end

