-- ==== Sys2Proof/Machine/Dma.lean ====
section
/-! DEFINITION. DMA programs (chapter 8): instructions, address descriptors, loops, the addresses a MOVE forms, the checks of Table 8.8, requests, halts and stops, for tile units and system channels. -/

namespace Sys2Proof.Machine

/-- A fetched instruction (Tables 8.2 and 8.3). -/
structure DmaInstr where
  op : Nat
  bar : Bool
  srcDesc : Nat
  dstDesc : Nat
  len : Nat
  level : Nat
  count : Nat
  body : Nat
  tok : Nat
  val : Nat
  amt : Nat
  /-- Some reserved bit of its layout is not 0, or a field holds a reserved value. -/
  bad : Bool
  deriving DecidableEq, Repr

/-- OP values (Table 8.2). -/
abbrev dmaMove : Nat := 1
abbrev dmaLoop : Nat := 2
abbrev dmaWait : Nat := 3
abbrev dmaSignal : Nat := 4
abbrev dmaEnd : Nat := 0xFF

/-- Table 8.3. -/
def DmaInstr.ofBits (v : Nat) : DmaInstr :=
  let op := bits v 0 8
  let bad :=
    if op = dmaMove then decide (bits v 9 3 ≠ 0)
    else if op = dmaLoop then decide (bits v 8 2 = 3 ∨ bits v 10 6 ≠ 0 ∨ bits v 44 20 ≠ 0 ∨ bits v 32 12 = 0 ∨ 4094 < bits v 32 12)
    else if op = dmaWait then decide (bits v 12 20 ≠ 0 ∨ bits v 32 32 = 0)
    else if op = dmaSignal then decide (bits v 12 20 ≠ 0 ∨ bits v 48 16 ≠ 0 ∨ bits v 32 16 = 0)
    else if op = dmaEnd then decide (bits v 8 56 ≠ 0)
    else true
  ⟨op, bit v 8, bits v 12 16 * 64, bits v 28 16 * 64, (bits v 44 20 + 1) * 4, bits v 8 2, bits v 16 16, bits v 32 12, bits v 8 4, bits v 32 32, bits v 32 16, bad⟩

/-- Not allowed for a system channel: tokens above CT7, descriptor offsets above its memory (R201). -/
def DmaInstr.sysBad (i : DmaInstr) : Bool :=
  (decide (i.op = dmaWait ∨ i.op = dmaSignal) && decide (8 ≤ i.tok)) ||
  (decide (i.op = dmaMove) && decide (32768 ≤ i.srcDesc ∨ 32768 ≤ i.dstDesc))

/-- An address descriptor (Table 8.4). -/
structure AddrDesc where
  space : Nat
  xform : Nat
  ltile : Nat
  base : Nat
  step0 : Int
  step1 : Int
  step2 : Int
  sstride : Int
  smod : Nat
  ksel : Nat
  reserved : Bool
  deriving DecidableEq, Repr

def AddrDesc.ofBits (v : Nat) : AddrDesc :=
  ⟨bits v 0 3, bits v 3 3, bits v 8 8, bits v 16 48, signed 32 (bits v 64 32), signed 32 (bits v 96 32), signed 32 (bits v 128 32),
   signed 32 (bits v 160 32), bits v 192 32, bits v 224 8, decide (bits v 6 2 ≠ 0 ∨ bits v 232 24 ≠ 0)⟩

/-- XFORM is allowed on this side and channel kind (Table 8.6). -/
def xformOk (sys dst : Bool) (x : Nat) : Bool :=
  decide (x = 0) || (sys && if dst then decide (x = 2 ∨ x = 4) else decide (x = 1 ∨ x = 3))

/-- SPACE is allowed for the channel kind and binding (Table 8.5). -/
def spaceOk (sys fw : Bool) (s : Nat) : Bool :=
  match Space.ofCode s with
  | none => false
  | some .localSp => true
  | some .localStash => !sys
  | some .virt | some .tileSp => !(sys && fw)
  | some .ckpt => sys
  | some .fwPriv => sys && fw

/-- The structural row of Table 8.8 for one side. -/
def AddrDesc.malformed (d : AddrDesc) (sys fw dst : Bool) : Bool :=
  d.reserved || !spaceOk sys fw d.space || !xformOk sys dst d.xform ||
  (decide (d.space ≠ 3) && decide (d.ltile ≠ 0)) || (decide (d.xform = 0) && decide (d.ksel ≠ 0))

/-- Iteration of the open loop of a level, 0 when none (R203). -/
def loopIter (ls : List DmaLoop) (level : Nat) : Nat :=
  match ls.find? fun l => decide (l.level = level) with
  | some l => l.iter
  | none => 0

/-- The step term T (R203). -/
def AddrDesc.stepTerm (d : AddrDesc) (step : Nat) : Int := if d.smod = 0 then 0 else ((step % d.smod : Nat) : Int) * d.sstride

/-- The address of one side (R203), from the iterations of levels 0 to 2. -/
def AddrDesc.addr (d : AddrDesc) (i0 i1 i2 : Nat) (t : Int) : Int := (d.base : Int) + i0 * d.step0 + i1 * d.step1 + i2 * d.step2 + t

/-- What a check needs to know of the places a MOVE can name. -/
structure DmaEnv where
  sys : Bool
  fw : Bool
  ltiles : Nat
  vaSize : Nat
  /-- The page of a device virtual address is mapped. -/
  mapped : Nat → Bool
  /-- A range of a logical tile's scratchpad lies in its program, resident regions or SPA; in its queue area. -/
  guarded : Nat → Nat → Nat → Bool
  queue : Nat → Nat → Nat → Bool
  /-- The logical tile that the channel's own scratchpad is. -/
  self : Nat

/-- Capacity of a space in bytes. -/
def spaceBytes (sys : Bool) (e : DmaEnv) : Space → Nat
  | .localSp => if sys then 32768 else spBytes
  | .localStash => stashBytes
  | .virt => e.vaSize
  | .tileSp => spBytes
  | .ckpt => 8000000000000
  | .fwPriv => 4 * 2 ^ 30

/-- Every page of a range is mapped. -/
def rangeMapped (mapped : Nat → Bool) (a n : Nat) : Bool :=
  (List.range ((a + n - 1) / 2097152 - a / 2097152 + 1)).all fun i => mapped ((a / 2097152 + i) * 2097152)

/-- Rows 1 to 3 of Table 8.8 for one formed address: alignment, range, mapping, region rules. -/
def AddrDesc.checkAddr (d : AddrDesc) (e : DmaEnv) (a : Int) (n : Nat) (dst : Bool) : Status :=
  match Space.ofCode d.space with
  | none => .versionUnsupported
  | some sp =>
    if a % 4 ≠ 0 then .versionUnsupported
    else if a < 0 ∨ (spaceBytes e.sys e sp : Int) < a + n then .accessDenied
    else
      let o := a.toNat
      match sp with
      | .virt => if rangeMapped e.mapped o n then .done else .accessDenied
      | .tileSp =>
        if e.ltiles ≤ d.ltile then .accessDenied
        else if e.queue d.ltile o n || (dst && e.guarded d.ltile o n) then .accessDenied else .done
      | .localSp =>
        if e.sys then .done
        else if e.queue e.self o n || (dst && e.guarded e.self o n) then .accessDenied else .done
      | _ => .done

/-- The first status that is not DONE. -/
def firstBad (l : List Status) : Status := (l.find? fun s => decide (s ≠ .done)).getD .done

/-- A MOVE's check on formed addresses: structure of both sides first (Table 8.8), then each side; row order decides. -/
def moveStatus (e : DmaEnv) (s d : AddrDesc) (a b : Int) (n : Nat) : Status :=
  if s.malformed e.sys e.fw false || d.malformed e.sys e.fw true then .versionUnsupported
  else
    let x := s.checkAddr e a n false
    let y := d.checkAddr e b n true
    if x = .versionUnsupported ∨ y = .versionUnsupported then .versionUnsupported else firstBad [x, y]

/-- Staging plaintext rule of R307 for system channels: XFORM NONE never joins staging with protected memory, a scratchpad or a stash. -/
def stagingMix (srcStaging dstStaging : Option Bool) (sx dx : Nat) : Bool :=
  decide (sx = 0 ∧ dx = 0) && match srcStaging, dstStaging with
  | some true, some false | some false, some true => true
  | _, _ => false

/-! ### Program flow -/

/-- Where the program goes after the instruction at pc: loops whose body ends here repeat or close (R204). -/
def dmaNext (pc : Nat) : List DmaLoop → Nat × List DmaLoop
  | [] => (pc + 1, [])
  | l :: rest =>
    if pc + 1 = l.stop then
      if l.iter < l.count then (l.start, { l with iter := l.iter + 1 } :: rest)
      else dmaNext pc rest
    else (pc + 1, l :: rest)

/-- A LOOP may open here (R204). -/
def loopOk (pc : Nat) (i : DmaInstr) (ls : List DmaLoop) : Bool :=
  decide (ls.length < 3) && decide (pc + 1 + i.body ≤ 4096) &&
  ls.all fun l => decide (i.level < l.level) && decide (pc + 1 + i.body ≤ l.stop)

def DmaChan.advance (c : DmaChan) : DmaChan :=
  let n := dmaNext c.pc c.loops
  { c with pc := n.1, loops := n.2, phase := .running }

/-- A record or system program starts (R199): fetch at its first instruction with the step number sampled (R203). -/
def DmaChan.start (c : DmaChan) (base pc step : Nat) : DmaChan :=
  { c with phase := .running, pc := pc, base := base, loops := [], step := step, ending := none }

/-- A halt (R212): no further request; DMA_ERR records the line. -/
def DmaChan.halt (c : DmaChan) (st : Status) (addr space : Nat) (dst : Bool) : DmaChan :=
  match c.ending with
  | some .cancelled => c
  | some .done | none => { c with phase := .halted, ending := some st, errAddr := addr / 64 * 64, errSpace := space, errDst := dst, errPc := c.pc }
  | some _ => c

/-- A stop (R215): a program that is draining keeps its own status. -/
def DmaChan.stop (c : DmaChan) : DmaChan :=
  match c.phase, c.ending with
  | .idle, _ | .draining, _ | .halted, _ => c
  | _, _ => { c with phase := .halted, ending := some .cancelled }

/-- Lines of 64 B that a range touches. -/
def linesOf (a n : Nat) : Nat := (a + n - 1) / 64 - a / 64 + 1

/-- The part of [a, a + n) in the i-th line it touches: offset from a, bytes. -/
def linePart (a n i : Nat) : Nat × Nat :=
  let lo := max a ((a / 64 + i) * 64)
  let hi := min (a + n) ((a / 64 + i + 1) * 64)
  (lo - a, hi - lo)

/-- The line requests of a MOVE in ascending source order (R206); a transforming MOVE is one request. -/
def moveRequests (c : DmaChan) (recIdx : Nat) (src dst : DmaAddr) (n draw : Nat) : List LineReq :=
  let same := decide (src.space = dst.space ∧ src.ltile = dst.ltile)
  let ov := if same && overlaps src.addr n dst.addr n then
      some (max src.addr dst.addr, min src.addr dst.addr + n, draw) else none
  if src.xform ≠ 0 ∨ dst.xform ≠ 0 then [⟨src, dst, n / 4, 0, none, false, false, ov, recIdx, c.pc⟩]
  else (List.range (linesOf src.addr n)).map fun i =>
    let p := linePart src.addr n i
    ⟨{ src with addr := src.addr + p.1 }, { dst with addr := dst.addr + p.1 }, p.2 / 4, 0, none, false, false, ov, recIdx, c.pc⟩

/-- Words with the free contents of an overlap put in (R207). -/
def overlapWords (r : LineReq) (ws : List TWord) : List TWord :=
  match r.ov with
  | none => ws
  | some (lo, hi, draw) => (List.range ws.length).map fun i =>
    let a := r.dst.addr + 4 * i
    if lo ≤ a ∧ a < hi then
      ⟨BitVec.ofNat 32 (bytesNat ((List.range 4).map fun k => Config.overlapByte draw (a + k))), decide (Config.overlapByte draw (2 ^ 48 + a) = 1)⟩
    else ws.getD i .zero

/-- Lines that a range of a place shares with another. -/
def sameLines (x : DmaAddr) (nx : Nat) (y : DmaAddr) (ny : Nat) : Bool :=
  decide (x.space = y.space ∧ x.ltile = y.ltile) && overlaps (x.addr / 64 * 64) (linesOf x.addr nx * 64) (y.addr / 64 * 64) (linesOf y.addr ny * 64)

/-- Request i may read now: every earlier write of the channel to its lines has arrived (R207). -/
def mayRead (reqs : List LineReq) (i : Nat) : Bool :=
  match reqs[i]? with
  | none => false
  | some r => r.data.isNone && !r.arrived && !r.again &&
    (reqs.take i).all fun q => q.arrived || !sameLines q.dst (4 * q.words) r.src (4 * r.words) || decide (q.pc = r.pc ∧ q.recIdx = r.recIdx)

/-- Request i may write now: earlier reads and writes of the channel to its lines are served (R207). -/
def mayWrite (reqs : List LineReq) (i : Nat) : Bool :=
  match reqs[i]? with
  | none => false
  | some r => r.data.isSome && !r.arrived && !r.again &&
    (reqs.take i).all fun q => q.arrived ||
      (!sameLines q.dst (4 * q.words) r.dst (4 * r.words) && (q.data.isSome || !sameLines q.src (4 * q.words) r.dst (4 * r.words) || decide (q.pc = r.pc ∧ q.recIdx = r.recIdx)))

/-- Reads have all returned and local writes landed, for the requests of one record or program (R209). -/
def drained (reqs : List LineReq) (recIdx : Nat) : Bool :=
  reqs.all fun r => decide (r.recIdx ≠ recIdx) || r.arrived || (r.data.isSome && decide (r.dst.space ≠ .localSp ∧ r.dst.space ≠ .localStash))

/-- Every write of the program so far has arrived (R208). -/
def allArrived (reqs : List LineReq) (recIdx : Nat) : Bool := reqs.all fun r => decide (r.recIdx ≠ recIdx) || r.arrived

/-- A channel waiting at a BAR goes on when its writes have arrived (R208). -/
def DmaChan.wake (c : DmaChan) (recIdx : Nat) : DmaChan :=
  if c.phase = .waitArrival ∧ allArrived c.reqs recIdx then { c with phase := .running } else c

/-- Requests that are finished leave the list. -/
def DmaChan.prune (c : DmaChan) : DmaChan := { c with reqs := c.reqs.filter fun r => !r.arrived }

/-- DMA_STATUS (Table 8.10). -/
def DmaChan.statusWord (c : DmaChan) : Nat :=
  c.phase.code + (c.reqs.filter fun r => !r.arrived).length <<< 16 + (c.pc % 4096) <<< 32 + c.lastStatus.code <<< 48

/-- DMA_ERR (Table 8.11). -/
def DmaChan.errWord (c : DmaChan) : Nat := c.errPc % 4096 + b2n c.errDst <<< 12 + c.errSpace <<< 13 + (c.errAddr % 2 ^ 48) <<< 16

/-! ### The load-time check (R200 to R204, R212) -/

/-- One instruction with the loops open at it (innermost first), by static position. -/
def openLoops (instr : Nat → DmaInstr) : Nat → Nat → List DmaLoop → List (Nat × List DmaLoop)
  | 0, _, _ => []
  | n + 1, pc, ls =>
    let here := ls.filter fun l => decide (pc < l.stop)
    let i := instr pc
    (pc, here) :: (if i.op = dmaEnd then [] else
      openLoops instr n (pc + 1) (if i.op = dmaLoop then ⟨i.level, pc + 1, pc + 1 + i.body, 0, i.count⟩ :: here else here))

/-- Every combination of iterations of the open loops, as (i0, i1, i2). -/
def iterations (ls : List DmaLoop) : List (Nat × Nat × Nat) :=
  let n := fun (lv : Nat) => match ls.find? (fun l => decide (l.level = lv)) with
    | some l => l.count + 1
    | none => 1
  ((List.range (n 0)).map fun a => ((List.range (n 1)).map fun b => (List.range (n 2)).map fun c => (a, b, c)).flatten).flatten

/-- Step terms to check: one per value of STEP mod SMOD (R212). -/
def stepTerms (d : AddrDesc) : List Int := if d.smod = 0 then [0] else (List.range d.smod).map fun (k : Nat) => (k : Int) * d.sstride

/-- A program passes the load check: structure of each instruction, and every address of every iteration. -/
def dmaProgramOk (e : DmaEnv) (base limit : Nat) (word64 : Nat → Nat) (desc : Nat → Nat) : Bool :=
  let instr := fun pc => DmaInstr.ofBits (word64 (base + 8 * pc))
  let fits := (limit - base) / 8
  let here := openLoops instr (min 4096 fits) 0 []
  (here.any fun p => decide ((instr p.1).op = dmaEnd)) && here.all fun p =>
    let i := instr p.1
    !i.bad && !(e.sys && i.sysBad) &&
    (if i.op = dmaEnd then p.2.isEmpty
     else if i.op = dmaLoop then loopOk p.1 i p.2
     else if i.op = dmaMove then
       decide (i.srcDesc + 32 ≤ limit) && decide (i.dstDesc + 32 ≤ limit) &&
       let s := AddrDesc.ofBits (desc i.srcDesc)
       let d := AddrDesc.ofBits (desc i.dstDesc)
       (iterations p.2).all fun it => (stepTerms s).all fun ts => (stepTerms d).all fun td =>
         decide (moveStatus e s d (s.addr it.1 it.2.1 it.2.2 ts) (d.addr it.1 it.2.1 it.2.2 td) i.len = .done)
     else true)

end Sys2Proof.Machine
end

