-- ==== Sys2Proof/Machine/Job.lean ====
section
/-! DEFINITION. Jobs (chapters 2 and 6): the loaded image, its placement, step state, loss scale, gradient formats, statistics, and the run; with them the system DMA channels (R219). -/

namespace Sys2Proof.Machine

/-- A resident region: scratchpad offset, bytes, backing address, whether COMMITTED (R59, R153). -/
structure Resident where
  off : Nat
  len : Nat
  backing : Nat
  committed : Bool
  deriving DecidableEq, Repr

/-- A patch entry (Table 6.4) with its base in the descriptors segment. -/
structure Patch where
  wordOff : Nat
  bitPos : Nat
  kind : Nat
  glid : Nat
  base : Nat
  reserved : Bool
  deriving DecidableEq, Repr

/-- What the image says of one logical tile: table entry, program, descriptors and constants (Table 2.3). -/
structure LTileDesc where
  group : Nat
  tokens : List Nat
  resident : List Resident
  program : List Word
  descs : List (Nat × List Word)
  consts : List (Nat × List Word)
  patches : List Patch
  deriving DecidableEq, Repr

/-- A stream of the image (Table 2.3, Table 2.10). -/
structure StreamDecl where
  kind : Nat
  consumer : Nat
  producers : List Nat
  levels : List Nat
  ringSize : Nat
  deriving DecidableEq, Repr

/-- The address layout segment: COMMIT_DELTA, committed ranges, ranges marked SNAP, other ranges (R151, R376). -/
structure Layout where
  delta : Nat
  committed : List (Nat × Nat)
  snap : List (Nat × Nat)
  others : List (Nat × Nat)
  deriving DecidableEq, Repr

/-- The image's segments as the loader reads them (Table 2.3). -/
structure ImageBody where
  ltiles : List LTileDesc
  groups : List (Nat × Nat)
  streams : List StreamDecl
  layout : Layout
  deriving DecidableEq, Repr

/-- A loaded image. -/
structure Image where
  base : Nat
  digest : BitVec 256
  vaSize : Nat
  watchdog : Nat
  body : ImageBody
  deriving DecidableEq, Repr

/-- Image header (Table 2.2). -/
structure ImageHeader where
  magic : Nat
  major : Nat
  minor : Nat
  ltiles : Nat
  groups : Nat
  streams : Nat
  watchdog : Nat
  vaSize : Nat
  digest : BitVec 256
  size : Nat
  segOff : List Nat
  segSize : List Nat
  reserved : Bool
  deriving DecidableEq, Repr

/-- "NLNIMAGE". -/
abbrev imageMagic : Nat := 0x4547414D494E4C4E

def ImageHeader.ofBytes (bs : List Byte) : ImageHeader :=
  let f := fun (o n : Nat) => bytesNat ((bs.drop o).take n)
  ⟨f 0 8, f 8 1, f 9 1, f 0xA 2, f 0xC 2, f 0x10 4, f 0x14 4, f 0x18 8, BitVec.ofNat 256 (f 0x20 32), f 0x40 8,
   (List.range 8).map fun i => f (0x48 + 8 * i) 8, (List.range 8).map fun i => f (0x88 + 8 * i) 8,
   decide (f 0xE 2 ≠ 0) || ((bs.drop 0xC8).take 56).any fun b => decide (b ≠ 0)⟩

/-- The header's own structure, part of step 4 of R40 (Tables 2.2 and 2.3). -/
def ImageHeader.ok (h : ImageHeader) : Bool :=
  !h.reserved && decide (1 ≤ h.ltiles ∧ h.ltiles ≤ 144) && decide (1 ≤ h.groups ∧ h.groups ≤ h.ltiles) &&
  decide (1 ≤ h.streams ∧ h.streams ≤ 65536) && decide (h.watchdog ≤ 60000) && decide (h.vaSize % 2097152 = 0) &&
  decide (h.vaSize ≤ 2 ^ 48) && decide (h.segSize.getD 7 0 = 0)

/-! ### Step state (Table 6.1) -/

/-- An entry of the format table: rank (0 BF16, 1 FP16, 2 FP8 E5M2), hold count, candidate exponent (R145, R169, R170). -/
structure FmtEntry where
  rank : Nat
  hold : Nat
  cand : Int
  deriving DecidableEq, Repr

def FmtEntry.load : FmtEntry := ⟨0, 0, 0⟩

/-- Format codes of Table 6.3. -/
def FmtEntry.code (e : FmtEntry) : Nat := if e.rank = 0 then 1 else if e.rank = 1 then 2 else 4

/-- Step state (Table 6.1) and the fields of Table 6.9. -/
structure StepState where
  stepNum : Nat
  optStep : Nat
  live : Nat
  lsExp : Int
  growth : Nat
  vetoRun : Nat
  taintRun : Nat
  fmts : Store FmtEntry
  lastOutcome : Nat
  vetoLocal : Bool
  vetoRemote : Bool
  deriving DecidableEq, Repr

def StepState.reset : StepState := ⟨0, 0, 0, 16, 0, 0, 0, [], 0, false, false⟩

/-- TIL_LOSS_POLICY and COL_GFMT_POLICY at reset (Tables 6.10 and 6.11). -/
abbrev lossPolicyReset : Nat := 0x10 <<< 56 + 0x07D0 <<< 40 + 1 <<< 32 + 0x18 <<< 24 + 0x10 <<< 8 + 3 <<< 2
abbrev gfmtPolicyReset : Nat := 4 <<< 32 + 0x1C <<< 24 + 0x1C <<< 16 + 0x1C <<< 8

/-- A signed exponent field limited to -126 to 126 (R162). -/
def expBound (v : Nat) : Int := max (-126) (min 126 (signed 8 v))

/-- Effective bounds of LS_EXP (R162). -/
def lossLow (w : Nat) : Int := expBound (bits w 16 8)
def lossHigh (w : Nat) : Int := max (lossLow w) (expBound (bits w 24 8))

def clampLoss (w : Nat) (x : Int) : Int := max (lossLow w) (min (lossHigh w) x)

/-- MODE 0b10, OFF. -/
def lossMode (w : Nat) : Nat := bits w 0 2

/-- LS_EXP at load (R162). -/
def lossAtLoad (w : Nat) : Int := if lossMode w = 2 then 0 else clampLoss w (signed 8 (bits w 8 8))

/-- The change of policy at a COMMITTED or VETOED boundary (R162 step 1). -/
def StepState.policyChange (s : StepState) (old new : Nat) : StepState :=
  if lossMode old ≠ lossMode new then { s with lsExp := lossAtLoad new, growth := 0 }
  else if lossLow old ≠ lossLow new ∨ lossHigh old ≠ lossHigh new then { s with lsExp := clampLoss new s.lsExp }
  else s

/-- The back-off of a veto (R162 step 2). -/
def StepState.backOff (s : StepState) (w : Nat) : StepState :=
  if lossMode w = 0 then { s with lsExp := max (lossLow w) (s.lsExp - bits w 32 4), growth := 0 } else s

/-- The growth of a commit (R162 step 2). -/
def StepState.grow (s : StepState) (w : Nat) : StepState :=
  if lossMode w = 0 then
    let g := s.growth + 1
    if bits w 40 16 ≠ 0 ∧ bits w 40 16 ≤ g then { s with lsExp := min (lossHigh w) (s.lsExp + 1), growth := 0 } else { s with growth := g }
  else s

/-! ### Statistics and formats (R166 to R170) -/

/-- Table 6.6. -/
def combineStats (a b : Nat) : Nat :=
  max (bits a 0 8) (bits b 0 8) + min (bits a 8 8) (bits b 8 8) <<< 8 + min (bits a 16 8) (bits b 16 8) <<< 16 +
  (if bits a 24 12 = bits b 24 12 then bits a 24 12 else 0xFFF) <<< 24 + (bits a 36 28 ||| bits b 36 28) <<< 36

/-- The neutral word for a GLID (Table 6.6). -/
def neutralStats (glid : Nat) : Nat := 0xFF <<< 8 + 0xFF <<< 16 + (glid % 4096) <<< 24

/-- The words of one GLID combined; none when there is none. -/
def glidResult (glid : Nat) (ws : List Nat) : Option Nat :=
  match ws.filter fun w => decide (bits w 24 12 = glid) with
  | [] => none
  | w :: rest => some (rest.foldl combineStats w)

/-- The result of a GLID at a COMMITTED boundary (R167). -/
def stepResult (glid : Nat) (delivered posted : List Nat) : Option Nat :=
  match glidResult glid delivered with
  | some w => some w
  | none => glidResult glid posted

/-- The target rank (R168). -/
def targetRank (pol w : Nat) : Nat :=
  let amax := bits w 0 8
  let span := if amax = 0 then 0 else amax - bits w 8 8
  let qual := bits w 16 8
  let mode := bits pol 0 2
  if mode = 0 ∧ bits pol 8 8 ≤ qual ∧ span ≤ bits pol 16 8 then 2
  else if (mode = 0 ∨ mode = 1) ∧ span ≤ bits pol 24 8 then 1
  else 0

/-- The candidate exponent (R170). -/
def candOf (w : Nat) : Int := if bits w 0 8 = 0 then 0 else max (-126) (min 113 ((bits w 0 8 : Int) - 141))

/-- One entry against a result (R169, R170). -/
def FmtEntry.update (e : FmtEntry) (pol w : Nat) : FmtEntry :=
  let t := targetRank pol w
  let c := candOf w
  if t < e.rank then ⟨t, 0, c⟩
  else if t = e.rank then ⟨e.rank, 0, c⟩
  else if max 1 (bits pol 32 4) ≤ e.hold + 1 then ⟨t, 0, c⟩
  else ⟨e.rank, e.hold + 1, c⟩

/-- A format that the present MODE forbids becomes BF16 (R169): FP8 under FORCE16, FP8 and FP16 under FORCE_BF16. -/
def FmtEntry.forced (e : FmtEntry) (pol : Nat) : FmtEntry :=
  let mode := bits pol 0 2
  if (mode = 1 ∧ e.rank = 2) ∨ (mode = 2 ∧ e.rank ≠ 0) then ⟨0, 0, e.cand⟩ else e

/-- The format table after a boundary that is not FAULTED; statistics count only at a commit (R158, R159, R160, R169). -/
def StepState.formats (s : StepState) (pol : Nat) (commit : Bool) (delivered posted : List Nat) : StepState :=
  { s with fmts := (List.range 4095).foldl (fun (m : Store FmtEntry) g =>
      let e := Store.get .load m g
      let e1 := if commit then match stepResult g delivered posted with
          | some w => if bit w 36 then e.update pol w else e
          | none => e
        else e
      Store.set .load m g (e1.forced pol)) s.fmts }

/-- GLIDs whose format changed, with old and new code (R169). -/
def formatChanges (a b : StepState) : List (Nat × Nat × Nat) :=
  ((List.range 4095).filter fun g => decide ((Store.get FmtEntry.load a.fmts g).rank ≠ (Store.get FmtEntry.load b.fmts g).rank)).map fun g =>
    (g, (Store.get FmtEntry.load a.fmts g).code, (Store.get FmtEntry.load b.fmts g).code)

/-- FP32 word of 2^k. -/
def pow2Word (k : Int) : Word := BitVec.ofNat 32 (((encodeElem .fp32 false (pow2 k)).exec).1.1)

/-! ### Runs -/

/-- Where a run stands in the order of R37. -/
inductive RunPhase where
  | release | step | faulting | snapshot | maintenance
  deriving DecidableEq, Repr

/-- A run in progress (R60, R415). -/
structure Run where
  asker : Nat × Nat × Nat
  left : Nat
  cqe : Bool
  vetoes : Nat
  phase : RunPhase
  /-- Status the run ends with at this boundary. -/
  ending : Option Status
  /-- Faulting logical tile, record and unit of the final completion (0xFFFF when none). -/
  faultTile : Nat
  faultRec : Nat
  faultUnit : Nat
  /-- A kill of the issuing context stops the run at the next boundary (R424). -/
  cancelled : Bool
  deriving DecidableEq, Repr

/-- A run of pages of an address space: first virtual page, pages, memory object, its first page. -/
structure MapRun where
  va : Nat
  pages : Nat
  mem : Nat
  first : Nat
  deriving DecidableEq, Repr

/-- One partition's job. -/
structure Job where
  image : Option Image
  /-- Physical tile of each logical tile. -/
  place : List Nat
  /-- The image space (R420). -/
  space : List MapRun
  step : StepState
  lossPolicy : Nat
  gfmtPolicy : Nat
  /-- TIL_LOSS_POLICY as last applied (R161, R162). -/
  lossInForce : Nat
  /-- DMA_PART_CFG.RETRY and its value in force (R214). -/
  retryCfg : Nat
  /-- Words posted by GSTAT and delivered by collectives in this step (R164, R166). -/
  posted : List Nat
  delivered : List Nat
  run : Option Run
  /-- COMMITTED regions are not yet loaded (R153). -/
  fresh : Bool
  /-- A restore has begun and none has completed DONE since (R393). -/
  restorePending : Bool
  deriving DecidableEq, Repr

def Job.reset : Job where
  image := none
  place := []
  space := []
  step := .reset
  lossPolicy := lossPolicyReset
  gfmtPolicy := gfmtPolicyReset
  lossInForce := lossPolicyReset
  retryCfg := 3
  posted := []
  delivered := []
  run := none
  fresh := false
  restorePending := false

/-- Step state at load (Table 6.1). -/
def Job.atLoad (j : Job) : StepState := { StepState.reset with lsExp := lossAtLoad j.lossPolicy }

/-- Physical tile of a logical tile. -/
def Job.tileOf (j : Job) (lt : Nat) : Option Nat := j.place[lt]?

/-- Logical tile of a physical tile. -/
def Job.ltileOf (j : Job) (t : Nat) : Option Nat := (List.range j.place.length).find? fun l => decide (j.place[l]? = some t)

def Job.vaSize (j : Job) : Nat := match j.image with
  | some i => i.vaSize
  | none => 0

/-- Object and its page behind a device virtual address. -/
def findPage (space : List MapRun) (va : Nat) : Option (Nat × Nat) :=
  let v := va / 2097152
  (space.find? fun r => decide (r.va ≤ v ∧ v < r.va + r.pages)).map fun r => (r.mem, r.first + (v - r.va))

/-- Address of a committed range's copy (R151): base + sel * COMMIT_DELTA. -/
def Layout.copy (l : Layout) (base sel : Nat) : Nat := base + sel * l.delta

/-- An address range lies in copy 0 of one committed range. -/
def Layout.inCopy0 (l : Layout) (a n : Nat) : Bool := l.committed.any fun r => decide (r.1 ≤ a ∧ a + n ≤ r.1 + r.2)

/-- Layout rules (R151); COMMIT_DELTA is judged when a committed range is declared. -/
def Layout.ok (l : Layout) (vaSize : Nat) : Bool :=
  let copies := (l.committed.map fun r => [(r.1, r.2), (r.1 + l.delta, r.2)]).flatten
  let all := copies ++ l.snap ++ l.others
  (l.committed.isEmpty || decide (l.delta ≠ 0 ∧ l.delta % 2097152 = 0)) && copies.all (fun r => decide (r.1 + r.2 ≤ vaSize)) &&
  (List.range copies.length).all fun i => (List.range all.length).all fun k =>
    decide (i = k) || !overlaps (copies.getD i (0, 0)).1 (copies.getD i (0, 0)).2 (all.getD k (0, 0)).1 (all.getD k (0, 0)).2

/-- TIL_STEP_STATUS (Table 6.9). -/
def StepState.statusWord (s : StepState) : Nat :=
  s.lastOutcome + s.live <<< 4 + s.vetoRun <<< 8 + s.taintRun <<< 16 + b2n s.vetoLocal <<< 20 + b2n s.vetoRemote <<< 21 + (s.growth % 2 ^ 32) <<< 32

/-- TIL_LOSS_SCALE (Table 6.10). -/
def StepState.lossWord (s : StepState) : Nat := (pow2Word s.lsExp).toNat + ((s.lsExp % 256).toNat) <<< 32

/-! ### System channels (R219) -/

/-- A system DMA channel: its DMA state, binding, tokens, program memory and the key slots of its binding. -/
structure SysChan where
  chan : DmaChan
  fw : Bool
  part : Nat
  refused : Bool
  toks : Nat
  program : Store TWord
  keys : List Nat
  deriving DecidableEq, Repr

def SysChan.reset : SysChan := ⟨.reset, true, 0, false, 0, [], []⟩

/-- CT i of a channel (Table 8.13). -/
def SysChan.tok (c : SysChan) (i : Nat) : Nat := bits c.toks (8 * i) 8

def SysChan.setTok (c : SysChan) (i v : Nat) : SysChan := { c with toks := setBits c.toks (8 * i) 8 v }

/-- DMA_SYS_BIND (Table 8.13). -/
def SysChan.bindWord (c : SysChan) : Nat := c.part + b2n c.fw <<< 4 + b2n c.refused <<< 5

end Sys2Proof.Machine
end

