-- ==== Sys2Proof/Machine/Keys.lean ====
section
/-! DEFINITION. Fuses, life cycle, roots, derivations, key slots, debug grant and attestation index (chapter 10). -/

namespace Sys2Proof.Machine

/-- The fuse array (Table 10.1); a field reads 0 while it is unwritten. -/
structure Fuses where
  lc0 : Nat
  lc1 : Nat
  lc2 : Nat
  wipeDone : Nat
  serial : Nat
  udr : BitVec 256
  cr : BitVec 256
  tokTest : BitVec 256
  tokMfg : BitVec 256
  tokScrap : BitVec 256
  tokDeploy : BitVec 256
  tokReturn : BitVec 256
  fwAuth : BitVec 256
  dbgAuth : BitVec 256
  idAuth : BitVec 256
  antiRollback : Nat
  trim : Nat
  deriving DecidableEq, Repr

def Fuses.unblown : Fuses := ⟨0, 0, 0, 0, 0, 0, 0, 0, 0, 0, 0, 0, 0, 0, 0, 0, 0⟩

/-- Life-cycle states (Table 10.6). -/
inductive LcState where
  | blank | test | manufacture | deployed | returned | scrapped
  deriving DecidableEq, Repr

/-- STATE of SEC_LC_STATUS (Table 10.12). -/
def LcState.num : LcState → Nat
  | .blank => 0 | .test => 1 | .manufacture => 2 | .deployed => 3 | .returned => 4 | .scrapped => 5

/-- Thermometer codes (Table 10.6). -/
def LcState.bits : LcState → Nat
  | .blank => 0b00000 | .test => 0b00001 | .manufacture => 0b00011 | .deployed => 0b00111 | .returned => 0b01111 | .scrapped => 0b11111

/-- State bits by majority of three copies (R275). -/
def Fuses.lcBits (f : Fuses) : Nat := (f.lc0 &&& f.lc1) ||| (f.lc0 &&& f.lc2) ||| (f.lc1 &&& f.lc2)

/-- The life-cycle state; a pattern not in the table is SCRAPPED (R275). -/
def Fuses.state (f : Fuses) : LcState :=
  let b := f.lcBits
  if b = 0 then .blank else if b = 1 then .test else if b = 3 then .manufacture else if b = 7 then .deployed
  else if b = 15 then .returned else .scrapped

/-- WIPE_DONE by majority of its three copies. -/
def Fuses.wiped (f : Fuses) : Bool := decide (2 ≤ b2n (bit f.wipeDone 0) + b2n (bit f.wipeDone 1) + b2n (bit f.wipeDone 2))

/-- The rollback floor: the lowest unblown bit of bits [62:0], 63 when all are blown (R434). -/
def Fuses.floor (f : Fuses) : Nat := ((List.range 63).find? fun i => !bit f.antiRollback i).getD 63

/-- Root selector (R265). -/
inductive RootSel where
  | none | prod | test
  deriving DecidableEq, Repr

/-- STATE of a key slot (Table 10.3). -/
inductive SlotState where
  | free | loaded | revoked | failed
  deriving DecidableEq, Repr

def SlotState.code : SlotState → Nat
  | .free => 0 | .loaded => 1 | .revoked => 2 | .failed => 3

/-- A key slot (Table 10.3); CHECK is the view slotCheck. -/
structure Slot where
  kind : Nat
  state : SlotState
  owner : Nat
  epoch : Nat
  material : Nat
  deriving DecidableEq, Repr

def Slot.free : Slot := ⟨0, .free, 0, 0, 0⟩

/-- KIND values (Table 10.4). -/
abbrev kindMem : Nat := 1
abbrev kindLink : Nat := 2
abbrev kindOwner : Nat := 3
abbrev kindSession : Nat := 4
abbrev kindCkpt : Nat := 5
abbrev kindKem : Nat := 6
abbrev kindWipe : Nat := 7
abbrev kindScarab : Nat := 8

/-- Owners 16 and 17 (Table 10.3). -/
abbrev ownerFirmware : Nat := 16
abbrev ownerScarab : Nat := 17

/-- Index record of a root's attestation key: the recorded next free index, and whether a copy reads back valid (R285, R286). -/
structure AttestRec where
  index : Nat
  valid : Bool
  deriving DecidableEq, Repr

/-- Scarab's state. -/
structure Sec where
  fuses : Fuses
  root : RootSel
  bootNonce : BitVec 256
  sik : BitVec 256
  seeds : Nat
  slots : Store Slot
  entropyOk : Bool
  /-- Draws taken from the entropy source (the model's own counter, R264). -/
  draws : Nat
  tokenFails : Nat
  /-- Debug grant register in AON (R279). -/
  rights : Nat
  grant : Bool
  nonce : Option (BitVec 256)
  dbgReason : Nat
  dbgStatus : Status
  slotSel : Nat
  failedCnt : Nat
  slotFail : Bool
  lastFailed : Nat
  /-- Attestation: next index, end of the reserved subtree, READY bits, records of the two roots, flags. -/
  nextIndex : Nat
  reservedTo : Nat
  ready : Nat
  recProd : AttestRec
  recTest : AttestRec
  exhausted : Bool
  recordFail : Bool
  deriving DecidableEq, Repr

def Sec.reset : Sec where
  fuses := .unblown
  root := .none
  bootNonce := 0
  sik := 0
  seeds := 0
  slots := []
  entropyOk := true
  draws := 0
  tokenFails := 0
  rights := 0
  grant := false
  nonce := none
  dbgReason := 0
  dbgStatus := .done
  slotSel := 0
  failedCnt := 0
  slotFail := false
  lastFailed := 0
  nextIndex := 0
  reservedTo := 0
  ready := 0
  recProd := ⟨0, true⟩
  recTest := ⟨0, true⟩
  exhausted := false
  recordFail := false

def Sec.slot (k : Sec) (i : Nat) : Slot := Store.get .free k.slots i

def Sec.setSlot (k : Sec) (i : Nat) (s : Slot) : Sec := { k with slots := Store.set .free k.slots i s }

/-- The next 256 bits of the entropy source (R264): a free value. -/
def Sec.draw (k : Sec) : BitVec 256 × Sec := (Config.entropy k.draws, { k with draws := k.draws + 1 })

/-- 512 bits of the entropy source. -/
def Sec.draw2 (k : Sec) : Nat × Sec :=
  ((Config.entropy k.draws).toNat + 2 ^ 256 * (Config.entropy (k.draws + 1)).toNat, { k with draws := k.draws + 2 })

/-! ### Derivation (R265, R266) -/

/-- ASCII bytes of a label. -/
def asciiBytes (s : String) : List Byte := s.toList.map fun c => BitVec.ofNat 8 c.toNat

/-- Label padded to 8 B, then the context (R266). -/
def kdfInput (label : String) (context : List Byte) : List Byte :=
  let l := asciiBytes label
  l ++ List.replicate (8 - l.length) 0 ++ context

/-- One derivation of L bits (R266). -/
def kdf (key : BitVec 256) (label : String) (context : List Byte) (len : Nat) : Nat :=
  Config.kmac256 key (kdfInput label context) len "SVT2-KDF" % 2 ^ len

/-- K and H with H nonzero: the context gains 0x01, 0x02, ... until it is (R266). -/
def kdfKH (key : BitVec 256) (label : String) (context : List Byte) : Nat → Nat
  | 0 => kdf key label context 320
  | n + 1 =>
    let v := kdf key label (if n = 254 then context else context ++ [BitVec.ofNat 8 (254 - n)]) 320
    if bits v 256 64 ≠ 0 then v else kdfKH key label context n

/-- Device root or class root under the selector; TROOT stands for the ROM value (R265). -/
def Sec.deviceRoot (k : Sec) : BitVec 256 := if k.root = .prod then k.fuses.udr else Config.testRoot
def Sec.classRoot (k : Sec) : BitVec 256 := if k.root = .prod then k.fuses.cr else Config.testRoot

/-- Context under the selector: the test root appends SERIAL (R265). -/
def Sec.rootContext (k : Sec) (c : List Byte) : List Byte := if k.root = .test then c ++ natBytes k.fuses.serial 8 else c

/-- The root that phase 1 selects (R265). -/
def Sec.selectRoot (k : Sec) : RootSel :=
  match k.fuses.state with
  | .manufacture | .deployed => if k.grant then .test else .prod
  | .scrapped => .none
  | _ => .test

/-! ### Key slots (R267 to R274) -/

/-- CHECK of a slot (R270). -/
def Sec.slotCheck (k : Sec) (s : Slot) : Nat :=
  let low := s.kind + s.state.code <<< 4 + s.owner <<< 8 + s.epoch <<< 16 + s.material <<< 64
  Config.kmac256 k.sik (natBytes low 72) 64 "SVT2-SLOT" % 2 ^ 64

/-- The validity test of R268 for an engine that uses some kinds, on behalf of an owner. -/
def Sec.useSlot (k : Sec) (i owner : Nat) (kinds : List Nat) : Status :=
  let s := k.slot i
  match s.state with
  | .revoked | .failed => .keyRevoked
  | .free => .accessDenied
  | .loaded => if s.owner = owner ∧ kinds.contains s.kind then .done else .accessDenied

/-- K of a slot's material. -/
def Sec.keyOf (k : Sec) (i : Nat) : BitVec 256 := BitVec.ofNat 256 (k.slot i).material

/-- H of a MEM or WIPE slot's material (R231). -/
def Sec.hashOf (k : Sec) (i : Nat) : Nat := bits (k.slot i).material 256 64

/-- A slot fails its check (R270). -/
def Sec.failSlot (k : Sec) (i : Nat) : Sec :=
  let s := k.slot i
  if s.state = .failed then k
  else { k.setSlot i { s with state := .failed, material := 0 } with
    failedCnt := k.failedCnt + 1, slotFail := true, lastFailed := i }

/-- ZEROIZE in full (R274); a FAILED slot stays FAILED until the next phase 1 (R270). -/
def Sec.zeroize (k : Sec) (i : Nat) : Sec :=
  if (k.slot i).state = .failed then k else k.setSlot i .free

/-- Every slot zeroized. -/
def Sec.zeroizeAll (k : Sec) : Sec := { k with slots := k.slots.filter fun e => decide (e.2.state = .failed) }

/-- REVOKE: LOADED becomes REVOKED, other states unchanged (Table 10.5). -/
def Sec.revokeSlot (k : Sec) (i : Nat) : Sec :=
  let s := k.slot i
  if s.state = .loaded then k.setSlot i { s with state := .revoked } else k

/-- Reserved KIND values (Table 10.4). -/
def kindReserved (kind : Nat) : Bool := decide (kind = 0 ∨ 9 ≤ kind)

/-- GENERATE (Table 10.5). -/
def Sec.generate (k : Sec) (i kind owner epoch : Nat) : Sec × Status :=
  if kindReserved kind then (k, .versionUnsupported)
  else if i < 16 then (k, .accessDenied)
  else if (k.slot i).state = .revoked ∨ (k.slot i).state = .failed then (k, .keyRevoked)
  else if (k.slot i).state ≠ .free ∨ k.entropyOk = false then (k, .noResource)
  else
    let (m, k1) := k.draw2
    let len := if kind = kindMem ∨ kind = kindWipe then 320 else if kind = kindOwner ∨ kind = kindKem then 512 else 256
    (k1.setSlot i ⟨kind, .loaded, owner, if kind = kindMem then epoch else 0, m % 2 ^ len⟩, .done)

/-- Derivations a slot command can ask for (Table 10.2). -/
def Sec.deriveMaterial (k : Sec) (src kind owner epoch : Nat) (context : List Byte) : Nat :=
  let key := k.keyOf src
  if kind = kindMem then
    kdfKH key "MEMEPOCH" (natBytes k.fuses.serial 8 ++ natBytes owner 1 ++ natBytes epoch 1) 255
  else if kind = kindLink then kdf key "LINK" context 256
  else kdf key "CKPT" context 256

/-- DERIVE (Table 10.5): MEM, LINK and CKPT from a LOADED SESSION slot of the same owner. -/
def Sec.derive (k : Sec) (src dst kind owner epoch : Nat) (context : List Byte) : Sec × Status :=
  let s := k.slot src
  if kindReserved kind then (k, .versionUnsupported)
  else if dst < 16 then (k, .accessDenied)
  else if s.state = .revoked ∨ s.state = .failed ∨ (k.slot dst).state = .revoked ∨ (k.slot dst).state = .failed then (k, .keyRevoked)
  else if s.state ≠ .loaded ∨ s.kind ≠ kindSession ∨ s.owner ≠ owner ∨ (kind ≠ kindMem ∧ kind ≠ kindLink ∧ kind ≠ kindCkpt) then (k, .accessDenied)
  else if (k.slot dst).state ≠ .free then (k, .noResource)
  else (k.setSlot dst ⟨kind, .loaded, owner, if kind = kindMem then epoch else 0, k.deriveMaterial src kind owner epoch context⟩, .done)

/-- A wrapped secret as IMPORT receives it (R272, R273). -/
structure Wrapped where
  kem : List Byte
  transcript : BitVec 256
  aad : List Byte
  material : List Byte
  tag : BitVec 128
  deriving DecidableEq, Repr

/-- Wrap key of Table 10.2. -/
def wrapKey (secret transcript : BitVec 256) : BitVec 256 :=
  BitVec.ofNat 256 (kdf secret "WRAP" (natBytes transcript.toNat 32) 256)

/-- IMPORT (R273): the KEM slot must be LOADED; a tag that fails leaves the slot FREE. -/
def Sec.importSlot (k : Sec) (kem dst kind owner epoch : Nat) (w : Wrapped) : Sec × Status :=
  let s := k.slot kem
  if kindReserved kind then (k, .versionUnsupported)
  else if dst < 16 then (k, .accessDenied)
  else if s.state = .revoked ∨ s.state = .failed ∨ (k.slot dst).state = .revoked ∨ (k.slot dst).state = .failed then (k, .keyRevoked)
  else if s.state ≠ .loaded ∨ s.kind ≠ kindKem ∨ s.owner ≠ owner then (k, .accessDenied)
  else if (k.slot dst).state ≠ .free then (k, .noResource)
  else
    let secret := Config.mlkemDecaps (BitVec.ofNat 512 s.material) w.kem
    let key := wrapKey secret w.transcript
    if Config.gcmTag key 0 w.aad w.material ≠ w.tag then (k, .tagFail)
    else (k.setSlot dst ⟨kind, .loaded, owner, if kind = kindMem then epoch else 0,
      bytesNat (gcmOpened key 0 w.aad w.material) % 2 ^ 512⟩, .done)

/-- A peer's certificate and evidence (R272). -/
structure PeerEvidence where
  signer : BitVec 256
  certDigest : BitVec 256
  certSig : List Byte
  peerKey : BitVec 256
  evDigest : BitVec 256
  evSig : List Byte
  state : Nat
  rootProd : Bool
  rights : Nat
  fwDigest : BitVec 256
  nonce : BitVec 256
  kemKey : List Byte
  kemDigest : BitVec 256
  serial : Nat
  deriving DecidableEq, Repr

/-- Checks 1 to 3 of R272, under the nonce issued for the exchange, and that the evidence carries the digest of the encapsulation key. -/
def Sec.peerOk (k : Sec) (e : PeerEvidence) (ownFw nonce : BitVec 256) : Bool :=
  decide (Config.shake256 (natBytes e.signer.toNat 32) = k.fuses.idAuth) &&
  Config.xmssVerify e.signer e.certDigest e.certSig &&
  Config.xmssVerify e.peerKey e.evDigest e.evSig &&
  decide (e.state = 3) && e.rootProd && decide (e.rights = 0) && decide (e.fwDigest = ownFw) && decide (e.nonce = nonce) &&
  decide (Config.shake256 e.kemKey = e.kemDigest)

/-- EXPORT (R272): ciphertext, encrypted material, tag. The exchange begins with a fresh nonce for the peer. -/
def Sec.exportSlot (k : Sec) (i : Nat) (e : PeerEvidence) (ownFw ownEv : BitVec 256) : Sec × Status × Option Wrapped :=
  let s := k.slot i
  if s.state = .revoked ∨ s.state = .failed then (k, .keyRevoked, none)
  else if s.state ≠ .loaded ∨ s.kind ≠ kindSession then (k, .accessDenied, none)
  else if k.entropyOk = false then (k, .noResource, none)
  else
    let (nonce, k0) := k.draw
    if !k0.peerOk e ownFw nonce then (k0, .accessDenied, none)
    else
      let (r, k1) := k0.draw
      let (ct, secret) := kemEncaps e.kemKey r
      let transcript := Config.shake256 (natBytes k.fuses.serial 8 ++ natBytes e.serial 8 ++ natBytes ownEv.toNat 32 ++ natBytes e.evDigest.toNat 32 ++ ct)
      let key := wrapKey secret transcript
      let aad := natBytes s.kind 1 ++ natBytes s.owner 1 ++ natBytes s.epoch 1 ++ natBytes k.fuses.serial 8 ++ natBytes e.serial 8
      let m := gcmSealed key 0 aad (natBytes s.material 32)
      (k1, .done, some ⟨ct, transcript, aad, m, Config.gcmTag key 0 aad m⟩)

/-! ### Life cycle (R276, R277) and debug (R278, R279) -/

/-- Token field of an edge of Table 10.7; none for an edge that does not exist. -/
def Fuses.edgeToken (f : Fuses) (src tgt : LcState) : Option (BitVec 256) :=
  match src, tgt with
  | .scrapped, _ => none
  | _, .scrapped => some f.tokScrap
  | .blank, .test => some f.tokTest
  | .test, .manufacture => some f.tokMfg
  | .manufacture, .deployed => some f.tokDeploy
  | .deployed, .returned => some f.tokReturn
  | _, _ => none

/-- Precondition of an edge (Table 10.7). -/
def Sec.edgeReady (k : Sec) (src tgt : LcState) (partitions : Bool) : Bool :=
  let f := k.fuses
  match src, tgt with
  | .test, .manufacture => decide (f.fwAuth ≠ 0 ∧ f.trim ≠ 0 ∧ f.tokDeploy ≠ 0)
  | .manufacture, .deployed =>
    decide (f.serial ≠ 0 ∧ f.udr ≠ 0 ∧ f.cr ≠ 0 ∧ f.dbgAuth ≠ 0 ∧ f.idAuth ≠ 0 ∧ f.tokReturn ≠ 0) && !k.grant
  | .deployed, .returned => !partitions
  | _, _ => true

/-- Blow the state bits of a state in all three copies (R277 step 6). -/
def Fuses.blowState (f : Fuses) (s : LcState) : Fuses :=
  { f with lc0 := f.lc0 ||| s.bits, lc1 := f.lc1 ||| s.bits, lc2 := f.lc2 ||| s.bits }

/-- Status of a transition request (R277 steps 1 to 4) and TOKEN_FAILS after it. -/
def Sec.transition (k : Sec) (tgt : LcState) (token : BitVec 256) (partitions : Bool) : Sec × Status :=
  if 8 ≤ k.tokenFails then (k, .accessDenied)
  else match k.fuses.edgeToken k.fuses.state tgt with
    | none => (k, .accessDenied)
    | some t =>
      if Config.shake256 (natBytes token.toNat 32) ≠ t then ({ k with tokenFails := min 8 (k.tokenFails + 1) }, .accessDenied)
      else if !k.edgeReady k.fuses.state tgt partitions then (k, .accessDenied)
      else (k, .done)

/-- Every unblown bit of the wiped fields, and WIPE_DONE (R282 steps 5 and 6). -/
def Fuses.scrapWipe (f : Fuses) : Fuses :=
  let ones : BitVec 256 := BitVec.ofNat 256 (2 ^ 256 - 1)
  { f with udr := ones, cr := ones, tokTest := ones, tokMfg := ones, tokScrap := ones, tokDeploy := ones, tokReturn := ones,
           fwAuth := ones, dbgAuth := ones, idAuth := ones, antiRollback := 2 ^ 64 - 1, trim := 2 ^ 2048 - 1, wipeDone := 7 }

/-- A debug certificate, its fields read from Table 10.8. -/
structure DebugCert where
  magic : Nat
  version : Nat
  rights : Nat
  serial : Nat
  states : Nat
  nonce : BitVec 256
  authPub : List Byte
  authKey : BitVec 256
  digest : BitVec 256
  sig : List Byte
  /-- Some reserved byte is not 0. -/
  reserved : Bool
  deriving DecidableEq, Repr

/-- The first failing check of Table 10.10, 0 when all hold. -/
def Sec.certReason (k : Sec) (c : DebugCert) (partitions : Bool) : Nat :=
  let st := k.fuses.state
  let stateBit := match st with
    | .manufacture => bit c.states 0
    | .deployed => bit c.states 1
    | .returned => bit c.states 2
    | _ => false
  if c.magic ≠ 0x5452434742445653 ∨ c.version ≠ 1 ∨ c.reserved ∨ 8 ≤ c.states then 1
  else if 128 ≤ c.rights then 2
  else if c.serial ≠ k.fuses.serial then 3
  else if !stateBit then 4
  else if k.nonce ≠ some c.nonce then 5
  else if Config.shake256 c.authPub ≠ k.fuses.dbgAuth then 6
  else if !Config.xmssVerify c.authKey c.digest c.sig then 7
  else if partitions then 8
  else if k.grant then 9
  else 0

/-! ### Attestation index (R285, R286) -/

/-- What a signature request meets. -/
inductive SignOut where
  | signed (k : Sec) (index : Nat)
  | waits
  | refused
  deriving Repr

def Sec.attestRec (k : Sec) : AttestRec := if k.root = .prod then k.recProd else k.recTest

def Sec.setAttestRec (k : Sec) (r : AttestRec) : Sec := if k.root = .prod then { k with recProd := r } else { k with recTest := r }

/-- Take the next index: a new layer-0 subtree is reserved in both records before its first use, and must be built (R285). -/
def Sec.sign (k : Sec) : SignOut :=
  if k.exhausted ∨ k.recordFail then .refused
  else if !k.attestRec.valid then .refused
  else
    let i := k.nextIndex
    let k1 := { k with nextIndex := i + 1, exhausted := decide (i + 1 = 2 ^ 40) }
    if i < k.reservedTo then .signed k1 i
    else if i % 1024 = 0 && !bit k.ready 0 then .waits
    else
      let r := (i / 1024 + 1) * 1024
      .signed { k1.setAttestRec ⟨r, true⟩ with reservedTo := r, ready := setBits k.ready 0 1 0 } i

/-! ### Phase 1 (R265, R270, R287) -/

/-- What Scarab does in phase 1: nonces, slots cleared to FREE but those that failed their patterns, the root, the keys of slots 0 to 3, the attestation state. -/
def Sec.phase1 (k : Sec) (failed : List Nat) : Sec :=
  let (n, k1) := k.draw
  let (s, k2) := k1.draw
  let root := k.selectRoot
  let k3 := { k2 with bootNonce := n, sik := s, root := root, slots := [], nonce := none, dbgReason := 0, dbgStatus := .done,
                      failedCnt := 0, slotFail := false, lastFailed := 0, slotSel := 0 }
  let nonceB := natBytes n.toNat 32
  let k4 := k3.setSlot 0 ⟨kindMem, .loaded, ownerFirmware, 0, kdfKH k3.deviceRoot "FWMEM" (k3.rootContext nonceB) 255⟩
  let k5 := k4.setSlot 1 ⟨kindMem, .loaded, ownerScarab, 0, kdfKH k3.deviceRoot "MDMETA" (k3.rootContext nonceB) 255⟩
  let k6 := k5.setSlot 2 ⟨kindScarab, .loaded, ownerScarab, 0, kdf k3.deviceRoot "FLASHREC" (k3.rootContext []) 256⟩
  let k7 := k6.setSlot 3 ⟨kindScarab, .loaded, ownerScarab, 0, kdf k3.classRoot "CLASSLNK" (k3.rootContext []) 256⟩
  let k8 := failed.foldl (fun (a : Sec) i => a.failSlot i) k7
  { k8 with seeds := kdf k3.deviceRoot "ATTEST" (k3.rootContext []) 768
            nextIndex := k3.attestRec.index
            reservedTo := k3.attestRec.index
            ready := 15
            exhausted := decide (2 ^ 40 ≤ k3.attestRec.index)
            recordFail := !k3.attestRec.valid }

/-- Phase 1 fails when a Scarab slot fails or more than 16 of the others do (R270). -/
def Sec.slotsTooBad (failed : List Nat) : Bool :=
  failed.any (· < 16) || decide (16 < failed.length)

/-! ### Views (Tables 10.12 to 10.15) -/

def Sec.lcStatus (k : Sec) : Nat :=
  k.fuses.state.num + b2n (decide (k.root = .test)) <<< 4 + b2n k.grant <<< 5 +
  b2n (decide (k.fuses.state = .scrapped) && !k.fuses.wiped) <<< 6 + k.tokenFails <<< 8 + k.rights <<< 16

def Sec.slotInfo (k : Sec) : Nat :=
  let s := k.slot k.slotSel
  s.kind + s.state.code <<< 4 + s.owner <<< 8 + s.epoch <<< 16

def Sec.slotErr (k : Sec) : Nat := k.lastFailed + b2n k.slotFail <<< 11 + k.failedCnt <<< 16

def Sec.dbgWord (k : Sec) : Nat :=
  k.rights + k.dbgStatus.code <<< 32 + k.dbgReason <<< 40 + b2n k.nonce.isSome <<< 44

def Sec.attestWord (k : Sec) : Nat :=
  k.nextIndex % 2 ^ 40 + b2n k.exhausted <<< 40 + b2n k.recordFail <<< 41 + k.ready <<< 44

end Sys2Proof.Machine
end

