-- ==== Sys2Proof/Machine/Session.lean ====
section
/-! DEFINITION. Partitions, sessions, owners, approvals, records, labels, policies and coarsened views (chapter 11). -/

namespace Sys2Proof.Machine

/-- n bytes of a byte list from an offset, as a little-endian number (R7). -/
def field (bs : List Byte) (off n : Nat) : Nat := bytesNat ((bs.drop off).take n)

/-- Bytes [off, off + n) are all zero. -/
def zeroBytes (bs : List Byte) (off n : Nat) : Bool := ((bs.drop off).take n).all fun b => decide (b = 0)

/-- Session states (Table 11.2 with none and GONE of Table 11.7). -/
inductive SessState where
  | none | opened | armed | active | closing | gone
  deriving DecidableEq, Repr

def SessState.code : SessState → Nat
  | .none => 0 | .opened => 1 | .armed => 2 | .active => 3 | .closing => 4 | .gone => 5

/-- Fields of a partition record (Table 11.1). -/
structure PartRecord where
  part : Nat
  owners : Nat
  streamBlocks : Nat
  contexts : Nat
  slots : Nat
  quads : Nat
  granules : Nat
  staging : Nat
  sessionId : Nat
  roster : List (BitVec 256)
  deriving DecidableEq, Repr

/-- Read the fields of Table 11.1. -/
def PartRecord.ofBytes (bs : List Byte) : PartRecord where
  part := field bs 0 1
  owners := field bs 1 1
  streamBlocks := field bs 2 2
  contexts := field bs 4 2
  slots := field bs 6 2
  quads := field bs 8 8
  granules := field bs 0x10 2
  staging := field bs 0x12 2
  sessionId := field bs 0x20 16
  roster := (List.range 32).map fun j => BitVec.ofNat 256 (field bs (0x40 + 32 * j) 32)

/-- First row of R289: reserved fields and ranges of Table 11.1. -/
def recordMalformed (bs : List Byte) : Bool :=
  let r := PartRecord.ofBytes bs
  decide (bs.length ≠ 1088) || !zeroBytes bs 0x14 12 || !zeroBytes bs 0x30 16 || decide (15 < r.part) ||
  decide (r.owners = 0 ∨ 32 < r.owners) || decide (r.streamBlocks = 0 ∨ 255 < r.streamBlocks) ||
  decide (r.contexts = 0 ∨ 4096 < r.contexts) || decide (r.slots < 8 + r.owners ∨ 2032 < r.slots) ||
  decide (2 ^ 36 ≤ r.quads) || decide (r.granules = 0) ||
  (r.roster.drop r.owners).any fun d => decide (d ≠ 0)

/-- A session re-key in progress (R295): the new session slot, whether its pass ended, and the old CKPT slot waiting for a snapshot. -/
structure RekeyState where
  newSession : Nat
  oldSession : Nat
  oldCkpt : Nat
  /-- Another re-key was asked for and runs when this one has ended. -/
  again : Bool
  deriving DecidableEq, Repr

/-- Actions of a removal (R310). -/
inductive RemovalStep where
  | drain | wiping
  deriving DecidableEq, Repr

/-- A removal in progress and its counts of action 3. -/
structure Removal where
  step : RemovalStep
  revoked : Nat
  dropped : Nat
  /-- The host commands that asked: function and queue and sequence number, first one first. -/
  askers : List (Nat × Nat × Nat)
  /-- The create whose failure caused it, and its status (R292). -/
  create : Option ((Nat × Nat × Nat) × Status)
  deriving DecidableEq, Repr

/-- A release rule (Table 11.5). -/
structure RelRule where
  form : Nat
  recipients : Nat
  labelMax : Nat
  base : Nat
  size : Nat
  reserved : Bool
  deriving DecidableEq, Repr

/-- A release policy (R303). -/
structure Policy where
  digest : BitVec 256
  rules : List RelRule
  deriving DecidableEq, Repr

/-- One partition and its session. -/
structure Part where
  record : List Byte
  sess : SessState
  origin : Bool
  lastStatus : Status
  imported : Nat
  /-- OWNER slot of each owner (0: none). -/
  ownerSlots : Store Nat
  sessionSlot : Nat
  kemSlot : Nat
  memSlot : Nat
  ckptSlot : Nat
  kemKey : List Byte
  /-- Digests of the last 64 evidence structures, oldest first (R294). -/
  evidence : List (BitVec 256)
  ingestSeq : Store Nat
  /-- Release records made for each owner: the next SEQ is one more (R299). -/
  released : Store Nat
  policy : Option Policy
  rekey : Option RekeyState
  removal : Option Removal
  /-- Slots counted against the quota. -/
  slots : List Nat
  /-- First stream-table entries of the blocks of the quota (R178). -/
  blocks : List Nat
  deriving DecidableEq, Repr

def Part.reset : Part where
  record := []
  sess := .none
  origin := false
  lastStatus := .done
  imported := 0
  ownerSlots := []
  sessionSlot := 0
  kemSlot := 0
  memSlot := 0
  ckptSlot := 0
  kemKey := []
  evidence := []
  ingestSeq := []
  released := []
  policy := none
  rekey := none
  removal := none
  slots := []
  blocks := []

def Part.rec_ (p : Part) : PartRecord := .ofBytes p.record

/-- The partition exists and is not GONE (R289, R312). -/
def Part.live (p : Part) : Bool := decide (p.sess ≠ .none ∧ p.sess ≠ .gone)

/-- SEC_SESS_STATUS (Table 11.7). -/
def Part.statusWord (p : Part) : Nat :=
  p.sess.code + (if p.sess = .none then 0 else p.rec_.owners) <<< 8 + p.lastStatus.code <<< 16 + p.imported <<< 32

/-- Configuration digest (R288). -/
def Part.configDigest (p : Part) : BitVec 256 := Config.shake256 p.record

/-- The record with SESSION_ID filled in (R288, R292 step 2). -/
def fillSessionId (bs : List Byte) (id : Nat) : List Byte := bs.take 0x20 ++ natBytes id 16 ++ bs.drop 0x30

/-! ### Policies and approvals (R296, R303, R304) -/

def RelRule.ofBytes (bs : List Byte) : RelRule :=
  ⟨field bs 0 1, field bs 4 4, field bs 8 4, field bs 0x10 8, field bs 0x18 8, !(zeroBytes bs 1 3 && zeroBytes bs 0xC 4)⟩

def Policy.ofBytes (bs : List Byte) : Policy :=
  ⟨BitVec.ofNat 256 (field bs 0x20 32), (List.range (field bs 0xA 2)).map fun i => RelRule.ofBytes ((bs.drop (0x40 + 32 * i)).take 32)⟩

/-- A rule is well formed (Table 11.5). -/
def RelRule.ok (r : RelRule) (owners vaSize : Nat) : Bool :=
  !r.reserved && decide (r.form = 1 ∨ r.form = 2) &&
  (if r.form = 2 then decide (r.recipients < 2 ^ owners) else decide (r.recipients = 0)) &&
  decide (r.base % 2097152 = 0) && decide (r.size % 2097152 = 0) && decide (r.size ≠ 0) && decide (r.base + r.size ≤ vaSize)

/-- The policy's structure passes (R303, R304). -/
def policyOk (bs : List Byte) (owners vaSize : Nat) : Bool :=
  let n := field bs 0xA 2
  decide (field bs 0 8 = 0x4C4F504C45525653) && decide (field bs 8 2 = 1) && decide (n ≤ 64) && zeroBytes bs 0xC 20 &&
  decide (bs.length = 0x40 + 32 * n) && (Policy.ofBytes bs).rules.all fun r => r.ok owners vaSize

/-- An owner's approval: index and tag (R296). -/
structure Approval where
  owner : Nat
  tag : BitVec 256
  deriving DecidableEq, Repr

/-- The tag that approves a program and a policy in a session (R296). -/
def approvalTag (approvalKey : BitVec 256) (program policy : BitVec 256) (sessionId : Nat) : BitVec 256 :=
  BitVec.ofNat 256 (Config.kmac256 approvalKey (natBytes program.toNat 32 ++ natBytes policy.toNat 32 ++ natBytes sessionId 16) 256 "SVT2-APPROVE")

/-- Approval key of an OWNER slot's material: its second half (Table 10.4, R294). -/
def approvalKey (material : Nat) : BitVec 256 := BitVec.ofNat 256 (bits material 256 256)

/-- Owner digest (R294). -/
def ownerDigest (material : Nat) : BitVec 256 :=
  Config.shake256 (asciiBytes "SVT2-OWNER" ++ natBytes (approvalKey material).toNat 32)

/-- The first owner whose approval fails, and how (R296 step 3). -/
def approvalsStatus (tags : Nat → BitVec 256) (owners : Nat) (aps : List Approval) : Status :=
  let rec go : Nat → Nat → Status
    | 0, _ => .done
    | n + 1, j =>
      match aps.filter fun a => decide (a.owner = j) with
      | [a] => if a.tag = tags j then go n (j + 1) else .digestMismatch
      | _ => .accessDenied
  if aps.any fun a => decide (owners ≤ a.owner) then .accessDenied else go owners 0

/-! ### Owner records (R297 to R299) -/

/-- Owner record header (Table 11.3). -/
structure OwnerHeader where
  magic : Nat
  version : Nat
  dir : Nat
  owner : Nat
  sessionId : Nat
  label : Nat
  length : Nat
  seq : Nat
  va : Nat
  serial : Nat
  reserved : Bool
  deriving DecidableEq, Repr

def OwnerHeader.ofBytes (bs : List Byte) : OwnerHeader :=
  ⟨field bs 0 4, field bs 4 1, field bs 5 1, field bs 6 1, field bs 8 16, field bs 0x18 4, field bs 0x1C 4, field bs 0x20 8, field bs 0x28 8,
   field bs 0x30 8, !(zeroBytes bs 7 1 && zeroBytes bs 0x38 8)⟩

/-- Bytes of a header (Table 11.3). -/
def OwnerHeader.bytes (h : OwnerHeader) : List Byte :=
  natBytes h.magic 4 ++ natBytes h.version 1 ++ natBytes h.dir 1 ++ natBytes h.owner 1 ++ [0] ++ natBytes h.sessionId 16 ++ natBytes h.label 4 ++
  natBytes h.length 4 ++ natBytes h.seq 8 ++ natBytes h.va 8 ++ natBytes h.serial 8 ++ List.replicate 8 0

/-- "SVOR" (Table 11.3). -/
abbrev ownerMagic : Nat := 0x524F5653

/-- The 96-bit nonce: DIR, three zero bytes, SEQ (R297). -/
def ownerNonce (h : OwnerHeader) : Nat := h.dir + h.seq <<< 32

/-- Release key of an owner on this module (R299). -/
def releaseKey (material serial : Nat) : BitVec 256 :=
  BitVec.ofNat 256 (kdf (BitVec.ofNat 256 material) "RELEASE" (natBytes serial 8) 256)

/-- A page is covered for a release (R305). -/
def Policy.allows (p : Policy) (form recipient page label : Nat) : Bool :=
  p.rules.any fun r => decide (r.form = form) && (decide (form ≠ 2) || bit r.recipients recipient) &&
    decide (label ||| r.labelMax = r.labelMax) && decide (r.base ≤ page * 2097152) && decide ((page + 1) * 2097152 ≤ r.base + r.size)

/-- Shown value of a counter (R308). -/
def coarsen (v : Nat) : Nat := if v < 200 then v else v / 2 ^ Nat.log2 (v / 100) * 2 ^ Nat.log2 (v / 100)

end Sys2Proof.Machine
end

