-- ==== Sys2Proof/Machine/Hif.lean ====
section
/-! DEFINITION. The host interface (chapter 15): functions and their registers, contexts, queues, submission and completion entries, memory objects, fences, tokens, references and kills. -/

namespace Sys2Proof.Machine

/-- What leaves the module: host memory writes, interrupts, replies to reads, side-band and DOE messages, frames on fibres, pulses and packets of the time port. -/
inductive Out where
  | hostWrite (fn addr : Nat) (data : List Byte)
  | irq (fn vector : Nat)
  | readData (value : Nat)
  | unsupported
  | barData (data : List Byte)
  | doe (data : List Byte)
  | sideband (kind : Nat) (status : Status) (data : List Byte)
  | i3c (addr : Nat)
  | fibre (port : Nat) (data : List Byte)
  | hello (port : Nat) (data : List Byte)
  | proof (port : Nat) (data : List Byte)
  | swapMsg (port kind wave lseq : Nat)
  | keyReady (port pkid kg : Nat)
  | abort (peer group seq : Nat) (cp : Bool) (status : Status) (rank digest susRank susLidx susDigest : Nat)
  | census (peer group seq : Nat) (cp : Bool) (rank digest lidx : Nat)
  | censusResult (peer group seq : Nat) (cp : Bool) (major count : Nat) (worst : List (Nat × Nat))
  | ptp (port kind : Nat) (data : List Byte)
  | pin (name : Nat) (high : Bool)
  | atsDone (fn tag : Nat)
  | line (status : Status) (words : List TWord)
  | exported (status : Status) (message : List Byte)
  deriving DecidableEq, Repr

/-- A submission entry (Table 15.6). -/
structure SubEntry where
  opcode : Nat
  waitEn : Bool
  sigEn : Bool
  order : Bool
  cmdId : Nat
  seq : Nat
  waitFence : Nat
  sigFence : Nat
  waitValue : Nat
  sigValue : Nat
  p0 : Nat
  p1 : Nat
  p2 : Nat
  /-- A reserved field is not 0. -/
  reserved : Bool
  deriving DecidableEq, Repr

def SubEntry.ofBytes (bs : List Byte) : SubEntry :=
  let fl := field bs 1 1
  ⟨field bs 0 1, bit fl 0, bit fl 1, bit fl 2, field bs 4 4, field bs 8 8, field bs 0x10 4, field bs 0x14 4, field bs 0x18 8, field bs 0x20 8,
   field bs 0x28 8, field bs 0x30 8, field bs 0x38 8, decide (8 ≤ fl) || !zeroBytes bs 2 2⟩

/-- Opcodes of Table 15.8, and those of the firmware commands (Table 16.5). -/
def opcodeKnown (o : Nat) : Bool :=
  decide (1 ≤ o ∧ o ≤ 0x13 ∨ 0x20 ≤ o ∧ o ≤ 0x29 ∨ 0x30 ≤ o ∧ o ≤ 0x36 ∨ 0x40 ≤ o ∧ o ≤ 0x47 ∨ o = 0x50 ∨ 0x60 ≤ o ∧ o ≤ 0x69)

/-- Bits of P0, P1 and P2 that an opcode's parameters give no meaning (Table 15.8), which must be 0; STEP_CQE under version 1.0 too (R407). -/
def paramsReserved (e : SubEntry) (minor : Nat) : Bool :=
  let z := fun (v lo : Nat) => decide (v / 2 ^ lo ≠ 0)
  match e.opcode with
  | 0x01 => z e.p0 0 || z e.p1 0 || z e.p2 0
  | 0x02 | 0x03 | 0x05 | 0x07 | 0x09 | 0x0C | 0x0F | 0x10 => z e.p0 32 || z e.p1 0 || z e.p2 0
  | 0x04 => z e.p2 4
  | 0x06 => z e.p0 32 || decide (bits e.p2 4 12 ≠ 0) || z e.p2 48
  | 0x08 => z e.p1 1 || z e.p2 0
  | 0x0A => z e.p0 32
  | 0x0B => z e.p0 0 || decide (bits e.p2 0 32 ≠ 0)
  | 0x0D | 0x11 => z e.p1 0 || z e.p2 0
  | 0x0E => z e.p2 16 || (decide (minor = 0) && z e.p1 0)
  | 0x12 => z e.p0 0 || z e.p1 0 || z e.p2 0
  | 0x13 => decide (bits e.p2 48 15 ≠ 0)
  | 0x20 | 0x24 | 0x30 => z e.p1 0 || z e.p2 0
  | 0x21 => z e.p0 4 || z e.p1 0 || z e.p2 0
  | 0x23 => z e.p0 6 || z e.p1 0 || z e.p2 0
  | 0x25 => z e.p0 0 || z e.p1 0 || z e.p2 0
  | 0x27 => z e.p0 32 || z e.p1 1 || z e.p2 0 || (decide (minor = 0) && z e.p1 0)
  | 0x28 => z e.p2 0
  | 0x31 => z e.p0 16 || z e.p1 0 || z e.p2 0 || decide (bits e.p0 6 2 ≠ 0 ∨ 36 ≤ bits e.p0 0 6 ∨ bits e.p0 8 4 = 0 ∨ 6 ≤ bits e.p0 8 4 ∨ bits e.p0 8 4 = 5 ∧ 5 ≤ bits e.p0 12 3)
  | 0x32 => z e.p0 15 || decide (bits e.p1 14 2 ≠ 0 ∨ bits e.p1 32 2 = 3) || bit e.p1 31 || z e.p1 34 || z e.p2 0
  | 0x33 => z e.p0 15 || z e.p1 0 || z e.p2 0
  | 0x34 => bit e.p1 15 || z e.p1 31 || z e.p2 0
  | 0x35 => z e.p2 0
  | 0x36 => z e.p0 53
  | 0x41 => z e.p0 1 || z e.p1 0 || z e.p2 0
  | 0x42 | 0x46 => z e.p2 0
  | 0x43 => decide (bits e.p0 2 14 ≠ 0) || z e.p0 32
  | 0x44 => z e.p0 0
  | 0x47 => decide (bits e.p0 4 12 ≠ 0) || z e.p0 32 || z e.p1 0 || z e.p2 0 || decide (bits e.p0 0 4 = 0 ∨ 8 ≤ bits e.p0 0 4)
  | 0x60 | 0x68 => z e.p1 0 || z e.p2 0
  | 0x62 | 0x64 | 0x69 => z e.p0 0 || z e.p1 0 || z e.p2 0
  | 0x63 => z e.p0 2 || z e.p1 0 || z e.p2 0 || decide (e.p0 = 3)
  | 0x66 => z e.p0 8 || z e.p1 0 || z e.p2 0
  | 0x67 => z e.p0 24 || decide (bits e.p0 9 7 ≠ 0) || z e.p1 0 || z e.p2 0
  | _ => false

/-- Who may issue an opcode (the From column of Table 15.8): function and context of the SQ. -/
def mayIssue (o fn ctx : Nat) : Bool :=
  let admin := decide (ctx = 0)
  let pf := decide (fn = 0)
  if (1 ≤ o ∧ o ≤ 7) ∨ o = 0x21 then admin
  else if (0x0E ≤ o ∧ o ≤ 0x12) ∨ o = 0x50 then true
  else if o = 0x20 ∨ (0x30 ≤ o ∧ o ≤ 0x33) ∨ o = 0x47 ∨ (0x60 ≤ o ∧ o ≤ 0x6F) then admin && pf
  else !pf

/-- A completion as it will be posted (Table 15.7). -/
structure Completion where
  cmdId : Nat
  status : Status
  interim : Bool
  sqHead : Nat
  seq : Nat
  r0 : Nat
  r1 : Nat
  deriving DecidableEq, Repr

def Completion.bytes (c : Completion) (phase : Bool) : List Byte :=
  natBytes c.cmdId 4 ++ natBytes c.status.code 1 ++ natBytes (b2n phase + 2 * b2n c.interim) 1 ++ natBytes c.sqHead 2 ++ natBytes c.seq 8 ++
  natBytes c.r0 8 ++ natBytes c.r1 8

/-- What a fetched command names: memory objects and fences it holds a reference to (Table 15.11). -/
structure CmdRefs where
  mems : List Nat
  fences : List Nat
  deriving DecidableEq, Repr

/-- A fetched command: its entry, the status its checks at fetch already give it (DONE: none), whether a fence wait is over, whether it has started. -/
structure Cmd where
  entry : SubEntry
  checked : Status
  refs : CmdRefs
  ready : Bool
  started : Bool
  /-- The mappings its ranges had when they were checked. -/
  maps : List MapRun
  deriving DecidableEq, Repr

/-- A submission queue. -/
structure Sq where
  ctx : Nat
  cq : Nat
  base : Nat
  log2 : Nat
  head : Nat
  maxSeq : Nat
  /-- Last 1,024 accepted SEQ, newest first, with their completions (R410). -/
  window : List (Nat × Option Completion)
  cmds : List Cmd
  /-- The command that destroys it: queue and SEQ of the admin queue. -/
  destroyer : Option Nat
  deriving DecidableEq, Repr

/-- A completion queue. -/
structure Cq where
  ctx : Nat
  base : Nat
  log2 : Nat
  vector : Nat
  coalesce : Nat
  /-- Next slot the device writes, its PHASE, slots not yet released, and the last head written. -/
  tail : Nat
  phase : Bool
  used : Nat
  hostHead : Nat
  waiting : List Completion
  /-- Entries posted since the last interrupt. -/
  since : Nat
  deriving DecidableEq, Repr

/-- A context (R423). -/
structure Ctx where
  dying : Bool
  maps : List MapRun
  mems : List Nat
  fences : List Nat
  /-- Commands (admin SEQ) that kill or destroy it, and the results of the kill. -/
  killers : List Nat
  destroyers : List Nat
  cancelled : Nat
  toAbandon : List Nat
  abandoned : Nat
  deriving DecidableEq, Repr

def Ctx.fresh : Ctx := ⟨false, [], [], [], [], [], 0, [], 0⟩

/-- A function and its registers (Table 15.5). -/
structure Fn where
  drvMajor : Nat
  drvMinor : Nat
  enable : Bool
  enStatus : Status
  ready : Bool
  actMajor : Nat
  actMinor : Nat
  dbErr : Bool
  avector : Nat
  acqLog2 : Nat
  asqLog2 : Nat
  asqBase : Nat
  acqBase : Nat
  ctxs : Store (Option Ctx)
  sqs : Store (Option Sq)
  cqs : Store (Option Cq)
  ctxGen : Store Nat
  sqGen : Store Nat
  cqGen : Store Nat
  /-- A VF's TDI is in ERROR. -/
  tdiError : Bool
  /-- The model's own: ENABLE rose while a kill of the function's contexts had not ended. -/
  startDue : Bool
  deriving DecidableEq, Repr

def Fn.reset : Fn where
  drvMajor := 0
  drvMinor := 0
  enable := false
  enStatus := .done
  ready := false
  actMajor := 0
  actMinor := 0
  dbErr := false
  avector := 0
  acqLog2 := 4
  asqLog2 := 4
  asqBase := 0
  acqBase := 0
  ctxs := []
  sqs := []
  cqs := []
  ctxGen := []
  sqGen := []
  cqGen := []
  tdiError := false
  startDue := false

/-- A memory object (R420): whether STAGING, first page in the pool, pages, tag of its token. -/
structure MemObj where
  staging : Bool
  first : Nat
  pages : Nat
  tag : Option Nat
  zombie : Bool
  deriving DecidableEq, Repr

/-- A fence (R419). -/
structure Fence where
  value : Nat
  abandoned : Bool
  /-- Function and address of the mirror; vector of that function. -/
  fn : Nat
  mirror : Nat
  vector : Nat
  tag : Option Nat
  deriving DecidableEq, Repr

/-- The objects of one partition, or of the PF (index 16). -/
structure Objs where
  mems : Store (Option MemObj)
  fences : Store (Option Fence)
  memGen : Store Nat
  fenceGen : Store Nat
  /-- Objects held by the image space, and by the local and mirror areas (R420, R421). -/
  image : List Nat
  areas : List Nat
  /-- Runs of pages that held an object: STAGING, first page, pages. -/
  worn : List (Bool × Nat × Nat)
  deriving DecidableEq, Repr

def Objs.reset : Objs := ⟨[], [], [], [], [], [], []⟩

/-- The host interface. -/
structure Hif where
  fns : Store Fn
  objs : Store Objs
  numVfs : Nat
  vfEnable : Bool
  deriving DecidableEq, Repr

def Hif.reset : Hif := ⟨[], [], 0, false⟩

def Hif.fn (h : Hif) (f : Nat) : Fn := Store.get .reset h.fns f
def Hif.setFn (h : Hif) (f : Nat) (x : Fn) : Hif := { h with fns := Store.set .reset h.fns f x }
def Hif.obj (h : Hif) (p : Nat) : Objs := Store.get .reset h.objs p
def Hif.setObj (h : Hif) (p : Nat) (x : Objs) : Hif := { h with objs := Store.set .reset h.objs p x }

/-- Object space of a function: VF n serves partition n - 1; 16 stands for the PF. -/
def objSpace (fn : Nat) : Nat := if fn = 0 then 16 else fn - 1

def Fn.ctx (f : Fn) (c : Nat) : Option Ctx := Store.get none f.ctxs c
def Fn.setCtx (f : Fn) (c : Nat) (x : Option Ctx) : Fn := { f with ctxs := Store.set none f.ctxs c x }
def Fn.sq (f : Fn) (q : Nat) : Option Sq := Store.get none f.sqs q
def Fn.setSq (f : Fn) (q : Nat) (x : Option Sq) : Fn := { f with sqs := Store.set none f.sqs q x }
def Fn.cq (f : Fn) (q : Nat) : Option Cq := Store.get none f.cqs q
def Fn.setCq (f : Fn) (q : Nat) (x : Option Cq) : Fn := { f with cqs := Store.set none f.cqs q x }

/-- MSI-X vectors and queue indices of a function (Table 15.1, HIF_FUNC). -/
def fnVectors (fn : Nat) : Nat := if fn = 0 then 64 else 124
def fnQueues (fn : Nat) : Nat := if fn = 0 then 1024 else 8192

/-- Handles (R418). -/
def handleOf (kind gen index : Nat) : Nat := kind <<< 28 + (gen % 256) <<< 20 + index

def handleKind (h : Nat) : Nat := bits h 28 4
def handleGen (h : Nat) : Nat := bits h 20 8
def handleIndex (h : Nat) : Nat := bits h 0 20

/-- The lowest index from lo, below hi, that a table does not use.
A table of n entries leaves one of any n + 1 indices free, so no more of them are tried. -/
def lowestFree {α : Type} (t : Store (Option α)) (lo hi : Nat) : Option Nat :=
  (List.range (min (hi - lo) (t.length + 1))).map (· + lo) |>.find? fun i => (Store.get none t i).isNone

/-! ### Pages and mappings (R420) -/

/-- A run of free pages of a kind: the lowest one of n pages in a pool of total pages. -/
def Objs.freeRun (o : Objs) (staging : Bool) (n total : Nat) : Option Nat :=
  let taken := o.mems.filterMap fun e => match e.2 with
    | some m => if m.staging = staging then some (m.first, m.pages) else none
    | none => none
  (sortBy id (0 :: taken.map fun t => t.1 + t.2)).find? fun b => decide (b + n ≤ total) && taken.all fun t => !overlaps b n t.1 t.2

/-- Pages of a range of bytes, as first page and count. -/
def pageSpan (va n : Nat) : Nat × Nat := (va / 2097152, if n = 0 then 0 else (va + n - 1) / 2097152 - va / 2097152 + 1)

/-- Objects behind a range of virtual pages; none when a page is unmapped. -/
def rangeMems (maps : List MapRun) (va n : Nat) : Option (List Nat) :=
  let (p, k) := pageSpan va n
  (List.range k).foldl (fun (acc : Option (List Nat)) i =>
    match acc, findPage maps ((p + i) * 2097152) with
    | some l, some (m, _) => some (if l.contains m then l else l ++ [m])
    | _, _ => none) (some [])

/-- A range of pages removed from a list of mappings. -/
def cutMaps (maps : List MapRun) (p n : Nat) : List MapRun :=
  (maps.map fun r =>
    if r.va + r.pages ≤ p ∨ p + n ≤ r.va then [r]
    else (if r.va < p then [{ r with pages := p - r.va }] else []) ++
      (if p + n < r.va + r.pages then [⟨p + n, r.va + r.pages - (p + n), r.mem, r.first + (p + n - r.va)⟩] else [])).flatten

/-- The mappings over [0, n pages) (R420, IMAGE_LOAD). -/
def mapsBelow (maps : List MapRun) (n : Nat) : List MapRun :=
  maps.filterMap fun r => if n ≤ r.va then none else some { r with pages := min r.pages (n - r.va) }

/-- Objects that mappings name. -/
def mapMems (maps : List MapRun) : List Nat := maps.foldl (fun acc r => if acc.contains r.mem then acc else acc ++ [r.mem]) []

/-! ### References (R421) -/

/-- References of a memory object of space p: holdings and mappings of contexts, commands, image space, areas. -/
def Hif.memRefs (h : Hif) (p m : Nat) : Nat :=
  let o := h.obj p
  let count := fun (l : List Nat) => (l.filter (· = m)).length
  let inCtx := fun (c : Option Ctx) => match c with
    | some x => count x.mems + (x.maps.filter fun r => decide (r.mem = m)).length
    | none => 0
  let inSq := fun (q : Option Sq) => match q with
    | some x => (x.cmds.map fun c => count c.refs.mems).sum
    | none => 0
  count o.image + count o.areas +
  (h.fns.map fun e => if objSpace e.1 = p then (e.2.ctxs.map fun c => inCtx c.2).sum + (e.2.sqs.map fun q => inSq q.2).sum else 0).sum

/-- References of a fence of space p. -/
def Hif.fenceRefs (h : Hif) (p m : Nat) : Nat :=
  let count := fun (l : List Nat) => (l.filter (· = m)).length
  let inCtx := fun (c : Option Ctx) => match c with
    | some x => count x.fences
    | none => 0
  let inSq := fun (q : Option Sq) => match q with
    | some x => (x.cmds.map fun c => count c.refs.fences).sum
    | none => 0
  (h.fns.map fun e => if objSpace e.1 = p then (e.2.ctxs.map fun c => inCtx c.2).sum + (e.2.sqs.map fun q => inSq q.2).sum else 0).sum

/-- Objects of space p whose last reference is gone are released; their indices become free with GEN raised (R418, R421). -/
def Hif.sweep (h : Hif) (p : Nat) : Hif :=
  let o := h.obj p
  let goneM := (o.mems.filter fun e => decide (h.memRefs p e.1 = 0)).map Prod.fst
  let goneF := (o.fences.filter fun e => decide (h.fenceRefs p e.1 = 0)).map Prod.fst
  let worn := o.mems.filterMap fun e => match e.2 with
    | some m => if goneM.contains e.1 then some (m.staging, m.first, m.pages) else none
    | none => none
  h.setObj p { o with
    mems := o.mems.filter fun e => !goneM.contains e.1
    fences := o.fences.filter fun e => !goneF.contains e.1
    memGen := goneM.foldl (fun g i => Store.upd 0 g i fun v => (v + 1) % 256) o.memGen
    fenceGen := goneF.foldl (fun g i => Store.upd 0 g i fun v => (v + 1) % 256) o.fenceGen
    worn := o.worn ++ worn }

/-- The object a context's handle names (R418). -/
def Hif.heldMem (h : Hif) (fn ctx handle : Nat) : Option Nat :=
  let o := h.obj (objSpace fn)
  match (h.fn fn).ctx ctx with
  | some c =>
    let i := handleIndex handle
    if handleKind handle = 4 ∧ c.mems.contains i ∧ Store.get 0 o.memGen i = handleGen handle then some i else none
  | none => none

def Hif.heldFence (h : Hif) (fn ctx handle : Nat) : Option Nat :=
  let o := h.obj (objSpace fn)
  match (h.fn fn).ctx ctx with
  | some c =>
    let i := handleIndex handle
    if handleKind handle = 5 ∧ c.fences.contains i ∧ Store.get 0 o.fenceGen i = handleGen handle then some i else none
  | none => none

/-! ### Fences (R419) -/

/-- Mirror write and interrupt of a fence after a change. -/
def fenceOuts (f : Fence) : List Out :=
  (if f.mirror ≠ 0 then [.hostWrite f.fn f.mirror (natBytes (f.value % 2 ^ 63 + b2n f.abandoned <<< 63) 8)] else []) ++
  (if f.vector < fnVectors f.fn then [.irq f.fn f.vector] else [])

/-- Raise a fence. -/
def Hif.signal (h : Hif) (p i v : Nat) : Hif × List Out :=
  let o := h.obj p
  match Store.get none o.fences i with
  | some f =>
    if f.abandoned ∨ v ≤ f.value then (h, [])
    else
      let f1 := { f with value := v }
      (h.setObj p { o with fences := Store.set none o.fences i (some f1) }, fenceOuts f1)
  | none => (h, [])

/-- A fence loses its signaller. -/
def Hif.abandon (h : Hif) (p i : Nat) : Hif × List Out :=
  let o := h.obj p
  match Store.get none o.fences i with
  | some f =>
    if f.abandoned then (h, [])
    else
      let f1 := { f with abandoned := true }
      (h.setObj p { o with fences := Store.set none o.fences i (some f1) }, fenceOuts f1)
  | none => (h, [])

/-! ### Posting (R405, R409, R412) -/

/-- One completion into a CQ that has a free slot. -/
def Cq.push (c : Cq) (fn : Nat) (x : Completion) : Cq × List Out :=
  let last := decide (c.tail + 1 = 2 ^ c.log2)
  let n := c.since + 1
  let fire := decide (max 1 c.coalesce ≤ n)
  ({ c with tail := if last then 0 else c.tail + 1, phase := c.phase != last, used := c.used + 1, since := if fire then 0 else n },
   .hostWrite fn (c.base + 32 * c.tail) (x.bytes c.phase) :: (if fire && decide (c.vector < fnVectors fn) then [.irq fn c.vector] else []))

/-- Held completions post while there is room. -/
def Cq.drain (fn : Nat) : Nat → Cq → Cq × List Out
  | 0, c => (c, [])
  | n + 1, c =>
    match c.waiting with
    | [] => (c, [])
    | x :: rest =>
      if 2 ^ c.log2 ≤ c.used then (c, [])
      else
        let (c1, o) := { c with waiting := rest }.push fn x
        let (c2, o2) := Cq.drain fn n c1
        (c2, o ++ o2)

/-- Post a completion, in order behind those held. -/
def Cq.post (c : Cq) (fn : Nat) (x : Completion) : Cq × List Out :=
  Cq.drain fn (c.waiting.length + 1) { c with waiting := c.waiting ++ [x] }

/-- Post on the CQ that an SQ names; nothing posts for a context that is DYING (R425). -/
def Hif.post (h : Hif) (fn q : Nat) (x : Completion) : Hif × List Out :=
  let f := h.fn fn
  match f.sq q with
  | none => (h, [])
  | some s =>
    match f.ctx s.ctx, f.cq s.cq with
    | some c, some cq =>
      if c.dying then (h, [])
      else
        let (cq1, o) := cq.post fn x
        (h.setFn fn (f.setCq s.cq (some cq1)), o)
    | _, _ => (h, [])

/-! ### Kills and destructions (R425) -/

/-- Steps 3 to 6 of R425 for a context whose commands are gone. -/
def Hif.endCtx (h : Hif) (fn c : Nat) : Hif × List Out :=
  let f := h.fn fn
  match f.ctx c with
  | none => (h, [])
  | some x =>
    let p := objSpace fn
    let others := fun (i : Nat) => h.fns.any fun e => decide (objSpace e.1 = p) && e.2.ctxs.any fun d =>
      match d.2 with
      | some y => decide (e.1 ≠ fn ∨ d.1 ≠ c) && y.fences.contains i
      | none => false
    let lost := (x.toAbandon.filter others).eraseDups
    let r := lost.foldl (fun (acc : Hif × List Out) i =>
      let t := acc.1.abandon p i
      (t.1, acc.2 ++ t.2)) (h, [])
    let f1 := r.1.fn fn
    let mine := fun (q : Option Sq) => match q with
      | some s => decide (s.ctx = c)
      | none => false
    let mineC := fun (q : Option Cq) => match q with
      | some s => decide (s.ctx = c)
      | none => false
    let bump := fun (g : Store Nat) (l : List Nat) => l.foldl (fun (a : Store Nat) i => Store.upd 0 a i fun v => (v + 1) % 256) g
    let f2 := { f1 with
      ctxs := Store.set none f1.ctxs c none
      ctxGen := bump f1.ctxGen [c]
      sqGen := bump f1.sqGen ((f1.sqs.filter fun e => mine e.2).map Prod.fst)
      cqGen := bump f1.cqGen ((f1.cqs.filter fun e => mineC e.2).map Prod.fst)
      sqs := f1.sqs.filter fun e => !mine e.2
      cqs := f1.cqs.filter fun e => !mineC e.2 }
    ((r.1.setFn fn f2).sweep p, r.2)

/-- Commands of a context that are fetched and not completed. -/
def Fn.cmdsOf (f : Fn) (c : Nat) : List (Nat × Cmd) :=
  (f.sqs.map fun e => match e.2 with
    | some s => if s.ctx = c then s.cmds.map fun x => (e.1, x) else []
    | none => []).flatten

/-- Opcodes with a command boundary at which a cancelled command stops (R424). -/
def stopsAtBoundary (o : Nat) : Bool := decide (o = 0x27 ∨ o = 0x28 ∨ o = 0x29 ∨ o = 0x13 ∨ o = 0x46)

/-- Steps 1 and 2 of R425: DYING, unstarted commands dropped; the kill ends when the running commands are gone. -/
def Hif.beginKill (h : Hif) (fn c : Nat) (killer : Option Nat) : Hif :=
  let f := h.fn fn
  match f.ctx c with
  | none => h
  | some x =>
    if x.dying then
      match killer with
      | some k => h.setFn fn (f.setCtx c (some { x with killers := x.killers ++ [k] }))
      | none => h
    else
      let cmds := f.cmdsOf c
      let hit := cmds.filter fun e => !e.2.started || stopsAtBoundary e.2.entry.opcode
      let p := objSpace fn
      let fences := hit.filterMap fun e => if e.2.entry.sigEn then some (handleIndex e.2.entry.sigFence) else none
      let f1 := f.setCtx c (some { x with dying := true, killers := killer.toList, cancelled := hit.length, toAbandon := fences,
                                          abandoned := ((fences.filter fun i => h.fns.any fun e => decide (objSpace e.1 = p) && e.2.ctxs.any fun d =>
                                            match d.2 with
                                            | some y => decide (e.1 ≠ fn ∨ d.1 ≠ c) && y.fences.contains i
                                            | none => false).eraseDups).length })
      let f2 := { f1 with sqs := f1.sqs.map fun e => match e.2 with
        | some s => if s.ctx = c then (e.1, some { s with cmds := s.cmds.filter Cmd.started }) else e
        | none => e }
      h.setFn fn f2

/-- Release of the references of finished commands, in a list of contexts whose end is due. -/
def Hif.dueCtxs (h : Hif) (fn : Nat) : List Nat :=
  let f := h.fn fn
  (f.ctxs.filter fun e => match e.2 with
    | some x => (x.dying || !x.destroyers.isEmpty) && (f.cmdsOf e.1).isEmpty
    | none => false).map Prod.fst

/-- Fetched commands of an SQ that have not started complete PARTITION_GONE, waits included; PART_REMOVE and QUERY are spared (R417). -/
def Sq.close (s : Sq) : Sq :=
  { s with cmds := s.cmds.map fun (c : Cmd) =>
      if c.started = false ∧ c.checked = .done ∧ c.entry.opcode ≠ 0x21 ∧ c.entry.opcode ≠ 0x50 then { c with checked := .partitionGone } else c }

/-- The partition of a function's objects is CLOSING (R312, R426). -/
def Hif.closePart (h : Hif) (p : Nat) : Hif :=
  let f := h.fn (p + 1)
  h.setFn (p + 1) { f with sqs := f.sqs.map fun (q : Nat × Option Sq) => (q.1, q.2.map Sq.close) }

/-- Every memory object and fence of a GONE partition is released and its handles are stale; its contexts stay LIVE (R426). -/
def Hif.endPart (h : Hif) (p : Nat) : Hif :=
  let o := h.obj p
  let f := h.fn (p + 1)
  let bump := fun (g : Store Nat) (l : List Nat) => l.foldl (fun (a : Store Nat) i => Store.upd 0 a i fun v => (v + 1) % 256) g
  let h1 := h.setFn (p + 1) { f with ctxs := f.ctxs.map fun (c : Nat × Option Ctx) => (c.1, c.2.map fun x => { x with maps := [], mems := [], fences := [] }) }
  h1.setObj p { Objs.reset with memGen := bump o.memGen (o.mems.map Prod.fst), fenceGen := bump o.fenceGen (o.fences.map Prod.fst) }

/-- A command leaves its SQ with a completion: fence signal (R419), window (R410), posting, references. -/
def Hif.finish (h : Hif) (fn q seq : Nat) (st : Status) (r0 r1 : Nat) : Hif × List Out :=
  let f := h.fn fn
  match f.sq q with
  | none => (h, [])
  | some s =>
    match s.cmds.find? fun c => decide (c.entry.seq = seq) with
    | none => (h, [])
    | some c =>
      let x : Completion := ⟨c.entry.cmdId, st, false, s.head, seq, r0, r1⟩
      let s1 := { s with cmds := s.cmds.filter (fun d => decide (d.entry.seq ≠ seq)),
                         window := s.window.map fun w => if w.1 = seq then (seq, some x) else w }
      let h1 := h.setFn fn (f.setSq q (some s1))
      let (h2, o1) := if c.entry.sigEn && decide (st ≠ .cancelled) then
          match c.refs.fences.getLast? with
          | some i => h1.signal (objSpace fn) i c.entry.sigValue
          | none => (h1, [])
        else (h1, [])
      let (h3, o2) := h2.post fn q x
      (h3.sweep (objSpace fn), o1 ++ o2)

/-- An interim entry of a running command (R415). -/
def Hif.interim (h : Hif) (fn q seq : Nat) (st : Status) (r0 r1 : Nat) : Hif × List Out :=
  match (h.fn fn).sq q with
  | none => (h, [])
  | some s => match s.cmds.find? fun c => decide (c.entry.seq = seq) with
    | none => (h, [])
    | some c => h.post fn q ⟨c.entry.cmdId, st, true, s.head, seq, r0, r1⟩

/-- No context of the function stands. -/
def Fn.bare (f : Fn) : Bool := f.ctxs.all fun e => e.2.isNone

/-- The admin queues start empty (R407). -/
def Fn.start (f : Fn) : Fn :=
  let f1 := { f with ready := true, enStatus := .done, actMajor := 1, actMinor := min 1 f.drvMinor, startDue := false }
  ((f1.setCtx 0 (some .fresh)).setSq 0 (some ⟨0, 0, f.asqBase, f.asqLog2, 0, 0, [], [], none⟩)).setCq 0
    (some ⟨0, f.acqBase, f.acqLog2, f.avector, 1, 0, true, 0, 0, [], 0⟩)

/-- ENABLE 0 to 1 (R407); while a kill of the function's contexts has not ended (R425) the start waits for it (DESIGN CHOICE). -/
def Fn.enableNow (f : Fn) : Fn :=
  if f.drvMajor ≠ 1 then { f with enable := true, ready := false, enStatus := .versionUnsupported, actMajor := 0, actMinor := 0 }
  else if f.bare then { f with enable := true }.start
  else { f with enable := true, startDue := true }

/-- End of contexts and queues whose commands are gone: kills, destroys and SQ destroys complete (R413, R425). -/
def Hif.settle : Nat → Hif → Nat → Hif × List Out
  | 0, h, _ => (h, [])
  | n + 1, h, fn =>
    let f := h.fn fn
    match h.dueCtxs fn with
    | c :: _ =>
      let x := (f.ctx c).getD .fresh
      let (h1, o1) := h.endCtx fn c
      let r := x.killers.foldl (fun (acc : Hif × List Out) k =>
        let t := acc.1.finish fn 0 k .done x.cancelled x.abandoned
        (t.1, acc.2 ++ t.2)) (h1, o1)
      let r2 := x.destroyers.foldl (fun (acc : Hif × List Out) k =>
        let t := acc.1.finish fn 0 k .done 0 0
        (t.1, acc.2 ++ t.2)) r
      let t := Hif.settle n r2.1 fn
      (t.1, r2.2 ++ t.2)
    | [] =>
      match f.sqs.find? fun e => match e.2 with
        | some s => s.destroyer.isSome && s.cmds.isEmpty
        | none => false with
      | some (q, some s) =>
        let f1 := { f with sqs := Store.set none f.sqs q none, sqGen := Store.upd 0 f.sqGen q fun v => (v + 1) % 256 }
        let r := (h.setFn fn f1).finish fn 0 (s.destroyer.getD 0) .done 0 0
        let t := Hif.settle n r.1 fn
        (t.1, r.2 ++ t.2)
      | _ => (if f.startDue && f.bare then h.setFn fn f.start else h, [])

/-- A command completes, and whatever waited for it. -/
def Hif.complete (h : Hif) (fn q seq : Nat) (st : Status) (r0 r1 : Nat) : Hif × List Out :=
  let (h1, o1) := h.finish fn q seq st r0 r1
  let (h2, o2) := h1.settle 16 fn
  (h2, o1 ++ o2)

/-! ### Fetch (R404, R410, R411) -/

/-- Handles that an opcode's parameters name: memory handles and fence handles. -/
def namedHandles (e : SubEntry) : List Nat × List Nat :=
  match e.opcode with
  | 0x09 | 0x0A | 0x0C => ([bits e.p0 0 32], [])
  | 0x0F | 0x10 => ([], [bits e.p0 0 32])
  | _ => ([], [])

/-- VA ranges that a command names and whose pages must be mapped at fetch. -/
def namedRanges (e : SubEntry) : List (Nat × Nat) :=
  match e.opcode with
  | 0x0B => [(e.p1, bits e.p2 32 32 * 2097152)]
  | 0x13 => [(e.p1, bits e.p2 0 48)]
  | 0x26 | 0x28 => [(e.p0, 64)]
  | 0x29 => [(e.p0, bits e.p2 0 48), (e.p1, bits e.p2 0 48 / 2097152 * (2097152 + 128))]
  | 0x40 => (e.p0, e.p1) :: (if e.p2 = 0 then [] else [(e.p2, e.p1)])
  | 0x46 => [(e.p1, 64)]
  | _ => []

/-- Checks and references of a fetched entry (R411, R417, R418, R421). A refused entry keeps the fence that its completion raises (R419). -/
def Hif.check (h : Hif) (fn ctx : Nat) (gone : Bool) (e : SubEntry) : Status × CmdRefs :=
  let none_ : CmdRefs := ⟨[], (if e.sigEn then h.heldFence fn ctx e.sigFence else none).toList⟩
  let minor := (h.fn fn).actMinor
  if !opcodeKnown e.opcode || e.reserved || paramsReserved e minor then (.versionUnsupported, none_)
  else if !mayIssue e.opcode fn ctx then (.accessDenied, none_)
  else if gone && decide (e.opcode ≠ 0x20 ∧ e.opcode ≠ 0x21 ∧ e.opcode ≠ 0x50) then (.partitionGone, none_)
  else
    let (hm, hf) := namedHandles e
    let mems := hm.map (h.heldMem fn ctx)
    let fences := hf.map (h.heldFence fn ctx) ++ (if e.waitEn then [h.heldFence fn ctx e.waitFence] else []) ++
      (if e.sigEn then [h.heldFence fn ctx e.sigFence] else [])
    if mems.any Option.isNone || fences.any Option.isNone then (.handleStale, none_)
    else
      let maps := match (h.fn fn).ctx ctx with
        | some c => c.maps
        | none => []
      let rs := (namedRanges e).map fun r => rangeMems maps r.1 r.2
      if rs.any Option.isNone then (.accessDenied, none_)
      else (.done, ⟨mems.filterMap id ++ (rs.filterMap id).flatten, fences.filterMap id⟩)

/-- The mappings of a context that an entry's ranges touch. -/
def Hif.rangeMaps (h : Hif) (fn ctx : Nat) (e : SubEntry) : List MapRun :=
  match (h.fn fn).ctx ctx with
  | none => []
  | some c => c.maps.filter fun r => (namedRanges e).any fun n => let (q, k) := pageSpan n.1 n.2; overlaps q k r.va r.pages

/-- One fetched entry (R410). -/
def Hif.fetch (h : Hif) (fn q : Nat) (gone : Bool) (e : SubEntry) : Hif × List Out :=
  let f := h.fn fn
  match f.sq q with
  | none => (h, [])
  | some s0 =>
    let s := { s0 with head := (s0.head + 1) % 2 ^ s0.log2 }
    match s.window.find? fun w => decide (w.1 = e.seq) with
    | some (_, some x) => (h.setFn fn (f.setSq q (some s))).post fn q { x with sqHead := s.head }
    | some (_, none) => (h.setFn fn (f.setSq q (some s)), [])
    | none =>
      if e.seq ≤ s.maxSeq ∧ s.window ≠ [] then
        (h.setFn fn (f.setSq q (some s))).post fn q ⟨e.cmdId, .accessDenied, false, s.head, e.seq, 0, 0⟩
      else
        let (st, refs) := h.check fn s.ctx gone e
        let s1 := { s with maxSeq := e.seq, window := ((e.seq, none) :: s.window).take 1024, cmds := s.cmds ++ [⟨e, st, refs, !e.waitEn, false, h.rangeMaps fn s.ctx e⟩] }
        (h.setFn fn (f.setSq q (some s1)), [])

/-- The next command of an SQ to start (R411): the first that has not started, when ORDER lets it and no fence wait holds it. -/
def Sq.next (s : Sq) : Option Cmd :=
  let i := (s.cmds.findIdx? fun c => !c.started).getD s.cmds.length
  match s.cmds[i]? with
  | none => none
  | some c => if (c.entry.order && decide (i ≠ 0)) || (decide (c.checked = .done) && !c.ready) then none else some c

/-- Mark a command started. -/
def Sq.start (s : Sq) (seq : Nat) : Sq := { s with cmds := s.cmds.map fun c => if c.entry.seq = seq then { c with started := true } else c }

/-! ### Registers (Table 15.5) -/

def Fn.statusWord (f : Fn) (fatal : Bool) : Nat :=
  b2n f.ready + b2n fatal <<< 1 + b2n f.dbErr <<< 2 + f.actMinor <<< 8 + f.actMajor <<< 12 + f.enStatus.code <<< 16

def Fn.aqWord (f : Fn) : Nat := f.asqLog2 + f.acqLog2 <<< 8 + f.avector <<< 32

def hifVersion : Nat := 0x01010100

def hifFunc (fn : Nat) : Nat := (fn - 1) + b2n (decide (fn = 0)) <<< 4 + fnQueues fn <<< 16 + fnVectors fn <<< 32

/-- Registers of a function at their reset values; contexts that are still DYING stand. -/
def Fn.resetRegs (f : Fn) : Fn :=
  { Fn.reset with ctxs := f.ctxs, sqs := f.sqs, cqs := f.cqs, ctxGen := f.ctxGen, sqGen := f.sqGen, cqGen := f.cqGen, tdiError := f.tdiError }

/-- Every context of a function is killed under R425. -/
def Hif.killAll (h : Hif) (fn : Nat) : Hif × List Out :=
  let cs := (h.fn fn).ctxs.map Prod.fst
  (cs.foldl (fun (acc : Hif) c => acc.beginKill fn c none) h).settle (cs.length + 16) fn

/-- The head doorbell (R404, R412): slots are released, held completions post. -/
def Cq.release (c : Cq) (fn h : Nat) : Cq × List Out :=
  let n := (h + 2 ^ c.log2 - c.hostHead) % 2 ^ c.log2
  Cq.drain fn (c.waiting.length + 1) { c with hostHead := h, used := c.used - n }

/-- Bytes of memory objects a context holds, and bytes it maps (R428). -/
def Hif.ctxMem (h : Hif) (fn : Nat) (c : Ctx) : Nat :=
  (c.mems.map fun m => match Store.get none (h.obj (objSpace fn)).mems m with
    | some o => o.pages * 2097152
    | none => 0).sum

def Ctx.mapped (c : Ctx) : Nat := (c.maps.map fun r => r.pages * 2097152).sum

end Sys2Proof.Machine
end

