-- ==== Sys2Proof/Machine/Power.lean ====
section
/-! DEFINITION. Start-up phases, the 44 V input, rails, power states, clock domains, the power cap and the emergency levels (chapters 1 and 17). -/

namespace Sys2Proof.Machine

/-- Power states (Table 17.3). -/
inductive PowerState where
  | standby | starting | halted | ready | active
  deriving DecidableEq, Repr

/-- STATE of PWR_STATUS (Table 17.11). -/
def PowerState.code : PowerState → Nat
  | .standby => 0 | .starting => 1 | .halted => 2 | .ready => 3 | .active => 4

/-- STATE of PWR_RAIL (Table 17.11). -/
inductive RailState where
  | off | ramping | good | fault | locked
  deriving DecidableEq, Repr

def RailState.code : RailState → Nat
  | .off => 0 | .ramping => 1 | .good => 2 | .fault => 3 | .locked => 4

/-- A rail (R464, PWR_RAIL): state, sensed voltage and current, faults in the last hour, cause of the last. -/
structure Rail where
  state : RailState
  mv : Nat
  da : Nat
  faults : Nat
  cause : Nat
  deriving DecidableEq, Repr

def Rail.off : Rail := ⟨.off, 0, 0, 0, 0⟩

/-- Sequence position of a rail (Table 17.2). -/
def railPosition : Nat → Nat
  | 0 => 0 | 1 => 1 | 2 => 2 | 3 => 2 | 4 => 3 | 5 => 4 | 6 => 5 | 7 => 5 | 8 => 5 | 9 => 6 | 10 => 7 | 11 => 8 | 12 => 9
  | _ => 10

/-- Chapter 17's state: PWR and CLK registers and what stands behind them. -/
structure Power where
  aon : Bool
  state : PowerState
  lastCause : Nat
  /-- The cap controller's d (R470, R472). -/
  duty : Nat
  /-- 20 µs samples below 95% of the cap in a row. -/
  below : Nat
  level : Nat
  cap : Nat
  inCa : Nat
  inCv : Nat
  inW : Nat
  /-- Level that the trigger of each cause asks for (R474). -/
  asked : Store Nat
  peak : Nat
  cause : Nat
  railSel : Nat
  rails : Store Rail
  mainOpen : Bool
  reversed : Bool
  tripArmed : Bool
  thermtrip : Bool
  pwrReq : Bool
  /-- CLK_STATUS and CLK_IDLE_CFG (Table 17.12). -/
  lastLoss : Nat
  running : Nat
  srUs : Nat
  pllMs : Nat
  gateUs : Nat
  /-- Per field: 0 running, 1 gated, 2 PLL off (R468). -/
  coreStop : Store Nat
  /-- Stacks in self-refresh. -/
  selfRefresh : Nat
  /-- The AON crystal has been replaced by the MGMT ring oscillator (R471). -/
  crystalFailed : Bool
  deriving DecidableEq, Repr

/-- Before the AON rail is good; the register values of Tables 17.11 and 17.12. -/
def Power.reset : Power where
  aon := false
  state := .standby
  lastCause := 0
  duty := 64
  below := 0
  level := 0
  cap := 0x1068
  inCa := 0
  inCv := 0
  inW := 0
  asked := []
  peak := 0
  cause := 0
  railSel := 0
  rails := []
  mainOpen := false
  reversed := false
  tripArmed := true
  thermtrip := false
  pwrReq := false
  lastLoss := 0
  running := 1
  srUs := 0x3E8
  pllMs := 0x64
  gateUs := 0x64
  coreStop := []
  selfRefresh := 0
  crystalFailed := false

def Power.rail (p : Power) (i : Nat) : Rail := Store.get .off p.rails i

def Power.setRail (p : Power) (i : Nat) (r : Rail) : Power := { p with rails := Store.set .off p.rails i r }

/-- A rail is LOCKED (R464). -/
def Power.locked (p : Power) : Bool := p.rails.any fun e => decide (e.2.state = .locked)

/-- PWR_GOOD: every main rail is good (R482). -/
def Power.good (p : Power) : Bool := (List.range 12).all fun i => decide ((p.rail (i + 1)).state = .good)

/-- Highest level that any trigger asks for (R474). -/
def Power.askedLevel (p : Power) : Nat := p.asked.foldl (fun acc e => max acc e.2) 0

/-- Duty ceiling of a level (Table 17.5). -/
def dutyCeiling : Nat → Nat
  | 0 => 64 | 1 => 64 | 2 => 32 | 3 => 8
  | _ => 0

/-- The duty that applies (R473). -/
def Power.dutyNow (p : Power) : Nat := min p.duty (dutyCeiling p.level)

/-- Legal values of PWR_CAP (R472). -/
def capLegal (w : Nat) : Bool := decide (1500 ≤ w) && decide (w ≤ 4200) && decide (w % 10 = 0)

/-- Clock domains of Table 17.4 by number; bit n - 1 of RUNNING. -/
def Power.runs (p : Power) (n : Nat) : Bool := bit p.running (n - 1)

def Power.startClk (p : Power) (n : Nat) : Power := { p with running := setBits p.running (n - 1) 1 1 }
def Power.stopClk (p : Power) (n : Nat) : Power := { p with running := setBits p.running (n - 1) 1 0 }

/-- Clocks that the phases start: 1 REF, PCIE, CTRL, SEC, TIME, CKPTFLASH; 3 HBMC, HBMPHY, CRYPTO; 4 the cores and MESH (Tables 1.5 and 17.4). -/
def phaseClocks : Nat → List Nat
  | 0 => [15]
  | 1 => [2, 12, 13, 14, 16, 17]
  | 3 => [7, 8, 9]
  | 4 => [3, 4, 5, 6]
  | _ => []

def Power.startClks (p : Power) (ns : List Nat) : Power := ns.foldl (fun (a : Power) n => a.startClk n) p

/-- Threshold of a trigger for a level, in hundredths of its unit (Table 17.6); none where the table is empty. -/
def threshold (cause level : Nat) : Option Nat :=
  match cause, level with
  | 1, 1 => some 9000 | 1, 2 => some 9500 | 1, 3 => some 10500 | 1, 4 => some 11000
  | 2, 1 => some 8000 | 2, 2 => some 8500 | 2, 3 => some 9200 | 2, 4 => some 9500
  | 3, 1 => some 7000 | 3, 2 => some 7500 | 3, 3 => some 8000 | 3, 4 => some 8500
  | 4, 1 => some 4000 | 4, 2 => some 4300 | 4, 3 => some 4600 | 4, 4 => some 5000
  | 6, 2 => some 4000 | 6, 3 => some 3800
  | 7, 1 => some 5000 | 7, 3 => some 5300
  | 8, 1 => some 11000 | 8, 3 => some 11500
  | 12, 1 => some 10500 | 12, 2 => some 11000 | 12, 3 => some 11500 | 12, 4 => some 12500
  | _, _ => none

/-- Hysteresis in hundredths (Table 17.6). -/
def hysteresis : Nat → Nat
  | 1 => 300 | 2 => 300 | 3 => 300 | 4 => 100 | 6 => 50 | 7 => 50 | 8 => 200 | 12 => 300
  | _ => 0

/-- A reading reaches a level's threshold; cause 0x06 is an input below, the others lie above. -/
def reaches (cause level reading slack : Nat) : Bool :=
  match threshold cause level with
  | none => false
  | some t => if cause = 6 then decide (reading < t + slack) else decide (t ≤ reading + slack)

/-- The highest level whose threshold a reading has reached (R474). -/
def levelOf (cause reading slack : Nat) : Nat :=
  (List.range 5).foldl (fun acc l => if reaches cause l reading slack then max acc l else acc) 0

/-- The trigger asks for a level: the emergency level rises at once (R474); a fall waits for the fall event. -/
def Power.ask (p : Power) (cause level : Nat) : Power :=
  let p1 := { p with asked := Store.set 0 p.asked cause (max level (Store.get 0 p.asked cause)) }
  if p1.level < p1.askedLevel then
    { p1 with level := p1.askedLevel, peak := max p1.peak p1.askedLevel, cause := cause, lastCause := cause }
  else p1

/-- A level change by a cause that is no trigger of Table 17.6 (hardware trip, clock loss, power off). -/
def Power.force (p : Power) (cause : Nat) : Power :=
  { p with level := 4, peak := 4, cause := cause, lastCause := cause }

/-- What a trigger asks for from a reading while falling (R474): thresholds less the hysteresis, never above what it asks now. -/
def Power.relax (p : Power) (readings : List (Nat × Nat)) : Power :=
  readings.foldl (fun (a : Power) r =>
    { a with asked := Store.set 0 a.asked r.1 (min (Store.get 0 a.asked r.1) (levelOf r.1 r.2 (hysteresis r.1))) }) p

/-- The fall after the hold of 1 s (R474); level 4 is latched. -/
def Power.fall (p : Power) (readings : List (Nat × Nat)) : Power :=
  let p1 := p.relax readings
  if p1.level < 4 ∧ p1.askedLevel < p1.level then
    { p1 with level := p1.askedLevel }
  else p1

/-- One 20 µs sample of the cap controller (R472). -/
def Power.sample (p : Power) (projected : Nat) : Power :=
  let p0 := { p with inW := projected }
  if p.cap < projected then { p0 with duty := max 8 (p.duty - 1), below := 0 }
  else if projected * 100 < p.cap * 95 then
    if p.below + 1 < 50 then { p0 with below := p.below + 1 }
    else { p0 with below := 0, duty := max p.duty (min (p.duty + 1) (max 8 (dutyCeiling p.level))) }
  else { p0 with below := 0 }

/-- Rails of the next positions start when every rail before them is good (R463); in SCRAPPED none after VSEC and VFLASH. -/
def Power.startNext (p : Power) (scrapped : Bool) : Power :=
  (List.range 13).foldl (fun (a : Power) i =>
    let pos := railPosition i
    let ready := (List.range 13).all fun j => decide (pos ≤ railPosition j) || decide ((p.rail j).state = .good)
    if decide ((p.rail i).state = .off) && ready && (decide (pos ≤ 2) || !scrapped) then
      a.setRail i { p.rail i with state := .ramping }
    else a) p

/-- All main rails down (R463, R475); a LOCKED rail stays LOCKED, the hour's faults stand. -/
def Power.railsDown (p : Power) : Power :=
  { p with rails := p.rails.filterMap fun e =>
      if e.1 = 0 then some e
      else if e.2.state = .locked then some e
      else if e.2.faults = 0 ∧ e.2.cause = 0 then none
      else some (e.1, { e.2 with state := .off, mv := 0, da := 0 }) }

/-- Into STANDBY (R475 steps 2 to 5): only AON and the MGMT clock stay. -/
def Power.standby (p : Power) : Power :=
  { p.railsDown with state := .standby, running := p.running % 2 + (bits p.running 14 1) <<< 14, coreStop := [], selfRefresh := 0,
                     inCa := 0, inW := 0 }

/-- A rail faults (R464): shut; a third fault within an hour locks. `expired` faults have left the hour. -/
def Power.railFault (p : Power) (i cause expired : Nat) : Power :=
  let r := p.rail i
  let n := satAdd 8 (r.faults - expired) 1
  p.setRail i { r with faults := n, cause := cause, state := if 3 ≤ n then .locked else .fault, mv := 0, da := 0 }

/-- DUTY: the d that the cores run at, 8 to 64 (R470, R473). -/
def Power.dutyShown (p : Power) : Nat := if p.level = 4 then p.duty else p.dutyNow

/-- PWR_STATUS (Table 17.11). -/
def Power.statusWord (p : Power) : Nat :=
  p.level + b2n p.locked <<< 3 + p.dutyShown <<< 8 + p.lastCause <<< 16 + p.state.code <<< 24

/-- PWR_INPUT. -/
def Power.inputWord (p : Power) : Nat := p.inW + p.inCv <<< 16 + p.inCa <<< 32

/-- PWR_EMERG. -/
def Power.emergWord (p : Power) : Nat :=
  p.cause + p.peak <<< 8 + (List.range 12).foldl (fun acc n => acc + b2n (decide (Store.get 0 p.asked (n + 1) ≠ 0)) <<< (16 + n)) 0

/-- PWR_RAIL of the selected rail. -/
def Power.railWord (p : Power) : Nat :=
  let r := p.rail p.railSel
  r.state.code + r.cause <<< 8 + r.faults <<< 16 + r.da <<< 32 + r.mv <<< 48

/-- CLK_STATUS and CLK_IDLE_CFG. -/
def Power.clkWord (p : Power) : Nat := p.running + p.lastLoss <<< 56
def Power.idleWord (p : Power) : Nat := p.gateUs + p.pllMs <<< 16 + p.srUs <<< 32

/-- Where start-up stands (R33, R35): the phase, whether its work is complete, and the cause of a failure. -/
structure Boot where
  phase : Option Nat
  complete : Bool
  failed : Option Nat
  deriving DecidableEq, Repr

def Boot.reset : Boot := ⟨none, false, none⟩

/-- A phase is complete and start-up has not stopped. -/
def Boot.past (b : Boot) (n : Nat) : Bool :=
  match b.phase with
  | none => false
  | some p => decide (n < p) || (decide (p = n) && b.complete)

/-- Cause FW_NONE of a failed phase 1 (R433). -/
abbrev causeFwNone : Nat := 1

/-- Other causes of a failed phase: slots (R270), retirements (R255), tiles (R36), lock failure. -/
abbrev causeSlots : Nat := 2
abbrev causeRetire : Nat := 3
abbrev causeTiles : Nat := 4

end Sys2Proof.Machine
end

