-- ==== Sys2Proof/Machine/Link.lean ====
section
/-! DEFINITION. Optical ports (chapter 12): port states, training and identity, the topology map, frames, keys and sequence numbers, wavelengths and virtual channels. -/

namespace Sys2Proof.Machine

/-- Port states (Table 12.1). -/
inductive PortState where
  | off | training | ident | up | miswired | versionHeld | idFail | retrain | failed
  deriving DecidableEq, Repr

def PortState.code : PortState → Nat
  | .off => 0 | .training => 1 | .ident => 2 | .up => 3 | .miswired => 4 | .versionHeld => 5 | .idFail => 6 | .retrain => 7 | .failed => 8

/-- HELLO (Table 12.2). -/
structure Hello where
  magic : Nat
  serial : Nat
  port : Nat
  versions : Nat
  reserved : Nat
  fwVersion : Nat
  nonce : BitVec 256
  deriving DecidableEq, Repr

/-- "LLYNHELO". -/
abbrev helloMagic : Nat := 0x4F4C45484E594C4C

def Hello.bytes (h : Hello) : List Byte :=
  natBytes h.magic 8 ++ natBytes h.serial 8 ++ natBytes h.port 1 ++ natBytes h.versions 1 ++ natBytes h.reserved 2 ++ natBytes h.fwVersion 4 ++
  natBytes h.nonce.toNat 32

/-- A HELLO counts (R319). -/
def Hello.ok (h : Hello) : Bool := decide (h.magic = helloMagic ∧ h.reserved = 0 ∧ h.versions < 8)

/-- PROOF over two HELLOs in order (R319). -/
def proofTag (classKey : BitVec 256) (first second : Hello) : Nat :=
  Config.kmac256 classKey (first.bytes ++ second.bytes) 256 "SVT2-PORTID" % 2 ^ 256

/-- A topology map entry (Table 12.4). -/
structure MapEntry where
  role : Nat
  peerPort : Nat
  peerSerial : Nat
  deriving DecidableEq, Repr

def MapEntry.unused : MapEntry := ⟨0, 0, 0⟩

/-- The role of ports: 0 UNUSED, 1 FABRIC, 2 TWIN, 3 LOOPBACK, 4 ANY (Table 12.4). -/
abbrev roleAny : Nat := 4

/-- Read one entry of a map. -/
def MapEntry.ofBytes (bs : List Byte) : MapEntry := ⟨field bs 0 1, field bs 1 1, field bs 8 8⟩

/-- Entry i of a map breaks Table 12.4 (R323). -/
def mapEntryBad (i : Nat) (bs : List Byte) : Bool :=
  let e := MapEntry.ofBytes bs
  decide (4 < e.role) || decide (35 < e.peerPort) || !zeroBytes bs 2 6 || !zeroBytes bs 0x10 16 ||
  (decide (e.role = 2) && decide (i < 32)) || (decide (e.role = 1) && decide (32 ≤ i))

/-- A map is well formed as a whole (R323). -/
def mapOk (bs : List Byte) : Bool :=
  decide (bs.length = 1152) && (List.range 36).all fun i => !mapEntryBad i ((bs.drop (32 * i)).take 32)

/-- Entries of a map's bytes. -/
def mapEntries (bs : List Byte) : Store MapEntry :=
  (List.range 36).foldl (fun m i => Store.set .unused m i (.ofBytes ((bs.drop (32 * i)).take 32))) []

/-- Step 6 of R319 against a map (R323). -/
def mapMatches (map : Store MapEntry) (ownSerial k serial port : Nat) : Bool :=
  let e := Store.get MapEntry.unused map k
  if e.role = roleAny then true
  else if e.role = 0 then false
  else decide (serial = e.peerSerial ∧ port = e.peerPort) &&
    (decide (e.role ≠ 3) || decide (serial = ownSerial)) &&
    (decide (e.role ≠ 2) || (decide (port = k) && (List.range 4).all fun t =>
      let o := Store.get MapEntry.unused map (32 + t)
      decide (o.role ≠ 2) || decide (o.peerSerial = e.peerSerial)))

/-- Kinds of a frame's body (Table 12.7). -/
inductive FrameKind where
  | queue | collective | system | control
  deriving DecidableEq, Repr

def FrameKind.code : FrameKind → Nat
  | .queue => 1 | .collective => 2 | .system => 3 | .control => 4

def FrameKind.ofCode : Nat → Option FrameKind
  | 1 => some .queue | 2 => some .collective | 3 => some .system | 4 => some .control
  | _ => none

/-- An inner header (Table 12.7); ext holds bits [127:79]. -/
structure Inner where
  kind : Nat
  first : Bool
  last : Bool
  level : Nat
  stream : Nat
  label : Nat
  lenPkts : Nat
  ext : Nat
  deriving DecidableEq, Repr

def Inner.word (i : Inner) : Nat :=
  i.kind % 256 + b2n i.first <<< 8 + b2n i.last <<< 9 + (i.level % 8) <<< 10 + (i.stream % 65536) <<< 16 + (i.label % 2 ^ 32) <<< 32 +
  (i.lenPkts % 32768) <<< 64 + (i.ext % 2 ^ 49) <<< 79

def Inner.ofWord (v : Nat) : Inner :=
  ⟨bits v 0 8, bit v 8, bit v 9, bits v 10 3, bits v 16 16, bits v 32 32, bits v 64 15, bits v 79 49⟩

/-- A frame body waiting to be sent: virtual channel, entry, inner header, data units of 16 words with tags; a frame cut from a LINK_OUT ring names the level queue and the packets it takes from its head (R337). -/
structure OutUnit where
  vc : Nat
  pkid : Nat
  inner : Inner
  data : List Line
  ring : Option (Nat × Nat)
  deriving DecidableEq, Repr

/-- A frame kept for replay: LSEQ, bytes, times sent (R328). -/
structure Replay where
  lseq : Nat
  pkid : Nat
  bytes : List Byte
  times : Nat
  deriving DecidableEq, Repr

/-- A PKID entry (R330 to R332). -/
structure PkidEntry where
  part : Nat
  slot : Nat
  kg : Nat
  /-- The other generation during a re-key: its slot, and whether the peer's KEY_READY has come; slot 0 while only the KEY_READY has. -/
  next : Option (Nat × Bool)
  /-- This end sends under the new generation; `next` is then the old one. -/
  flipped : Bool
  /-- Last SEQ sent and last SEQ accepted under KG, and accepted under the other generation. -/
  txSeq : Nat
  rxSeq : Nat
  rxNext : Nat
  /-- VC and LEN of frames that failed their tag since the last one accepted, oldest first (R333). -/
  missing : List (Nat × Nat)
  peerRank : Nat
  peerSerial : Nat
  jobModules : Nat
  mode : Nat
  confirmed : Bool
  /-- The binding command that waits for CONFIRM: function, queue, sequence. -/
  asker : Option (Nat × Nat × Nat)
  deriving DecidableEq, Repr

/-- A message coming in from the fibre that waits for, or holds, the lock of a LINK_IN queue (R338). -/
structure InMsg where
  part : Nat
  stream : Nat
  level : Nat
  packets : Nat
  label : Nat
  sent : Nat
  credits : Nat
  locked : Bool
  deriving DecidableEq, Repr

/-- A QUEUE frame in the receive buffer: its VC, what it belongs to, the 64 B units it fills, the packets not yet landed (R338). -/
structure HeldFrame where
  vc : Nat
  part : Nat
  stream : Nat
  level : Nat
  units : Nat
  data : List Line
  deriving DecidableEq, Repr

/-- A wavelength move in progress: 0 transmit or 1 receive, the failing wavelength, whether the spare is locked, the boundary LSEQ. -/
structure WaveMove where
  dir : Nat
  wave : Nat
  locked : Bool
  boundary : Nat
  deriving DecidableEq, Repr

/-- One port (Tables 12.10 and 12.11 and what stands behind them). -/
structure Port where
  state : PortState
  lastStatus : Status
  txSpare : Nat
  rxSpare : Nat
  /-- Wavelengths that carry the codeword interleave, per direction. -/
  txWaves : Nat
  rxWaves : Nat
  version : Nat
  strict : Bool
  modeLimited : Bool
  locked : Bool
  sent : Option Hello
  got : Option Hello
  peerSerial : Nat
  peerPort : Nat
  peerVersions : Nat
  peerFw : Nat
  /-- Identity and state before a retrain (R325). -/
  before : Option (Nat × Nat)
  weights : Nat
  dropTx : Nat
  dropNoKey : Nat
  authFail : Nat
  retries : Nat
  retrains : Nat
  swaps : Nat
  fecUe : Nat
  replayCnt : Nat
  txBytes : Nat
  rxBytes : Nat
  txQ : List OutUnit
  replay : List Replay
  txLseq : Nat
  rxLseq : Nat
  nak : Bool
  /-- Credits held per VC, in 64 B units, as spent from 1,024; and credits owed to the peer (R329). -/
  spent : Store Nat
  owed : Store Nat
  entries : Store (Option PkidEntry)
  inMsgs : List InMsg
  held : List HeldFrame
  ctrlTx : Nat
  ctrlRx : Nat
  /-- Entries into RETRAIN in the present second (R325). -/
  inSecond : Nat
  move : List WaveMove
  /-- The command that waits for a training to end: function, queue, sequence. -/
  asker : Option (Nat × Nat × Nat)
  deriving DecidableEq, Repr

/-- Registers of a port at the start of phase 4 (R315, R342). -/
def Port.reset : Port where
  state := .off
  lastStatus := .done
  txSpare := 4
  rxSpare := 4
  txWaves := 0b01111
  rxWaves := 0b01111
  version := 0
  strict := false
  modeLimited := false
  locked := false
  sent := none
  got := none
  peerSerial := 0
  peerPort := 0
  peerVersions := 0
  peerFw := 0
  before := none
  weights := 0x10100810042004
  dropTx := 0
  dropNoKey := 0
  authFail := 0
  retries := 0
  retrains := 0
  swaps := 0
  fecUe := 0
  replayCnt := 0
  txBytes := 0
  rxBytes := 0
  txQ := []
  replay := []
  txLseq := 0
  rxLseq := 0
  nak := false
  spent := []
  owed := []
  entries := []
  inMsgs := []
  held := []
  ctrlTx := 0
  ctrlRx := 0
  inSecond := 0
  move := []
  asker := none

/-- All ports, the map and LNK_GCFG (Table 12.12). -/
structure Links where
  ports : Store Port
  map : Store MapEntry
  swapSer : Nat
  swapUe : Nat
  retrainLimit : Nat
  retryLimit : Nat
  retrainWindow : Nat
  trainTimeout : Nat
  deriving DecidableEq, Repr

def Links.reset : Links := ⟨[], [], 5, 16, 3, 8, 100, 10000⟩

def Links.port (l : Links) (k : Nat) : Port := Store.get .reset l.ports k

def Links.setPort (l : Links) (k : Nat) (p : Port) : Links := { l with ports := Store.set .reset l.ports k p }

/-- Wavelengths in a mask. -/
def waveCount (m : Nat) : Nat := ((List.range 5).filter fun i => bit m i).length

/-- DEGRADED (R317). -/
def Port.degraded (p : Port) : Bool := decide (waveCount p.txWaves < 4) || decide (waveCount p.rxWaves < 4)

def Port.entry (p : Port) (pkid : Nat) : Option PkidEntry := Store.get none p.entries pkid

def Port.setEntry (p : Port) (pkid : Nat) (e : Option PkidEntry) : Port := { p with entries := Store.set none p.entries pkid e }

/-- Partitions bound to the port. -/
def Port.parts (p : Port) : List Nat := p.entries.filterMap fun e => e.2.map PkidEntry.part

/-- LNK_STATUS (Table 12.10). -/
def Port.statusWord (p : Port) : Nat :=
  p.state.code + p.version <<< 4 + b2n p.strict <<< 6 + b2n p.degraded <<< 7 + p.txSpare <<< 8 + p.rxSpare <<< 11 + p.lastStatus.code <<< 16 +
  (List.range 16).foldl (fun acc i => acc + b2n (p.entry (i + 1)).isSome <<< (24 + i)) 0 + b2n p.modeLimited <<< 40

/-- LNK_PEERINFO (Table 12.10). -/
def Port.peerInfo (p : Port) : Nat := p.peerPort + p.peerVersions <<< 8 + p.peerFw <<< 16

/-! ### Re-key of an entry (R332) -/

/-- Context of a LINK derivation (R330). -/
def linkContext (a b : Nat) : List Byte := natBytes (min a b) 8 ++ natBytes (max a b) 8

/-- The slot that a new binding to the same peer shares: the newest. -/
def PkidEntry.newest (e : PkidEntry) : Nat := match e.next with
  | some (n, _) => if e.flipped ∨ n = 0 then e.slot else n
  | none => e.slot

/-- A new LINK slot stands beside the present one. -/
def PkidEntry.install (e : PkidEntry) (slot : Nat) : PkidEntry :=
  let ready := match e.next with
    | some (_, r) => r && !e.flipped
    | none => false
  { e with next := some (slot, ready), flipped := false, rxNext := 0 }

/-- The peer's KEY_READY has come. -/
def PkidEntry.peerReady (e : PkidEntry) : PkidEntry := match e.next with
  | some (n, _) => if e.flipped then e else { e with next := some (n, true) }
  | none => { e with next := some (0, true) }

/-- This end goes over to the new slot: SEQ from 1, and KG inverted on links that mark generations. -/
def PkidEntry.flip (e : PkidEntry) (marks : Bool) : PkidEntry := match e.next with
  | some (n, r) => if e.flipped ∨ n = 0 then e
    else { e with slot := n, kg := if marks then 1 - e.kg else e.kg, next := some (e.slot, r), flipped := true, txSeq := 0, rxSeq := e.rxNext, rxNext := e.rxSeq }
  | none => e

/-- An entry goes over when both ends are ready on a 2.0 link, and once its frames are acknowledged on an older one. -/
def Port.rekeyEntry (p : Port) (id : Nat) (e : PkidEntry) : PkidEntry :=
  if p.version = 3 then (match e.next with
    | some (_, true) => e.flip true
    | _ => e)
  else if p.replay.any fun r => decide (r.pkid = id) then e else e.flip false

/-- Every entry that may go over does. -/
def Port.rekeyAll (p : Port) : Port :=
  if p.state ≠ .up then p
  else { p with entries := p.entries.map fun (x : Nat × Option PkidEntry) => (x.1, x.2.map fun e => p.rekeyEntry x.1 e) }

/-- On a 1.0 or 1.1 link the frames of an entry are held until it has gone over. -/
def Port.holds (p : Port) (id : Nat) : Bool := decide (p.version ≠ 3) && match p.entry id with
  | some e => !e.flipped && (match e.next with
    | some (n, _) => decide (n ≠ 0)
    | none => false)
  | none => false

/-! ### Frames (R327 to R331) -/

/-- CRC-64 of ECMA-182 over bytes, most significant bit first. -/
def crc64 (bs : List Byte) : Nat :=
  bs.foldl (fun acc b => (List.range 8).foldl (fun a i =>
    let top := bit a 63 != bit b.toNat (7 - i)
    let sh := (2 * a) % 2 ^ 64
    if top then sh ^^^ 0x42F0E1EBA9EA3693 else sh) acc) 0

/-- An outer header (Table 12.6). -/
structure Outer where
  type : Nat
  vc : Nat
  pkid : Nat
  len : Nat
  pmap : Bool
  kg : Nat
  lseq : Nat
  ackseq : Nat
  nak : Bool
  crvc : Nat
  credits : Nat
  seq : Nat
  deriving DecidableEq, Repr

def Outer.word (o : Outer) : Nat :=
  o.type % 16 + (o.vc % 8) <<< 4 + (o.pkid % 32) <<< 7 + (o.len % 64) <<< 12 + b2n o.pmap <<< 18 + (o.kg % 2) <<< 19 + (o.lseq % 16384) <<< 20 +
  (o.ackseq % 16384) <<< 34 + b2n o.nak <<< 48 + (o.crvc % 8) <<< 49 + (o.credits % 4096) <<< 52 + (o.seq % 2 ^ 64) <<< 64

def Outer.ofWord (v : Nat) : Outer :=
  ⟨bits v 0 4, bits v 4 3, bits v 7 5, bits v 12 6, bit v 18, bits v 19 1, bits v 20 14, bits v 34 14, bit v 48, bits v 49 3, bits v 52 12, bits v 64 64⟩

/-- Nonce of a DATA frame (R331). -/
def frameNonce (k : Nat) (lower : Bool) (seq : Nat) : Nat := k <<< 90 + b2n lower <<< 89 + seq

/-- Poison map of data units: 2 B per unit, filled to 16 B for 8 units (Table 12.5). -/
def poisonMap (data : List Line) : List Byte :=
  let one := fun (l : Line) => natBytes ((List.range 16).foldl (fun acc i => acc + b2n ((l.getD i .zero).poison) <<< i) 0) 2
  let bs := (data.map one).flatten
  bs ++ List.replicate (16 * ceilDiv data.length 8 - bs.length) 0

/-- Plain body of a frame: inner header, data, poison map (Table 12.5). -/
def bodyBytes (u : OutUnit) : List Byte :=
  let pm := u.data.any fun l => l.any TWord.poison
  natBytes u.inner.word 16 ++ (u.data.map fun l => wordsBytes (l.map TWord.bits)).flatten ++ (if pm then poisonMap u.data else [])

/-- Seal a frame (R327, R331). -/
def sealFrame (key : BitVec 256) (nonce : Nat) (o : Outer) (body : List Byte) : List Byte :=
  let aad := natBytes o.word 16
  let c := gcmSealed key nonce aad body
  let part := aad ++ c ++ natBytes (Config.gcmTag key nonce aad c).toNat 16
  part ++ natBytes (crc64 part) 8

/-- An IDLE frame: outer header and CRC (Table 12.5). -/
def idleFrame (o : Outer) : List Byte :=
  let aad := natBytes o.word 16
  aad ++ natBytes (crc64 aad) 8

/-- The CRC of a received frame holds. -/
def crcOk (bs : List Byte) : Bool :=
  decide (24 ≤ bs.length) && decide (crc64 (bs.take (bs.length - 8)) = field bs (bs.length - 8) 8)

/-- Ciphertext and tag of a received frame. -/
def frameCipher (bs : List Byte) : List Byte := (bs.take (bs.length - 24)).drop 16
def frameTag (bs : List Byte) : BitVec 128 := BitVec.ofNat 128 (field bs (bs.length - 24) 16)

/-- Data units of an opened body, with poison from the map. -/
def bodyData (o : Outer) (body : List Byte) : List Line :=
  (List.range o.len).map fun u => (List.range 16).map fun i =>
    ⟨BitVec.ofNat 32 (field body (16 + 64 * u + 4 * i) 4), o.pmap && bit (field body (16 + 64 * o.len + 2 * u) 2) i⟩

/-- Forward distance between two LSEQ values modulo 16,384. -/
def lseqDist (a b : Nat) : Nat := (b + 16384 - a) % 16384

/-- An ACKSEQ covers replay entries up to it (R328). -/
def Port.acked (p : Port) (ack : Nat) : Port :=
  { p with replay := p.replay.filter fun r => decide (lseqDist ack r.lseq ≠ 0 ∧ lseqDist ack r.lseq < 8192) }

/-- Credits held for a VC (R329): 64 KiB of 64 B units less what is spent. -/
def Port.credits (p : Port) (vc : Nat) : Nat := 1024 - Store.get 0 p.spent vc

/-- The peer returns credits for a VC. -/
def Port.gain (p : Port) (vc n : Nat) : Port := { p with spent := Store.upd 0 p.spent vc (· - n) }

/-- A NAK: every frame after ACKSEQ goes out again byte for byte (R328). -/
def Port.resend (p : Port) : Port :=
  { p with replay := p.replay.map (fun r => { r with times := r.times + 1 })
           retries := satAdd 16 p.retries p.replay.length
           txBytes := (p.txBytes + (p.replay.map fun r => r.bytes.length).foldl (· + ·) 0) % 2 ^ 64 }

/-- Take what a received header says about the other direction: acknowledgement, NAK, credits. -/
def Port.hearHeader (p : Port) (o : Outer) : Port :=
  let p1 := (p.acked o.ackseq).gain o.crvc o.credits
  if o.nak then p1.resend else p1

/-- A frame has been sent RETRY_LIMIT times without acknowledgement (R328). -/
def Port.retryOut (p : Port) (limit : Nat) : Bool := p.replay.any fun r => decide (limit ≤ r.times)

/-- VC order allows this VC to send now (R336): VC0 strict; under STRICT also VC1, VC2, VC3. -/
def Port.mayServe (p : Port) (vc : Nat) : Bool :=
  let ready := fun v => p.txQ.any fun u => decide (u.vc = v) && !p.holds u.pkid
  if vc = 0 then true
  else !ready 0 && (!p.strict || (List.range 4).all fun v => decide (v = 0) || decide (vc ≤ v) || !ready v)

/-- STRICT applies when a bound partition asks for it, on a 2.0 link; on a lower version MODE_LIMITED is set (R336). -/
def Port.arbitrate (p : Port) : Port :=
  let wants := p.entries.any fun e => match e.2 with
    | some x => decide (x.mode = 2) || (decide (x.mode = 0) && decide (256 ≤ x.jobModules))
    | none => false
  { p with strict := wants && decide (p.version = 3), modeLimited := wants && decide (p.version ≠ 3) }

/-- The first waiting unit that a test picks, and the others. -/
def takeUnit (f : OutUnit → Bool) : List OutUnit → Option (OutUnit × List OutUnit)
  | [] => none
  | u :: rest => if f u then some (u, rest) else (takeUnit f rest).map fun r => (r.1, u :: r.2)

/-- Frame bytes of a body with a header, tag and CRC. -/
def frameBytes (u : OutUnit) : Nat := (bodyBytes u).length + 40

/-- Units of 64 B a frame spends (R329). -/
def frameUnits (n : Nat) : Nat := ceilDiv n 64

/-- Data units per frame of a version (Table 12.3). -/
def versionUnits (v : Nat) : Nat := if v ≤ 1 then 16 else 32

/-- Frames of the port's bound partitions that are discarded: DROP_TX counts them (R325, R340). -/
def Port.discard (p : Port) (which : Nat → Bool) : Port :=
  let q := p.txQ.filter fun u => !(decide (u.pkid ≠ 0) && which u.pkid)
  let r := p.replay.filter fun x => !(decide (x.pkid ≠ 0) && which x.pkid)
  { p with txQ := q, replay := r, dropTx := satAdd 16 p.dropTx (p.txQ.length - q.length + (p.replay.length - r.length)) }

/-- TRAIN of an OFF or FAILED port (R319, R325). -/
def Port.train (p : Port) : Port :=
  { p with state := .training, locked := false, sent := none, got := none, before := none }

/-- Into RETRAIN (R325): counted; more than the limit within 1 s is FAILED. -/
def Port.enterRetrain (p : Port) (limit : Nat) : Port :=
  let n := p.inSecond + 1
  let p1 := { p with retrains := satAdd 8 p.retrains 1, inSecond := n, locked := false, sent := none, got := none }
  if limit < n then { p1.discard (fun _ => true) with state := .failed }
  else { p1 with state := .retrain, before := some (p.peerSerial, p.peerPort) }

/-- The highest version set in both bitmaps: 1, 2 or 3, none 0 (R321). -/
def pickVersion (a b : Nat) : Nat := if bit (a &&& b) 2 then 3 else if bit (a &&& b) 1 then 2 else if bit (a &&& b) 0 then 1 else 0

/-- Steps 5 and 6 of R319 with an authenticated peer; in RETRAIN the results of R325. -/
def Port.settle (p : Port) (map : Store MapEntry) (ownSerial k : Nat) (h : Hello) : Port :=
  let v := pickVersion 7 h.versions
  let ok := mapMatches map ownSerial k h.serial h.port
  let re := decide (p.state = .retrain)
  let p1 := { p with peerSerial := h.serial, peerPort := h.port, peerVersions := h.versions, peerFw := h.fwVersion, version := v, ctrlTx := 0, ctrlRx := 0 }
  if v = 0 then
    if re then { p1.discard (fun _ => true) with state := .failed, lastStatus := .versionUnsupported }
    else { p1 with state := .versionHeld, lastStatus := .versionUnsupported }
  else if !ok then { p1.discard (fun _ => re) with state := .miswired, lastStatus := .miswired, before := none }
  else if re && decide (p.before ≠ some (h.serial, h.port)) && !p.parts.isEmpty then
    { p1.discard (fun _ => true) with state := .miswired, lastStatus := .miswired, before := none }
  else if re then { p1.resend with state := .up, lastStatus := .done, before := none }
  else { p1 with state := .up, lastStatus := .done }

end Sys2Proof.Machine
end

