-- ==== Sys2Proof/Machine/Coll.lean ====
section
/-! DEFINITION. Collectives (chapter 13): descriptors, rank and group tables, rings and trees, chunk headers, wire formats, instances, integrity and the fence exchange. -/

namespace Sys2Proof.Machine

/-- A collective descriptor (Table 13.3). -/
structure ColDesc where
  op : Nat
  red : Nat
  srcFmt : Nat
  dstFmt : Nat
  l2Fmt : Nat
  sat : Bool
  statEn : Bool
  srcSc : Bool
  dstSc : Bool
  group : Nat
  lidx : Nat
  glid : Nat
  count : Nat
  root : Nat
  srcSpace : Nat
  srcAddr : Nat
  dstSpace : Nat
  dstAddr : Nat
  srcScOff : Nat
  dstScOff : Nat
  statOff : Nat
  reserved : Bool
  deriving DecidableEq, Repr

def ColDesc.ofBits (v : Nat) : ColDesc :=
  ⟨bits v 0 8, bits v 8 2, bits v 12 4, bits v 16 4, bits v 20 4, bit v 24, bit v 25, bit v 26, bit v 27, bits v 32 10, bits v 44 8, bits v 52 12,
   bits v 64 32, bits v 96 32, bits v 128 3, bits v 144 48, bits v 192 3, bits v 208 48, bits v 256 22, bits v 288 22, bits v 320 22,
   decide (bits v 10 2 ≠ 0 ∨ bits v 28 4 ≠ 0 ∨ bits v 42 2 ≠ 0 ∨ bits v 131 13 ≠ 0 ∨ bits v 195 13 ≠ 0 ∨ bits v 278 10 ≠ 0 ∨ bits v 310 10 ≠ 0 ∨
     bits v 342 170 ≠ 0 ∨ bits v 256 2 ≠ 0 ∨ bits v 288 2 ≠ 0 ∨ bits v 320 3 ≠ 0)⟩

/-- OP values (Table 13.2). -/
abbrev opAllReduce : Nat := 1
abbrev opReduceScatter : Nat := 2
abbrev opAllGather : Nat := 3
abbrev opBroadcast : Nat := 4
abbrev opAllToAll : Nat := 5
abbrev opBarrier : Nat := 6

def ColDesc.reduces (d : ColDesc) : Bool := decide (d.op = opAllReduce ∨ d.op = opReduceScatter)

/-- Formats a reduction may read or write (R349). -/
def reduceFmt (c : Nat) : Bool := decide (c ≤ 4)

/-- Format rules of R349. -/
def ColDesc.formatsOk (d : ColDesc) : Bool :=
  if d.reduces then
    reduceFmt d.srcFmt && reduceFmt d.dstFmt && decide (d.l2Fmt = 0 ∨ d.l2Fmt = 1 ∨ d.l2Fmt = 3 ∨ d.l2Fmt = 4) && decide (d.red ≠ 3)
  else if d.op = opBarrier then
    decide (d.count = 0 ∧ d.red = 0 ∧ d.srcFmt = 0 ∧ d.dstFmt = 0 ∧ d.l2Fmt = 0 ∧ d.srcAddr = 0 ∧ d.srcSpace = 0 ∧ d.dstAddr = 0 ∧ d.dstSpace = 0) && !d.srcSc && !d.dstSc
  else decide (d.srcFmt ≤ 5 ∧ d.dstFmt = d.srcFmt ∧ d.l2Fmt = 0 ∧ d.red = 0) && !d.srcSc && !d.dstSc

/-- Element format of a code that passed its check. -/
def fmtOf (c : Nat) : Fmt := (Fmt.ofCode c).getD .fp32

/-- Bytes of one block of COUNT elements (R349). -/
def blockLen (c count : Nat) : Nat := 4 * ceilDiv count (fmtOf c).perWord

/-- A group (Table 13.1) and its GROUP_DIGEST (R346). -/
structure Group where
  group : Nat
  loc : Nat
  ranks : List Nat
  digest : Nat
  deriving DecidableEq, Repr

/-- First 64 bits of SHAKE256 over bytes (R346, R358, R364). -/
def digest64 (bs : List Byte) : Nat := (Config.shake256 bs).toNat % 2 ^ 64

/-- Read the groups of a table, and whether each entry is well formed (Table 13.1). -/
def readGroups : Nat → List Byte → Option (List (List Byte))
  | 0, _ => none
  | _ + 1, [] => some []
  | n + 1, bs =>
    let len := 8 + 2 * field bs 4 2
    if bs.length < 8 ∨ bs.length < len then none
    else (readGroups n (bs.drop len)).map fun r => bs.take len :: r

def groupOf (e : List Byte) : Group :=
  ⟨field e 0 2, field e 2 1, (List.range (field e 4 2)).map fun i => field e (8 + 2 * i) 2, digest64 e⟩

/-- Strictly ascending. -/
def ascending : List Nat → Bool
  | a :: b :: t => decide (a < b) && ascending (b :: t)
  | _ => true

/-- Table 13.1's rules for one entry. -/
def groupOk (e : List Byte) (ranks self : Nat) : Bool :=
  let g := groupOf e
  decide (g.group < 1024) && decide (1 ≤ g.loc ∧ g.loc ≤ 144) && zeroBytes e 3 1 && zeroBytes e 6 2 &&
  decide (1 ≤ g.ranks.length ∧ g.ranks.length ≤ 16384) && ascending g.ranks && g.ranks.all (fun r => decide (r < ranks)) && g.ranks.contains self

/-- A whole group table (R346); none when any entry breaks the rules. -/
def groupTable (bs : List Byte) (ranks self : Nat) : Option (List Group) :=
  match readGroups (bs.length + 1) bs with
  | none => none
  | some es =>
    let gs := es.map groupOf
    if es.length ≤ 1024 ∧ es.all (fun e => groupOk e ranks self) ∧ (gs.map Group.group).Nodup then some gs else none

/-- Position of a value in a list. -/
def indexIn (xs : List Nat) (x : Nat) : Nat := (xs.findIdx? fun y => decide (y = x)).getD 0

/-- Ranks by pod, pods in the order of their lowest rank, ranks ascending (R354). -/
def podsOf (pod : Nat → Nat) (ranks : List Nat) : List (List Nat) :=
  ((ranks.map pod).foldl (fun (acc : List Nat) p => if acc.contains p then acc else acc ++ [p]) []).map fun p =>
    ranks.filter fun r => decide (pod r = p)

/-- The pods of a collective: hierarchical when they hold equally many members, else one flat ring (R354). -/
def ringsOf (pod : Nat → Nat) (ranks : List Nat) : List (List Nat) × Bool :=
  let ps := podsOf pod ranks
  let m := (ps.headD []).length
  if ps.all fun p => decide (p.length = m) then (ps, false) else ([ranks], true)

/-- Where this module stands: pod, position, pods G, members per pod M. -/
structure Geo where
  pods : List (List Nat)
  g : Nat
  j : Nat
  deriving DecidableEq, Repr

def Geo.of (pods : List (List Nat)) (self : Nat) : Geo :=
  let g := (pods.findIdx? fun p => p.contains self).getD 0
  ⟨pods, g, indexIn (pods.getD g []) self⟩

def Geo.pN (x : Geo) : Nat := x.pods.length
def Geo.mN (x : Geo) : Nat := (x.pods.headD []).length

/-- Rank at a pod and position. -/
def Geo.rank (x : Geo) (g j : Nat) : Nat := (x.pods.getD (g % x.pods.length) []).getD (j % (x.pods.headD []).length) 0

def Geo.succ (x : Geo) : Nat := x.rank x.g (x.j + 1)
def Geo.nextPod (x : Geo) : Nat := x.rank (x.g + 1) x.j

/-- Pod and position of a rank. -/
def Geo.find (x : Geo) (r : Nat) : Nat × Nat :=
  let g := (x.pods.findIdx? fun p => p.contains r).getD 0
  (g, indexIn (x.pods.getD g []) r)

/-! ### Wire formats (R356) -/

/-- The chunk scale of an FP8 hop: 2^k with the largest finite magnitude a ≤ F × 2^k, -126 ≤ k ≤ 127; 1.0 when a = 0. -/
def chunkScale (f : Fmt) (vals : List Num) : Int :=
  let top := decodeElem f f.maxCode
  let fits := fun (k : Int) => vals.all fun v => match v with
    | .fin _ m e => (Num.fin false m e).le (match top with
      | .fin _ tm te => .fin false tm (te + k)
      | x => x)
    | _ => true
  if vals.all fun v => match v with
    | .fin _ m _ => decide (m = 0)
    | _ => true
  then 0
  else ((List.range 254).map fun (i : Nat) => ((i : Int) - 126)).find? fits |>.getD 127

/-- Pack encoded elements into words with tags (R68, R79). -/
def packElems (f : Fmt) (cs : List (Nat × Bool)) : List TWord :=
  (List.range (ceilDiv cs.length f.perWord)).map fun w =>
    let part := (cs.drop (w * f.perWord)).take f.perWord
    let v := (List.range part.length).foldl (fun acc i => setElem f acc i (part.getD i (0, false)).1) (0 : Word)
    ⟨v, part.any Prod.snd⟩

/-- Values as they go to an L2 hop in a format, with CSCALE (R356). -/
def toWire (l2 : Nat) (vals : List Num) : F (List TWord × Word) := do
  match l2 with
  | 0 =>
    let cs ← vals.mapM fun v => encodeElem .fp32 false v
    pure (packElems .fp32 cs, 0x3F800000)
  | 1 =>
    let cs ← vals.mapM fun v => encodeElem .bf16 false v
    pure (packElems .bf16 cs, 0x3F800000)
  | c =>
    let f := fmtOf c
    let k := chunkScale f vals
    let cs ← vals.mapM fun v => encodeElem f true (match v with
      | .fin s m e => .fin s m (e - k)
      | x => x)
    pure (packElems f cs, pow2Word k)

/-- Element i of packed words as a value; a poisoned word reads as NaN. -/
def wireElem (f : Fmt) (ws : List TWord) (i : Nat) : Num :=
  let w := ws.getD (i / f.perWord) .zero
  if w.poison then .nan else decodeElem f (elemOf f w.bits (i % f.perWord))

/-- Values received in a format under CSCALE, exactly, in FP32 (R356). -/
def fromWire (c : Nat) (cscale : Word) (ws : List TWord) (n : Nat) : F (List Num) :=
  let sc := decodeElem .fp32 cscale.toNat
  (List.range n).mapM fun i => do round32 (← mulX (wireElem (fmtOf c) ws i) sc)

/-- One reduction step of an adder (R90): the incoming partial with the member's own. -/
def reduceVal (red : Nat) (x y : Num) : F Num :=
  if red = 1 then pure (x.max y) else if red = 2 then pure (x.min y) else fadd x y

def reduceVals (red : Nat) (xs ys : List Num) : F (List Num) :=
  (List.range ys.length).mapM fun i => reduceVal red (xs.getD i .zero) (ys.getD i .zero)

/-! ### Chunk header (Table 13.5, R357, R358) -/

/-- A chunk header. -/
structure ChunkHeader where
  op : Nat
  nonfin : Bool
  last : Bool
  cp : Bool
  level : Nat
  fmt : Nat
  group : Nat
  rank : Nat
  seq : Nat
  chunk : Nat
  digest : Nat
  stats : Nat
  label : Nat
  cscale : Nat
  units : Nat
  deriving DecidableEq, Repr

def ChunkHeader.flags (h : ChunkHeader) : Nat := b2n h.nonfin + b2n h.last <<< 1 + b2n h.cp <<< 2 + (h.level % 4) <<< 3

/-- Bytes 0x00 to 0x2B. -/
def ChunkHeader.front (h : ChunkHeader) : List Byte :=
  natBytes 1 1 ++ natBytes h.op 1 ++ natBytes h.flags 1 ++ natBytes h.fmt 1 ++ natBytes h.group 2 ++ natBytes h.rank 2 ++ natBytes h.seq 4 ++
  natBytes h.chunk 4 ++ natBytes h.digest 8 ++ natBytes h.stats 8 ++ natBytes h.label 4 ++ natBytes h.cscale 4 ++ natBytes h.units 4

/-- Bytes 0x00 to 0x37: with HCRC. -/
def ChunkHeader.opening (h : ChunkHeader) : List Byte := h.front ++ natBytes (crc64 h.front) 4 ++ List.replicate 8 0

def ChunkHeader.ofBytes (b : List Byte) : ChunkHeader :=
  let fl := field b 2 1
  ⟨field b 1 1, bit fl 0, bit fl 1, bit fl 2, bits fl 3 2, field b 3 1, field b 4 2, field b 6 2, field b 8 4, field b 0xC 4, field b 0x10 8,
   field b 0x18 8, field b 0x20 4, field b 0x24 4, field b 0x28 4⟩

/-- HCRC holds (R357). -/
def headerOk (b : List Byte) : Bool := decide (field b 0 1 = 1) && decide (crc64 (b.take 0x2C) % 2 ^ 32 = field b 0x2C 4)

/-- DIGEST (R358): the descriptor's first two words with LIDX 0, GROUP_DIGEST, SEQ and CP. -/
def instDigest (desc groupDigest seq : Nat) (cp : Bool) : Nat :=
  digest64 (natBytes (setBits (bits desc 0 64) 44 8 0) 8 ++ natBytes (bits desc 64 64) 8 ++ natBytes groupDigest 8 ++ natBytes seq 4 ++ natBytes (b2n cp) 1)

/-! ### Instances -/

/-- A contributor that has entered (R352, R359). -/
structure Entered where
  lidx : Nat
  tile : Nat
  recIdx : Nat
  bitsOf : Nat
  digest : Nat
  deriving DecidableEq, Repr

def Entered.desc (e : Entered) : ColDesc := .ofBits e.bitsOf

/-- A chunk's data as it lies on this module or as it came from a peer. -/
structure ChunkData where
  level : Nat
  origin : Nat
  chunk : Nat
  fmt : Nat
  cscale : Word
  words : List TWord
  nonfin : Bool
  stats : Nat
  label : Nat
  deriving DecidableEq, Repr

/-- One chunk of an instance on this module: the stage it has reached and the partial it holds. -/
structure ChunkSt where
  stage : Nat
  data : ChunkData
  deriving DecidableEq, Repr

/-- A chunk being received: its header, whether its opening part passed, and payload so far (R357). -/
structure Incoming where
  port : Nat
  /-- Bits [127:79] of the inner headers of its frames. -/
  ext : Nat
  header : ChunkHeader
  /-- Bytes 0x00 to 0x37 as they came. -/
  front : List Byte
  ok : Bool
  units : List Line
  deriving DecidableEq, Repr

/-- A mismatch in progress (R360). -/
structure Mismatch where
  own : Nat
  suspectRank : Nat
  suspectLidx : Nat
  suspectDigest : Nat
  censusSent : Bool
  /-- Answers gathered by the lowest rank: rank, digest, LIDX (0xFF when remote). -/
  census : List (Nat × Nat × Nat)
  deriving DecidableEq, Repr

/-- A message of a header-only tree (R364): rank, word. -/
structure TreeSt where
  up : List (Nat × Nat)
  sent : Bool
  result : Option Nat
  deriving DecidableEq, Repr

def TreeSt.start : TreeSt := ⟨[], false, none⟩

/-- A control-plane command taking part in an instance (Table 13.4): its fields, and the command answered. -/
structure CpCall where
  op : Nat
  root : Nat
  len : Nat
  src : Nat
  dst : Nat
  fn : Nat
  sq : Nat
  seqNo : Nat
  deriving DecidableEq, Repr

/-- An instance in flight on this module. -/
structure Inst where
  group : Nat
  seq : Nat
  cp : Bool
  entered : List Entered
  /-- Control plane: the command's fields; bytes, source and destination of this module. -/
  ctrl : Option CpCall
  /-- Bytes that this module contributes to a control-plane instance. -/
  bytes : List Byte
  chunks : List ChunkSt
  inbox : List ChunkData
  tree : TreeSt
  stats : Nat
  nonfin : Bool
  label : Nat
  mismatch : Option Mismatch
  /-- The delivered statistics word is posted and written (R358). -/
  posted : Bool
  ending : Option Status
  deriving DecidableEq, Repr

/-- A frame of KIND COLLECTIVE delivered and not yet taken (R333, R357). -/
structure ColFrame where
  port : Nat
  ext : Nat
  vc : Nat
  data : List Line
  deriving DecidableEq, Repr

/-- The fence exchange of a partition (R156, R364): words are NONFIN, TAINT, FAULT, MISMATCH in bits 0 to 3 and the step digest above. -/
structure FenceX where
  /-- The step the headers are for. -/
  sent : Bool
  up : List (Nat × Nat)
  result : Option Nat
  deriving DecidableEq, Repr

def FenceX.none : FenceX := ⟨false, [], Option.none⟩

/-- Collective state of one partition (R345 to R347, R367). -/
structure CollPart where
  ranks : Nat
  self : Nat
  /-- SERIAL and POD of each rank. -/
  table : Store (Nat × Nat)
  groups : List Group
  pendingGroups : Option (List Group)
  /-- SEQ counts: 256 group + LIDX; control-plane counts by group. -/
  seqs : Store Nat
  cpSeqs : Store Nat
  insts : List Inst
  frames : List ColFrame
  incoming : List Incoming
  lastStatus : Status
  cpLast : Status
  flatSeen : Bool
  aborted : Bool
  faultRx : Bool
  nonfin : Bool
  taint : Bool
  crcFail : Nat
  hdrFail : Nat
  lostUnits : Nat
  errSeq : Nat
  errGroup : Nat
  errRank : Nat
  errLidx : Nat
  errCount : Nat
  own : Nat
  majority : Nat
  fence : FenceX
  deriving DecidableEq, Repr

def CollPart.reset : CollPart where
  ranks := 0
  self := 0
  table := []
  groups := []
  pendingGroups := none
  seqs := []
  cpSeqs := []
  insts := []
  frames := []
  incoming := []
  lastStatus := .done
  cpLast := .done
  flatSeen := false
  aborted := false
  faultRx := false
  nonfin := false
  taint := false
  crcFail := 0
  hdrFail := 0
  lostUnits := 0
  errSeq := 0
  errGroup := 0
  errRank := 0
  errLidx := 0xFF
  errCount := 0
  own := 0
  majority := 0
  fence := .none

/-- Engines and partitions. -/
structure Coll where
  flags : Store Flags
  parts : Store CollPart
  deriving DecidableEq, Repr

def Coll.reset : Coll := ⟨[], []⟩

def Coll.part (c : Coll) (p : Nat) : CollPart := Store.get .reset c.parts p
def Coll.setPart (c : Coll) (p : Nat) (x : CollPart) : Coll := { c with parts := Store.set .reset c.parts p x }
def Coll.updPart (c : Coll) (p : Nat) (f : CollPart → CollPart) : Coll := c.setPart p (f (c.part p))

/-- Numeric flags of the engine of a field (R367). -/
def Coll.raiseFlags (c : Coll) (engine : Nat) (f : Flags) : Coll := { c with flags := Store.set 0 c.flags engine (Store.get 0 c.flags engine ||| f) }

def CollPart.pod (c : CollPart) (r : Nat) : Nat := (Store.get (0, 0) c.table r).2
def CollPart.serial (c : CollPart) (r : Nat) : Nat := (Store.get (0, 0) c.table r).1
def CollPart.group (c : CollPart) (g : Nat) : Option Group := c.groups.find? fun x => decide (x.group = g)

def CollPart.inst (c : CollPart) (group seq : Nat) (cp : Bool) : Option Inst :=
  c.insts.find? fun i => decide (i.group = group ∧ i.seq = seq ∧ i.cp = cp)

def CollPart.setInst (c : CollPart) (i : Inst) : CollPart :=
  { c with insts := c.insts.map fun x => if x.group = i.group ∧ x.seq = i.seq ∧ x.cp = i.cp then i else x }

def CollPart.dropInst (c : CollPart) (i : Inst) : CollPart :=
  { c with insts := c.insts.filter fun x => !decide (x.group = i.group ∧ x.seq = i.seq ∧ x.cp = i.cp) }

def CollPart.updInst (c : CollPart) (group seq : Nat) (cp : Bool) (f : Inst → Inst) : CollPart :=
  match c.inst group seq cp with
  | none => c
  | some i => c.setInst (f i)

/-- Rings of a group on this module. -/
def CollPart.geo (c : CollPart) (g : Group) : Geo := .of (ringsOf c.pod g.ranks).1 c.self

def Inst.start (group seq : Nat) (cp : Bool) : Inst where
  group := group
  seq := seq
  cp := cp
  entered := []
  ctrl := none
  bytes := []
  chunks := []
  inbox := []
  tree := .start
  stats := neutralStats 0xFFF
  nonfin := false
  label := 0
  mismatch := none
  posted := false
  ending := none

/-- The chunk (origin, c) of an instance, at stage 0 when nothing of it has run. -/
def Inst.chunk (i : Inst) (origin c : Nat) : ChunkSt :=
  (i.chunks.find? fun x => decide (x.data.origin = origin ∧ x.data.chunk = c)).getD
    ⟨0, ⟨0, origin, c, 0, 0x3F800000, [], false, neutralStats 0xFFF, 0⟩⟩

def Inst.setChunk (i : Inst) (x : ChunkSt) : Inst :=
  { i with chunks := x :: i.chunks.filter fun y => !decide (y.data.origin = x.data.origin ∧ y.data.chunk = x.data.chunk) }

/-- Data of a chunk that came over a level, and the inbox without it. -/
def Inst.take (i : Inst) (level origin c : Nat) : Option (ChunkData × Inst) :=
  (i.inbox.find? fun d => decide (d.level = level ∧ d.origin = origin ∧ d.chunk = c)).map fun d => (d, { i with inbox := i.inbox.erase d })

/-- A chunk that this engine sends: rank, level, data. -/
structure ColSend where
  rank : Nat
  data : ChunkData
  deriving DecidableEq, Repr

/-- What one advance of a chunk did. -/
structure Moved where
  inst : Inst
  sends : List ColSend
  /-- The chunk's data goes to the local destinations. -/
  write : Option ChunkData
  flags : Flags
  deriving DecidableEq, Repr

/-- Values as a chunk in FP32. -/
def ChunkData.withVals (d : ChunkData) (vals : List Num) : ChunkData :=
  { d with fmt := 0, cscale := 0x3F800000, words := vals.map fun v => ⟨word32 v, decide (v = .nan)⟩, nonfin := d.nonfin || vals.any Num.nonFinite }

def ChunkData.vals (d : ChunkData) (n : Nat) : F (List Num) := fromWire d.fmt d.cscale d.words n

/-- The chunk as an L2 hop carries it (R356). -/
def ChunkData.l2 (d : ChunkData) (l2 n : Nat) : F ChunkData := do
  let vs ← d.vals n
  let (ws, sc) ← toWire l2 vs
  pure { d with level := 2, fmt := l2, cscale := sc, words := ws, nonfin := d.nonfin || vs.any Num.nonFinite }

/-- Two chunks' header fields joined (R358, R365). -/
def ChunkData.join (a b : ChunkData) : ChunkData :=
  { a with nonfin := a.nonfin || b.nonfin, stats := combineStats a.stats b.stats, label := a.label ||| b.label }

/-- The incoming partial of a level added to this module's (R354, R356). -/
def addIncoming (red n : Nat) (x own : ChunkData) : F ChunkData := do
  let a ← x.vals n
  let b ← own.vals n
  let s ← reduceVals red a b
  pure ((own.join x).withVals s)

/-- Stages of a reduced chunk: 0 L1 reduce, 1 L2 reduce at the owner, 2 waiting for the L2 total, 3 the owner has the total, 4 waiting for the L1 total, 5 done. `own` is the module partial; jo and f are the owner's position and pod (R354). -/
def Inst.reduceStep (i : Inst) (x : Geo) (red l2 n jo f : Nat) (gather : Bool) (origin c : Nat) (own : ChunkData) : F (Option Moved) := do
  let st := i.chunk origin c
  let done := fun (i : Inst) (stage : Nat) (d : ChunkData) (sends : List ColSend) (w : Option ChunkData) =>
    some (⟨i.setChunk ⟨stage, d⟩, sends, w, 0⟩ : Moved)
  match st.stage with
  | 0 =>
    let starts := decide (x.mN = 1) || decide (x.j = (jo + 1) % x.mN)
    match (if starts then some (none, i) else (i.take 1 origin c).map fun t => (some t.1, t.2)) with
    | none => pure none
    | some (inc, i1) =>
      let d ← match inc with
        | none => pure own
        | some y => addIncoming red n y own
      if x.j = jo then pure (done i1 1 d [] none)
      else pure (done i1 (if gather then 4 else 5) d [⟨x.succ, { d with level := 1 }⟩] none)
  | 1 =>
    if x.pN = 1 then pure (done i 3 st.data [] none)
    else
      match (if x.g = (f + 1) % x.pN then some (none, i) else (i.take 2 origin c).map fun t => (some t.1, t.2)) with
      | none => pure none
      | some (inc, i1) =>
        let d ← match inc with
          | none => pure st.data
          | some y => addIncoming red n y st.data
        if x.g = f then
          let out ← d.l2 l2 n
          pure (done i1 3 d (if gather then [⟨x.nextPod, out⟩] else []) none)
        else
          let out ← d.l2 l2 n
          pure (done i1 (if gather then 2 else 5) d [⟨x.nextPod, out⟩] none)
  | 2 =>
    match i.take 2 origin c with
    | none => pure none
    | some (y, i1) =>
      let vs ← y.vals n
      let d := (st.data.join y).withVals vs
      pure (done i1 3 d (if (x.g + 1) % x.pN = f then [] else [⟨x.nextPod, y⟩]) none)
  | 3 => pure (done i 5 st.data (if gather && decide (1 < x.mN) then [⟨x.succ, { st.data with level := 1 }⟩] else []) (some st.data))
  | 4 =>
    match i.take 1 origin c with
    | none => pure none
    | some (y, i1) =>
      let d := (st.data.join y)
      let d1 := { d with words := y.words, fmt := y.fmt, cscale := y.cscale }
      pure (done i1 5 d1 (if (x.j + 1) % x.mN = jo then [] else [⟨x.succ, { d1 with level := 1 }⟩]) (some d1))
  | _ => pure none

/-- A chunk passed on unchanged from the member at (g0, j0): along its L2 ring, then along each pod ring (ALL_GATHER, BROADCAST; R354). -/
def Inst.passStep (i : Inst) (x : Geo) (g0 j0 origin c : Nat) (own : ChunkData) : Option Moved :=
  let st := i.chunk origin c
  if st.stage ≠ 0 then none
  else
    let l1 := fun (d : ChunkData) => if 1 < x.mN then [(⟨x.succ, { d with level := 1 }⟩ : ColSend)] else []
    if x.g = g0 ∧ x.j = j0 then
      some ⟨i.setChunk ⟨5, own⟩, (if 1 < x.pN then [⟨x.nextPod, { own with level := 2 }⟩] else []) ++ l1 own, some own, 0⟩
    else if x.j = j0 then
      (i.take 2 origin c).map fun t =>
        ⟨t.2.setChunk ⟨5, t.1⟩, (if (x.g + 1) % x.pN = g0 then [] else [⟨x.nextPod, t.1⟩]) ++ l1 t.1, some t.1, 0⟩
    else
      (i.take 1 origin c).map fun t =>
        ⟨t.2.setChunk ⟨5, t.1⟩, if (x.j + 1) % x.mN = j0 then [] else [⟨x.succ, t.1⟩], some t.1, 0⟩

/-! ### Trees (R364) -/

/-- The parent of a rank: the lowest of its pod, and of those the lowest of all. -/
def treeParent (pod : Nat → Nat) (ranks : List Nat) (r : Nat) : Option Nat :=
  let low := ((podsOf pod ranks).find? fun p => p.contains r).bind List.head?
  match low, ranks.head? with
  | some l, some top => if r = top then none else if r = l then some top else some l
  | _, _ => none

/-- The ranks whose messages a rank waits for. -/
def treeChildren (pod : Nat → Nat) (ranks : List Nat) (r : Nat) : List Nat :=
  ranks.filter fun q => decide (treeParent pod ranks q = some r)

/-- Every child has been heard. -/
def TreeSt.ready (t : TreeSt) (pod : Nat → Nat) (ranks : List Nat) (self : Nat) : Bool :=
  (treeChildren pod ranks self).all fun c => t.up.any fun u => decide (u.1 = c)

/-- Fence words joined (R364): flags ORed, MISMATCH when digests differ. -/
def joinFence (a b : Nat) : Nat := (bits a 0 4 ||| bits b 0 4 ||| (if a / 16 = b / 16 then 0 else 8)) + (a / 16) * 16

/-- Digest of a step number (R364). -/
def stepDigest (step : Nat) : Nat := digest64 (natBytes step 8)

/-! ### Outcome of a census (R360) -/

/-- The majority digest, ties to the numerically lower. -/
def majority (ds : List Nat) : Nat :=
  ds.foldl (fun best d =>
    let n := fun x => (ds.filter (· = x)).length
    if n best < n d ∨ (n best = n d ∧ d < best) then d else best) (ds.headD 0)

/-- Offenders: members that differ or did not answer, ascending rank, each with its LIDX (R360 step 3). -/
def offenders (ranks : List Nat) (census : List (Nat × Nat × Nat)) (maj : Nat) : List (Nat × Nat) :=
  ranks.filterMap fun r => match census.find? fun c => decide (c.1 = r) with
    | none => some (r, 0xFF)
    | some (_, d, l) => if d = maj then none else some (r, l)

/-- COL_PSTATUS, COL_INTEG and COL_ERR (Tables 13.8 and 13.9). -/
def CollPart.statusWord (c : CollPart) : Nat :=
  b2n c.taint + b2n c.nonfin <<< 1 + b2n c.faultRx <<< 2 + b2n c.aborted <<< 3 + b2n c.flatSeen <<< 4 + c.cpLast.code <<< 16 +
  c.lastStatus.code <<< 24 + (c.insts.filter fun i => !i.cp).length <<< 32

def CollPart.integWord (c : CollPart) : Nat := c.lostUnits <<< 16 + c.hdrFail <<< 32 + c.crcFail <<< 48

def CollPart.errWord (c : CollPart) : Nat := c.errCount + c.errLidx <<< 14 + c.errRank <<< 22 + c.errGroup <<< 38 + c.errSeq <<< 48

end Sys2Proof.Machine
end

