-- ==== Sys2Proof/Machine/Stream.lean ====
section
/-! DEFINITION. The stream table and its level queues (chapter 7): entries, rings, packets with parity, header and CRC, lock requests, grants, credits, landings, flushes and freezes. -/

namespace Sys2Proof.Machine

/-- STATE of a stream-table entry (Table 7.1). -/
inductive EntryState where
  | free | bound | frozen | error
  deriving DecidableEq, Repr

def EntryState.code : EntryState → Nat
  | .free => 0 | .bound => 1 | .frozen => 2 | .error => 3

/-- A stream-table entry (Table 7.1). -/
structure SEntry where
  kind : Nat
  level : Nat
  state : EntryState
  part : Nat
  consumer : Nat
  ringBase : Nat
  ringSize : Nat
  head : Nat
  tail : Nat
  lockOwner : Nat
  lockValid : Bool
  lockRemain : Nat
  msgCnt : Nat
  parityCnt : Nat
  stream : Nat
  deriving DecidableEq, Repr

def SEntry.free : SEntry := ⟨0, 0, .free, 0, 0, 0, 0, 0, 0, 0, false, 0, 0, 0, 0⟩

/-- Stream kinds (Table 2.10). -/
abbrev kindLocal : Nat := 0
abbrev kindLinkIn : Nat := 1
abbrev kindLinkOut : Nat := 2

/-- Slots of a ring (Table 7.2). -/
def SEntry.slots (e : SEntry) : Nat := 64 * 2 ^ e.ringSize

def SEntry.empty (e : SEntry) : Bool := decide (e.head = e.tail)

/-- Packets in the ring: pointers count modulo twice the slots (Table 7.1). -/
def SEntry.held (e : SEntry) : Nat := (e.tail + 2 * e.slots - e.head) % (2 * e.slots)

def SEntry.freeSlots (e : SEntry) : Nat := e.slots - e.held

/-- The 128 bits of an entry (Table 7.1). -/
def SEntry.word (e : SEntry) : Nat :=
  e.kind + e.level <<< 2 + e.state.code <<< 5 + e.part <<< 8 + e.consumer <<< 16 + e.ringBase <<< 24 + e.ringSize <<< 34 + e.head <<< 40 +
  e.tail <<< 53 + e.lockOwner <<< 66 + b2n e.lockValid <<< 74 + e.lockRemain <<< 75 + e.msgCnt <<< 90 + e.parityCnt <<< 104 + e.stream <<< 112

/-- A packet: 16 words with tags, a parity bit each, and its header (R183, R184); the label of its message, carried by the lock request (R301). -/
structure Packet where
  words : List TWord
  parity : Nat
  first : Bool
  last : Bool
  len : Nat
  label : Nat
  deriving DecidableEq, Repr

def Packet.none : Packet := ⟨[], 0, false, false, 0, 0⟩

/-- Even parity over the 32 data bits (R183). -/
def parityOf (w : Word) : Bool := decide (((List.range 32).filter fun i => bit w.toNat i).length % 2 = 1)

def parityBits (ws : List TWord) : Nat := (List.range ws.length).foldl (fun acc i => acc + b2n (parityOf ((ws.getD i .zero).bits)) <<< i) 0

/-- CRC-16 with x^16 + x^12 + x^5 + 1 over bits, first bit first (R184). -/
def crc16 (bs : List Bool) : Nat :=
  bs.foldl (fun c b =>
    let top := bit c 15 != b
    let sh := (2 * c) % 65536
    if top then sh ^^^ 0x1021 else sh) 0

/-- A lock request (R185, R186): entry, producer endpoint, packets and label of its message. -/
structure LockReq where
  entry : Nat
  producer : Nat
  packets : Nat
  label : Nat
  deriving DecidableEq, Repr

/-- A packet in flight to a level queue. -/
structure Flight where
  entry : Nat
  producer : Nat
  packet : Packet
  deriving DecidableEq, Repr

/-- What a packet meets on its way and in the ring: header errors (0 none, 1 corrected, 2 uncorrectable), bits flipped in the words and parity bits before landing, bits flipped in the ring. -/
structure Landing where
  header : Nat
  flip : List Word
  parityFlip : Nat
  ringFlip : List Word
  deriving DecidableEq, Repr

def Landing.clean : Landing := ⟨0, [], 0, []⟩

/-- All of chapter 7's module state. -/
structure Streams where
  entries : Store SEntry
  /-- Slots of level queue e: 65,536 e + slot. -/
  rings : Store Packet
  /-- Lock requests on the mesh, and those waiting at their consumers in order of arrival. -/
  asking : List LockReq
  waiting : List LockReq
  /-- Grants on their way: entry, producer, credits. -/
  grants : List (Nat × Nat × Nat)
  flights : List Flight
  /-- Credits on their way to producers (192 entry + endpoint), and flush notices. -/
  credits : Store Nat
  notices : List (Nat × Nat)
  /-- Level queues of whose present lock holder the later packets are discarded (R193). -/
  dropping : List Nat
  sel : Nat
  data0 : Nat
  data1 : Nat
  corrected : Nat
  fatal : Bool
  fatalIndex : Nat
  /-- Flush commands held until the next boundary: partition, scope, index. -/
  held : List (Nat × Nat × Nat)
  /-- Level queues on which a commanded flush has yet to act. -/
  due : List Nat
  deriving DecidableEq, Repr

/-- Table 7.9; every entry FREE. -/
def Streams.reset : Streams := ⟨[], [], [], [], [], [], [], [], [], 0, 0, 0, 0, false, 0, [], []⟩

def Streams.entry (q : Streams) (i : Nat) : SEntry := Store.get .free q.entries i

def Streams.setEntry (q : Streams) (i : Nat) (e : SEntry) : Streams := { q with entries := Store.set .free q.entries i e }

def Streams.updEntry (q : Streams) (i : Nat) (f : SEntry → SEntry) : Streams := q.setEntry i (f (q.entry i))

/-- Level queues of a partition's stream, most urgent first. -/
def Streams.levels (q : Streams) (part stream : Nat) : List Nat :=
  ((List.range 8).reverse.map fun l => (q.entries.filter fun e =>
    decide (e.2.state ≠ .free ∧ e.2.part = part ∧ e.2.stream = stream ∧ e.2.level = l)).map Prod.fst).flatten

/-- The level queue of a partition's stream at a level. -/
def Streams.find (q : Streams) (part stream level : Nat) : Option Nat :=
  (q.entries.find? fun e => decide (e.2.state ≠ .free ∧ e.2.part = part ∧ e.2.stream = stream ∧ e.2.level = level)).map Prod.fst

/-- Level queues that a test picks. -/
def Streams.queues (q : Streams) (f : SEntry → Bool) : List Nat :=
  (q.entries.filter fun e => decide (e.2.state ≠ .free) && f e.2).map Prod.fst

def ringKey (entry pos : Nat) : Nat := 65536 * entry + pos

def Streams.slot (q : Streams) (i pos : Nat) : Packet := Store.get .none q.rings (ringKey i (pos % (q.entry i).slots))

/-- The packet at the head of a level queue, when one has landed (R188). -/
def Streams.head (q : Streams) (i : Nat) : Option Packet :=
  if (q.entry i).empty then none else some (q.slot i (q.entry i).head)

/-- Head-read tag (Table 7.3). -/
def Streams.headTag (q : Streams) (i : Nat) : Nat :=
  match q.head i with
  | none => 0
  | some p => 1 + b2n p.first <<< 1 + b2n p.last <<< 2 + (q.entry i).level <<< 3 +
      (List.range 16).foldl (fun acc k => acc + b2n (p.words.getD k .zero).poison <<< (8 + k)) 0 + (if p.first then p.len else 0) <<< 24

/-- A lock request that may be granted: the first of its queue, when the lock is free and the queue is BOUND (R185, R186). -/
def Streams.grantable (q : Streams) (i : Nat) : Option LockReq :=
  let e := q.entry i
  if e.lockValid || decide (e.state ≠ .bound) || q.dropping.contains i then none else q.waiting.find? fun r => decide (r.entry = i)

/-- Grant the next waiting request of a queue, if it may be (R185 step 2). -/
def Streams.grant (q : Streams) (i : Nat) : Streams :=
  match q.grantable i with
  | none => q
  | some r =>
    let e := q.entry i
    { q.setEntry i { e with lockOwner := r.producer, lockValid := true, lockRemain := r.packets } with
      waiting := q.waiting.erase r, grants := q.grants ++ [(i, r.producer, e.freeSlots)] }

def creditKey (entry producer : Nat) : Nat := 192 * entry + producer

/-- A credit of a level queue goes back to its producer. -/
def Streams.credit (q : Streams) (entry producer n : Nat) : Streams := { q with credits := Store.upd 0 q.credits (creditKey entry producer) (· + n) }

/-- The lock of a queue after rem packets are left of its message; a cleared lock has no credits on the way and drops nothing more. -/
def Streams.lockLeft (q : Streams) (i rem : Nat) : Streams :=
  let e := q.entry i
  let q1 := q.setEntry i { e with lockRemain := rem, lockValid := decide (rem ≠ 0) }
  if rem = 0 then
    { q1 with credits := Store.set 0 q1.credits (creditKey i e.lockOwner) 0, dropping := q1.dropping.filter (fun x => decide (x ≠ i)) }
  else q1

/-- The packet as it lands: flips applied, CRC judged (R184). -/
def landed (p : Packet) (l : Landing) : Packet × Bool :=
  let xor := fun (ws : List TWord) (f : List Word) => (List.range ws.length).map fun i =>
    let w := ws.getD i .zero
    (⟨w.bits ^^^ f.getD i 0, w.poison⟩ : TWord)
  let delta := (((List.range 16).map fun i => (List.range 32).map fun b => bit (l.flip.getD i 0).toNat b).flatten) ++ (List.range 16).map (bit l.parityFlip)
  let bad := decide (crc16 delta ≠ 0)
  let ws := xor p.words l.flip
  let ws1 := if bad then ws.map fun w => ⟨w.bits, true⟩ else ws
  ({ p with words := xor ws1 l.ringFlip, parity := p.parity ^^^ (l.parityFlip % 65536) }, bad)

/-- A packet enters the ring at TAIL (R185 steps 3 to 5). -/
def Streams.push (q : Streams) (i : Nat) (p : Packet) : Streams :=
  let e := q.entry i
  let e1 := { e with tail := (e.tail + 1) % (2 * e.slots), msgCnt := if p.first then e.msgCnt + 1 else e.msgCnt }
  ({ q.setEntry i e1 with rings := Store.set .none q.rings (ringKey i (e.tail % e.slots)) p }).lockLeft i (e.lockRemain - 1)

/-- A packet discarded as it lands under a flush: the lock counts it and the credit goes straight back (R193). -/
def Streams.discardLanding (q : Streams) (i producer : Nat) : Streams := (q.credit i producer 1).lockLeft i ((q.entry i).lockRemain - 1)

/-- The head packet leaves the ring; its words with parity checked (R183), and how many failed. -/
def Streams.pop (q : Streams) (i : Nat) : Streams × Packet × Nat :=
  let e := q.entry i
  let p := q.slot i e.head
  let bad := fun k => decide (parityOf (p.words.getD k .zero).bits ≠ bit p.parity k)
  let n := ((List.range p.words.length).filter bad).length
  let ws := (List.range p.words.length).map fun k =>
    let w := p.words.getD k .zero
    (⟨w.bits, w.poison || bad k⟩ : TWord)
  let e1 := { e with head := (e.head + 1) % (2 * e.slots), msgCnt := if p.last then e.msgCnt - 1 else e.msgCnt, parityCnt := satAdd 8 e.parityCnt n }
  let q1 := { q.setEntry i e1 with rings := Store.set .none q.rings (ringKey i (e.head % e.slots)) .none }
  (if e.lockValid then q1.credit i e.lockOwner 1 else q1, { p with words := ws }, n)

/-- Empty the rings of a level queue (R193). -/
def Streams.emptyRing (q : Streams) (i : Nat) : Streams := { q with rings := Store.clear q.rings (ringKey i 0) 65536 }

/-- What a flush of level queue i does to the table (R193): HEAD = TAIL, MSG_CNT 0; a lock holder's later packets are discarded and it is told. Also the packets dropped. -/
def Streams.flush (q : Streams) (i : Nat) : Streams × Nat :=
  let e := q.entry i
  let n := e.held
  let q1 := (q.emptyRing i).setEntry i { e with head := e.tail, msgCnt := 0 }
  let q2 := if e.lockValid then
      { q1 with dropping := if q1.dropping.contains i then q1.dropping else i :: q1.dropping, notices := q1.notices ++ [(i, e.lockOwner)] }
    else q1
  (q2, n)

/-- Every level queue of a partition FROZEN (R195). -/
def Streams.freeze (q : Streams) (part : Nat) : Streams :=
  { q with entries := q.entries.map fun e => if e.2.state = .bound ∧ e.2.part = part then (e.1, { e.2 with state := .frozen }) else e }

/-- Every level queue of a partition FREE again, with nothing of it left (R310 action 6, image replacement). -/
def Streams.release (q : Streams) (part : Nat) : Streams :=
  let mine := q.queues fun e => decide (e.part = part)
  { q with entries := q.entries.filter (fun e => !mine.contains e.1)
           rings := q.rings.filter (fun e => !mine.contains (e.1 / 65536))
           asking := q.asking.filter (fun r => !mine.contains r.entry)
           waiting := q.waiting.filter (fun r => !mine.contains r.entry)
           grants := q.grants.filter (fun g => !mine.contains g.1)
           flights := q.flights.filter (fun f => !mine.contains f.entry)
           notices := q.notices.filter (fun n => !mine.contains n.1)
           dropping := q.dropping.filter (fun i => !mine.contains i)
           due := q.due.filter (fun i => !mine.contains i)
           credits := q.credits.filter (fun c => !mine.contains (c.1 / 192))
           held := q.held.filter (fun h => decide (h.1 ≠ part)) }

/-- QUE_ST_ERR (Table 7.9). -/
def Streams.errWord (q : Streams) : Nat := q.fatalIndex + b2n q.fatal <<< 18 + q.corrected <<< 32

/-- REQ_PENDING of an endpoint (Table 7.6). -/
def Streams.reqPending (q : Streams) (endpoint : Nat) : Nat :=
  (q.waiting.filter fun r => decide ((q.entry r.entry).consumer = endpoint)).length

end Sys2Proof.Machine
end

