-- ==== Sys2Proof/Machine/Resil.lean ====
section
/-! DEFINITION. Failure, snapshot and restore (chapter 14): the fault record, tile maps, snapshot records with their digest tree, manifest and schedule record, the areas, the checkpoint flash and its directory, and pairing. -/

namespace Sys2Proof.Machine

/-! ### The fault record (R368, R369) -/

/-- A fault record entry (Table 14.1). -/
structure FaultEntry where
  time : Nat
  cls : Nat
  source : Nat
  unit : Nat
  status : Status
  part : Nat
  step : Nat
  detail : Nat
  deriving DecidableEq, Repr

/-- Classes of Table 14.2. -/
abbrev clsCorrected : Nat := 0
abbrev clsDegraded : Nat := 1
abbrev clsStep : Nat := 2
abbrev clsTile : Nat := 3
abbrev clsData : Nat := 4
abbrev clsLink : Nat := 5
abbrev clsModule : Nat := 6

/-- Sources of Table 14.1. -/
abbrev srcTil : Nat := 1
abbrev srcMxe : Nat := 2
abbrev srcVec : Nat := 3
abbrev srcQue : Nat := 4
abbrev srcDma : Nat := 5
abbrev srcMpr : Nat := 6
abbrev srcSec : Nat := 7
abbrev srcLnk : Nat := 8
abbrev srcCol : Nat := 9
abbrev srcRes : Nat := 10
abbrev srcFwm : Nat := 11
abbrev srcPwr : Nat := 12
abbrev srcClk : Nat := 13
abbrev srcHif : Nat := 14

/-- PARTITION of an entry that belongs to none. -/
abbrev noPart : Nat := 0xFF

/-- The 32 bytes of an entry (Table 14.1). -/
def FaultEntry.bytes (e : FaultEntry) : List Byte :=
  natBytes e.time 8 ++ natBytes e.cls 1 ++ natBytes e.source 1 ++ natBytes e.unit 2 ++ natBytes e.status.code 1 ++ natBytes e.part 1 ++ [0, 0] ++
  natBytes e.step 8 ++ natBytes e.detail 8

/-- The entry as a tenant sees it (R308, R368). -/
def FaultEntry.coarse (e : FaultEntry) : FaultEntry := { e with time := e.time / 1000000 * 1000000 }

/-- A ring of entries, newest first: entries, the index of the next entry, entries overwritten. -/
structure FaultRing where
  entries : List FaultEntry
  head : Nat
  lost : Nat
  maxClass : Nat
  deriving DecidableEq, Repr

def FaultRing.empty : FaultRing := ⟨[], 0, 0, 0⟩

/-- Write an entry into a ring of n (R368). -/
def FaultRing.push (r : FaultRing) (n : Nat) (e : FaultEntry) : FaultRing :=
  ⟨(e :: r.entries).take n, (r.head + 1) % n, if n ≤ r.entries.length then satAdd 8 r.lost 1 else r.lost, max r.maxClass e.cls⟩

/-- Entry at an index of a ring of n. -/
def FaultRing.at_ (r : FaultRing) (n i : Nat) : Option FaultEntry := r.entries[(r.head + n - 1 - i % n) % n]?

/-- RES_FAULT_STATUS (Table 14.8). -/
def FaultRing.statusWord (r : FaultRing) : Nat := r.head + r.lost <<< 16 + r.maxClass <<< 24 + r.entries.length <<< 32

/-! ### Registers of the fault record, tile maps and pairing (Tables 14.8 and 14.10) -/

/-- Fault record, tile maps, quads and pairing. -/
structure Resil where
  ring : FaultRing
  early : FaultRing
  /-- Last 16 entries of class MODULE, in AON, newest first. -/
  aonModule : List FaultEntry
  sel : Nat
  /-- The four DATA registers as sampled. -/
  sampled : List Byte
  /-- Bit 52 f + nn: in service; failed. -/
  inService : Nat
  failed : Nat
  /-- The four tiles of each quad (R24). -/
  quads : List (List Nat)
  twin : Nat
  deriving DecidableEq, Repr

def Resil.reset : Resil := ⟨.empty, .empty, [], 0, [], 0, 0, [], 0⟩

/-- Entries of the fault ring and of the early buffer. -/
abbrev ringEntries : Nat := 256
abbrev earlyEntries : Nat := 32

/-- One entry written (R368): to the ring once phase 3 is complete, before that to the early buffer. -/
def Resil.write (r : Resil) (ringReady : Bool) (e : FaultEntry) : Resil :=
  let r1 := if e.cls = clsModule then { r with aonModule := (e :: r.aonModule).take 16 } else r
  if ringReady then { r1 with ring := r1.ring.push ringEntries e } else { r1 with early := r1.early.push earlyEntries e }

/-- Phase 3 completes: the early entries move into the ring, oldest first, and the early buffer is emptied (R368). -/
def Resil.moveEarly (r : Resil) : Resil :=
  { r with ring := r.early.entries.reverse.foldl (fun (a : FaultRing) e => a.push ringEntries e) r.ring, early := .empty }

/-- The ring that the registers show. -/
def Resil.shown (r : Resil) (ringReady : Bool) : FaultRing := if ringReady then r.ring else r.early

/-- Bytes of the selected entry; an index that no entry was written at reads as 0. -/
def Resil.selected (r : Resil) (ringReady : Bool) : List Byte :=
  match (r.shown ringReady).at_ (if ringReady then ringEntries else earlyEntries) r.sel with
  | some e => e.bytes
  | none => List.replicate 32 0

/-- RES_TILE_MAP f and RES_TILE_FAIL f. -/
def Resil.mapWord (r : Resil) (f : Nat) : Nat := bits r.inService (52 * f) 52
def Resil.failWord (r : Resil) (f : Nat) : Nat := bits r.failed (52 * f) 52

/-- Phase 4: the 48 lowest passing tiles of a field are in service (R36, R373). -/
def servingTiles (failed : Nat) (f : Nat) : List Nat :=
  ((List.range 52).filter fun n => !bit failed (52 * f + n)).take 48 |>.map fun n => 52 * f + n

/-- A field has fewer than 48 passing tiles (R36). -/
def fieldsShort (failed : Nat) : Bool := (List.range 3).any fun f => decide ((servingTiles failed f).length < 48)

/-- Maps and quads of phase 4 (R24, R373). -/
def Resil.phase4 (r : Resil) (failed : Nat) : Resil :=
  let ts := (List.range 3).map (servingTiles failed)
  { r with failed := failed, inService := (ts.flatten).foldl (fun acc t => acc + 1 <<< t) 0,
           quads := (ts.map fun l => (List.range 12).map fun q => (l.drop (4 * q)).take 4).flatten }

/-- The lowest spare of a field (R373, R374). -/
def Resil.spare (r : Resil) (f : Nat) : Option Nat :=
  ((List.range 52).map fun n => 52 * f + n).find? fun t => !bit r.inService t && !bit r.failed t

/-- Tile t out, tile u into its quad (R374). -/
def Resil.swapTile (r : Resil) (t u : Nat) : Resil :=
  { r with inService := setBits (setBits r.inService t 1 0) u 1 1, quads := r.quads.map fun q => q.map fun x => if x = t then u else x }

/-! ### Snapshot records (R381 to R383) -/

/-- A record header (Table 14.5). -/
structure SnapHeader where
  kind : Nat
  session : Nat
  serial : Nat
  epoch : Nat
  nonce : Nat
  index : Nat
  len : Nat
  deriving DecidableEq, Repr

/-- "SVSN". -/
abbrev snapMagic : Nat := 0x4E535653

def SnapHeader.bytes (h : SnapHeader) : List Byte :=
  natBytes snapMagic 4 ++ natBytes 1 1 ++ natBytes h.kind 1 ++ [0, 0] ++ natBytes h.session 16 ++ natBytes h.serial 8 ++ natBytes h.epoch 8 ++
  natBytes h.nonce 8 ++ natBytes h.index 4 ++ natBytes h.len 4 ++ List.replicate 8 0

/-- KIND values and the INDEX of the last two records. -/
abbrev snapState : Nat := 1
abbrev snapSchedule : Nat := 2
abbrev snapManifest : Nat := 3
abbrev schedIndex : Nat := 0xFFFFFFFE
abbrev manifestIndex : Nat := 0xFFFFFFFF

/-- Bytes of one state record. -/
abbrev stateRecordBytes : Nat := 67108864

/-- The 96-bit nonce: SNAP_NONCE then INDEX (R382). -/
def SnapHeader.iv (h : SnapHeader) : Nat := h.nonce + h.index <<< 64

/-- A sealed record: header, encrypted payload, tag line (R381, R382). -/
def sealRecord (key : BitVec 256) (h : SnapHeader) (payload : List Byte) : List Byte :=
  let c := gcmSealed key h.iv h.bytes payload
  h.bytes ++ c ++ natBytes (Config.gcmTag key h.iv h.bytes c).toNat 16 ++ List.replicate 48 0

/-- Length of a record whose header stands in these bytes: 128 more than LENGTH. -/
def recordLen (bs : List Byte) : Nat := field bs 0x34 4 + 128

/-- Fields of a header as read. -/
def SnapHeader.ofBytes (bs : List Byte) : SnapHeader :=
  ⟨field bs 5 1, field bs 8 16, field bs 0x18 8, field bs 0x20 8, field bs 0x28 8, field bs 0x30 4, field bs 0x34 4⟩

/-- Open a record against the header that its reader expects (R382, R393). -/
def openRecord (key : BitVec 256) (h : SnapHeader) (bs : List Byte) : Status × List Byte :=
  if bs.take 64 ≠ h.bytes then (.digestMismatch, [])
  else
    let c := (bs.drop 64).take h.len
    if natBytes (Config.gcmTag key h.iv h.bytes c).toNat 16 ≠ (bs.drop (64 + h.len)).take 16 then (.tagFail, [])
    else (.done, gcmOpened key h.iv h.bytes c)

/-- A leaf of the digest tree (R383). -/
def snapLeaf (record : List Byte) : BitVec 256 := Config.shake256 (0 :: record)

/-- A node over up to 8 children (R383). -/
def snapNode (children : List (BitVec 256)) : BitVec 256 :=
  Config.shake256 (1 :: (children.map fun (d : BitVec 256) => natBytes d.toNat 32).flatten)

/-- Groups of 8. -/
def eights {α : Type} (l : List α) : List (List α) := (List.range (ceilDiv l.length 8)).map fun i => (l.drop (8 * i)).take 8

/-- ROOT: levels until one node remains (R383). -/
def snapRoot : Nat → List (BitVec 256) → BitVec 256
  | 0, l => snapNode l
  | n + 1, l =>
    let up := (eights l).map snapNode
    if up.length ≤ 1 then snapNode l else snapRoot n up

def rootOf (records : List (List Byte)) : BitVec 256 := snapRoot 16 (records.map snapLeaf)

/-- Zeros to a multiple of 64 B. -/
def padLines (bs : List Byte) : List Byte := bs ++ List.replicate ((64 - bs.length % 64) % 64) 0

/-- The manifest payload (Table 14.6). -/
structure Manifest where
  program : BitVec 256
  size : Nat
  count : Nat
  root : BitVec 256
  ranges : List (Nat × Nat)
  deriving DecidableEq, Repr

def Manifest.bytes (m : Manifest) : List Byte :=
  padLines (natBytes m.program.toNat 32 ++ natBytes m.size 8 ++ natBytes m.count 4 ++ natBytes m.ranges.length 4 ++ natBytes m.root.toNat 32 ++
    List.replicate 48 0 ++ (m.ranges.map fun r => natBytes r.1 8 ++ natBytes r.2 8).flatten)

def Manifest.ofBytes (bs : List Byte) : Manifest :=
  ⟨BitVec.ofNat 256 (field bs 0 32), field bs 0x20 8, field bs 0x28 4, BitVec.ofNat 256 (field bs 0x30 32),
   (List.range (field bs 0x2C 4)).map fun i => (field bs (0x80 + 16 * i) 8, field bs (0x88 + 16 * i) 8)⟩

/-- Ranges of the state stream in ascending address: committed and SNAP (R376). -/
def snapRanges (l : Layout) : List (Nat × Nat) := sortBy Prod.fst (l.committed ++ l.snap)

/-- S (R376). -/
def snapSize (l : Layout) : Nat := (snapRanges l).foldl (fun acc r => acc + r.2) 0

/-- C (R381). -/
def snapCount (l : Layout) : Nat := ceilDiv (snapSize l) stateRecordBytes

/-- Payload bytes of the i-th state record, a multiple of 64 (R381). -/
def statePayload (stream : List Byte) (i : Nat) : List Byte := padLines ((stream.drop (i * stateRecordBytes)).take stateRecordBytes)

/-! ### The schedule record (Table 14.4) -/

/-- A paused system-channel program: its memory, PC, loop counters, tokens and binding. -/
structure PausedProg where
  words : List Word
  pc : Nat
  iters : List Nat
  toks : Nat
  binding : Nat
  deriving DecidableEq, Repr

/-- A schedule record's content. -/
structure Sched where
  step : StepState
  lossPolicy : Nat
  gfmtPolicy : Nat
  retry : Nat
  entries : List Nat
  slots : List (List TWord)
  tilePcs : List Nat
  programs : List PausedProg
  pageLabels : List Nat
  tileLabels : List Nat
  owners : List (Nat × Nat)
  seed : Nat
  deriving DecidableEq, Repr

/-- A format table entry in 16 bits: format code, hold count, candidate exponent. -/
def FmtEntry.word (e : FmtEntry) : Nat := e.code + (e.hold % 16) <<< 4 + ((e.cand % 256).toNat) <<< 8

def FmtEntry.ofWord (v : Nat) : FmtEntry :=
  ⟨if bits v 0 4 = 4 then 2 else if bits v 0 4 = 2 then 1 else 0, bits v 4 4, signed 8 (bits v 8 8)⟩

/-- Step state packed and padded to 8,256 B (Table 14.4). -/
def StepState.bytes (s : StepState) : List Byte :=
  natBytes s.stepNum 8 ++ natBytes s.optStep 8 ++ natBytes s.live 1 ++ natBytes (s.lsExp % 256).toNat 1 ++ natBytes s.growth 4 ++
  natBytes s.vetoRun 1 ++ natBytes s.taintRun 1 ++
  ((List.range 4095).map fun g => natBytes (Store.get FmtEntry.load s.fmts g).word 2).flatten ++
  List.replicate (8256 - (24 + 4095 * 2)) 0

/-- The step state that a record restores: LIVE_SEL = 0 (R393 step 4). -/
def StepState.ofBytes (bs : List Byte) : StepState :=
  { StepState.reset with
    stepNum := field bs 0 8, optStep := field bs 8 8, live := 0, lsExp := signed 8 (field bs 17 1), growth := field bs 18 4, vetoRun := field bs 22 1,
    taintRun := field bs 23 1,
    fmts := (List.range 4095).foldl (fun (m : Store FmtEntry) g => Store.set .load m g (.ofWord (field bs (24 + 2 * g) 2))) [] }

def slotBytes (ws : List TWord) : List Byte :=
  wordsBytes ((List.range 16).map fun i => (ws.getD i .zero).bits) ++
  natBytes ((List.range 16).foldl (fun acc i => acc + b2n (ws.getD i .zero).poison <<< i) 0) 2

def slotOfBytes (bs : List Byte) : List TWord :=
  (List.range 16).map fun i => ⟨BitVec.ofNat 32 (field bs (4 * i) 4), bit (field bs 64 2) i⟩

/-- 33,024 B of a paused program: memory, then PC, loop counters, tokens and binding. -/
def PausedProg.bytes (p : PausedProg) : List Byte :=
  wordsBytes ((List.range 8192).map fun i => p.words.getD i 0) ++ natBytes p.pc 4 ++ ((List.range 3).map fun i => natBytes (p.iters.getD i 0) 4).flatten ++
  natBytes p.toks 8 ++ natBytes p.binding 8 ++ List.replicate (256 - 32) 0

def PausedProg.ofBytes (bs : List Byte) : PausedProg :=
  ⟨(List.range 8192).map fun i => BitVec.ofNat 32 (field bs (4 * i) 4), field bs 32768 4, (List.range 3).map fun i => field bs (32772 + 4 * i) 4,
   field bs 32784 8, field bs 32792 8⟩

def Sched.bytes (s : Sched) : List Byte :=
  padLines (s.step.bytes ++
    (natBytes s.lossPolicy 8 ++ natBytes s.gfmtPolicy 8 ++ natBytes s.retry 8 ++ List.replicate 40 0) ++
    (s.entries.map fun e => natBytes e 16).flatten ++ (s.slots.map slotBytes).flatten ++ (s.tilePcs.map fun p => natBytes p 4).flatten ++
    (s.programs.map PausedProg.bytes).flatten ++ (s.pageLabels.map fun l => natBytes l 4).flatten ++ (s.tileLabels.map fun l => natBytes l 4).flatten ++
    (s.owners.map fun o => natBytes o.1 8 ++ natBytes o.2 8).flatten ++ natBytes s.seed 8)

/-- Slots that an entry's saved pointers leave occupied (Table 7.1). -/
def heldOf (kind : Nat) (w : Nat) : Nat :=
  if kind = kindLinkIn then
    let n := 64 * 2 ^ bits w 34 4
    (bits w 53 13 + 2 * n - bits w 40 13) % (2 * n)
  else 0

/-- Read a schedule record: quota entries, logical tiles, 2 MiB pages and owners are the reader's own. -/
def Sched.ofBytes (bs : List Byte) (quota ltiles pages owners : Nat) : Sched :=
  let entries := (List.range quota).map fun i => field bs (8320 + 16 * i) 16
  let nslots := entries.foldl (fun acc w => acc + heldOf (bits w 0 2) w) 0
  let o1 := 8320 + 16 * quota
  let o2 := o1 + 66 * nslots
  let o3 := o2 + 4 * ltiles
  let tail := 4 * pages + 4 * ltiles + 16 * owners + 8
  let nprog := (bs.length - o3 - tail) / 33024
  let o4 := o3 + 33024 * nprog
  let o5 := o4 + 4 * pages
  let o6 := o5 + 4 * ltiles
  { step := .ofBytes bs
    lossPolicy := field bs 8256 8
    gfmtPolicy := field bs 8264 8
    retry := field bs 8272 8
    entries := entries
    slots := (List.range nslots).map fun i => slotOfBytes ((bs.drop (o1 + 66 * i)).take 66)
    tilePcs := (List.range ltiles).map fun i => field bs (o2 + 4 * i) 4
    programs := (List.range nprog).map fun i => .ofBytes ((bs.drop (o3 + 33024 * i)).take 33024)
    pageLabels := (List.range pages).map fun i => field bs (o4 + 4 * i) 4
    tileLabels := (List.range ltiles).map fun i => field bs (o5 + 4 * i) 4
    owners := (List.range owners).map fun i => (field bs (o6 + 16 * i) 8, field bs (o6 + 16 * i + 8) 8)
    seed := field bs (o6 + 16 * owners) 8 }

/-- Bytes that a payload takes as a record. -/
def recordBytes (payload : Nat) : Nat := 128 + ceilDiv payload 64 * 64

/-- Bytes of the area of R381 for a schedule payload of some length. -/
def areaBytes (l : Layout) (sched : Nat) : Nat :=
  let s := snapSize l
  (List.range (snapCount l)).foldl (fun acc i => acc + recordBytes (min stateRecordBytes (s - i * stateRecordBytes))) 0 +
  recordBytes sched + recordBytes (0x80 + 16 * (snapRanges l).length)

/-- Offsets and lengths of the records of an area, read from its headers. -/
def recordOffsets (read : Nat → List Byte) : Nat → Nat → List (Nat × Nat)
  | 0, _ => []
  | n + 1, off => (off, recordLen (read off)) :: recordOffsets read n (off + recordLen (read off))

/-! ### Areas and copies (R377, R378, R384, R397) -/

/-- AREA (Table 14.9). -/
inductive AreaState where
  | empty | writing | complete | filling | restoring
  deriving DecidableEq, Repr

def AreaState.code : AreaState → Nat
  | .empty => 0 | .writing => 1 | .complete => 2 | .filling => 3 | .restoring => 4

/-- FLASH_ST and MIRROR_ST. -/
inductive CopyState where
  | none | active | done | failed
  deriving DecidableEq, Repr

def CopyState.code : CopyState → Nat
  | .none => 0 | .active => 1 | .done => 2 | .failed => 3

/-- A copy that a module holds in an area: who wrote it, its epoch and its root (R384, R388). -/
structure Copy where
  session : Nat
  serial : Nat
  epoch : Nat
  root : BitVec 256
  stale : Bool
  deriving DecidableEq, Repr

/-- Flash positions taken by a drain or held by a complete snapshot (R385). -/
structure FlashSnap where
  session : Nat
  serial : Nat
  epoch : Nat
  root : BitVec 256
  base : Nat
  recs : List (Nat × Nat)
  /-- Its directory entry has arrived. -/
  complete : Bool
  stale : Bool
  deriving DecidableEq, Repr

/-- Capacity of the checkpoint flash (R385). -/
abbrev flashBytes : Nat := 8000000000000

/-- A copy arriving in an area: writer, epoch and nonce from its record headers, 64 B units landed of each record, and the manifest so far, which takes its place once the schedule record's length is known. -/
structure FillState where
  serial : Nat
  epoch : Nat
  nonce : Nat
  got : Store Nat
  tail : List Byte
  deriving DecidableEq, Repr

/-- Snapshot state of one partition (Table 14.9). -/
structure SnapPart where
  interval : Nat
  flash : Bool
  mirror : Bool
  reqPending : Bool
  /-- A snapshot skipped at an earlier boundary is due again (R378). -/
  due : Bool
  lastStatus : Status
  skipped : Nat
  hold : Bool
  flashSt : CopyState
  mirrorSt : CopyState
  area : AreaState
  epoch : Nat
  holdEpoch : Nat
  /-- Device virtual address and size of the local area and of the mirror area. -/
  localArea : Option (Nat × Nat)
  mirrorArea : Option (Nat × Nat)
  localCopy : Option Copy
  mirrorCopy : Option Copy
  /-- Pages behind the areas, as SNAP_CONFIG resolved them (R420). -/
  localMap : List MapRun
  mirrorMap : List MapRun
  /-- Copies arriving in the local and in the mirror area. -/
  localFill : Option FillState
  mirrorFill : Option FillState
  /-- The FILL from the mirror that waits for its frames to be acknowledged: function, queue, sequence. -/
  asker : Option (Nat × Nat × Nat)
  deriving DecidableEq, Repr

def SnapPart.reset : SnapPart where
  interval := 0
  flash := true
  mirror := true
  reqPending := false
  due := false
  lastStatus := .done
  skipped := 0
  hold := false
  flashSt := .none
  mirrorSt := .none
  area := .empty
  epoch := 0
  holdEpoch := 0
  localArea := none
  mirrorArea := none
  localCopy := none
  mirrorCopy := none
  localMap := []
  mirrorMap := []
  localFill := none
  mirrorFill := none
  asker := none

/-- RES_SNAP_CFG and RES_SNAP_STATUS (Table 14.9). -/
def SnapPart.cfgWord (s : SnapPart) : Nat := b2n s.mirror + b2n s.flash <<< 1 + s.interval <<< 48

def SnapPart.statusWord (s : SnapPart) : Nat :=
  s.area.code + s.mirrorSt.code <<< 4 + s.flashSt.code <<< 8 + b2n s.hold <<< 12 + b2n s.reqPending <<< 13 + s.skipped <<< 24 + s.lastStatus.code <<< 32

/-- RES_SNAP_EPOCH. -/
def SnapPart.epochWord (s : SnapPart) : Nat :=
  if s.area = .complete ∨ s.area = .filling ∨ s.area = .restoring then s.epoch else 0

/-- A snapshot is due at a boundary (R378). -/
def SnapPart.isDue (s : SnapPart) (step : Nat) : Bool :=
  s.reqPending || s.due || (decide (s.interval ≠ 0 ∧ step ≠ 0) && decide (step % s.interval = 0))

/-- A due snapshot may be taken (R378). -/
def SnapPart.mayTake (s : SnapPart) : Bool :=
  decide (s.area = .empty ∨ s.area = .complete) && !s.hold && decide (s.mirrorSt ≠ .active) && decide (s.flashSt ≠ .active) && s.localArea.isSome

/-- An area and its copy become EMPTY. -/
def SnapPart.emptied (s : SnapPart) : SnapPart :=
  { s with area := .empty, localCopy := none, mirrorCopy := none, holdEpoch := 0, localFill := none, mirrorFill := none, asker := none }

/-- The copies held are marked as written under an old session secret (R387). -/
def SnapPart.aged (s : SnapPart) : SnapPart :=
  { s with localCopy := s.localCopy.map fun c => { c with stale := true }, mirrorCopy := s.mirrorCopy.map fun c => { c with stale := true } }

/-- Copies written under the old secret leave their areas EMPTY (R387). -/
def SnapPart.shed (s : SnapPart) : SnapPart :=
  let old := fun (c : Option Copy) => match c with
    | some x => x.stale
    | none => false
  let s1 := if old s.localCopy then { s with area := .empty, localCopy := none } else s
  if old s1.mirrorCopy then { s1 with mirrorCopy := none, holdEpoch := 0 } else s1

/-! ### The checkpoint flash (R385) -/

/-- The flash: words that hold other than 0, and the snapshots in it, oldest first. -/
structure Flash where
  words : Store Word
  snaps : List FlashSnap
  deriving DecidableEq, Repr

def Flash.reset : Flash := ⟨[], []⟩

def FlashSnap.size (f : FlashSnap) : Nat := f.recs.foldl (fun acc r => acc + r.2) 0

/-- Of the complete snapshots of its session and writer, the two newest are never reclaimed (R385). -/
def Flash.kept (f : Flash) (x : FlashSnap) : Bool :=
  decide (((f.snaps.filter fun y => y.complete && decide (y.session = x.session ∧ y.serial = x.serial)).reverse.take 2).contains x = true)

/-- The lowest free place of n bytes among the snapshots held. -/
def Flash.place (f : Flash) (n : Nat) : Option Nat :=
  (sortBy id (0 :: f.snaps.map fun s => s.base + s.size)).find? fun b =>
    decide (b + n ≤ flashBytes) && f.snaps.all fun s => !overlaps b n s.base s.size

/-- Reclaim oldest first until n bytes fit (R385). -/
def Flash.room : Nat → Flash → Nat → Option (Nat × Flash)
  | 0, f, n => (f.place n).map fun b => (b, f)
  | k + 1, f, n =>
    match f.place n with
    | some b => some (b, f)
    | none => match f.snaps.find? fun s => s.complete && !f.kept s with
      | some s => Flash.room k { f with snaps := f.snaps.erase s } n
      | none => none

/-- Write bytes at a flash offset, a multiple of 4. -/
def Flash.put (f : Flash) (off : Nat) (bs : List Byte) : Flash :=
  { f with words := Store.setMany 0 f.words (off / 4) (bytesWords bs) }

/-- Read bytes. -/
def Flash.read (f : Flash) (off n : Nat) : List Byte :=
  ((wordsBytes (Store.getMany 0 f.words (off / 4) (ceilDiv (off % 4 + n) 4))).drop (off % 4)).take n

/-- Start-up erases snapshots without a directory entry (R385). -/
def Flash.startUp (f : Flash) : Flash := { f with snaps := f.snaps.filter FlashSnap.complete }

/-- Snapshots of a session are marked as written under an old secret (R387). -/
def Flash.aged (f : Flash) (session : Nat) : Flash :=
  { f with snaps := f.snaps.map fun x => if x.session = session then { x with stale := true } else x }

/-- The snapshot of a session, writer and epoch. -/
def Flash.find (f : Flash) (session serial epoch : Nat) : Option FlashSnap :=
  f.snaps.find? fun s => s.complete && decide (s.session = session ∧ s.serial = serial ∧ s.epoch = epoch)

/-! ### Pairing (Table 14.10) -/

/-- RES_PAIR.STATE from the number of twin ports UP. -/
def pairState (up : Nat) : Nat := if up = 4 then 1 else if up = 0 then 0 else 2

end Sys2Proof.Machine
end

