-- ==== Sys2Proof/Machine/Fwm.lean ====
section
/-! DEFINITION. Firmware, management and time (chapter 16): the firmware flash and its images, boot control, anti-rollback, activation, the control cluster's restarts, Cicada, the mailbox, Mantis and the time counter. -/

namespace Sys2Proof.Machine

/-! ### Firmware images (R430, R431) -/

/-- Fields of an image header (Table 16.2). -/
structure FwHeader where
  magic : Nat
  fmt : Nat
  keysel : Nat
  version : Nat
  svn : Nat
  bodySize : Nat
  bodyDigest : BitVec 256
  pub : List Byte
  sig : List Byte
  reserved : Bool
  deriving DecidableEq, Repr

/-- "SVT2FWIM". -/
abbrev fwMagic : Nat := 0x4D49574632545653

/-- Bytes of a slot (Table 16.1). -/
abbrev fwSlotBytes : Nat := 28 * 1048576

def FwHeader.ofBytes (b : List Byte) : FwHeader :=
  ⟨field b 0 8, field b 8 2, field b 0xA 1, field b 0xC 4, field b 0x10 1, field b 0x18 8, BitVec.ofNat 256 (field b 0x20 32),
   (b.drop 0x40).take 68, (b.drop 0x90).take 2820,
   !(zeroBytes b 0xB 1 && zeroBytes b 0x11 7 && zeroBytes b 0x84 12)⟩

/-- Bytes that the signature and the firmware digest cover (R430). -/
def fwSigned (b : List Byte) : List Byte := b.take 0x90

/-- Step 1 of R431. -/
def FwHeader.shapeOk (h : FwHeader) : Bool :=
  decide (h.magic = fwMagic ∧ h.fmt = 1 ∧ h.keysel ≤ 1) && !h.reserved &&
  decide (4096 ≤ h.bodySize ∧ h.bodySize ≤ fwSlotBytes - 4096 ∧ h.bodySize % 4096 = 0)

/-- Step 3 of R431: the key is accepted in the present state (Table 10.6). -/
def keyAccepted (st : LcState) (fwTest : Bool) (keysel : Nat) : Bool :=
  match st with
  | .blank => decide (keysel = 1)
  | .test => true
  | .manufacture => decide (keysel = 0)
  | .deployed | .returned => decide (keysel = 0) || fwTest
  | .scrapped => false

/-- The anti-rollback rule (R435). -/
def svnStatus (svn floor : Nat) : Status :=
  if svn < floor then .accessDenied else if svn ≤ 63 then .done else .counterExhausted

/-- Verification of an image against fuses and rights (R431): the failing step (0: none) and the status. -/
def verifyImage (fz : Fuses) (fwTest : Bool) (image : List Byte) : Nat × Status :=
  let h := FwHeader.ofBytes image
  if !h.shapeOk then (1, .versionUnsupported)
  else if (h.keysel = 0 ∧ Config.shake256 h.pub ≠ fz.fwAuth) ∨ (h.keysel = 1 ∧ h.pub ≠ Config.testFwKey) then (2, .accessDenied)
  else if !keyAccepted fz.state fwTest h.keysel then (3, .accessDenied)
  else if !Config.xmssVerify (Config.shake256 h.pub) (Config.shake256 (fwSigned image)) h.sig then (4, .digestMismatch)
  else if Config.shake256 ((image.drop 4096).take h.bodySize) ≠ h.bodyDigest then (5, .digestMismatch)
  else if h.keysel = 0 ∧ svnStatus h.svn fz.floor ≠ .done then (6, svnStatus h.svn fz.floor)
  else (0, .done)

/-! ### Boot control (R432, R433) -/

/-- A boot control block; slots are named false A, true B. -/
structure Bcb where
  gen : Nat
  active : Bool
  pending : Option Bool
  tries : Nat
  valid : Bool
  deriving DecidableEq, Repr

def Bcb.erased : Bcb := ⟨0, false, none, 0, false⟩

/-- A Cicada entry (Table 16.5). -/
structure LogEntry where
  time : Nat
  seq : Nat
  point : Nat
  part : Nat
  sev : Nat
  args : List Nat
  deriving DecidableEq, Repr

def LogEntry.bytes (e : LogEntry) : List Byte :=
  natBytes e.time 8 ++ natBytes e.seq 4 ++ natBytes e.point 2 ++ natBytes e.part 1 ++ natBytes e.sev 1 ++
  ((List.range 6).map fun i => natBytes (e.args.getD i 0) 8).flatten

/-- What LOG_READ shows of an entry (R448). -/
def LogEntry.shown (e : LogEntry) (whole : Bool) : LogEntry :=
  if whole ∨ e.part = noPart then e else { e with time := e.time / 1000000 * 1000000, args := [] }

/-- Events of a point in one second (R447): the second, recorded, not recorded, highest severity of those. -/
structure PointRate where
  second : Nat
  written : Nat
  dropped : Nat
  sev : Nat
  deriving DecidableEq, Repr

def PointRate.none : PointRate := ⟨0, 0, 0, 0⟩

/-- An Announce's data set, as the best master clock algorithm compares it (IEEE 1588): priority 1, class, accuracy, variance, priority 2, identity, steps removed. -/
structure ClockSet where
  priority1 : Nat
  cls : Nat
  accuracy : Nat
  variance : Nat
  priority2 : Nat
  identity : Nat
  steps : Nat
  deriving DecidableEq, Repr

/-- A BAR0 write waiting for the firmware (R443). -/
structure BarWrite where
  fn : Nat
  offset : Nat
  value : Nat
  deriving DecidableEq, Repr

/-- Chapter 16's state. -/
structure Fwm where
  /-- Slots A and B, and Scarab's identity certificate in the record area. -/
  slotA : Store Byte
  slotB : Store Byte
  cert : List Byte
  bcb0 : Bcb
  bcb1 : Bcb
  running : Option Bool
  /-- First 0x90 bytes of the running image. -/
  header : List Byte
  verified : Bool
  held : Bool
  /-- FWM_STATUS. -/
  fatal : Bool
  restarts : Nat
  lastCause : Nat
  wqDrop : Nat
  /-- Monotonic times of restarts in the last 10 minutes. -/
  recent : List Nat
  traceEn : Nat
  /-- BAR0 writes not yet applied, oldest first. -/
  writes : List BarWrite
  /-- Cicada: next SEQ, ring and early buffer newest first, rates by point. -/
  nextSeq : Nat
  log : List LogEntry
  early : List LogEntry
  rates : Store PointRate
  /-- The time counter, the monotonic counter, nanoseconds still to be slewed away, and the last 1 ms boundary seen. -/
  time : Nat
  mono : Nat
  slew : Int
  boundary : Nat
  lossS : Nat
  gm : Bool
  ptpEn : Bool
  domain : Nat
  offset : Int
  ppsBad : Nat
  port : Nat
  locked : Bool
  source : Nat
  /-- Successive offsets within 100 ns, mean path delay, TIME_SET done, last valid pulse, whether holdover came from the state of class 6. -/
  good : Nat
  meanDelay : Int
  timeSet : Bool
  lastPps : Option Nat
  heldSix : Bool
  /-- Data sets heard on ports, and the port the best master clock algorithm chose. -/
  masters : Store (Option ClockSet)
  best : Option Nat
  /-- Last Sync received: port, its time of origin and of arrival; and the time of the last Delay_Req. -/
  lastSync : Option (Nat × Nat × Nat)
  delayReq : Store Nat
  /-- Mailbox registers and buffers. -/
  busy : Bool
  mboxDone : Bool
  dbLost : Bool
  request : List Byte
  reply : List Byte
  /-- Mantis: I3C address, endpoint ID. -/
  i3cAddr : Nat
  eid : Nat
  deriving DecidableEq, Repr

/-- Boot flash as shipped: erased slots, no valid block; registers of Tables 16.9 and 16.10. -/
def Fwm.reset : Fwm where
  slotA := []
  slotB := []
  cert := []
  bcb0 := .erased
  bcb1 := .erased
  running := none
  header := []
  verified := false
  held := false
  fatal := false
  restarts := 0
  lastCause := 0
  wqDrop := 0
  recent := []
  traceEn := 0x7F
  writes := []
  nextSeq := 0
  log := []
  early := []
  rates := []
  time := 0
  mono := 0
  slew := 0
  boundary := 0
  lossS := 3
  gm := false
  ptpEn := true
  domain := 0
  offset := 0
  ppsBad := 0
  port := 0
  locked := false
  source := 0
  good := 0
  meanDelay := 0
  timeSet := false
  lastPps := none
  heldSix := false
  masters := []
  best := none
  lastSync := none
  delayReq := []
  busy := false
  mboxDone := false
  dbLost := false
  request := []
  reply := []
  i3cAddr := 0
  eid := 0

/-- The block in force (R432). -/
def Fwm.bcb (f : Fwm) : Bcb :=
  match f.bcb0.valid, f.bcb1.valid with
  | true, true => if f.bcb0.gen < f.bcb1.gen then f.bcb1 else f.bcb0
  | true, false => f.bcb0
  | false, true => f.bcb1
  | false, false => .erased

/-- Write a new block into the copy with the lower GEN (R432). -/
def Fwm.setBcb (f : Fwm) (active : Bool) (pending : Option Bool) (tries : Nat) : Fwm :=
  let g0 := if f.bcb0.valid then f.bcb0.gen else 0
  let g1 := if f.bcb1.valid then f.bcb1.gen else 0
  let b : Bcb := ⟨max g0 g1 + 1, active, pending, tries, true⟩
  if !f.bcb0.valid then { f with bcb0 := b } else if !f.bcb1.valid then { f with bcb1 := b }
  else if g0 < g1 then { f with bcb0 := b } else { f with bcb1 := b }

/-- Erased flash reads as ones. -/
abbrev erasedByte : Byte := 0xFF

def Fwm.slot (f : Fwm) (b : Bool) : Store Byte := if b then f.slotB else f.slotA

def Fwm.setSlot (f : Fwm) (b : Bool) (m : Store Byte) : Fwm := if b then { f with slotB := m } else { f with slotA := m }

/-- A slot's bytes [0, n). -/
def Fwm.image (f : Fwm) (b : Bool) : List Byte :=
  let hdr := Store.getMany erasedByte (f.slot b) 0 4096
  hdr ++ Store.getMany erasedByte (f.slot b) 4096 (min (FwHeader.ofBytes hdr).bodySize (fwSlotBytes - 4096))

/-- The inactive slot: the one that is not running (R437). -/
def Fwm.inactive (f : Fwm) : Bool := f.running != some true

/-- The running image's fields. -/
def Fwm.hdr (f : Fwm) : FwHeader := .ofBytes f.header

/-- Firmware digest of the running image (R430). -/
def Fwm.digest (f : Fwm) : BitVec 256 := Config.shake256 (fwSigned f.header)

/-- What a phase 1 choice tried: the slot that runs, and slots rejected with the failing step (R433). -/
structure BootChoice where
  run : Option Bool
  rejected : List (Bool × Nat × Status)
  deriving DecidableEq, Repr

/-- R433. -/
def Fwm.choose (f : Fwm) (fz : Fuses) (fwTest : Bool) : Fwm × BootChoice :=
  let b := f.bcb
  let (f1, first) := match b.pending with
    | some p => if b.tries < 3 then (f.setBcb b.active (some p) (b.tries + 1), p) else (f.setBcb b.active none b.tries, b.active)
    | none => (f, b.active)
  let v1 := verifyImage fz fwTest (f1.image first)
  if v1.2 = .done then ({ f1 with running := some first, header := (f1.image first).take 4096 }, ⟨some first, []⟩)
  else
    let v2 := verifyImage fz fwTest (f1.image (!first))
    if v2.2 = .done then ({ f1 with running := some (!first), header := (f1.image (!first)).take 4096 }, ⟨some (!first), [(first, v1.1, v1.2)]⟩)
    else ({ f1 with running := none, header := [] }, ⟨none, [(first, v1.1, v1.2), (!first, v2.1, v2.2)]⟩)

/-- Registers and volatile state at the start of phase 1 (R446, R455, R459); the flash and AON stand. -/
def Fwm.phase1 (f : Fwm) : Fwm :=
  { Fwm.reset with
    slotA := f.slotA, slotB := f.slotB, cert := f.cert, bcb0 := f.bcb0, bcb1 := f.bcb1, i3cAddr := f.i3cAddr, eid := f.eid }

/-! ### Cicada (R446, R447) -/

/-- Class bit of a point (Table 16.6). -/
def pointClass (p : Nat) : Nat := p / 256

/-- Cicada entries of the ring and of the early buffer. -/
abbrev cicadaEntries : Nat := 262144
abbrev cicadaEarly : Nat := 64

/-- One entry written. -/
def Fwm.put (f : Fwm) (ringReady : Bool) (time point part sev : Nat) (args : List Nat) : Fwm :=
  let e : LogEntry := ⟨time, f.nextSeq % 2 ^ 32, point, part, sev, args⟩
  if ringReady then { f with nextSeq := f.nextSeq + 1, log := (e :: f.log).take cicadaEntries }
  else { f with nextSeq := f.nextSeq + 1, early := (e :: f.early).take cicadaEarly }

/-- The summary of a point whose second has ended (R447). -/
def Fwm.summary (f : Fwm) (ringReady : Bool) (point : Nat) : Fwm :=
  let r := Store.get PointRate.none f.rates point
  let f1 := { f with rates := Store.set .none f.rates point .none }
  if r.dropped = 0 then f1 else f1.put ringReady ((r.second + 1) * 1000000000) 0x0FFF noPart r.sev [point, r.dropped]

/-- A trace point (R447): nothing while its class is off; at most 1,000 entries per second. -/
def Fwm.trace (f : Fwm) (ringReady : Bool) (point part sev : Nat) (args : List Nat) : Fwm :=
  if !bit f.traceEn (pointClass point) then f
  else
    let now := f.time / 1000000000
    let f0 := if (Store.get PointRate.none f.rates point).second = now then f else f.summary ringReady point
    let r := Store.get PointRate.none f0.rates point
    if r.written < 1000 then
      { f0 with rates := Store.set .none f0.rates point { r with second := now, written := r.written + 1 } }.put ringReady f.time point part sev args
    else { f0 with rates := Store.set .none f0.rates point { r with dropped := r.dropped + 1, sev := max r.sev sev } }

/-- Phase 3 completes: early entries move into the ring (R446). -/
def Fwm.moveEarly (f : Fwm) : Fwm := { f with log := (f.early ++ f.log).take cicadaEntries, early := [] }

/-- SEV of a fault class (R447). -/
def classSev (c : Nat) : Nat := if c = 0 then 0 else if c = 1 then 1 else if c = 2 then 2 else 3

/-- Entries from a SEQ on, at most n (R448). -/
def Fwm.logFrom (f : Fwm) (ringReady : Bool) (seq n : Nat) : List LogEntry :=
  let l := (if ringReady then f.log else f.early).reverse
  (l.filter fun e => decide (seq ≤ e.seq)).take n

/-! ### Control cluster (R439 to R443) -/

/-- A restart (R441): counted; the fourth within 10 minutes is FATAL. -/
def Fwm.restart (f : Fwm) (cause : Nat) : Fwm :=
  let near := f.recent.filter fun t => decide (f.mono < t + 600000000000)
  { f with restarts := satAdd 8 f.restarts 1, lastCause := cause, recent := f.mono :: near, fatal := f.fatal || decide (3 ≤ near.length) }

/-- A BAR0 write arrives (R443). -/
def Fwm.queueWrite (f : Fwm) (w : BarWrite) : Fwm :=
  if 4096 ≤ f.writes.length then { f with wqDrop := satAdd 16 f.wqDrop 1 } else { f with writes := f.writes ++ [w] }

/-- FW_WRITE: erased and programmed (R437). -/
def Fwm.program (f : Fwm) (off : Nat) (data : List Byte) : Fwm :=
  let i := f.inactive
  let b := f.bcb
  let f1 := f.setSlot i (Store.setMany erasedByte (f.slot i) off data)
  let f2 := if b.pending = some i then f1.setBcb b.active none 0 else f1
  { f2 with verified := false, held := false }

/-- FW_INFO output (Table 16.4). -/
def Fwm.info (f : Fwm) (floor : Nat) : List Byte :=
  let h := f.hdr
  let b := f.bcb
  let i := FwHeader.ofBytes (f.image f.inactive)
  natBytes h.version 4 ++ natBytes h.svn 1 ++ natBytes floor 1 ++
  natBytes (b2n (decide (f.running = some true)) + b2n b.active <<< 1 + b2n b.pending.isSome <<< 2 + b2n (decide (b.pending = some true)) <<< 3 +
    b2n f.verified <<< 4 + b2n f.held <<< 5) 1 ++
  natBytes b.tries 1 ++ natBytes (if f.verified then i.version else 0) 4 ++ natBytes (if f.verified then i.svn else 0) 1 ++ List.replicate 19 0 ++
  natBytes f.digest.toNat 32

/-- Blow bits floor to SVN - 1 (R436). -/
def raiseFloor (fz : Fuses) (svn : Nat) : Fuses :=
  { fz with antiRollback := (List.range svn).foldl (fun v i => if fz.floor ≤ i then setBits v i 1 1 else v) fz.antiRollback }

/-! ### Time (R455 to R458) -/

/-- One nanosecond of the TIME domain: the counter slews at 100 ppm while an offset is to be removed. -/
def Fwm.tick (f : Fwm) : Fwm :=
  let m := f.mono + 1
  let turn := decide (m % 10000 = 0)
  if turn && decide (0 < f.slew) then { f with mono := m, slew := f.slew - 1 }
  else if turn && decide (f.slew < 0) then { f with mono := m, time := (f.time + 2) % 2 ^ 64, slew := f.slew + 1 }
  else { f with mono := m, time := (f.time + 1) % 2 ^ 64 }

/-- OFFSET saturates at 32 bits. -/
def sat32 (x : Int) : Int := max (-(2 ^ 31)) (min (2 ^ 31 - 1) x)

/-- Remove an offset: a step above 1 ms, else a slew (R458); whether it stepped. -/
def Fwm.correct (f : Fwm) (off : Int) : Fwm × Bool :=
  if 1000000 < off.natAbs then ({ f with time := (((f.time : Int) - off) % 2 ^ 64).toNat, slew := 0 }, true)
  else ({ f with slew := off }, false)

/-- Offset to the nearest whole second: what an aligned PPS edge removes (R457). -/
def Fwm.ppsOffset (f : Fwm) : Int :=
  let r : Int := ((f.time % 1000000000 : Nat) : Int)
  if r < 500000000 then r else r - 1000000000

/-- The module's own class (R456). -/
def Fwm.ownClass (f : Fwm) : Nat :=
  let pps := match f.lastPps with
    | some t => decide (f.mono ≤ t + 2000000000)
    | none => false
  if f.gm && f.timeSet && pps && decide (f.source = 3 ∨ f.source = 4) then 6
  else if f.source = 2 && f.heldSix then 7 else 248

/-- The comparison of the best master clock algorithm: lower is better, in the standard's order. -/
def ClockSet.key (c : ClockSet) : List Nat := [c.priority1, c.cls, c.accuracy, c.variance, c.priority2, c.identity, c.steps]

def lexLt : List Nat → List Nat → Bool
  | a :: as, b :: bs => decide (a < b) || (decide (a = b) && lexLt as bs)
  | _, _ => false

/-- The port chosen: the best data set, ties to the lowest port index (R456); none when the module's own is better. -/
def bestMaster (own : List Nat) (ms : Store (Option ClockSet)) : Option Nat :=
  let cand := ms.foldl (fun (acc : Option (Nat × List Nat)) e => match e.2, acc with
    | some c, none => some (e.1, c.key)
    | some c, some (p, k) => if lexLt c.key k then some (e.1, c.key) else some (p, k)
    | none, a => a) none
  match cand with
  | some (p, k) => if lexLt own k then none else some p
  | none => none

/-- The module's own data set: priorities 128, accuracy and variance unknown, identity SERIAL. -/
def Fwm.ownSet (f : Fwm) (serial : Nat) : ClockSet := ⟨128, f.ownClass, 0xFE, 0xFFFF, 128, serial, 0⟩

/-- FWM_STATUS, FWM_TIME_CFG, FWM_TIME_STATUS, SEC_MBOX_ST (Tables 16.9 and 16.10). -/
def Fwm.statusWord (f : Fwm) (floor : Nat) : Nat :=
  b2n f.fatal + b2n (decide (f.running = some true)) <<< 1 + b2n f.bcb.pending.isSome <<< 2 + b2n f.held <<< 3 +
  (if f.header = [] then 0 else f.hdr.svn) <<< 16 + floor <<< 24 + f.lastCause <<< 32 + f.restarts <<< 40 + f.wqDrop <<< 48

def Fwm.timeCfgWord (f : Fwm) : Nat := f.domain + b2n f.ptpEn <<< 7 + b2n f.gm <<< 8 + f.lossS <<< 16

def Fwm.timeStatusWord (f : Fwm) : Nat :=
  f.source + b2n f.locked <<< 7 + (if f.source = 1 then f.port else 0) <<< 10 + f.ppsBad <<< 16 + ((f.offset % 2 ^ 32).toNat) <<< 32

def Fwm.mboxWord (f : Fwm) : Nat := b2n f.busy + b2n f.mboxDone <<< 1 + b2n f.dbLost <<< 2

/-- Cause SCRAPPED of a stopped phase 1 (R282). -/
abbrev causeScrapped : Nat := 5

/-! ### Evidence (R453) -/

/-- The structure of Table 16.8 without its signature. -/
def evidenceBytes (state : Nat) (root : RootSel) (rights serial : Nat) (fw : BitVec 256) (version svn floor : Nat) (nonce : BitVec 256) (part : Nat)
    (config kem : BitVec 256) (time index : Nat) : List Byte :=
  natBytes 0x3130444956455653 8 ++ natBytes 1 2 ++ natBytes state 1 ++ natBytes (if root = .test then 1 else 0) 1 ++ natBytes rights 4 ++
  natBytes serial 8 ++ natBytes fw.toNat 32 ++ natBytes version 4 ++ natBytes svn 1 ++ natBytes floor 1 ++ [0, 0] ++ natBytes nonce.toNat 32 ++
  natBytes part 1 ++ List.replicate 7 0 ++ natBytes config.toNat 32 ++ natBytes kem.toNat 32 ++ natBytes (time / 1000000 * 1000000) 8 ++
  natBytes index 8

end Sys2Proof.Machine
end

