-- ==== Sys2Proof/Machine/Hbm.lean ====
section
/-! DEFINITION. HBM and its inline protection (chapter 9): address map, granules, line contents, counters and tree versions, fences, the lane's checks and outcomes, Weevil's passes, retirement and scrub. -/

namespace Sys2Proof.Machine

/-- Granule states (Table 9.3). -/
inductive GranState where
  | free | filling | prot | wiping | staging | firmware | reserve | withdrawn
  deriving DecidableEq, Repr

def GranState.code : GranState → Nat
  | .free => 0 | .filling => 1 | .prot => 2 | .wiping => 3 | .staging => 4 | .firmware => 5 | .reserve => 6 | .withdrawn => 7

/-- A granule: its state, its owner, and what it becomes when its FILL ends (R249). -/
structure Gran where
  state : GranState
  owner : Nat
  next : GranState
  deriving DecidableEq, Repr

def Gran.free : Gran := ⟨.free, 0, .free⟩

/-- A line as its owner sees it: 16 words and the poison bit P (R231, R232). What the stack holds is the view lineCipher, lineTag. -/
structure HLine where
  words : List Word
  poison : Bool
  deriving DecidableEq, Repr

def HLine.zero : HLine := ⟨List.replicate 16 0, false⟩
def HLine.poisoned : HLine := ⟨List.replicate 16 0, true⟩

/-- Counters of a page (Table 9.6). -/
structure Ctr where
  major : Nat
  minors : Store Nat
  deriving DecidableEq, Repr

def Ctr.zero : Ctr := ⟨0, []⟩

/-- Pass kinds (Table 9.8), numbered as MPR_WEEVIL_CTX.KIND. -/
inductive PassKind where
  | rekey | sessionRekey | fill | wipe | migrate
  deriving DecidableEq, Repr

def PassKind.code : PassKind → Nat
  | .rekey => 1 | .sessionRekey => 2 | .fill => 3 | .wipe => 4 | .migrate => 5

/-- A pass of Weevil: kind, partition, granule or pseudo-channel, pages done, and the key slot a re-key moves to. -/
structure Pass where
  kind : PassKind
  part : Nat
  index : Nat
  slot : Nat
  done : Nat
  deriving DecidableEq, Repr

/-- MPR_PART of one partition (Table 9.11) with its revoked mark (R250) and early pages (R245). -/
structure MprPart where
  curSlot : Nat
  curValid : Bool
  nextSlot : Nat
  nextValid : Bool
  epoch : Nat
  exhausted : Bool
  gone : Bool
  revoked : Bool
  early : List Nat
  /-- MPR_PERR (Table 9.14). -/
  errRevoked : Nat
  poisonRead : Nat
  tagFail : Nat
  /-- Requests refused KEY_REVOKED since the REVOKE, for the reply of a removal (R310). -/
  refused : Nat
  deriving DecidableEq, Repr

def MprPart.reset : MprPart := ⟨0, false, 0, false, 0, false, false, false, [], 0, 0, 0, 0⟩

/-- All of chapter 9's state. -/
structure Hbm where
  grans : Store Gran
  /-- Lines by 4 KiB page and place in the page. -/
  lines : Store (Store (Option HLine))
  ctrs : Store Ctr
  /-- Tree versions: (pseudo-channel * 6 + level) * 2^18 + index, levels 0 (counter blocks) to 5 (R235). -/
  versions : Store Nat
  /-- Fenced runs of slots: pseudo-channel, first slot, count (R238). -/
  fences : List (Nat × Nat × Nat)
  /-- (pseudo-channel, granule) whose unwritten lines read poisoned: slots lost with an unresponsive pseudo-channel (R258). -/
  lost : List (Nat × Nat)
  parts : Store MprPart
  /-- Retirements in place, in order: pseudo-channel and withdrawn granule (R256, R257). -/
  retired : List (Nat × Nat)
  /-- Retirements whose MIGRATE pass has not ended. -/
  retiring : List (Nat × Nat)
  /-- Retirements held for a granule (R255), and whether the pseudo-channel has stopped responding. -/
  held : List (Nat × Bool)
  /-- Pseudo-channels that do not respond and are not yet remapped (R258). -/
  dead : List Nat
  passes : Store (Option Pass)
  waiting : List Pass
  lastPc : Nat
  granSel : Nat
  lastStatus : Status
  fillRate : Nat
  rate : Nat
  reserve : Nat
  reserveLeft : Nat
  retireUe : Nat
  retireCe : Nat
  period : Nat
  /-- CE and UE of each pseudo-channel in the present scrub period (R253). -/
  pcCe : Store Nat
  pcUe : Store Nat
  treeFailPc : Nat
  treeFail : Bool
  ue : Nat
  ce : Nat
  blocked : Nat
  deriving DecidableEq, Repr

/-- The start of phase 3 (R236, R261): registers at their Reset column, counters, versions and roots 0. -/
def Hbm.reset : Hbm where
  grans := []
  lines := []
  ctrs := []
  versions := []
  fences := []
  lost := []
  parts := []
  retired := []
  retiring := []
  held := []
  dead := []
  passes := []
  waiting := []
  lastPc := 0
  granSel := 0
  lastStatus := .done
  fillRate := 25
  rate := 5
  reserve := 2
  reserveLeft := 0
  retireUe := 4
  retireCe := 1024
  period := 24
  pcCe := []
  pcUe := []
  treeFailPc := 0
  treeFail := false
  ue := 0
  ce := 0
  blocked := 0

def Hbm.gran (h : Hbm) (g : Nat) : Gran := if 1013 ≤ g then ⟨.withdrawn, 0, .withdrawn⟩ else Store.get .free h.grans g

def Hbm.setGran (h : Hbm) (g : Nat) (x : Gran) : Hbm := { h with grans := Store.set .free h.grans g x }

def Hbm.part (h : Hbm) (p : Nat) : MprPart := Store.get .reset h.parts p

def Hbm.setPart (h : Hbm) (p : Nat) (x : MprPart) : Hbm := { h with parts := Store.set .reset h.parts p x }

def Hbm.updPart (h : Hbm) (p : Nat) (f : MprPart → MprPart) : Hbm := h.setPart p (f (h.part p))

/-! ### Address map (R223, R224, R256, R257) -/

/-- A decoded device physical address (Table 9.1): pseudo-channel, slot, line. -/
structure Place where
  pc : Nat
  slot : Nat
  line : Nat
  deriving DecidableEq, Repr

def granOf (dpa : Nat) : Nat := bits dpa 30 10
def pageOf (dpa : Nat) : Nat := bits dpa 12 28
def lineOf (dpa : Nat) : Nat := bits dpa 6 6

/-- Table 9.1. -/
def decodeDpa (dpa : Nat) : Place :=
  let p := bits dpa 12 18
  ⟨bits p 0 10 ^^^ granOf dpa, 256 * granOf dpa + bits p 10 8, bits dpa 6 6⟩

/-- One retired pseudo-channel's map of its slots (R256); none for a slot of the withdrawn granule. -/
def remapSlot (c w s : Nat) : Option (Nat × Nat) :=
  let g := s / 256
  let j := s % 256
  if g = w then none
  else
    let r := if w < g then g - 1 else g
    let c' := if c ≤ r then r + 1 else r
    some (c', 256 * w + j)

/-- Follow retirements until the pseudo-channel reached is in service (R257); every entry is used once at most. -/
def resolveSlot (rets : List (Nat × Nat)) : Nat → Nat → Nat → Option (Nat × Nat)
  | 0, c, s => some (c, s)
  | n + 1, c, s =>
    match rets.find? (fun e => decide (e.1 = c)) with
    | none => some (c, s)
    | some (_, w) => match remapSlot c w s with
      | some (c', s') => resolveSlot rets n c' s'
      | none => none

/-- Pseudo-channel and slot that hold a page now. -/
def Hbm.placeOf (h : Hbm) (dpa : Nat) : Option (Nat × Nat) :=
  let p := decodeDpa dpa
  resolveSlot h.retired (h.retired.length + 1) p.pc p.slot

/-! ### Encryption and tags (R230, R231): what the stack holds, as functions of what the owner sees -/

/-- AES input of domain 0x01 or 0x02 (Table 9.5). -/
def aesInput (domain major minor dpa j : Nat) : BitVec 128 :=
  BitVec.ofNat 128 (domain <<< 120 + (major % 2 ^ 64) <<< 56 + (minor % 128) <<< 49 + bits dpa 6 34 <<< 15 + j)

/-- AES input of domain 0x03 (Table 9.5). -/
def aesMetaInput (version index c : Nat) : BitVec 128 :=
  BitVec.ofNat 128 (0x03 <<< 120 + (version % 2 ^ 64) <<< 56 + (index % 2 ^ 34) <<< 15 + (c % 1024) <<< 3)

/-- Ciphertext of a line: each 16 B block XORed with its keystream (R230). -/
def lineCipher (key : BitVec 256) (major minor dpa : Nat) (ws : List Word) : Nat :=
  (List.range 4).foldl (fun acc j =>
    acc + ((wordsNat ((ws.drop (4 * j)).take 4)) ^^^ (Config.aes256 key (aesInput 1 major minor dpa j)).toNat) <<< (128 * j)) 0

/-- Product in GF(2^64) with x^64 + x^4 + x^3 + x + 1 (R231). -/
def gfMul (a b : Nat) : Nat :=
  (List.range 64).foldl (fun acc i =>
    let sh := if bit acc 63 then ((2 * acc) % 2 ^ 64) ^^^ 0x1B else 2 * acc
    if bit b (63 - i) then sh ^^^ a else sh) 0

/-- h of R231 over the eight words of a ciphertext and P. -/
def gfHash (hkey : Nat) (cipher p : Nat) : Nat :=
  gfMul ((List.range 8).foldl (fun acc i => gfMul acc hkey ^^^ gfMul (bits cipher (64 * i) 64) hkey) 0 ^^^ p) hkey

/-- Tag of a line (R231). -/
def lineTag (key : BitVec 256) (hkey major minor dpa : Nat) (cipher p : Nat) : Nat :=
  gfHash hkey cipher p ^^^ ((Config.aes256 key (aesInput 2 major minor dpa 0)).toNat % 2 ^ 64)

/-! ### Requests (R228, R229) -/

/-- Origins of Table 9.4. -/
inductive Origin where
  | tileDma (p : Nat) | sysChan (p : Nat) | collective (p : Nat) | port (p : Nat)
  | firmware | weevil | host | debug
  deriving DecidableEq, Repr

/-- The partition of a request. -/
def Origin.part : Origin → Option Nat
  | .tileDma p | .sysChan p | .collective p | .port p => some p
  | _ => none

/-- What the lane meets when it fetches: bits flipped in ciphertext and tag, an uncorrectable report, a metadata line of some tree level whose tag fails. -/
structure Fetch where
  dataFlip : Nat
  tagFlip : Nat
  ue : Bool
  metaFail : Option Nat
  deriving DecidableEq, Repr

def Fetch.clean : Fetch := ⟨0, 0, false, none⟩

/-- Key IDs as the lane sees them: the hash key of a slot's material and whether the slot serves a partition (R229 check 5, R268). -/
structure LaneKeys where
  status : Nat → Nat → Status
  hash : Nat → Nat

/-- Origin and state are allowed (Table 9.4). -/
def originServed (o : Origin) (g : Gran) (bar4 : Bool) : Bool :=
  match o, g.state with
  | .tileDma p, .prot | .sysChan p, .prot | .collective p, .prot | .port p, .prot => decide (g.owner = p)
  | .sysChan p, .staging | .port p, .staging => decide (g.owner = p)
  | .firmware, .firmware | .firmware, .staging => true
  | .weevil, .prot | .weevil, .firmware | .weevil, .staging => true
  | .host, .staging => bar4
  | .debug, .staging => true
  | _, _ => false

/-- The lane's checks in order (R229); key says whether the key ID given is valid. -/
def Hbm.checkReq (h : Hbm) (ks : LaneKeys) (o : Origin) (keyId dpa : Nat) (bar4 : Bool) : Status :=
  let g := h.gran (granOf dpa)
  if 1013 ≤ granOf dpa then .accessDenied
  else match o.part with
    | some p =>
      let mp := h.part p
      if mp.gone then .partitionGone
      else if mp.revoked then .keyRevoked
      else if !originServed o g bar4 then .accessDenied
      else if g.state = .staging then .done
      else
        let named := (mp.curValid && decide (keyId = mp.curSlot)) || (mp.nextValid && decide (keyId = mp.nextSlot))
        let st := ks.status p keyId
        if st = .keyRevoked then .keyRevoked else if named && decide (st = .done) then .done else .accessDenied
    | none => if originServed o g bar4 then .done else .accessDenied

/-- What a refused request counts: BLOCKED for check 4, REVOKED for KEY_REVOKED (R228, R250). -/
def Hbm.countRefusal (h : Hbm) (o : Origin) (dpa : Nat) (bar4 : Bool) (st : Status) : Hbm :=
  match st, o.part with
  | .keyRevoked, some p => h.updPart p fun mp => { mp with errRevoked := satAdd 16 mp.errRevoked 1, refused := mp.refused + 1 }
  | .accessDenied, _ =>
    if 1013 ≤ granOf dpa then h
    else if originServed o (h.gran (granOf dpa)) bar4 then h else { h with blocked := satAdd 16 h.blocked 1 }
  | _, _ => h

/-! ### Contents, counters, tree -/

/-- What a line that nothing wrote since its granule was filled reads as: zero, or poisoned where it was lost (R247, R258). -/
def Hbm.blankLine (h : Hbm) (dpa : Nat) : HLine :=
  if h.lost.contains ((decodeDpa dpa).pc, granOf dpa) then .poisoned else .zero

/-- The line at a DPA. -/
def Hbm.lineAt (h : Hbm) (dpa : Nat) : HLine :=
  match Store.get none (Store.get [] h.lines (pageOf dpa)) (lineOf dpa) with
  | some l => l
  | none => h.blankLine dpa

/-- Replace the line at a DPA; what an unlisted line reads as is not listed. -/
def Hbm.setLine (h : Hbm) (dpa : Nat) (l : HLine) : Hbm :=
  { h with lines := Store.upd [] h.lines (pageOf dpa) fun x => Store.set none x (lineOf dpa) (if l = h.blankLine dpa then none else some l) }

def Hbm.ctr (h : Hbm) (dpa : Nat) : Ctr := Store.get .zero h.ctrs (pageOf dpa)

/-- Index of a version in the store. -/
def versionKey (pc level idx : Nat) : Nat := (pc * 6 + level) * 2 ^ 18 + idx

/-- A counter block of a slot changed: its version and its ancestors' rise (R235, R237; the metadata cache is written through). -/
def Hbm.bumpVersions (h : Hbm) (pc slot : Nat) : Hbm :=
  { h with versions := (List.range 6).foldl (fun v l => Store.upd 0 v (versionKey pc l (slot / 8 ^ l)) (· + 1)) h.versions }

/-- Counters after a write to a line, when the page does not have to change epoch: minor + 1, or the overflow of R244. -/
def Ctr.bump (c : Ctr) (line : Nat) : Ctr :=
  let m := Store.get 0 c.minors line
  if m < 127 then { c with minors := Store.set 0 c.minors line (m + 1) }
  else ⟨c.major + 1, []⟩

/-- The write would overflow a page whose MAJOR is 2^64 - 1 (R245). -/
def Ctr.full (c : Ctr) (line : Nat) : Bool := decide (Store.get 0 c.minors line = 127 ∧ c.major = 2 ^ 64 - 1)

/-- Write a line under its next counter. -/
def Hbm.putLine (h : Hbm) (dpa : Nat) (l : HLine) : Hbm :=
  let p := decodeDpa dpa
  let h1 := { h.setLine dpa l with ctrs := Store.set .zero h.ctrs (pageOf dpa) ((h.ctr dpa).bump p.line) }
  h1.bumpVersions p.pc p.slot

/-- A slot of a pseudo-channel is fenced (R238). -/
def Hbm.fenced (h : Hbm) (pc slot : Nat) : Bool :=
  h.fences.any fun f => decide (f.1 = pc) && decide (f.2.1 ≤ slot) && decide (slot < f.2.1 + f.2.2)

/-- A tree failure at a level above or at a slot's counter block: every page beneath is fenced (R238). -/
def Hbm.treeFailure (h : Hbm) (pc slot level : Nat) : Hbm :=
  let n := 8 ^ min level 5
  { h with fences := (pc, slot / n * n, n) :: h.fences, treeFail := true, treeFailPc := pc }

/-- Fences that a rewrite of granule g leaves: its slots are cut out of every run (R238). -/
def cutFence (g : Nat) (f : Nat × Nat × Nat) : List (Nat × Nat × Nat) :=
  let lo := 256 * g
  let hi := 256 * g + 256
  let a := f.2.1
  let b := f.2.1 + f.2.2
  if b ≤ lo ∨ hi ≤ a then [f]
  else (if a < lo then [(f.1, a, lo - a)] else []) ++ (if hi < b then [(f.1, hi, b - hi)] else [])

/-- The class of a tree failure's fault from the granules its pages lie in (R238): 2 MODULE-wide firmware, 1 data, 0 degraded, highest first. -/
def Hbm.fenceStates (h : Hbm) (slot level : Nat) : List GranState :=
  let n := 8 ^ min level 5
  let lo := slot / n * n / 256
  let hi := (slot / n * n + n - 1) / 256
  (List.range (hi - lo + 1)).map fun i => (h.gran (lo + i)).state

/-- Outcome of a line access: state, status, words with tags. -/
structure LaneOut where
  h : Hbm
  status : Status
  words : List TWord
  /-- A tree failure was met: pseudo-channel, slot, level. -/
  tree : Option (Nat × Nat × Nat)
  /-- A line was found failed. -/
  failed : Bool
  deriving DecidableEq, Repr

def poisonWords : List TWord := List.replicate 16 ⟨0, true⟩

/-- Tag judgement of a fetch (R232): the hash is linear, so the flips alone decide. -/
inductive TagOutcome where
  | clean | poisoned | failed
  deriving DecidableEq, Repr

def judgeTag (hkey : Nat) (f : Fetch) (poison : Bool) : TagOutcome :=
  if f.ue then .failed
  else
    let delta := gfHash hkey f.dataFlip 0 ^^^ (f.tagFlip % 2 ^ 64) ^^^ (if poison then hkey else 0)
    if delta = 0 then .clean else if delta = hkey then .poisoned else .failed

/-- Count a TAG_FAIL for the owner of a granule (R240). -/
def Hbm.countTagFail (h : Hbm) (g : Gran) : Hbm :=
  if g.state = .prot then h.updPart g.owner fun mp => { mp with tagFail := satAdd 16 mp.tagFail 1 } else h

/-- Hash key that a granule's lines are under. -/
def Hbm.hashKey (h : Hbm) (ks : LaneKeys) (g : Gran) : Nat := if g.state = .prot then ks.hash (h.part g.owner).curSlot else ks.hash 2048

/-- Read a line (R240, Table 9.7; staging R233). -/
def Hbm.read (h : Hbm) (ks : LaneKeys) (o : Origin) (keyId dpa : Nat) (bar4 : Bool) (f : Fetch) : LaneOut :=
  let st := h.checkReq ks o keyId dpa bar4
  let g := h.gran (granOf dpa)
  if st ≠ .done then ⟨h.countRefusal o dpa bar4 st, st, [], none, false⟩
  else match h.placeOf dpa with
    | none => ⟨h.countTagFail g, .tagFail, [], none, false⟩
    | some (pc, slot) =>
      if h.dead.contains pc then ⟨h.countTagFail g, .tagFail, [], none, false⟩
      else if g.state = .staging then
        if f.ue then ⟨h, .done, poisonWords, none, false⟩
        else ⟨h, .done, (natWords (wordsNat (h.lineAt dpa).words ^^^ f.dataFlip) 16).map fun w => ⟨w, false⟩, none, false⟩
      else match f.metaFail with
        | some level => ⟨(h.treeFailure pc slot level).countTagFail g, .tagFail, [], some (pc, slot, level), false⟩
        | none =>
          if h.fenced pc slot then ⟨h.countTagFail g, .tagFail, [], none, false⟩
          else
            let l := h.lineAt dpa
            match judgeTag (h.hashKey ks g) f l.poison with
            | .clean => ⟨h, .done, (natWords (wordsNat l.words ^^^ f.dataFlip) 16).map fun w => ⟨w, false⟩, none, false⟩
            | .poisoned =>
              let h1 := if g.state = .prot then h.updPart g.owner fun mp => { mp with poisonRead := satAdd 16 mp.poisonRead 1 } else h
              ⟨h1, .done, poisonWords, none, false⟩
            | .failed => ⟨(h.putLine dpa .poisoned).countTagFail g, .tagFail, [], none, true⟩

/-- What a write meets beyond its checks. -/
inductive WriteNeed where
  | go | needsRekey (p : Nat) | waits | exhausted
  deriving DecidableEq, Repr

/-- The epoch change a full page asks for (R245, R246): none, a new pass, or a wait. -/
def Hbm.writeNeed (h : Hbm) (dpa : Nat) : WriteNeed :=
  let g := h.gran (granOf dpa)
  if g.state ≠ .prot then .go
  else
    let mp := h.part g.owner
    if mp.exhausted then .exhausted
    else if !(h.ctr dpa).full (decodeDpa dpa).line then .go
    else if mp.nextValid then
      let lane := (decodeDpa dpa).pc
      if (mp.early.filter fun q => decide ((decodeDpa (q * 4096)).pc = lane)).length < 4 then .go else .waits
    else if mp.epoch = 255 then .exhausted
    else .needsRekey g.owner

/-- Convert a full page early into the next epoch: its counters become 0 (R245). -/
def Hbm.convertEarly (h : Hbm) (dpa : Nat) : Hbm :=
  let g := h.gran (granOf dpa)
  if decide (g.state = .prot) && (h.ctr dpa).full (decodeDpa dpa).line then
    { h with ctrs := Store.set .zero h.ctrs (pageOf dpa) .zero }.updPart g.owner fun mp => { mp with early := pageOf dpa :: mp.early }
  else h

/-- Merge the enabled words of a write over old words (R242). -/
def mergeWords (old : List Word) (ws : List (Option TWord)) : List Word :=
  (List.range 16).map fun i => match ws.getD i none with
    | some w => w.bits
    | none => old.getD i 0

/-- Write some words of a line (R241, R242, R233): a full line does not read the old one. -/
def Hbm.write (h : Hbm) (ks : LaneKeys) (o : Origin) (keyId dpa : Nat) (bar4 : Bool) (ws : List (Option TWord)) (f : Fetch) : LaneOut :=
  let st := h.checkReq ks o keyId dpa bar4
  let g := h.gran (granOf dpa)
  let full := decide (ws.length = 16) && ws.all Option.isSome
  let newPoison := ws.any fun w => match w with
    | some x => x.poison
    | none => false
  if st ≠ .done then ⟨h.countRefusal o dpa bar4 st, st, [], none, false⟩
  else if ws.all Option.isNone then ⟨h, .done, [], none, false⟩
  else match h.placeOf dpa with
    | none => ⟨h.countTagFail g, .tagFail, [], none, false⟩
    | some (pc, slot) =>
      if h.dead.contains pc then ⟨h.countTagFail g, .tagFail, [], none, false⟩
      else if g.state = .staging then ⟨h.setLine dpa ⟨mergeWords (h.lineAt dpa).words ws, false⟩, .done, [], none, false⟩
      else if h.writeNeed dpa = .exhausted then
        ⟨h.updPart g.owner fun mp => { mp with exhausted := true }, .counterExhausted, [], none, false⟩
      else match f.metaFail with
        | some level => ⟨(h.treeFailure pc slot level).countTagFail g, .tagFail, [], some (pc, slot, level), false⟩
        | none =>
          if h.fenced pc slot then ⟨h.countTagFail g, .tagFail, [], none, false⟩
          else
            let h1 := h.convertEarly dpa
            if full then ⟨h1.putLine dpa ⟨mergeWords [] ws, newPoison⟩, .done, [], none, false⟩
            else
              let l := h.lineAt dpa
              match judgeTag (h.hashKey ks g) f l.poison with
              | .clean => ⟨h1.putLine dpa ⟨mergeWords (natWords (wordsNat l.words ^^^ f.dataFlip) 16) ws, newPoison⟩, .done, [], none, false⟩
              | .poisoned => ⟨h1.putLine dpa ⟨mergeWords l.words ws, true⟩, .done, [], none, false⟩
              | .failed => ⟨(h1.putLine dpa .poisoned).countTagFail g, .tagFail, [], none, true⟩

/-! ### Commands and passes (R247 to R251, Table 9.13) -/

/-- A pass runs or waits on a partition. -/
def Hbm.hasRekey (h : Hbm) (p : Nat) : Bool :=
  let is := fun (x : Pass) => decide (x.part = p) && decide (x.kind = .rekey ∨ x.kind = .sessionRekey)
  h.waiting.any is || h.passes.any fun e => match e.2 with
    | some x => is x
    | none => false

/-- A pass in a context. -/
def Hbm.running (h : Hbm) (f : Pass → Bool) : Bool := h.passes.any fun e => match e.2 with
  | some x => f x
  | none => false

/-- Pass kinds that exclude each other (R247, R251). -/
def Hbm.mayStart (h : Hbm) (x : Pass) : Bool :=
  match x.kind with
  | .rekey | .sessionRekey =>
    !h.running (fun y => decide (y.kind = .migrate) || (decide (y.part = x.part) && decide (y.kind = .rekey ∨ y.kind = .sessionRekey)))
  | .migrate => !h.running (fun y => decide (y.kind = .rekey ∨ y.kind = .sessionRekey))
  | _ => true

/-- The lowest free context of the four. -/
def Hbm.freeCtx (h : Hbm) : Option Nat := (List.range 4).find? fun i => decide (Store.get none h.passes i = none)

/-- The first waiting pass that may start, and the others. -/
def Hbm.takeWaiting (h : Hbm) : List Pass → List Pass → Option (Pass × List Pass)
  | _, [] => none
  | seen, x :: rest => if h.mayStart x then some (x, seen.reverse ++ rest) else Hbm.takeWaiting h (x :: seen) rest

/-- A waiting pass takes a free context (R247); a re-key now loads NEXT_SLOT if another pass held it. -/
def Hbm.startPass (h : Hbm) : Option Hbm := do
  let i ← h.freeCtx
  let (x, rest) ← h.takeWaiting [] h.waiting
  let h1 := { h with waiting := rest, passes := Store.set none h.passes i (some x) }
  match x.kind with
  | .rekey | .sessionRekey => some (h1.updPart x.part fun mp => { mp with nextSlot := x.slot, nextValid := true })
  | _ => some h1

/-- The context whose pass satisfies a test. -/
def Hbm.findPass (h : Hbm) (f : Pass → Bool) : Option (Nat × Pass) :=
  (List.range 4).findSome? fun i => match Store.get none h.passes i with
    | some x => if f x then some (i, x) else none
    | none => none

def Hbm.endPass (h : Hbm) (i : Nat) : Hbm := { h with passes := Store.set none h.passes i none }

/-- Every line of granule g zero, counters 0, fences and losses in it gone (R238, R247). -/
def Hbm.zeroGran (h : Hbm) (g : Nat) : Hbm :=
  { h with lines := Store.clear h.lines (g * 2 ^ 18) (2 ^ 18)
           ctrs := Store.clear h.ctrs (g * 2 ^ 18) (2 ^ 18)
           fences := (h.fences.map (cutFence g)).flatten
           lost := h.lost.filter fun e => decide (e.2 ≠ g) }

/-- Granules in a state, ascending. -/
def Hbm.gransIn (h : Hbm) (f : Gran → Bool) : List Nat := (List.range 1013).filter fun g => f (h.gran g)

/-- CARVE (Table 9.13). -/
def Hbm.carve (h : Hbm) (p g slot : Nat) (fw : Bool) : Hbm :=
  if (h.gran g).state ≠ .free ∨ 1013 ≤ g then { h with lastStatus := .noResource }
  else
    let h1 := h.setGran g ⟨.filling, if fw then 0 else p, if fw then .firmware else .prot⟩
    let h2 := { h1 with waiting := h1.waiting ++ [⟨.fill, p, g, 0, 0⟩], lastStatus := .done }
    if fw then h2
    else h2.updPart p fun mp =>
      let base := if mp.gone then { mp with gone := false, revoked := false, exhausted := false } else mp
      if base.curValid then base else { base with curSlot := slot, curValid := true, epoch := 0 }

/-- WIPE (Table 9.13). -/
def Hbm.wipe (h : Hbm) (g : Nat) : Hbm :=
  let x := h.gran g
  if 1013 ≤ g then { h with lastStatus := .noResource }
  else match x.state with
  | .prot | .firmware | .staging | .reserve =>
    let h1 := h.setGran g ⟨.wiping, x.owner, .free⟩
    { h1 with waiting := h1.waiting ++ [⟨.wipe, x.owner, g, 0, 0⟩], lastStatus := .done }
  | _ => { h with lastStatus := .noResource }

/-- STAGE (Table 9.13). -/
def Hbm.stage (h : Hbm) (p g : Nat) : Hbm :=
  if (h.gran g).state ≠ .free ∨ 1013 ≤ g then { h with lastStatus := .noResource }
  else
    let h1 := h.setGran g ⟨.filling, p, .staging⟩
    { h1 with waiting := h1.waiting ++ [⟨.fill, p, g, 0, 0⟩], lastStatus := .done }

/-- WIPE of a granule of a partition in removal: a granule still FILLING gives up its FILL first (R310 action 5). -/
def Hbm.wipeGone (h : Hbm) (g : Nat) : Hbm :=
  if (h.gran g).state = .filling then
    let mine := fun (x : Pass) => decide (x.kind = .fill ∧ x.index = g)
    let h1 : Hbm := { h with
      waiting := h.waiting.filter (fun x => !mine x)
      passes := h.passes.filter fun e => match e.2 with
        | some x => !mine x
        | none => true }
    ({ h1 with waiting := h1.waiting ++ [(⟨.wipe, (h.gran g).owner, g, 0, 0⟩ : Pass)], lastStatus := .done } : Hbm).setGran g ⟨.wiping, (h.gran g).owner, .free⟩
  else h.wipe g

/-- UNSTAGE (Table 9.13). -/
def Hbm.unstage (h : Hbm) (g : Nat) : Hbm :=
  let x := h.gran g
  if x.state ≠ .staging then { h with lastStatus := .noResource }
  else
    let h1 := h.setGran g ⟨.filling, x.owner, .free⟩
    { h1 with waiting := h1.waiting ++ [⟨.fill, x.owner, g, 0, 0⟩], lastStatus := .done }

/-- NEXT_SLOT takes a slot, unless an earlier pass still moves to it (Table 9.13, R247). -/
def Hbm.loadNext (h : Hbm) (p slot : Nat) : Hbm := if (h.part p).nextValid then h else h.updPart p fun mp => { mp with nextSlot := slot, nextValid := true }

/-- REKEY (Table 9.13, R246). -/
def Hbm.rekey (h : Hbm) (p slot : Nat) : Hbm :=
  if (h.part p).epoch = 255 then { h.updPart p fun mp => { mp with exhausted := true } with lastStatus := .counterExhausted }
  else
    let h1 : Hbm := h.loadNext p slot
    { h1 with waiting := h1.waiting ++ [(⟨.rekey, p, 0, slot, 0⟩ : Pass)], lastStatus := .done }

/-- SESSION_REKEY (Table 9.13). -/
def Hbm.sessionRekey (h : Hbm) (p slot : Nat) : Hbm :=
  let h1 : Hbm := h.loadNext p slot
  { h1 with waiting := h1.waiting ++ [(⟨.sessionRekey, p, 0, slot, 0⟩ : Pass)], lastStatus := .done }

/-- REVOKE (R250): the partition's re-key passes stop, its key marks clear, and it is revoked. -/
def Hbm.revoke (h : Hbm) (p : Nat) : Hbm :=
  let re := fun (x : Pass) => decide (x.part = p) && decide (x.kind = .rekey ∨ x.kind = .sessionRekey)
  let keep := fun (o : Option Pass) => match o with
    | some x => !re x
    | none => true
  { h with passes := h.passes.filter (fun e => keep e.2), waiting := h.waiting.filter (fun x => !re x), lastStatus := .done }.updPart p
    fun mp => { mp with curValid := false, nextValid := false, revoked := true, early := [], refused := 0 }

/-- End of a FILL over granule g (R249). -/
def Hbm.fillEnd (h : Hbm) (g : Nat) : Option Hbm := do
  let (i, _) ← h.findPass fun x => decide (x.kind = .fill) && decide (x.index = g)
  let x := h.gran g
  let h1 := (h.endPass i).zeroGran g
  some (h1.setGran g (if x.next = .free then .free else ⟨x.next, x.owner, x.next⟩))

/-- End of a WIPE over granule g; the last granule of a revoked partition makes it GONE (R250). -/
def Hbm.wipeEnd (h : Hbm) (g : Nat) : Option Hbm := do
  let (i, _) ← h.findPass fun x => decide (x.kind = .wipe) && decide (x.index = g)
  let p := (h.gran g).owner
  let h1 := ((h.endPass i).zeroGran g).setGran g .free
  let left := h1.gransIn fun x => decide (x.owner = p) && decide (x.state = .prot ∨ x.state = .wiping ∨ x.state = .staging ∨ x.state = .filling)
  if (h1.part p).revoked && left.isEmpty then some (h1.updPart p fun mp => { mp with gone := true }) else some h1

/-- End of a re-key pass of partition p: every page is under NEXT_SLOT with counters 0 (R243, R248). Also the slot to zeroize. -/
def Hbm.rekeyEnd (h : Hbm) (p : Nat) : Option (Hbm × Nat × Bool) := do
  let (i, x) ← h.findPass fun x => decide (x.part = p) && decide (x.kind = .rekey ∨ x.kind = .sessionRekey)
  let session := decide (x.kind = .sessionRekey)
  let old := (h.part p).curSlot
  let early := (h.part p).early
  let mine := h.gransIn fun y => decide (y.state = .prot) && decide (y.owner = p)
  let h1 := { h.endPass i with ctrs := h.ctrs.filter fun e => early.contains e.1 || !mine.contains (e.1 / 2 ^ 18) }
  some (h1.updPart p fun mp =>
    { mp with curSlot := mp.nextSlot, curValid := true, nextValid := false, early := [],
              epoch := if session then 0 else mp.epoch + 1,
              exhausted := if session then false else mp.exhausted }, old, session)

/-- Retirements counted against the limits of R255. -/
def Hbm.retiredCount (h : Hbm) : Nat := h.retired.length + h.retiring.length + h.held.length

def Hbm.stackRetired (h : Hbm) (stack : Nat) : Nat :=
  ((h.retired ++ h.retiring).filter fun e => decide (e.1 % 16 = stack)).length + (h.held.filter fun e => decide (e.1 % 16 = stack)).length

/-- Already retired or on the way. -/
def Hbm.isRetired (h : Hbm) (c : Nat) : Bool :=
  (h.retired ++ h.retiring).any (fun e => decide (e.1 = c)) || h.held.any fun e => decide (e.1 = c)

/-- The granule a retirement takes (R255). -/
def Hbm.retireGran (h : Hbm) : Option Nat :=
  match (h.gransIn fun g => decide (g.state = .reserve)).getLast? with
  | some g => some g
  | none => (h.gransIn fun g => decide (g.state = .free)).getLast?

/-- (base pseudo-channel, granule) pairs whose slots lie on c now. -/
def Hbm.slotsOn (h : Hbm) (c : Nat) : List (Nat × Nat) :=
  ((c :: h.retired.map Prod.fst).map fun b => ((List.range 1013).filter fun g =>
    decide ((resolveSlot h.retired (h.retired.length + 1) b (256 * g)).map Prod.fst = some c)).map fun g => (b, g)).flatten

/-- Lines of pairs (pseudo-channel, granule) forgotten: they read poisoned from now on (R258). -/
def Hbm.lose (h : Hbm) (pairs : List (Nat × Nat)) : Hbm :=
  { h with lost := h.lost ++ pairs.filter (fun e => !h.lost.contains e)
           lines := h.lines.filter fun e => !pairs.contains ((decodeDpa (e.1 * 4096)).pc, granOf (e.1 * 4096)) }

/-- Proceed with a retirement of c: into granule w by MIGRATE, or at once when c does not respond (R255, R258). -/
def Hbm.retireInto (h : Hbm) (c w : Nat) (dead : Bool) : Hbm :=
  let h0 := h.setGran w ⟨.withdrawn, 0, .withdrawn⟩
  let h1 : Hbm := { h0 with
    lastPc := c, reserveLeft := if (h.gran w).state = .reserve then h.reserveLeft - 1 else h.reserveLeft }
  if dead then
    let h2 := h1.lose (h1.slotsOn c)
    { h2 with retired := h2.retired ++ [(c, w)], dead := h2.dead.filter (fun x => decide (x ≠ c)) }
  else { h1 with retiring := h1.retiring ++ [(c, w)], waiting := h1.waiting ++ [⟨.migrate, 0, c, 0, 0⟩] }

/-- RETIRE (R253, R255): status, and whether the limits refused it. -/
def Hbm.retire (h : Hbm) (c : Nat) (dead : Bool) : Hbm × Bool :=
  let h0 := if dead && !h.dead.contains c then { h with dead := c :: h.dead } else h
  if h0.isRetired c then ({ h0 with lastStatus := .done }, false)
  else if 32 ≤ h0.retiredCount ∨ 8 ≤ h0.stackRetired (c % 16) then ({ h0 with lastStatus := .noResource }, true)
  else match h0.retireGran with
    | some w => ({ h0.retireInto c w dead with lastStatus := .done }, false)
    | none => ({ h0 with held := h0.held ++ [(c, dead)], lastStatus := .done }, false)

/-- A held retirement proceeds when a granule is FREE (R255). -/
def Hbm.resume (h : Hbm) : Option Hbm :=
  match h.held with
  | [] => none
  | (c, dead) :: rest => match h.retireGran with
    | some w => some ({ h with held := rest }.retireInto c w dead)
    | none => none

/-- End of a MIGRATE over c; lines that could not be read are poisoned at their new slots (R258). -/
def Hbm.migrateEnd (h : Hbm) (c : Nat) (unreadable : List Nat) : Option Hbm := do
  let (i, _) ← h.findPass fun x => decide (x.kind = .migrate) && decide (x.index = c)
  let e ← h.retiring.find? fun e => decide (e.1 = c)
  let h1 := { h.endPass i with retired := h.retired ++ [e], retiring := h.retiring.filter fun x => decide (x.1 ≠ c) }
  some (unreadable.foldl (fun acc dpa =>
    if ((decodeDpa dpa).pc) = c then acc.setLine dpa .poisoned else acc) h1)

/-- What the scrubber found at a line (R252). -/
inductive ScrubFind where
  | good | corrected | uncorrectable | metadata (level : Nat)
  deriving DecidableEq, Repr

/-- Phase 3 marks the granules: after the retirements' granules, RESERVE from the highest remaining down (R255), then the F firmware granules just below (R226, R444). -/
def Hbm.markPhase3 (h : Hbm) : Hbm :=
  let frees := (h.gransIn fun g => decide (g.state = .free)).reverse
  let res := frees.take h.reserve
  let fw := (frees.drop h.reserve).take 4
  let h1 : Hbm := res.foldl (fun (acc : Hbm) g => acc.setGran g ⟨.reserve, 0, .reserve⟩) h
  let h2 : Hbm := fw.foldl (fun (acc : Hbm) g => acc.setGran g ⟨.firmware, 0, .firmware⟩) h1
  { h2 with reserveLeft := res.length }

/-! ### The canonical form of the memory -/

/-- What an unlisted line of a page reads as. -/
def Hbm.blankIn (h : Hbm) (page : Nat) : HLine := h.blankLine (page * 4096)

/-- The memory's canonical form: pages of the address space and lines strictly rise, no page is empty, and no line is listed that reads as an unlisted one. -/
def Memory.wf (h : Hbm) : Bool :=
  Store.wf [] h.lines && h.lines.all fun e => decide (e.1 < 2 ^ 28) && Store.wf none e.2 && e.2.all fun l => decide (l.2 ≠ some (h.blankIn e.1))

end Sys2Proof.Machine
end

