-- ==== Sys2Proof/Machine/Mxe.lean ====
section
/-! DEFINITION. The matrix engine: descriptor and checks (R104 to R106), block layout (R97), passes, banks and scales (R83 to R87, R96, R100 to R102), write-out (R84, R107), masks (R114, R115) and the cycles a record's passes take (R109). -/

namespace Sys2Proof.Machine

/-- A matrix descriptor, field by field (Table 4.2). -/
structure MxeDesc where
  aFmt : Nat
  bFmt : Nat
  oFmt : Nat
  ta : Bool
  tb : Bool
  ovf : Bool
  wmode : Nat
  banks : Nat
  clear : Bool
  mask : Nat
  aLoc : Bool
  bLoc : Bool
  oLoc : Bool
  m : Nat
  k : Nat
  n : Nat
  aOff : Nat
  bOff : Nat
  oOff : Nat
  maskOff : Nat
  saOff : Nat
  saEn : Bool
  sbOff : Nat
  sbEn : Bool
  soOff : Nat
  soEn : Bool
  /-- Some reserved bit is 1. -/
  reserved : Bool
  deriving DecidableEq, Repr

/-- Read the 512 bits of a descriptor (Table 4.2). -/
def MxeDesc.ofBits (v : Nat) : MxeDesc where
  aFmt := bits v 0 4
  bFmt := bits v 4 4
  oFmt := bits v 8 4
  ta := bit v 12
  tb := bit v 13
  ovf := bit v 14
  wmode := bits v 15 2
  banks := bits v 17 4
  clear := bit v 21
  mask := bits v 22 2
  aLoc := bit v 24
  bLoc := bit v 25
  oLoc := bit v 26
  m := bits v 32 16
  k := bits v 48 16
  n := bits v 64 16
  aOff := bits v 128 22
  bOff := bits v 160 22
  oOff := bits v 192 22
  maskOff := bits v 224 22
  saOff := bits v 256 22
  saEn := bit v 278
  sbOff := bits v 288 22
  sbEn := bit v 310
  soOff := bits v 320 22
  soEn := bit v 342
  reserved := decide (bits v 27 5 ≠ 0 ∨ bits v 80 48 ≠ 0 ∨ bits v 150 10 ≠ 0 ∨ bits v 182 10 ≠ 0 ∨ bits v 214 10 ≠ 0 ∨
    bits v 246 10 ≠ 0 ∨ bits v 279 9 ≠ 0 ∨ bits v 311 9 ≠ 0 ∨ bits v 343 169 ≠ 0)

/-- Operand pairs of Table 3.7: the same element width, and FP4 only with itself. -/
def mxePair (a b : Fmt) : Bool := decide (a.bits = b.bits)

/-- Bytes of a stored R x C matrix in block layout, padded blocks included (R97). -/
def blockBytes (f : Fmt) (rows cols : Nat) : Nat := ceilDiv rows 128 * ceilDiv cols 128 * 2048 * f.bits

/-- Bytes of the mask (R114). -/
def MxeDesc.maskBytes (d : MxeDesc) : Nat :=
  if d.mask = 1 then ceilDiv d.m 8 else if d.mask = 2 then ceilDiv (ceilDiv d.m 128) 8 else 0

/-- Bit i of a bit string at a byte offset of the scratchpad (R114, R126). -/
def maskBit (m : TileMem) (off i : Nat) : Bool :=
  let byte := off + i / 8
  bit (m.word (byte / 4)).bits.toNat (8 * (byte % 4) + i % 8)

/-- Row i of A and O is computed (R114). -/
def MxeDesc.keeps (d : MxeDesc) (m : TileMem) (i : Nat) : Bool :=
  if d.mask = 1 then maskBit m d.maskOff i else if d.mask = 2 then maskBit m d.maskOff (i / 128) else true

/-- Rows of output block-row bi that the mask leaves in. -/
def MxeDesc.rowsOf (d : MxeDesc) (m : TileMem) (bi : Nat) : List Nat :=
  ((List.range (min 128 (d.m - 128 * bi))).map (· + 128 * bi)).filter (d.keeps m)

/-- The output blocks that are computed, row-major (R96), blocks whose rows are all masked left out (R115). -/
def MxeDesc.blocks (d : MxeDesc) (m : TileMem) : List (Nat × Nat) :=
  ((List.range (ceilDiv d.m 128)).map fun bi =>
    if (d.rowsOf m bi).isEmpty then [] else (List.range (ceilDiv d.n 128)).map fun bj => (bi, bj)).flatten

/-- Banks selected, in ascending number (R100). -/
def MxeDesc.selected (d : MxeDesc) : List Nat := (List.range 4).filter fun b => bit d.banks b

/-- Operand, mask and scale regions: stash or scratchpad, offset, bytes (R97, R98, R106). -/
def MxeDesc.reads (d : MxeDesc) (fa fb : Fmt) : List (Bool × Nat × Nat) :=
  [(d.aLoc, d.aOff, if d.ta then blockBytes fa d.k d.m else blockBytes fa d.m d.k),
   (d.bLoc, d.bOff, if d.tb then blockBytes fb d.n d.k else blockBytes fb d.k d.n)] ++
  (if d.mask = 0 then [] else [(false, d.maskOff, d.maskBytes)]) ++
  (if d.saEn then [(false, d.saOff, 4)] else []) ++
  (if d.sbEn then [(false, d.sbOff, 4)] else []) ++
  (if d.soEn then [(false, d.soOff, 4)] else [])

/-- Output format: FP32 in ACCUM, O_FMT in WRITE, none in NONE (Table 4.3). -/
def MxeDesc.outFmt (d : MxeDesc) : Option Fmt := if d.wmode = 2 then none else Fmt.ofCode d.oFmt

/-- Output region, none in NONE. -/
def MxeDesc.writes (d : MxeDesc) : List (Bool × Nat × Nat) :=
  match d.outFmt with
  | some f => [(d.oLoc, d.oOff, blockBytes f d.m d.n)]
  | none => []

/-- A breach of the encoding rules: first three groups of R106, the R102 count of blocks given apart. -/
def MxeDesc.malformed (d : MxeDesc) : Bool :=
  d.reserved || decide (d.wmode = 3) || decide (d.mask = 3) || decide (d.m = 0) || decide (d.k = 0) || decide (d.n = 0) ||
  decide (d.banks = 0) ||
  (match Fmt.ofCode d.aFmt, Fmt.ofCode d.bFmt with
   | some a, some b => !mxePair a b
   | _, _ => true) ||
  (decide (d.wmode ≠ 2) && (Fmt.ofCode d.oFmt).isNone) ||
  decide (d.aOff % 64 ≠ 0) || decide (d.bOff % 64 ≠ 0) || (decide (d.wmode ≠ 2) && decide (d.oOff % 64 ≠ 0)) ||
  (decide (d.mask ≠ 0) && decide (d.maskOff % 64 ≠ 0)) ||
  (d.saEn && decide (d.saOff % 4 ≠ 0)) || (d.sbEn && decide (d.sbOff % 4 ≠ 0)) || (d.soEn && decide (d.soOff % 4 ≠ 0)) ||
  (decide (d.wmode = 1) && (decide (d.oFmt ≠ 0) || d.oLoc)) || (d.aLoc && d.bLoc)

/-- A region lies in its memory. -/
def regionFits (r : Bool × Nat × Nat) : Bool := decide (r.2.1 + r.2.2 ≤ locBytes r.1)

/-- Two regions share a byte of one memory. -/
def regionsMeet (r q : Bool × Nat × Nat) : Bool := decide (r.1 = q.1) && overlaps r.2.1 r.2.2 q.2.1 q.2.2

/-- Status of the checks of R106 (DONE when all hold), in the order R106 lists them; the block count of R102 is judged at issue only. -/
def MxeDesc.check (d : MxeDesc) (t : Tile) (issue : Bool) : Status :=
  match Fmt.ofCode d.aFmt, Fmt.ofCode d.bFmt with
  | some fa, some fb =>
    let rd := d.reads fa fb
    let wr := d.writes
    if d.malformed then .versionUnsupported
    else if issue && decide (d.wmode = 2) && decide ((d.blocks t.mem).length > d.selected.length) then .versionUnsupported
    else if !(rd ++ wr).all regionFits then .accessDenied
    else if (rd ++ wr).any (fun r => !r.1 && t.inQueueArea r.2.1 r.2.2) then .accessDenied
    else if wr.any (fun r => !r.1 && t.guarded r.2.1 r.2.2) then .accessDenied
    else if wr.any (fun w => rd.any (regionsMeet w)) then .versionUnsupported
    else .done
  | _, _ => .versionUnsupported

/-- Element (i, j) of a stored matrix of cols columns in block layout (R97). -/
def blockElem (f : Fmt) (m : Store TWord) (off cols i j : Nat) : Nat × Bool :=
  let e := ((i / 128) * ceilDiv cols 128 + j / 128) * 16384 + (i % 128) * 128 + j % 128
  let x := Store.get TWord.zero m (off / 4 + e / f.perWord)
  (elemOf f x.bits (e % f.perWord), x.poison)

/-- Word at which row i of block column bj begins (R97). -/
def blockRowWord (f : Fmt) (off cols i bj : Nat) : Nat :=
  off / 4 + (((i / 128) * ceilDiv cols 128 + bj) * 16384 + (i % 128) * 128) / f.perWord

/-- A(i, k) as a value (R98). -/
def MxeDesc.aVal (d : MxeDesc) (f : Fmt) (m : TileMem) (i k : Nat) : F Num :=
  let c := if d.ta then blockElem f (m.loc d.aLoc) d.aOff d.m k i else blockElem f (m.loc d.aLoc) d.aOff d.k i k
  readNum f c.1 c.2

/-- B(k, j) as a value (R98). -/
def MxeDesc.bVal (d : MxeDesc) (f : Fmt) (m : TileMem) (k j : Nat) : F Num :=
  let c := if d.tb then blockElem f (m.loc d.bLoc) d.bOff d.k j k else blockElem f (m.loc d.bLoc) d.bOff d.n k j
  readNum f c.1 c.2

/-- One level of the adder tree: neighbours added, each addition rounded (R87). -/
def treeLevel : List Num → F (List Num)
  | x :: y :: r => do
    let s ← fadd x y
    let rest ← treeLevel r
    pure (s :: rest)
  | [x] => pure [x]
  | [] => pure []

/-- The depth-7 tree over 128 values (R87). -/
def treeSum : Nat → List Num → F Num
  | 0, xs => pure (xs.headD .zero)
  | d + 1, xs => do treeSum d (← treeLevel xs)

/-- The products in the order the tree takes them: free (R87), a permutation of their positions; with two products or fewer every order gives the same sum. -/
def treePermute (order : List Nat) (xs : List Num) : List Num :=
  if xs.length ≤ 2 then xs
  else if decide (order.length = xs.length) && (List.range xs.length).all (fun i => order.contains i)
  then order.map fun i => xs.getD i .zero
  else xs

/-- One slice of up to 128 products for one output element (R86, R87, R95, R99). -/
def MxeDesc.slice (d : MxeDesc) (fa fb : Fmt) (m : TileMem) (draw i j s : Nat) : F Num := do
  let ks := min 128 (d.k - 128 * s)
  let prods ← (List.range ks).mapM fun q => do
    let x ← d.aVal fa m i (128 * s + q)
    let y ← d.bVal fb m (128 * s + q) j
    let p ← mulX x y
    if fa = .fp32 then round32 p else pure p
  let ordered := treePermute (Config.treeOrder draw i j s) prods
  treeSum 7 (ordered ++ List.replicate (128 - ks) .zero)

/-- Index of bank element (r, c). -/
def bankWord (b r c : Nat) : Nat := 16384 * b + 128 * r + c

/-- A bank element as a value. -/
def bankVal (m : TileMem) (b r c : Nat) : F Num :=
  let w := Store.get TWord.zero m.banks (bankWord b r c)
  readNum .fp32 w.bits.toNat w.poison

/-- A value as an accumulator word: a NaN is canonical and poison-tagged (R70, R79). -/
def numWord (x : Num) : TWord := ⟨word32 x, decide (x = .nan)⟩

/-- Accumulate every slice into element (i, j) of a bank (R86, R101). -/
def MxeDesc.accumulate (d : MxeDesc) (fa fb : Fmt) (m : TileMem) (draw b i j : Nat) : F TWord := do
  let start ← bankVal m b (i % 128) (j % 128)
  let total ← (List.range (ceilDiv d.k 128)).foldlM (fun acc s => do
    let p ← d.slice fa fb m draw i j s
    fadd acc p) start
  pure (numWord total)

/-- acc * S exactly (R84). -/
def MxeDesc.outVal (d : MxeDesc) (m : TileMem) (b i j : Nat) : F Num := do
  let acc ← bankVal m b (i % 128) (j % 128)
  let sw := Store.get scaleOne m.scale b
  let p ← mulX acc (decodeElem .fp32 sw.toNat)
  if d.wmode = 1 then
    let c := blockElem .fp32 (m.loc d.oLoc) d.oOff d.n i j
    let o ← readNum .fp32 c.1 c.2
    addX o p
  else pure p

/-- Write out row i of an output block (R84, R99, R107). -/
def MxeDesc.writeOut (d : MxeDesc) (f : Fmt) (m : TileMem) (b i bj : Nat) : F TileMem := do
  let nb := min 128 (d.n - 128 * bj)
  let vals ← (List.range nb).mapM fun c => do
    let y ← d.outVal m b i (128 * bj + c)
    let e ← encodeMarked f d.ovf y
    pure (some e)
  pure (m.setLoc d.oLoc (writeRow f (m.loc d.oLoc) (blockRowWord f d.oOff d.n i bj) vals))

/-- Compute one output block into its bank and write it out (R96, R100, R101). -/
def MxeDesc.runBlock (d : MxeDesc) (fa fb : Fmt) (sw : Word) (draw b : Nat) (m : TileMem) (blk : Nat × Nat) : F TileMem := do
  let m0 : TileMem := { m with scale := Store.set scaleOne m.scale b sw,
                               banks := if d.clear then Store.clear m.banks (16384 * b) 16384 else m.banks }
  let rows := d.rowsOf m blk.1
  let nb := min 128 (d.n - 128 * blk.2)
  let m1 ← rows.foldlM (fun (acc : TileMem) i => do
    let ws ← (List.range nb).mapM fun c => d.accumulate fa fb acc draw b i (128 * blk.2 + c)
    pure { acc with banks := Store.setMany .zero acc.banks (bankWord b (i % 128) 0) ws }) m0
  match d.outFmt with
  | some f => rows.foldlM (fun acc i => d.writeOut f acc b i blk.2) m1
  | none => pure m1

/-- All blocks in order, block q on the (q mod b)-th selected bank (R100). -/
def MxeDesc.runBlocks (d : MxeDesc) (fa fb : Fmt) (sw : Word) (draw : Nat) : Nat → TileMem → List (Nat × Nat) → F TileMem
  | _, m, [] => pure m
  | q, m, blk :: rest => do
    let b := d.selected.getD (q % d.selected.length) 0
    let m' ← d.runBlock fa fb sw draw b m blk
    MxeDesc.runBlocks d fa fb sw draw (q + 1) m' rest

/-- S = sA * sB / sO, each operation rounded (R83). -/
def MxeDesc.scaleWord (d : MxeDesc) (m : TileMem) : F Word := do
  let sa ← readScale m d.saEn d.saOff
  let sb ← readScale m d.sbEn d.sbOff
  let so ← readScale m d.soEn d.soOff
  let p ← fmul sa sb
  let s ← fdiv p so
  pure (word32 s)

/-- Cycles of m_u rows at the row rate of Table 4.1. -/
def rowCycles (f : Fmt) (mu : Nat) : Nat :=
  if f.bits = 32 then 2 * mu else if f.bits = 16 then mu else if f.bits = 8 then ceilDiv mu 2 else ceilDiv mu 4

/-- The passes of a record in order: rows left in, k_s, n_b (R96, R115). -/
def MxeDesc.passes (d : MxeDesc) (m : TileMem) : List (Nat × Nat × Nat) :=
  ((d.blocks m).map fun blk => (List.range (ceilDiv d.k 128)).map fun s =>
    ((d.rowsOf m blk.1).length, min 128 (d.k - 128 * s), min 128 (d.n - 128 * blk.2))).flatten

/-- Cycles in which the passes run: each the longer of its rows and the load of the next pass's B block (R109). -/
def passCycles (f : Fmt) : List (Nat × Nat × Nat) → Nat
  | [] => 0
  | p :: rest =>
    let load := match rest with
      | q :: _ => ceilDiv (q.2.1 * q.2.2 * f.bits) 2048
      | [] => 0
    max (rowCycles f p.1) load + passCycles f rest

/-- MACs on values (Table 4.12). -/
def MxeDesc.macCount (d : MxeDesc) (m : TileMem) : Nat :=
  (d.passes m).foldl (fun acc p => acc + p.1 * p.2.1 * p.2.2) 0

/-- What issuing a matrix record does to a tile: memories, flags, cycles, MACs and the status it will complete with (R104 to R107). -/
structure MxeResult where
  mem : TileMem
  flags : Flags
  cycles : Nat
  macs : Nat
  banks : Nat
  status : Status
  deriving DecidableEq, Repr

/-- Run one matrix descriptor at scratchpad offset off. A record that fails a check changes nothing (R106). -/
def runMxe (t : Tile) (off draw : Nat) : MxeResult :=
  let ws := t.mem.spWords off 16
  let d := MxeDesc.ofBits (wordsNat (ws.map TWord.bits))
  let refuse := fun (st : Status) => (⟨t.mem, t.mxe.flags, 0, 0, 0, st⟩ : MxeResult)
  let st := if t.inQueueArea off 64 then .accessDenied else d.check t true
  if st ≠ .done then refuse st
  else if ws.any TWord.poison then refuse .poison
  else if decide (d.mask ≠ 0) && (t.mem.spWords d.maskOff (ceilDiv d.maskBytes 4)).any TWord.poison then refuse .poison
  else match Fmt.ofCode d.aFmt, Fmt.ofCode d.bFmt with
    | some fa, some fb =>
      let run : F TileMem := do
        let sw ← d.scaleWord t.mem
        d.runBlocks fa fb sw draw 0 t.mem (d.blocks t.mem)
      let r := run.run t.mxe.flags
      ⟨r.1, r.2, passCycles fb (d.passes t.mem), d.macCount t.mem, d.banks, .done⟩
    | _, _ => refuse .versionUnsupported

end Sys2Proof.Machine
end

