-- ==== Sys2Proof/Machine/VecDesc.lean ====
section
/-! DEFINITION. The vector descriptor (R119 to R122), the operations of Table 5.3 with their lane work, and the checks of R130. -/

namespace Sys2Proof.Machine

/-- Operations of Table 5.3. -/
inductive VecOp where
  | copy | neg | abs | scale | relu
  | add | sub | mul | max | min | axpby | fma
  | exp | log | rsqrt | recip | sqrt | div | gelu | silu
  | rsum | rsumsq | rmax | rmin | ramax | csum
  | softmax | softmaxBwd | lnorm | rmsnorm | lnormBwd | rmsnormBwd
  | menc1 | mdec1 | menc2 | mdec2
  | optim | gstat
  deriving DecidableEq, Repr

/-- OP values of Table 5.3. -/
def VecOp.code : VecOp → Nat
  | .copy => 0x01 | .neg => 0x02 | .abs => 0x03 | .scale => 0x04 | .relu => 0x05
  | .add => 0x10 | .sub => 0x11 | .mul => 0x12 | .max => 0x13 | .min => 0x14 | .axpby => 0x15 | .fma => 0x16
  | .exp => 0x20 | .log => 0x21 | .rsqrt => 0x22 | .recip => 0x23 | .sqrt => 0x24 | .div => 0x25 | .gelu => 0x26 | .silu => 0x27
  | .rsum => 0x30 | .rsumsq => 0x31 | .rmax => 0x32 | .rmin => 0x33 | .ramax => 0x34 | .csum => 0x35
  | .softmax => 0x40 | .softmaxBwd => 0x41 | .lnorm => 0x42 | .rmsnorm => 0x43 | .lnormBwd => 0x44 | .rmsnormBwd => 0x45
  | .menc1 => 0x50 | .mdec1 => 0x51 | .menc2 => 0x52 | .mdec2 => 0x53
  | .optim => 0x70 | .gstat => 0x71

/-- Every operation, in the order of Table 5.3. -/
def VecOp.all : List VecOp :=
  [.copy, .neg, .abs, .scale, .relu, .add, .sub, .mul, .max, .min, .axpby, .fma, .exp, .log, .rsqrt, .recip, .sqrt, .div, .gelu, .silu,
   .rsum, .rsumsq, .rmax, .rmin, .ramax, .csum, .softmax, .softmaxBwd, .lnorm, .rmsnorm, .lnormBwd, .rmsnormBwd,
   .menc1, .mdec1, .menc2, .mdec2, .optim, .gstat]

/-- The operation of an OP value; reserved values give none. -/
def VecOp.ofCode (n : Nat) : Option VecOp := VecOp.all.find? fun o => decide (o.code = n)

/-- Lane work per element: arithmetic, compare or movement, transcendental (Table 5.3, R165, R174). -/
def VecOp.lanes : VecOp → Nat × Nat × Nat
  | .copy | .neg | .abs | .relu | .max | .min | .rmax | .rmin | .ramax => (0, 1, 0)
  | .scale | .add | .sub | .mul | .fma | .rsum | .rsumsq | .csum | .mdec1 => (1, 0, 0)
  | .axpby | .mdec2 => (2, 0, 0)
  | .exp | .log | .rsqrt | .recip | .sqrt | .div => (0, 0, 1)
  | .gelu => (4, 0, 2)
  | .silu => (2, 0, 2)
  | .softmax => (3, 1, 1)
  | .softmaxBwd | .rmsnorm => (3, 0, 0)
  | .lnorm | .rmsnormBwd => (6, 0, 0)
  | .lnormBwd => (8, 0, 0)
  | .menc1 => (2, 1, 0)
  | .menc2 => (2, 1, 1)
  | .optim => (12, 3, 2)
  | .gstat => (3, 2, 0)

/-- Sources that the operation takes (Table 5.3, R128, R129, R140, R164, R171). -/
def VecOp.sources : VecOp → Nat
  | .add | .sub | .mul | .max | .min | .axpby | .div | .softmaxBwd | .rmsnorm => 2
  | .fma | .lnorm | .lnormBwd | .rmsnormBwd | .optim => 3
  | _ => 1

/-- Element-wise operations, OP 0x01 to 0x27 (R126). -/
def VecOp.elementWise (o : VecOp) : Bool := decide (o.code < 0x30)

/-- Row operations, OP 0x30 to 0x45 (R130). -/
def VecOp.rowOp (o : VecOp) : Bool := decide (0x30 ≤ o.code) && decide (o.code ≤ 0x45)

/-- RSUM to RAMAX. -/
def VecOp.rowReduce (o : VecOp) : Bool := decide (0x30 ≤ o.code) && decide (o.code ≤ 0x34)

/-- The four normalisations. -/
def VecOp.norm (o : VecOp) : Bool := decide (0x42 ≤ o.code) && decide (o.code ≤ 0x45)

/-- The block forms (R129). -/
def VecOp.block (o : VecOp) : Bool := decide (0x50 ≤ o.code) && decide (o.code ≤ 0x53)

/-- MASK_EN may be 1 (R126, R164). -/
def VecOp.maskable (o : VecOp) : Bool :=
  o.elementWise || o.rowReduce || decide (o = .csum ∨ o = .softmax ∨ o = .softmaxBwd ∨ o = .gstat)

/-- RFLAG_EN may be 1 (R139). -/
def VecOp.flaggable (o : VecOp) : Bool := o.rowReduce || decide (o = .softmax ∨ o = .softmaxBwd) || o.norm

/-- An operand block (Table 5.2). -/
structure VecOperand where
  off : Nat
  rstride : Int
  pstride : Int
  scOff : Nat
  scEn : Bool
  reserved : Bool
  /-- All 128 bits, for an operand the operation does not take (R120). -/
  raw : Nat
  deriving DecidableEq, Repr

def VecOperand.ofBits (v : Nat) : VecOperand where
  off := bits v 0 22
  rstride := signed 32 (bits v 32 32)
  pstride := signed 32 (bits v 64 32)
  scOff := bits v 96 22
  scEn := bit v 118
  reserved := decide (bits v 22 10 ≠ 0 ∨ bits v 119 9 ≠ 0)
  raw := v

/-- A vector descriptor (Table 5.1). -/
structure VecDesc where
  op : Nat
  dFmt : Nat
  s0Fmt : Nat
  s1Fmt : Nat
  s2Fmt : Nat
  ovf : Bool
  dLoc : Nat
  s0Loc : Nat
  s1Loc : Nat
  s2Loc : Nat
  maskEn : Bool
  rflagEn : Bool
  statEn : Bool
  statLoc : Bool
  cols : Nat
  rows : Nat
  planes : Nat
  d : VecOperand
  s0 : VecOperand
  s1 : VecOperand
  s2 : VecOperand
  maskOff : Nat
  maskStride : Nat
  rflagOff : Nat
  statOff : Nat
  imm0 : Word
  imm1 : Word
  opx : Nat
  reserved : Bool
  deriving DecidableEq, Repr

/-- Read the 1,024 bits of a descriptor (Table 5.1). -/
def VecDesc.ofBits (v : Nat) : VecDesc where
  op := bits v 0 8
  dFmt := bits v 8 4
  s0Fmt := bits v 12 4
  s1Fmt := bits v 16 4
  s2Fmt := bits v 20 4
  ovf := bit v 24
  dLoc := bits v 25 2
  s0Loc := bits v 27 2
  s1Loc := bits v 29 2
  s2Loc := bits v 31 2
  maskEn := bit v 33
  rflagEn := bit v 34
  statEn := bit v 35
  statLoc := bit v 36
  cols := bits v 48 16
  rows := bits v 64 16
  planes := bits v 80 16
  d := .ofBits (bits v 128 128)
  s0 := .ofBits (bits v 256 128)
  s1 := .ofBits (bits v 384 128)
  s2 := .ofBits (bits v 512 128)
  maskOff := bits v 640 22
  maskStride := bits v 672 32
  rflagOff := bits v 704 22
  statOff := bits v 736 22
  imm0 := BitVec.ofNat 32 (bits v 768 32)
  imm1 := BitVec.ofNat 32 (bits v 800 32)
  opx := bits v 832 192
  reserved := decide (bits v 37 11 ≠ 0 ∨ bits v 96 32 ≠ 0 ∨ bits v 662 10 ≠ 0 ∨ bits v 726 10 ≠ 0 ∨ bits v 758 10 ≠ 0)

/-- OPTIM fields of OPX (R171). -/
def VecDesc.mOut (d : VecDesc) : Nat := bits d.opx 0 22
def VecDesc.vIn (d : VecDesc) : Nat := bits d.opx 32 22
def VecDesc.vOut (d : VecDesc) : Nat := bits d.opx 64 22
def VecDesc.w16Off (d : VecDesc) : Nat := bits d.opx 96 22
def VecDesc.w16En (d : VecDesc) : Bool := bit d.opx 118
def VecDesc.hpOff (d : VecDesc) : Nat := bits d.opx 128 22

/-- GSTAT's GLID (R164). -/
def VecDesc.glid (d : VecDesc) : Nat := bits d.opx 0 12

/-- Source k: operand block, format code, LOC. -/
def VecDesc.src (d : VecDesc) (k : Nat) : VecOperand × Nat × Nat :=
  if k = 0 then (d.s0, d.s0Fmt, d.s0Loc) else if k = 1 then (d.s1, d.s1Fmt, d.s1Loc) else (d.s2, d.s2Fmt, d.s2Loc)

/-- Elements of the record. -/
def VecDesc.count (d : VecDesc) : Nat := d.planes * d.rows * d.cols

/-- Bytes a row of n elements takes (R120). -/
def vecRowBytes (f : Fmt) (n : Nat) : Nat := 4 * ceilDiv n f.perWord

/-- A strided region: rows of some bytes at two strides, with the element width that an in-place operand must share (R130). -/
structure VecRegion where
  stash : Bool
  off : Nat
  rowBytes : Nat
  rows : Nat
  planes : Nat
  rstride : Int
  pstride : Int
  width : Nat
  deriving DecidableEq, Repr

/-- One contiguous run. -/
def VecRegion.run (stash : Bool) (off n width : Nat) : VecRegion := ⟨stash, off, n, 1, 1, 0, 0, width⟩

/-- First byte of row r of plane p (R120). -/
def VecRegion.rowAt (g : VecRegion) (p r : Nat) : Int := (g.off : Int) + p * g.pstride + r * g.rstride

/-- Lowest and one past the highest byte: the corners of the strided box. -/
def VecRegion.low (g : VecRegion) : Int :=
  (g.off : Int) + min 0 (((g.planes : Int) - 1) * g.pstride) + min 0 (((g.rows : Int) - 1) * g.rstride)

def VecRegion.high (g : VecRegion) : Int :=
  (g.off : Int) + max 0 (((g.planes : Int) - 1) * g.pstride) + max 0 (((g.rows : Int) - 1) * g.rstride) + g.rowBytes

/-- The region lies in its memory. -/
def VecRegion.fits (g : VecRegion) : Bool := decide (0 ≤ g.low) && decide (g.high ≤ locBytes g.stash)

/-- First bytes of all rows. -/
def VecRegion.rowStarts (g : VecRegion) : List Int :=
  ((List.range g.planes).map fun p => (List.range g.rows).map fun r => g.rowAt p r).flatten

/-- Two regions share a byte. -/
def VecRegion.meets (g h : VecRegion) : Bool :=
  decide (g.stash = h.stash) && decide (g.low < h.high) && decide (h.low < g.high) &&
  g.rowStarts.any fun a => h.rowStarts.any fun b => decide (a < b + h.rowBytes) && decide (b < a + g.rowBytes)

/-- A row of the region satisfies a test on (offset, bytes). -/
def VecRegion.anyRow (g : VecRegion) (f : Nat → Nat → Bool) : Bool := g.rowStarts.any fun a => f a.toNat g.rowBytes

/-- The in-place exception of R130: same memory, OFF, strides in use and element size. -/
def VecRegion.inPlace (rows planes : Nat) (g h : VecRegion) : Bool :=
  decide (g.stash = h.stash ∧ g.off = h.off ∧ g.width = h.width ∧ (rows ≤ 1 ∨ g.rstride = h.rstride) ∧ (planes ≤ 1 ∨ g.pstride = h.pstride))

/-- The region of an operand that follows its strides. -/
def VecOperand.region (o : VecOperand) (stash : Bool) (f : Fmt) (cols rows planes : Nat) : VecRegion :=
  ⟨stash, o.off, vecRowBytes f cols, rows, planes, o.rstride, o.pstride, f.bits⟩

/-- Formats the operation allows, sources then destination (R121, R124, R129, R164, R171). -/
def VecDesc.formatsOk (d : VecDesc) (o : VecOp) : Bool :=
  let plain := fun c => (Fmt.ofCode c).isSome
  let srcs := (List.range o.sources).all fun k => plain (d.src k).2.1
  match o with
  | .menc1 => decide (d.s0Fmt = 0 ∧ d.dFmt = 3)
  | .mdec1 => decide (d.s0Fmt = 3 ∧ d.dFmt = 0)
  | .menc2 => decide (d.s0Fmt = 0 ∧ d.dFmt = 6)
  | .mdec2 => decide (d.s0Fmt = 6 ∧ d.dFmt = 0)
  | .optim => decide ((d.s0Fmt = 0 ∨ d.s0Fmt = 1 ∨ d.s0Fmt = 2 ∨ d.s0Fmt = 4) ∧ d.s1Fmt = 0 ∧ d.s2Fmt = 3 ∧ d.dFmt = 0)
  | .gstat => decide (d.s0Fmt = 0 ∧ d.dFmt = 0)
  | .csum => srcs && decide (d.dFmt = 0)
  | _ => srcs && plain d.dFmt

/-- An accumulator source (R121). -/
def VecDesc.accOk (d : VecDesc) (k : Nat) : Bool :=
  let s := d.src k
  decide (s.2.1 = 0 ∧ s.1.rstride = 0 ∧ s.1.pstride = 0 ∧ s.1.scEn = false ∧ s.1.off < 4 ∧ d.rows ≤ 128 ∧ d.cols ≤ 128 ∧ d.planes ≤ 4)

/-- LOC values of the operands taken (Table 5.1, R121, R129, R171). -/
def VecDesc.locsOk (d : VecDesc) (o : VecOp) : Bool :=
  decide (d.dLoc < 2) &&
  (List.range o.sources).all (fun k => let l := (d.src k).2.2
    decide (l < 2) || (decide (l = 2) && d.accOk k && decide (o ≠ .optim) && decide (o ≠ .mdec1) && decide (o ≠ .mdec2))) &&
  (decide (o ≠ .optim) || decide (d.dLoc = 0 ∧ d.s0Loc = 0 ∧ d.s1Loc = 0 ∧ d.s2Loc = 0))

/-- Alignment of the fields in use, reserved bits of operands, and unused operands all zero (Tables 5.1, 5.2, R129, R171). -/
def VecDesc.fieldsOk (d : VecDesc) (o : VecOp) : Bool :=
  let oper := fun (x : VecOperand) (acc : Bool) =>
    !x.reserved && (acc || decide (x.off % 4 = 0)) && decide (x.rstride % 4 = 0) && decide (x.pstride % 4 = 0) &&
    (!x.scEn || decide (x.scOff % 4 = 0))
  oper d.d false &&
  (List.range 3).all (fun k => let s := d.src k
    if k < o.sources then oper s.1 (decide (s.2.2 = 2)) else decide (s.1.raw = 0)) &&
  (!d.maskEn || decide (d.maskOff % 4 = 0 ∧ d.maskStride % 4 = 0 ∧ ceilDiv d.cols 8 ≤ d.maskStride)) &&
  (!d.statEn || decide (d.statOff % 8 = 0))

/-- What the operation's own rules ask of the descriptor (R129, R139, R164, R171, R128). -/
def VecDesc.opRules (d : VecDesc) (o : VecOp) : Bool :=
  (!d.maskEn || o.maskable) && (!d.rflagEn || o.flaggable) &&
  (!d.statEn || decide (o = .lnorm ∨ o = .rmsnorm ∨ o = .lnormBwd ∨ o = .rmsnormBwd ∨ o = .mdec2)) &&
  (decide (o ≠ .lnormBwd ∧ o ≠ .rmsnormBwd) || d.statEn) &&
  (!o.rowOp || decide (d.cols ≤ 16384)) &&
  (match o with
   | .menc1 | .menc2 => decide (d.d.off % 64 = 0 ∧ d.d.scEn = false ∧ d.s0.scEn = false ∧ d.ovf = false ∧ d.imm0 = 0)
   | .mdec1 | .mdec2 => decide (d.s0.off % 64 = 0 ∧ d.d.scEn = false ∧ d.s0.scEn = false ∧ d.ovf = false ∧ d.imm0 = 0)
   | .gstat => decide (d.d.off % 8 = 0 ∧ d.d.rstride = 0 ∧ d.d.pstride = 0 ∧ d.ovf = false ∧ d.imm0 = 0 ∧ d.imm1 = 0 ∧
       d.glid ≤ 4094 ∧ d.opx < 4096)
   | .optim => decide (d.s1.scEn = false ∧ d.s2.scEn = false ∧ d.d.scEn = false ∧ d.ovf = false ∧ d.imm0 = 0 ∧ d.imm1 = 0 ∧
       d.s2.off % 64 = 0 ∧ d.mOut % 64 = 0 ∧ d.vIn % 64 = 0 ∧ d.vOut % 64 = 0 ∧ (d.w16En = true → d.w16Off % 4 = 0) ∧ d.hpOff % 32 = 0 ∧
       bits d.opx 22 10 = 0 ∧ bits d.opx 54 10 = 0 ∧ bits d.opx 86 10 = 0 ∧ bits d.opx 119 9 = 0 ∧ bits d.opx 150 42 = 0)
   | _ => decide (d.opx = 0))

/-- Columns of the destination: one per row in a row reduction. -/
def VecDesc.dCols (d : VecDesc) (o : VecOp) : Nat := if o.rowReduce then 1 else d.cols

/-- Rows per plane of the destination: one in CSUM. -/
def VecDesc.dRows (d : VecDesc) (o : VecOp) : Nat := if o = .csum then 1 else d.rows

/-- The destination does not overlap itself (R122). -/
def VecDesc.destOk (d : VecDesc) (o : VecOp) : Bool :=
  match o with
  | .menc1 | .menc2 | .gstat => true
  | _ =>
    let rb := match Fmt.ofCode d.dFmt with
      | some f => vecRowBytes f (d.dCols o)
      | none => 0
    let rows := d.dRows o
    (decide (rows ≤ 1) || decide (0 < d.d.rstride ∧ (rb : Int) ≤ d.d.rstride)) &&
    (decide (d.planes ≤ 1) || decide (0 < d.d.pstride ∧ (if rows = 1 then (rb : Int) else rows * d.d.rstride) ≤ d.d.pstride))

/-- Bytes of the moment runs of n elements (R91). -/
def momentBytes (n : Nat) : Nat := groupsFor n * 2112

/-- Destination regions (results, statistics written and row flags apart). -/
def VecDesc.dests (d : VecDesc) (o : VecOp) : List VecRegion :=
  let stash := decide (d.dLoc = 1)
  match o with
  | .menc1 | .menc2 => [.run stash d.d.off (momentBytes d.count) 8]
  | .gstat => [.run stash d.d.off 8 32]
  | .optim => [d.d.region false .fp32 d.cols d.rows d.planes,
      .run false d.mOut (momentBytes d.count) 8, .run false d.vOut (momentBytes d.count) 8] ++
      (if d.w16En then [.run false d.w16Off (4 * ceilDiv d.count 2) 16] else [])
  | _ => match Fmt.ofCode d.dFmt with
    | some f => [d.d.region stash f (d.dCols o) (d.dRows o) d.planes]
    | none => []

/-- Regions of source k, none for an accumulator. -/
def VecDesc.srcRegion (d : VecDesc) (o : VecOp) (k : Nat) : List VecRegion :=
  let s := d.src k
  if s.2.2 = 2 then []
  else
    let stash := decide (s.2.2 = 1)
    match o, k with
    | .mdec1, _ => [.run stash s.1.off (momentBytes d.count) 8]
    | .mdec2, _ => [.run stash s.1.off (momentBytes d.count) 8]
    | .optim, 2 => [.run false s.1.off (momentBytes d.count) 8]
    | _, _ => match Fmt.ofCode s.2.1 with
      | some f => [s.1.region stash f d.cols d.rows d.planes]
      | none => []

/-- Source regions, those of OPTIM's second moment among them. -/
def VecDesc.srcs (d : VecDesc) (o : VecOp) : List VecRegion :=
  ((List.range o.sources).map (d.srcRegion o)).flatten ++
  (if o = .optim then [.run false d.vIn (momentBytes d.count) 8] else [])

/-- Row-flag bytes, one per row (R139). -/
def VecDesc.rflagRegion (d : VecDesc) : List VecRegion :=
  if d.rflagEn then [.run false d.rflagOff (d.planes * d.rows) 8] else []

/-- Statistics region: 8 B per row, or the roots with D's strides in MDEC2 (R128, R129). -/
def VecDesc.statRegion (d : VecDesc) (o : VecOp) : List VecRegion :=
  if !d.statEn then []
  else if o = .mdec2 then [{ d.d.region d.statLoc .fp32 d.cols d.rows d.planes with off := d.statOff }]
  else [.run d.statLoc d.statOff (8 * d.planes * d.rows) 32]

/-- Mask rows (R126). -/
def VecDesc.maskRegion (d : VecDesc) : List VecRegion :=
  if d.maskEn then [⟨false, d.maskOff, ceilDiv d.cols 8, d.planes * d.rows, 1, d.maskStride, 0, 1⟩] else []

/-- Scale words and the hyperparameter block in use. -/
def VecDesc.smallReads (d : VecDesc) (o : VecOp) : List VecRegion :=
  (if d.d.scEn then [.run false d.d.scOff 4 32] else []) ++
  ((List.range o.sources).map fun k => let s := (d.src k).1; if s.scEn then [VecRegion.run false s.scOff 4 32] else []).flatten ++
  (if o = .optim then [.run false d.hpOff 32 32] else [])

/-- Statistics are an output of this operation. -/
def VecOp.statOut (o : VecOp) : Bool := decide (o = .lnorm ∨ o = .rmsnorm ∨ o = .mdec2)

/-- Status of the checks of R130, in the order of its table; poison of the descriptor is judged by the caller. -/
def VecDesc.check (d : VecDesc) (t : Tile) : Status :=
  match VecOp.ofCode d.op with
  | none => .versionUnsupported
  | some o =>
    if d.reserved || decide (d.cols = 0) || decide (d.rows = 0) || decide (d.planes = 0) || !d.formatsOk o || !d.locsOk o ||
       !d.fieldsOk o || !d.opRules o || !d.destOk o then .versionUnsupported
    else
      let wr := d.dests o
      let rd := d.srcs o
      let stat := d.statRegion o
      let side := d.maskRegion ++ d.rflagRegion ++ stat
      let every := wr ++ rd ++ side ++ d.smallReads o
      let outs := wr ++ d.rflagRegion ++ (if o.statOut then stat else [])
      if wr.any (fun w => rd.any (fun r => w.meets r && !VecRegion.inPlace d.rows d.planes w r) || side.any w.meets) then .versionUnsupported
      else if !every.all VecRegion.fits then .accessDenied
      else if every.any (fun g => !g.stash && g.anyRow t.inQueueArea) then .accessDenied
      else if outs.any (fun g => !g.stash && g.anyRow t.guarded) then .accessDenied
      else .done

end Sys2Proof.Machine
end

