-- ==== Sys2Proof/Machine/Vec.lean ====
section
/-! DEFINITION. What a vector record computes and writes in stream mode: element-wise operations, reductions, softmax, normalisations, block forms (R123 to R129, R136 to R140), its cost (R132) and its start (R130). -/

namespace Sys2Proof.Machine

/-- Path width in bytes per cycle of a LOC (R121, R131). -/
def pathBytes (loc : Nat) : Nat := if loc = 1 then 256 else 1024

/-- Row bytes of source k for the port terms. -/
def VecDesc.srcRowBytes (d : VecDesc) (k : Nat) : Nat :=
  match Fmt.ofCode (d.src k).2.1 with
  | some f => vecRowBytes f d.cols
  | none => d.cols

/-- c_row of R132 (R174 for OPTIM). -/
def VecDesc.rowCost (d : VecDesc) (o : VecOp) : Nat :=
  let n := d.cols
  let (a, x, t) := o.lanes
  let lanes := max (ceilDiv (n * a) 256) (max (ceilDiv (n * x) 256) (ceilDiv (n * t) 64))
  let dBytes := match Fmt.ofCode d.dFmt with
    | some f => vecRowBytes f n
    | none => n
  let ports :=
    if o = .optim then
      let moment := ceilDiv (33 * n) 32
      max (ceilDiv (d.srcRowBytes 0 + d.srcRowBytes 1 + 2 * moment) 3072)
        (ceilDiv (dBytes + (if d.w16En then 2 * n else 0) + 2 * moment) 1024)
    else
      let own := (List.range o.sources).map fun k =>
        if (d.src k).2.2 = 1 then 0 else ceilDiv (d.srcRowBytes k) (pathBytes (d.src k).2.2)
      let shared := (List.range o.sources).foldl (fun acc k => if (d.src k).2.2 = 1 then acc + d.srcRowBytes k else acc) 0
      let dest := if o.rowReduce then 1 else if o = .csum ∨ o = .gstat then 0 else ceilDiv dBytes (pathBytes d.dLoc)
      max (own.foldl max 0) (max (ceilDiv shared 256) dest)
  max 1 (max lanes ports)

/-- Sum of c_row over the rows, with CSUM's two terms per plane (R132). -/
def VecDesc.cost (d : VecDesc) (o : VecOp) : Nat :=
  let csum := if o = .csum then 2 * ceilDiv (4 * d.cols) (pathBytes d.dLoc) else 0
  d.planes * (d.rows * d.rowCost o + csum)

/-- Scale words of the operands, read once per record (R123). -/
structure VecScales where
  d : Num
  s0 : Num
  s1 : Num
  s2 : Num
  deriving DecidableEq, Repr

def VecDesc.readScales (d : VecDesc) (o : VecOp) (m : TileMem) : F VecScales := do
  let get := fun k => if k < o.sources then readScale m (d.src k).1.scEn (d.src k).1.scOff else pure .one
  let s0 ← get 0
  let s1 ← get 1
  let s2 ← get 2
  let sd ← readScale m d.d.scEn d.d.scOff
  pure ⟨sd, s0, s1, s2⟩

/-- Word at which row r of plane p of an operand begins (R120). -/
def VecOperand.rowWord (o : VecOperand) (p r : Nat) : Nat :=
  ((o.off : Int) + p * o.pstride + r * o.rstride).toNat / 4

/-- Position (p, r, c) is kept (R126). -/
def VecDesc.kept (d : VecDesc) (m : TileMem) (p r c : Nat) : Bool :=
  !d.maskEn || maskBit m (d.maskOff + (p * d.rows + r) * d.maskStride) c

/-- A poison-tagged word in the row's mask (R126). -/
def VecDesc.maskPoison (d : VecDesc) (m : TileMem) (p r : Nat) : Bool :=
  d.maskEn && (m.spWords (d.maskOff + (p * d.rows + r) * d.maskStride) (ceilDiv (ceilDiv d.cols 8) 4)).any TWord.poison

/-- Element (p, r, c) of source k as an FP32 value: a bank element times S rounded once (R84, R121), or an element times its scale rounded once (R89, R123). -/
def VecDesc.srcVal (d : VecDesc) (sc : VecScales) (m : TileMem) (k p r c : Nat) : F Num := do
  let (o, fc, loc) := d.src k
  if loc = 2 then
    let b := (o.off + p) % 4
    let x ← bankVal m b r c
    let y ← mulX x (decodeElem .fp32 (Store.get scaleOne m.scale b).toNat)
    round32 y
  else match Fmt.ofCode fc with
    | some f =>
      let w := Store.get TWord.zero (m.loc (decide (loc = 1))) (o.rowWord p r + c / f.perWord)
      let x ← readNum f (elemOf f w.bits (c % f.perWord)) w.poison
      if o.scEn then fmul x (if k = 0 then sc.s0 else if k = 1 then sc.s1 else sc.s2) else pure x
    | none => pure .nan

/-- A result divided by D's scale, formed exactly and rounded once into D_FMT under OVF (R123). -/
def VecDesc.place (d : VecDesc) (f : Fmt) (sc : VecScales) (x : Num) : F (Nat × Bool) := do
  let y ← if d.d.scEn then divX x sc.d else pure x
  encodeMarked f d.ovf y

/-- Element-wise results (Table 5.3, R125). -/
def elemResult (o : VecOp) (i0 i1 x y z : Num) : F Num :=
  match o with
  | .copy => pure x
  | .neg => pure x.neg
  | .abs => pure x.abs
  | .scale => ffma i0 x i1
  | .relu => pure (x.max .zero)
  | .add => fadd x y
  | .sub => fsub x y
  | .mul => fmul x y
  | .max => pure (x.max y)
  | .min => pure (x.min y)
  | .axpby => do ffma i0 x (← fmul i1 y)
  | .fma => ffma x y z
  | .exp => fexp x
  | .log => flog x
  | .rsqrt => frsqrt x
  | .recip => frecip x
  | .sqrt => fsqrt x
  | .div => fdiv x y
  | .gelu => fgelu x
  | .silu => fsilu x
  | _ => pure x

/-- An FP32 immediate as a value. -/
def immNum (w : Word) : Num := decodeElem .fp32 w.toNat

/-- Row flags of R139. -/
structure RowFlags where
  empty : Bool
  inf : Bool
  nan : Bool
  deriving DecidableEq, Repr

def RowFlags.none : RowFlags := ⟨false, false, false⟩

def RowFlags.byte (g : RowFlags) : Byte := BitVec.ofNat 8 (b2n g.empty + 2 * b2n g.inf + 4 * b2n g.nan)

/-- Left sum in FP32, each addition rounded, from the first value (R127); +0 of no value. -/
def sumF : List Num → F Num
  | [] => pure .zero
  | x :: xs => xs.foldlM fadd x

/-- Sum of products by one fused multiply-add each, from +0 (R127, R128, R140). -/
def dotF (xs : List (Num × Num)) : F Num := xs.foldlM (fun s p => ffma p.1 p.2 s) .zero

/-- One row reduction over the kept values (R127). -/
def reduceRow (o : VecOp) (xs : List Num) : F Num :=
  match o with
  | .rsum => sumF xs
  | .rsumsq => dotF (xs.map fun x => (x, x))
  | .rmax => pure (xs.foldl Num.max (.inf true))
  | .rmin => pure (xs.foldl Num.min (.inf false))
  | .ramax => pure (xs.foldl (fun a x => a.max x.abs) .zero)
  | _ => pure .zero

/-- Softmax of one row (R136 to R138): per column the encoding to write, and the row flags. -/
def VecDesc.softmaxRow (d : VecDesc) (f : Fmt) (sc : VecScales) (m : TileMem) (p r : Nat) : F (List (Nat × Bool) × RowFlags) := do
  let zs ← (List.range d.cols).mapM fun c =>
    if d.kept m p r c then do
      let x ← d.srcVal sc m 0 p r c
      let z ← fmul (immNum d.imm0) x
      pure (some z)
    else pure none
  let kept := zs.filterMap id
  let live := kept.filter fun z => decide (z ≠ .inf true)
  let zero ← F.quiet (encodeElem f d.ovf .zero)
  if kept.contains .nan then do
    let row ← zs.mapM fun _ => encodeMarked f d.ovf .nan
    pure (row, ⟨false, false, true⟩)
  else if live.isEmpty then pure (zs.map fun _ => zero, ⟨true, false, false⟩)
  else
    let infs := (live.filter fun z => decide (z = .inf false)).length
    if infs ≠ 0 then do
      let row ← zs.mapM fun z =>
        if z = some (.inf false) then do
          let den ← mulX (.fin false infs 0) (if d.d.scEn then sc.d else .one)
          let y ← divX .one den
          encodeMarked f d.ovf y
        else pure zero
      pure (row, ⟨false, true, false⟩)
    else do
      let top := live.foldl Num.max (.inf true)
      let es ← zs.mapM fun z =>
        match z with
        | some v => if v = .inf true then pure none else do
            let t ← fsub v top
            let e ← F.quiet (fexp t)
            pure (some e)
        | none => pure none
      let s ← sumF (es.filterMap id)
      let inv ← fdiv .one s
      let row ← es.mapM fun e =>
        match e with
        | some v => do
          let y ← mulX v inv
          d.place f sc y
        | none => pure zero
      pure (row, .none)

/-- SOFTMAX_BWD of one row (R140). -/
def VecDesc.softmaxBwdRow (d : VecDesc) (f : Fmt) (sc : VecScales) (m : TileMem) (p r : Nat) : F (List (Nat × Bool) × RowFlags) := do
  let zs ← (List.range d.cols).mapM fun c =>
    if d.kept m p r c then do
      let y ← d.srcVal sc m 0 p r c
      let dy ← d.srcVal sc m 1 p r c
      pure (some (y, dy))
    else pure none
  let dot ← dotF (zs.filterMap id)
  let zero ← F.quiet (encodeElem f d.ovf .zero)
  let row ← zs.mapM fun z =>
    match z with
    | some (y, dy) => do
      let t ← fsub dy dot
      let v ← fmul y t
      d.place f sc v
    | none => pure zero
  pure (row, ⟨(zs.filterMap id).isEmpty, false, false⟩)

/-- Statistics words of row (p, r) (R128). -/
def VecDesc.statWord (d : VecDesc) (p r : Nat) : Nat := d.statOff / 4 + 2 * (p * d.rows + r)

/-- A normalisation of one row: values and the two statistics to write, if any (R128). -/
def VecDesc.normRow (d : VecDesc) (o : VecOp) (sc : VecScales) (m : TileMem) (p r : Nat) : F (List Num × List TWord) := do
  let cols := List.range d.cols
  let recn ← fdiv .one (.fin false d.cols 0)
  let eps := immNum d.imm0
  let xs ← cols.mapM fun c => d.srcVal sc m 0 p r c
  let stat : Nat → F Num := fun i => do
    let w := Store.get TWord.zero (m.loc d.statLoc) (d.statWord p r + i)
    readNum .fp32 w.bits.toNat w.poison
  match o with
  | .lnorm => do
    let s1 ← sumF xs
    let mu ← fmul s1 recn
    let ds ← xs.mapM fun x => fsub x mu
    let s2 ← dotF (ds.map fun t => (t, t))
    let v ← fmul s2 recn
    let ve ← fadd v eps
    let rho ← frsqrt ve
    let ys ← (xs.zip cols).mapM fun xc => do
      let t ← fsub xc.1 mu
      let u ← fmul t rho
      let g ← d.srcVal sc m 1 p r xc.2
      let b ← d.srcVal sc m 2 p r xc.2
      ffma u g b
    pure (ys, [numWord mu, numWord rho])
  | .rmsnorm => do
    let s ← dotF (xs.map fun t => (t, t))
    let mm ← fmul s recn
    let me ← fadd mm eps
    let rho ← frsqrt me
    let ys ← (xs.zip cols).mapM fun xc => do
      let u ← fmul xc.1 rho
      let g ← d.srcVal sc m 1 p r xc.2
      fmul u g
    pure (ys, [.zero, numWord rho])
  | _ => do
    let layer := decide (o = .lnormBwd)
    let mu ← if layer then stat 0 else pure .zero
    let rho ← stat 1
    let gs ← cols.mapM fun c => do
      let dy ← d.srcVal sc m 1 p r c
      let g ← d.srcVal sc m 2 p r c
      fmul dy g
    let hs ← xs.mapM fun x => do
      let t ← if layer then fsub x mu else pure x
      fmul t rho
    let sg ← sumF gs
    let a ← if layer then fmul sg recn else pure .zero
    let sb ← dotF (gs.zip hs)
    let b ← fmul sb recn
    let ys ← (gs.zip hs).mapM fun gh => do
      let ga ← if layer then fsub gh.1 a else pure gh.1
      let t ← ffma gh.2.neg b ga
      fmul rho t
    pure (ys, [])

/-- What a row leaves: memories and row flags. -/
abbrev RowOut := TileMem × RowFlags

/-- Write a row of destination words (R120, R122). -/
def VecDesc.putRow (d : VecDesc) (f : Fmt) (m : TileMem) (p r : Nat) (vals : List (Option (Nat × Bool))) : TileMem :=
  let stash := decide (d.dLoc = 1)
  m.setLoc stash (writeRow f (m.loc stash) (d.d.rowWord p r) vals)

/-- One row of an operation that writes rows: element-wise, reductions, softmax, normalisations. -/
def VecDesc.runRow (d : VecDesc) (o : VecOp) (f : Fmt) (sc : VecScales) (m : TileMem) (p r : Nat) : F RowOut := do
  if o.elementWise then
    let vals ← (List.range d.cols).mapM fun c =>
      if d.kept m p r c then do
        let x ← d.srcVal sc m 0 p r c
        let y ← if 1 < o.sources then d.srcVal sc m 1 p r c else pure .zero
        let z ← if 2 < o.sources then d.srcVal sc m 2 p r c else pure .zero
        let v ← elemResult o (immNum d.imm0) (immNum d.imm1) x y z
        let e ← d.place f sc v
        pure (some e)
      else pure none
    pure (d.putRow f m p r vals, .none)
  else if o.rowReduce then
    let xs ← ((List.range d.cols).filter (d.kept m p r)).mapM fun c => d.srcVal sc m 0 p r c
    let v ← reduceRow o xs
    let e ← d.place f sc v
    pure (d.putRow f m p r [some e], ⟨xs.isEmpty, false, false⟩)
  else if o = .softmax then
    let (row, g) ← d.softmaxRow f sc m p r
    pure (d.putRow f m p r (row.map some), g)
  else if o = .softmaxBwd then
    let (row, g) ← d.softmaxBwdRow f sc m p r
    pure (d.putRow f m p r (row.map some), g)
  else
    let (ys, stats) ← d.normRow o sc m p r
    let row ← ys.mapM (d.place f sc)
    let m1 := d.putRow f m p r (row.map some)
    let m2 := if d.statEn && o.statOut then
      m1.setLoc d.statLoc (Store.setMany .zero (m1.loc d.statLoc) (d.statWord p r) stats) else m1
    raiseIf (d.statEn && o.statOut && stats.any TWord.poison) .nanOut
    raiseIf (d.statEn && o.statOut && stats.any fun w => decide (w.bits.toNat % 2 ^ 31 = 0x7F800000)) .infOut
    pure (m2, ⟨false, false, ys.contains .nan⟩)

/-- CSUM of one plane (R127); a column with no kept position is not written. -/
def VecDesc.runCsum (d : VecDesc) (sc : VecScales) (m : TileMem) (p : Nat) : F TileMem := do
  let stash := decide (d.dLoc = 1)
  let vals ← (List.range d.cols).mapM fun c => do
    let xs ← ((List.range d.rows).filter fun r => d.kept m p r c).mapM fun r => d.srcVal sc m 0 p r c
    if xs.isEmpty then pure none
    else do
      let total ← sumF xs
      let w := Store.get TWord.zero (m.loc stash) (d.d.rowWord p 0 + c)
      let old ← readNum .fp32 w.bits.toNat w.poison
      let real ← if d.d.scEn then mulX old sc.d else pure old
      let s ← fadd real total
      let e ← d.place .fp32 sc s
      pure (some e)
  pure (d.putRow .fp32 m p 0 vals)

/-- Progress of a record over its rows: memories, flags of the rows done so far, whether a poisoned mask stopped it (R126). -/
structure RowsDone where
  mem : TileMem
  rows : List RowFlags
  stopped : Bool
  deriving DecidableEq, Repr

/-- Rows in (p, r) order until a poison-tagged mask word is met (R126). -/
def VecDesc.runRows (d : VecDesc) (o : VecOp) (f : Fmt) (sc : VecScales) : RowsDone → List (Nat × Nat) → F RowsDone
  | s, [] => pure s
  | s, (p, r) :: rest =>
    if d.maskPoison s.mem p r then pure { s with stopped := true }
    else do
      let (m, g) ← d.runRow o f sc s.mem p r
      VecDesc.runRows d o f sc ⟨m, s.rows ++ [g], false⟩ rest

/-- Planes of CSUM in order until a poison-tagged mask word is met. -/
def VecDesc.runPlanes (d : VecDesc) (sc : VecScales) : RowsDone → List Nat → F RowsDone
  | s, [] => pure s
  | s, p :: rest =>
    if (List.range d.rows).any (d.maskPoison s.mem p) then pure { s with stopped := true }
    else do
      let m ← d.runCsum sc s.mem p
      VecDesc.runPlanes d sc ⟨m, s.rows, false⟩ rest

/-- Positions of the record in (p, r, c) order. -/
def VecDesc.positions (d : VecDesc) : List (Nat × Nat × Nat) :=
  ((List.range d.planes).map fun p => ((List.range d.rows).map fun r => (List.range d.cols).map fun c => (p, r, c)).flatten).flatten

/-- Every (p, r) in order. -/
def VecDesc.rowList (d : VecDesc) : List (Nat × Nat) :=
  ((List.range d.planes).map fun p => (List.range d.rows).map fun r => (p, r)).flatten

/-- Block encoders (R129): the FP32 side in order into one run of block groups. -/
def VecDesc.runEncode (d : VecDesc) (o : VecOp) (m : TileMem) : F TileMem := do
  let xs ← d.positions.mapM fun q => d.srcVal ⟨.one, .one, .one, .one⟩ m 0 q.1 q.2.1 q.2.2
  let ws ← encodeGroups (if o = .menc1 then encodeBlock1 else encodeBlock2) xs
  let stash := decide (d.dLoc = 1)
  pure (m.setLoc stash (Store.setMany .zero (m.loc stash) (d.d.off / 4) ws))

/-- Write an FP32 value at a word, marking it (R79, R88). -/
def putNum (m : Store TWord) (w : Nat) (x : Num) : F (Store TWord) := do
  let e ← encodeMarked .fp32 false x
  pure (Store.set .zero m w ⟨BitVec.ofNat 32 e.1, e.2⟩)

/-- Block decoders (R129), with the roots of MDEC2 when STAT_EN = 1. -/
def VecDesc.runDecode (d : VecDesc) (o : VecOp) (m : TileMem) : F TileMem := do
  let src := m.loc (decide (d.s0Loc = 1))
  let word := fun i => Store.get TWord.zero src (d.s0.off / 4 + i)
  let stash := decide (d.dLoc = 1)
  let r ← (d.positions.zip (List.range d.count)).foldlM (fun (acc : TileMem) qk => do
    let ((p, r, c), k) := qk
    let (v, root) ← decodeRun (decide (o = .mdec2)) word k
    let s1 ← putNum (acc.loc stash) (d.d.rowWord p r + c) v
    let acc1 := acc.setLoc stash s1
    if d.statEn then
      let s2 ← putNum (acc1.loc d.statLoc) ({ d.d with off := d.statOff }.rowWord p r + c) root
      pure (acc1.setLoc d.statLoc s2)
    else pure acc1) m
  pure r

/-- Largest q from 0 to 255 with 2^q at most (P / E)^4 (R165: QUAL8 of finite nonzero E and P). -/
def qualOf (mp : Nat) (ep : Int) (me : Nat) (ee : Int) : Nat :=
  let base := min (4 * ep) (4 * ee)
  let lhs := mp ^ 4 <<< (4 * ep - base).toNat
  let rhs := me ^ 4 <<< (4 * ee - base).toNat
  ((List.range 256).filter fun q => decide (q ≠ 0 ∧ rhs <<< q ≤ lhs)).length

/-- Exponent field of an FP32 value (R165). -/
def expField (x : Num) : Nat := bits (word32 x).toNat 23 8

/-- What GSTAT measures: the statistics word and whether a kept element is non-finite (R164, R165). -/
def gstatWord (glid : Nat) (c : Num) (xs : List Num) : Nat × Bool :=
  let finite := xs.filter fun x => !x.nonFinite && !x.isZero
  let n := finite.length
  let bad := xs.any Num.nonFinite
  let fields := finite.map expField
  let amax := if bad then 0xFF else fields.foldl Nat.max 0
  let low := if bad then 0 else if n = 0 then 0xFF else
    ((List.range 256).filter fun e => decide ((fields.filter (· < e)).length ≤ n / 1024)).foldl Nat.max 0
  let sums : F (Num × Num) := do
    let p ← sumF (← xs.mapM fun x => fmul x x)
    let es ← xs.mapM fun x => do
      let t ← divX x c
      let q ← encodeElem .e5m2 true t
      let back ← fmul (if q.2 then .nan else decodeElem .e5m2 q.1) c
      let diff ← fsub back x
      fmul diff diff
    let e ← sumF es
    pure (p, e)
  let (p, e) := sums.exec.1
  let qual := if bad then 0 else match p, e with
    | .nan, _ => 0
    | _, .nan => 0
    | _, .inf _ => 0
    | .inf _, _ => 255
    | .fin _ mp ep, .fin _ me ee => if mp = 0 ∨ me = 0 then 255 else qualOf mp ep me ee
  let valid := decide (n ≠ 0) || bad
  (amax + low * 2 ^ 8 + qual * 2 ^ 16 + glid % 4096 * 2 ^ 24 + b2n valid * 2 ^ 36, bad)

/-- GSTAT (R164, R165): memories with the word written, the word posted, and the step non-finite latch. -/
def VecDesc.runGstat (d : VecDesc) (m : TileMem) : F (TileMem × Nat × Bool) := do
  let c ← readScale m d.d.scEn d.d.scOff
  let sc : VecScales := ⟨.one, .one, .one, .one⟩
  let s0 ← readScale m d.s0.scEn d.s0.scOff
  let xs ← (d.positions.filter fun q => d.kept m q.1 q.2.1 q.2.2).mapM fun q => d.srcVal { sc with s0 := s0 } m 0 q.1 q.2.1 q.2.2
  let (w, bad) := gstatWord d.glid c xs
  let stash := decide (d.dLoc = 1)
  let words := (natWords w 2).map fun b => (⟨b, false⟩ : TWord)
  pure (m.setLoc stash (Store.setMany .zero (m.loc stash) (d.d.off / 4) words), w, bad)

/-- Bias correction 1 / (1 - exp(t * log beta)), each operation rounded (R172). -/
def biasCorrect (t : Num) (beta : Num) : F Num := do
  let l ← flog beta
  let tl ← fmul t l
  let e ← fexp tl
  let s ← fsub .one e
  fdiv .one s

/-- OPTIM (R171 to R173): memories and whether the latch is set. -/
def VecDesc.runOptim (d : VecDesc) (m : TileMem) : F (TileMem × Bool) := do
  let hp : Nat → F Num := fun i => do
    let w := m.word (d.hpOff / 4 + i)
    readNum .fp32 w.bits.toNat w.poison
  let lr ← hp 0
  let b1 ← hp 1
  let b2 ← hp 2
  let eps ← hp 3
  let wd ← hp 4
  let gs ← hp 5
  let fw := m.word (d.hpOff / 4 + 6)
  let ilsW := m.word (spaBase / 4 + 5)
  let ils ← readNum .fp32 ilsW.bits.toNat ilsW.poison
  let optStep := wordsNat [(m.word (spaBase / 4 + 2)).bits, (m.word (spaBase / 4 + 3)).bits]
  let sg ← readScale m d.s0.scEn d.s0.scOff
  let c1 ← fsub .one b1
  let c2 ← fsub .one b2
  let bc := !fw.poison && bit fw.bits.toNat 0
  let t ← round32 (.fin false (optStep + 1) 0)
  let bc1 ← if bc then biasCorrect t b1 else pure .one
  let bc2 ← if bc then biasCorrect t b2 else pure .one
  let hpBad := fw.poison || [lr, b1, b2, eps, wd, gs].any Num.nonFinite
  let raw : VecScales := ⟨.one, .one, .one, .one⟩
  let unscaled : VecDesc := { d with s0 := { d.s0 with scEn := false } }
  let mWord := fun i => m.word (d.s2.off / 4 + i)
  let vWord := fun i => m.word (d.vIn / 4 + i)
  let upd ← (d.positions.zip (List.range d.count)).mapM fun qk => do
    let ((p, r, c), k) := qk
    let x ← unscaled.srcVal raw m 0 p r c
    let w0 ← d.srcVal raw m 1 p r c
    let (mi, _) ← decodeRun false mWord k
    let (vi, _) ← decodeRun true vWord k
    let g1 ← fmul x sg
    let g2 ← fmul g1 ils
    let g ← fmul g2 gs
    let ma ← fmul b1 mi
    let mb ← fmul c1 g
    let mN ← fadd ma mb
    let va ← fmul b2 vi
    let gg ← fmul g g
    let vb ← fmul c2 gg
    let vN ← fadd va vb
    let mh ← fmul mN bc1
    let vh ← fmul vN bc2
    let root ← fsqrt vh
    let den ← fadd root eps
    let quo ← fdiv mh den
    let dec ← fmul wd w0
    let s ← fadd quo dec
    let ls ← fmul lr s
    let w ← fsub w0 ls
    pure (mN, vN, w, g.nonFinite || mN.nonFinite || vN.nonFinite || w.nonFinite)
  let mGroups ← encodeGroups encodeBlock1 (upd.map fun u => u.1)
  let vGroups ← encodeGroups encodeBlock2 (upd.map fun u => u.2.1)
  let sp1 ← (d.rowList.zip (List.range (d.planes * d.rows))).foldlM (fun (acc : Store TWord) qk => do
    let vals ← (((upd.drop (qk.2 * d.cols)).take d.cols).map fun u => u.2.2.1).mapM (encodeMarked .fp32 false)
    pure (writeRow .fp32 acc (d.d.rowWord qk.1.1 qk.1.2) (vals.map some))) m.sp
  let sp2 := Store.setMany .zero (Store.setMany .zero sp1 (d.mOut / 4) mGroups) (d.vOut / 4) vGroups
  let sp3 ← if d.w16En then do
      let vals ← (upd.map fun u => u.2.2.1).mapM (encodeMarked .bf16 false)
      pure (writeRow .bf16 sp2 (d.w16Off / 4) (vals.map some))
    else pure sp2
  pure ({ m with sp := sp3 }, hpBad || upd.any fun u => u.2.2.2)

/-- What issuing a vector record does to a tile. -/
structure VecResult where
  mem : TileMem
  flags : Flags
  rowEmpty : Bool
  rowInf : Bool
  rowNan : Bool
  cycles : Nat
  elems : Nat
  trans : Nat
  nonfin : Bool
  /-- A statistics word for the collector (R164). -/
  stat : Option Nat
  op : Nat
  status : Status
  deriving DecidableEq, Repr

/-- Run a checked descriptor. -/
def VecDesc.run (d : VecDesc) (o : VecOp) (t : Tile) : F (TileMem × List RowFlags × Bool × Bool × Option Nat) := do
  match o with
  | .menc1 | .menc2 => pure (← d.runEncode o t.mem, [], false, false, none)
  | .mdec1 | .mdec2 => pure (← d.runDecode o t.mem, [], false, false, none)
  | .optim =>
    let (m, bad) ← d.runOptim t.mem
    pure (m, [], false, bad, none)
  | .gstat =>
    if d.rowList.any fun q => d.maskPoison t.mem q.1 q.2 then pure (t.mem, [], true, false, none)
    else
      let (m, w, bad) ← d.runGstat t.mem
      pure (m, [], false, bad, some w)
  | .csum =>
    let sc ← d.readScales o t.mem
    let r ← d.runPlanes sc ⟨t.mem, [], false⟩ (List.range d.planes)
    pure (r.mem, [], r.stopped, false, none)
  | _ =>
    match Fmt.ofCode d.dFmt with
    | some f =>
      let sc ← d.readScales o t.mem
      let r ← d.runRows o f sc ⟨t.mem, [], false⟩ d.rowList
      pure (r.mem, r.rows, r.stopped, false, none)
    | none => pure (t.mem, [], false, false, none)

/-- Run one vector descriptor at scratchpad offset off; a record that fails a check writes nothing (R130). -/
def runVec (t : Tile) (off : Nat) : VecResult :=
  let ws := t.mem.spWords off 32
  let d := VecDesc.ofBits (wordsNat (ws.map TWord.bits))
  let refuse := fun (st : Status) => (⟨t.mem, t.vec.flags, false, false, false, 0, 0, 0, false, none, d.op, st⟩ : VecResult)
  let st := if t.inQueueArea off 128 then .accessDenied else d.check t
  if st ≠ .done then refuse st
  else if ws.any TWord.poison then refuse .poison
  else match VecOp.ofCode d.op with
    | none => refuse .versionUnsupported
    | some o =>
      let ((m, rows, stopped, bad, stat), fl) := (d.run o t).run t.vec.flags
      let m1 := if d.rflagEn then { m with sp := writeBytes m.sp d.rflagOff (rows.map RowFlags.byte) } else m
      let kept := (d.positions.filter fun q => d.kept t.mem q.1 q.2.1 q.2.2).length
      ⟨m1, fl, rows.any RowFlags.empty, rows.any RowFlags.inf, rows.any RowFlags.nan, d.cost o, kept, o.lanes.2.2 * kept,
        bad, stat, d.op, if stopped then .poison else .done⟩

end Sys2Proof.Machine
end

