-- ==== Sys2Proof/Machine/TileReg.lean ====
section
/-! DEFINITION. Tile-register mode (R141 to R143, Tables 5.6 and 5.7). -/

namespace Sys2Proof.Machine

/-- A tile-register instruction (Table 5.6). -/
structure TrInstr where
  top : Nat
  td : Nat
  ta : Nat
  tb : Nat
  tc : Nat
  reserved : Bool
  imm : Word
  deriving DecidableEq, Repr

def TrInstr.ofBits (v : Nat) : TrInstr :=
  ⟨bits v 0 8, bits v 8 4, bits v 12 4, bits v 16 4, bits v 20 4, decide (bits v 24 8 ≠ 0), BitVec.ofNat 32 (bits v 32 32)⟩

/-- Element e of register r as a value. -/
def VecRegs.tgVal (v : VecRegs) (r e : Nat) : F Num :=
  let w := Store.get TWord.zero v.tg (1024 * r + e)
  readNum .fp32 w.bits.toNat w.poison

def VecRegs.tgWord (v : VecRegs) (r e : Nat) : TWord := Store.get .zero v.tg (1024 * r + e)

/-- Replace register r by 1,024 words. -/
def VecRegs.setTg (v : VecRegs) (r : Nat) (ws : List TWord) : VecRegs :=
  { v with tg := Store.setMany .zero v.tg (1024 * r) ws }

/-- The memory an IMM names, its offset, and whether IMM is well formed (Table 5.6). -/
def TrInstr.addr (i : TrInstr) : Bool × Nat × Bool :=
  (bit i.imm.toNat 31, bits i.imm.toNat 0 22, decide (bits i.imm.toNat 0 6 = 0 ∧ bits i.imm.toNat 22 9 = 0))

/-- One value written to a register word in IEEE mode. -/
def trWrite (x : Num) : F TWord := do
  let e ← encodeMarked .fp32 false x
  pure ⟨BitVec.ofNat 32 e.1, e.2⟩

/-- A register formed element by element. -/
def trMap (f : Nat → F Num) : F (List TWord) :=
  (List.range 1024).mapM fun e => do trWrite (← f e)

/-- One element of TMMA: 32 fused steps (Table 5.7). -/
def VecRegs.mmaElem (v : VecRegs) (i : TrInstr) (e : Nat) : F Num := do
  let start ← v.tgVal i.td e
  (List.range 32).foldlM (fun acc k => do
    let x ← v.tgVal i.ta (32 * (e / 32) + k)
    let y ← v.tgVal i.tb (32 * k + e % 32)
    ffma x y acc) start

/-- One bit into the signature register, generator x^64 + x^4 + x^3 + x + 1 (R142). -/
def sigBit (s : Nat) (b : Bool) : Nat :=
  let out := bit s 63 != b
  let sh := (2 * s) % 2 ^ 64
  if out then sh ^^^ 0x1B else sh

/-- One word with its tag into the signature: 32 data bits from bit 0, then the tag (R142). -/
def sigWord (s : Nat) (w : TWord) : Nat :=
  sigBit ((List.range 32).foldl (fun acc k => sigBit acc (bit w.bits.toNat k)) s) w.poison

/-- Words of 4 KiB at an offset of a memory. -/
def loadBlock (m : Store TWord) (off : Nat) : List TWord := Store.getMany .zero m (off / 4) 1024

/-- The register an arithmetic instruction writes (Table 5.7); none for an instruction of another kind. -/
def VecRegs.trArith (v : VecRegs) (i : TrInstr) : Option (F (List TWord)) :=
  let one := fun (f : Num → F Num) => some (trMap fun e => do f (← v.tgVal i.ta e))
  let two := fun (f : Num → Num → F Num) => some (trMap fun e => do f (← v.tgVal i.ta e) (← v.tgVal i.tb e))
  match i.top with
  | 0x10 => two fadd
  | 0x11 => two fsub
  | 0x12 => two fmul
  | 0x13 => some (trMap fun e => do ffma (← v.tgVal i.ta e) (← v.tgVal i.tb e) (← v.tgVal i.tc e))
  | 0x14 => two fun x y => pure (x.max y)
  | 0x15 => two fun x y => pure (x.min y)
  | 0x20 => one fexp
  | 0x21 => one flog
  | 0x22 => one frsqrt
  | 0x23 => one frecip
  | 0x30 => some (trMap (v.mmaElem i))
  | _ => none

/-- TOP values of Table 5.7 that are not reserved. -/
def trDefined (top : Nat) : Bool :=
  [0x01, 0x02, 0x03, 0x04, 0x10, 0x11, 0x12, 0x13, 0x14, 0x15, 0x20, 0x21, 0x22, 0x23, 0x30, 0x31, 0x32, 0xFF].contains top

/-- Status of an instruction before it runs (R143): reserved TOP or bits, then a TLOAD or TSTORE past its memory. -/
def TrInstr.check (i : TrInstr) : Status :=
  let (stash, off, ok) := i.addr
  let memory := decide (i.top = 0x01 ∨ i.top = 0x02)
  if i.reserved || !trDefined i.top || (memory && !ok) then .versionUnsupported
  else if memory && decide (locBytes stash < off + 4096) then .accessDenied
  else .done

/-- Run one tile-register instruction whose check holds (Table 5.7). -/
def trRun (t : Tile) (i : TrInstr) : Tile :=
  let v := t.vec
  let (stash, off, _) := i.addr
  let v1 := { v with trLast := .done }
  match v.trArith i with
  | some f =>
    let (ws, fl) := f.run v.flags
    { t with vec := { v1 with flags := fl }.setTg i.td ws }
  | none =>
    match i.top with
    | 0x01 => { t with vec := v1.setTg i.td (loadBlock (t.mem.loc stash) off) }
    | 0x02 =>
      let ws := (List.range 1024).map (v.tgWord i.ta)
      { t with mem := t.mem.setLoc stash (Store.setMany .zero (t.mem.loc stash) (off / 4) ws), vec := v1 }
    | 0x03 =>
      let (w, fl) := (trWrite (decodeElem .fp32 i.imm.toNat)).run v.flags
      { t with vec := { v1 with flags := fl }.setTg i.td (List.replicate 1024 w) }
    | 0x04 => { t with vec := v1.setTg i.td ((List.range 1024).map fun e => v.tgWord i.ta (32 * (e % 32) + e / 32)) }
    | 0x31 => { t with vec := v1.setTg i.td ((List.range 1024).map fun e =>
        let a := v.tgWord i.ta e
        let b := v.tgWord i.tb e
        if a.bits = b.bits ∧ a.poison = false ∧ b.poison = false then ⟨scaleOne, false⟩ else .zero) }
    | 0x32 => { t with vec := { v1 with trSig := ((List.range 1024).map (v.tgWord i.ta)).foldl sigWord v.trSig } }
    | 0xFF => { t with vec := { v1 with trDone := (v.trDone + 1) % 65536 } }
    | _ => { t with vec := v1 }

/-- Both mode changes clear the tile's memories and registers (R141). -/
def Tile.clearForMode (t : Tile) : Tile :=
  { t with mem := .cleared, vec := { t.vec with tg := [] } }

/-- VEC_STATUS.STATE (Table 5.8): CLEARING, TILE, STREAMING while a record is in the engine, else IDLE. -/
def Tile.vecState (t : Tile) : Nat :=
  if t.vec.clearing then 6 else if t.vec.mode = 1 then 5 else if (t.unit unitVec).cur.isEmpty then 0 else 2

end Sys2Proof.Machine
end

