-- ==== Sys2Proof/Syntax.lean ====
section
/-! DEFINITION. The commands of the block: one constructor for each row of the table, with the operands that come with the event from outside. -/

namespace Sys2Proof

open Machine

/-- What the work of a start-up phase found (R33, R35, R36, R255, R270): slots that fail their patterns (phase 1), pseudo-channels that do not train (phase 3), tiles that fail their test (phase 4), and the cause of a failure that no other rule judges. -/
structure PhaseWork where
  slots : List Nat
  pcs : List Nat
  tiles : List Nat
  cause : Option Nat
  deriving DecidableEq, Repr

/-- Host memory that a command reads; none when the host refused the access (R401). -/
abbrev HostData := Option (List Byte)

/-- Registers that a REGISTER_WRITE can name: those of the spec that have a writable field and no row of their own. -/
inductive RegName where
  | trDone (t : Fin 156) | vecSig (t : Fin 156)
  | dmaRetry (t : Fin 156) | dmaSysRetry (n : Fin 48) | dmaSysTok (n : Fin 48) | dmaSysProgram (n : Fin 48) (i : Fin 4096)
  | queStSel | queStErr
  | queEpErr (t : Fin 156)
  | mprWeevilCfg | mprRemapCfg | mprScrub | mprGranSel | mprEcc
  | secSlotSel | secMboxSt | secSlotErr
  | lnkVcWeight (k : Fin 36) | lnkGcfg
  | colPstatus (p : Fin 16)
  | resFaultSel
  | resSnapCfg (p : Fin 16)
  | tilLossPolicy (p : Fin 16) | colGfmtPolicy (p : Fin 16) | dmaPartCfg (p : Fin 16)
  | pwrRailSel | clkIdleCfg
  | fwmTraceEn | fwmTimeCfg
  | bar0 (fn : Fin 17) (offset : Fin 16777216)
  | readOnly (block : Fin 16)
  deriving DecidableEq, Repr

/-- A DOE message (R400). -/
inductive DoeKind where
  | spdm | ideKm | tdisp | other
  deriving DecidableEq, Repr

/-- An SPDM request as the responder tells its kinds apart (R452): whether its response is signed, the measurement asked for, and the nonce. -/
structure SpdmReq where
  signed : Bool
  index : Nat
  nonce : BitVec 256
  deriving DecidableEq, Repr

/-- The commands. -/
inductive Instr where
  -- start-up, power and clocks (chapters 1 and 17)
  | aonRailGood
  | pwrReqRise
  | pwrReqFall
  | powerOn
  | powerOff
  | railGood (rail : Fin 13) (mv da : Nat)
  | phaseComplete (work : PhaseWork)
  | controlClusterRelease
  | phase3Start
  | phase4Start
  | clockWakeComplete (clk : Fin 17)
  | coreGateTimer (fld : Fin 3)
  | corePllOffTimer (fld : Fin 3)
  | hbmSelfRefreshTimer (stack : Fin 16)
  | mgmtIdleTimer
  | ckptflashIdleTimer
  | pllLockLoss (clk : Fin 17)
  | aonCrystalFail
  | reversedPolarity
  | inputOvervoltage
  | inputOvercurrent
  | inputUndervoltage
  | railFault (rail : Fin 13) (cause expired : Nat)
  | emergencyTrigger (cause : Fin 13) (reading : Nat)
  | emergencyLevelFall (readings : List (Nat × Nat))
  | hardwareThermalTrip
  | leakNAssert
  | pwrBrakeNAssert
  | capControlSample (projected : Nat)
  | setPwrCap (watts : BitVec 16)
  | moduleRemoval
  -- resets and messages (chapters 10 and 15)
  | coldReset
  | warmReset
  | conventionalReset
  | pfFlr
  | vfFlr (vf : Fin 16)
  | tdiError (vf : Fin 16)
  | stopInterface (vf : Fin 16)
  | doeMessage (kind : DoeKind) (req : SpdmReq) (data : List Byte)
  | atsInvalidation (fn : Fin 17) (tag : Nat)
  -- dispatcher and matrix engine (chapters 2 and 4)
  | nop (t : Fin 156)
  | loop (t : Fin 156)
  | mxe (t : Fin 156)
  | mxeComplete (t : Fin 156)
  -- vector engine (chapter 5)
  | copy (t : Fin 156)
  | neg (t : Fin 156)
  | abs (t : Fin 156)
  | scale (t : Fin 156)
  | relu (t : Fin 156)
  | add (t : Fin 156)
  | sub (t : Fin 156)
  | mul (t : Fin 156)
  | max (t : Fin 156)
  | min (t : Fin 156)
  | axpby (t : Fin 156)
  | fma (t : Fin 156)
  | exp (t : Fin 156)
  | log (t : Fin 156)
  | rsqrt (t : Fin 156)
  | recip (t : Fin 156)
  | sqrt (t : Fin 156)
  | div (t : Fin 156)
  | gelu (t : Fin 156)
  | silu (t : Fin 156)
  | rsum (t : Fin 156)
  | rsumsq (t : Fin 156)
  | rmax (t : Fin 156)
  | rmin (t : Fin 156)
  | ramax (t : Fin 156)
  | csum (t : Fin 156)
  | softmax (t : Fin 156)
  | softmaxBwd (t : Fin 156)
  | lnorm (t : Fin 156)
  | rmsnorm (t : Fin 156)
  | lnormBwd (t : Fin 156)
  | rmsnormBwd (t : Fin 156)
  | menc1 (t : Fin 156)
  | mdec1 (t : Fin 156)
  | menc2 (t : Fin 156)
  | mdec2 (t : Fin 156)
  | optim (t : Fin 156)
  | gstat (t : Fin 156)
  | vecComplete (t : Fin 156)
  | vecModeWrite (t : Fin 156) (value : DWord)
  | vecClearComplete (t : Fin 156)
  -- tile-register instructions (chapter 5)
  | tload (t : Fin 156) (word : DWord)
  | tstore (t : Fin 156) (word : DWord)
  | tfill (t : Fin 156) (word : DWord)
  | ttrans (t : Fin 156) (word : DWord)
  | tadd (t : Fin 156) (word : DWord)
  | tsub (t : Fin 156) (word : DWord)
  | tmul (t : Fin 156) (word : DWord)
  | tfma (t : Fin 156) (word : DWord)
  | tmax (t : Fin 156) (word : DWord)
  | tmin (t : Fin 156) (word : DWord)
  | texp (t : Fin 156) (word : DWord)
  | tlog (t : Fin 156) (word : DWord)
  | trsqrt (t : Fin 156) (word : DWord)
  | trecip (t : Fin 156) (word : DWord)
  | tmma (t : Fin 156) (word : DWord)
  | tcmp (t : Fin 156) (word : DWord)
  | tsig (t : Fin 156) (word : DWord)
  | tend (t : Fin 156) (word : DWord)
  | tileInstructionDiscard (t : Fin 156) (word : DWord)
  -- DMA (chapter 8): channels 0 to 155 are tile units, 156 + n system channels
  | dma (t : Fin 156)
  | move (c : Fin 204)
  | dmaLoop (c : Fin 204)
  | wait (c : Fin 204)
  | signal (c : Fin 204)
  | endProgram (c : Fin 204)
  | dmaReadReturn (c : Fin 204) (i : Nat) (fetch : Fetch)
  | dmaWriteComplete (c : Fin 204) (i : Nat) (fetch : Fetch)
  | dmaProgramComplete (c : Fin 204)
  | dmaBusError (c : Fin 204) (i : Nat)
  | dmaLineTimeout (c : Fin 204) (i : Nat)
  | dmaRetry (c : Fin 204) (i : Nat)
  | start (n : Fin 48) (pc : Fin 4096)
  | stop (n : Fin 48)
  | dmaSysBindWrite (n : Fin 48) (value : DWord)
  -- queues and streams (chapter 7)
  | qsend (t : Fin 156)
  | qrecv (t : Fin 156)
  | lockRequest (i : Nat)
  | lockGrant (i : Nat)
  | packetLanding (entry : Fin 262144) (landing : Landing)
  | creditReturn (t : Fin 192)
  | qsendComplete (t : Fin 156)
  | qrecvComplete (t : Fin 156)
  | flushNotice (i : Nat)
  | levelQueueFlush (entry : Fin 262144)
  | flushEntry (entry : Fin 262144)
  | flushStream (entry : Fin 262144)
  | flushPartition (p : Fin 16)
  | streamEntryError (entry : Fin 262144)
  -- steps (chapters 2, 6 and 14)
  | stepEnd (t : Fin 156)
  | runFaultEnd (p : Fin 16)
  | stepWatchdogExpire (p : Fin 16)
  | stepFenceResolve (p : Fin 16)
  | snapshot (p : Fin 16)
  | deferredMaintenanceRun (p : Fin 16)
  | stepRelease (p : Fin 16)
  -- protected memory (chapter 9)
  | hbmRead (origin : Origin) (key : Fin 2048) (dpa : BitVec 40) (fetch : Fetch)
  | hbmFullWrite (origin : Origin) (key : Fin 2048) (dpa : BitVec 40) (data : List TWord) (fetch : Fetch)
  | hbmPartialWrite (origin : Origin) (key : Fin 2048) (dpa : BitVec 40) (data : List (Option TWord)) (fetch : Fetch)
  | carve (p : Fin 16) (g : Fin 1024) (slot : Fin 2048) (fw : Bool)
  | wipe (g : Fin 1024)
  | stage (p : Fin 16) (g : Fin 1024)
  | unstage (g : Fin 1024)
  | rekey (p : Fin 16) (slot : Fin 2048)
  | mprSessionRekey (p : Fin 16) (slot : Fin 2048)
  | mprRevoke (p : Fin 16)
  | retire (pc : Fin 1024)
  | mprTest (pc : Fin 1024) (errors : Bool)
  | weevilPassStart
  | fillPassEnd (g : Fin 1024)
  | wipePassEnd (g : Fin 1024)
  | rekeyPassEnd (p : Fin 16)
  | migratePassEnd (pc : Fin 1024) (unreadable : List Nat)
  | scrubLine (dpa : BitVec 40) (found : ScrubFind)
  | retirementResume
  | stackRecalRun (stack : Fin 16)
  | pcUnresponsive (pc : Fin 1024)
  -- keys, life cycle and debug (chapter 10)
  | generate (slot : Fin 2048) (kind : Fin 16) (owner : Fin 32) (epoch : Fin 256)
  | derive (src dst : Fin 2048) (kind : Fin 16) (owner : Fin 32) (epoch : Fin 256) (context : List Byte)
  | kemKeygen (slot : Fin 2048)
  | importKey (kem dst : Fin 2048) (kind : Fin 16) (owner : Fin 32) (epoch : Fin 256) (wrapped : Wrapped)
  | exportSlot (slot : Fin 2048) (peer : PeerEvidence) (ownEvidence : BitVec 256)
  | slotRevoke (slot : Fin 2048)
  | zeroize (slot : Fin 2048)
  | genRoot
  | slotSweep (slot : Fin 2048)
  | entropyHealthFail
  | lcTransition (target : LcState) (token : BitVec 256) (tck secured : Bool)
  | debugNonce (tck : Bool)
  | debugCert (tck : Bool) (cert : DebugCert)
  | debugClose (tck : Bool)
  | debugNonceExpire
  | subtreeBuildComplete (layer : Fin 4)
  | secMboxDb (value : DWord) (request : List Byte)
  -- partitions and sessions (chapter 11); host commands name function and queue
  | partCreate (fn : Fin 17) (q : Fin 8192) (host : HostData)
  | partRemove (fn : Fin 17) (q : Fin 8192)
  | removalDrainEnd (p : Fin 16)
  | evidence (fn : Fin 17) (q : Fin 8192) (host : HostData)
  | sessionJoin (fn : Fin 17) (q : Fin 8192) (peer : PeerEvidence) (wrapped : Wrapped) (origin : Nat) (sessionId : Nat)
  | ownerImport (fn : Fin 17) (q : Fin 8192) (host : HostData)
  | sessionRekey (fn : Fin 17) (q : Fin 8192)
  | imageLoad (fn : Fin 17) (q : Fin 8192) (host : HostData) (body : ImageBody)
  | run (fn : Fin 17) (q : Fin 8192)
  | ingest (fn : Fin 17) (q : Fin 8192)
  | release (fn : Fin 17) (q : Fin 8192)
  -- ports and links (chapter 12)
  | train (k : Fin 36)
  | disable (k : Fin 36)
  | retrain (k : Fin 36)
  | acceptRemap (k : Fin 36)
  | swap (k : Fin 36) (wave : Fin 5) (receive : Bool)
  | phyLock (k : Fin 36)
  | hello (k : Fin 36) (msg : Hello)
  | proof (k : Fin 36) (tag : BitVec 256)
  | trainTimeout (k : Fin 36)
  | lossOfLock (k : Fin 36)
  | retrainWindowExpire (k : Fin 36)
  | wavelengthWindow (k : Fin 36) (wave : Fin 5) (symbols codewords : Nat) (lost : Bool)
  | swapReq (k : Fin 36) (wave : Fin 5)
  | swapReady (k : Fin 36) (wave : Fin 5) (lseq : Fin 16384)
  | spareTakeover (k : Fin 36) (receive : Bool)
  | frameTransmit (k : Fin 36) (vc : Fin 8)
  | dataFrameReceive (k : Fin 36) (frame : List Byte) (fec : Nat)
  | idleFrame (k : Fin 36) (frame : List Byte)
  | ctrlFrame (k : Fin 36) (frame : List Byte)
  | keyReady (k : Fin 36) (pkid : Fin 17) (kg : Fin 2)
  | confirm (k : Fin 36) (frame : List Byte)
  | topoLoad (fn : Fin 17) (q : Fin 8192) (host : HostData)
  | portBind (fn : Fin 17) (q : Fin 8192)
  | portUnbind (fn : Fin 17) (q : Fin 8192)
  -- collectives (chapter 13)
  | col (t : Fin 156)
  | allReduce (p : Fin 16) (group : Fin 1024) (seq : Nat) (cp : Bool) (origin chunk : Nat)
  | reduceScatter (p : Fin 16) (group : Fin 1024) (seq : Nat) (cp : Bool) (origin chunk : Nat)
  | allGather (p : Fin 16) (group : Fin 1024) (seq : Nat) (cp : Bool) (origin chunk : Nat)
  | broadcast (p : Fin 16) (group : Fin 1024) (seq : Nat) (cp : Bool) (origin chunk : Nat)
  | allToAll (p : Fin 16) (group : Fin 1024) (seq : Nat) (cp : Bool) (origin chunk : Nat)
  | barrier (p : Fin 16) (group : Fin 1024) (seq : Nat) (cp : Bool)
  | chunkOpenReceive (p : Fin 16)
  | chunkCloseReceive (p : Fin 16)
  | abort (p : Fin 16) (group : Fin 1024) (seq : Nat) (cp : Bool) (status : Status) (rank digest susRank susLidx susDigest : Nat)
  | censusHeader (p : Fin 16) (group : Fin 1024) (seq : Nat) (cp : Bool) (rank digest lidx : Nat)
  | censusResult (p : Fin 16) (group : Fin 1024) (seq : Nat) (cp : Bool) (major rank lidx count : Nat)
  | censusTimeout (p : Fin 16) (group : Fin 1024) (seq : Nat) (cp : Bool)
  | fenceHeaderReceive (p : Fin 16) (rank word : Nat)
  | colRecordComplete (t : Fin 156)
  | ctrlColl (fn : Fin 17) (q : Fin 8192) (host : HostData)
  | ranksLoad (fn : Fin 17) (q : Fin 8192) (host : HostData)
  | groupsLoad (fn : Fin 17) (q : Fin 8192) (host : HostData)
  -- resilience (chapter 14)
  | tileReplacement (t : Fin 156)
  | tileTest (fn : Fin 17) (q : Fin 8192) (pass : Bool)
  | tileReplace (fn : Fin 17) (q : Fin 8192)
  | pcTest (fn : Fin 17) (q : Fin 8192) (errors : Bool)
  | pcRetire (fn : Fin 17) (q : Fin 8192)
  | stackRecal (fn : Fin 17) (q : Fin 8192)
  | laneCal (fn : Fin 17) (q : Fin 8192)
  | sensorCal (fn : Fin 17) (q : Fin 8192)
  | snapshotRequest (p : Fin 16)
  | mirrorFillCheck (p : Fin 16)
  | flashDrainComplete (p : Fin 16)
  | snapConfig (fn : Fin 17) (q : Fin 8192)
  | snapHold (fn : Fin 17) (q : Fin 8192)
  | census (fn : Fin 17) (q : Fin 8192)
  | fill (fn : Fin 17) (q : Fin 8192)
  | fillCheck (fn : Fin 17) (q : Fin 8192)
  | restore (fn : Fin 17) (q : Fin 8192) (host : HostData)
  | flashRead (fn : Fin 17) (q : Fin 8192) (host : HostData)
  -- host interface (chapter 15)
  | hifEnable (fn : Fin 17)
  | hifDisable (fn : Fin 17)
  | sqTailDoorbell (fn : Fin 17) (q : Fin 8192) (tail : BitVec 32) (entries : List (List Byte))
  | cqHeadDoorbell (fn : Fin 17) (q : Fin 8192) (head : BitVec 32)
  | cqInterruptTimer (fn : Fin 17) (q : Fin 8192)
  | fenceWaitSatisfied (fn : Fin 17) (q : Fin 8192)
  | ctxCreate (fn : Fin 17) (q : Fin 8192)
  | ctxDestroy (fn : Fin 17) (q : Fin 8192)
  | ctxKill (fn : Fin 17) (q : Fin 8192)
  | sqCreate (fn : Fin 17) (q : Fin 8192)
  | sqDestroy (fn : Fin 17) (q : Fin 8192)
  | cqCreate (fn : Fin 17) (q : Fin 8192)
  | cqDestroy (fn : Fin 17) (q : Fin 8192)
  | memAlloc (fn : Fin 17) (q : Fin 8192)
  | memFree (fn : Fin 17) (q : Fin 8192)
  | memMap (fn : Fin 17) (q : Fin 8192)
  | memUnmap (fn : Fin 17) (q : Fin 8192)
  | memExport (fn : Fin 17) (q : Fin 8192)
  | memImport (fn : Fin 17) (q : Fin 8192)
  | fenceCreate (fn : Fin 17) (q : Fin 8192)
  | fenceDestroy (fn : Fin 17) (q : Fin 8192)
  | fenceExport (fn : Fin 17) (q : Fin 8192)
  | fenceImport (fn : Fin 17) (q : Fin 8192)
  | hostNop (fn : Fin 17) (q : Fin 8192)
  | stageCopy (fn : Fin 17) (q : Fin 8192) (host : HostData)
  | query (fn : Fin 17) (q : Fin 8192) (host : HostData)
  | hostReservedOpcode (fn : Fin 17) (q : Fin 8192)
  -- firmware, management and time (chapter 16)
  | fwInfo (fn : Fin 17) (q : Fin 8192)
  | fwWrite (fn : Fin 17) (q : Fin 8192) (host : HostData)
  | fwVerify (fn : Fin 17) (q : Fin 8192)
  | nextReset (fn : Fin 17) (q : Fin 8192)
  | now (fn : Fin 17) (q : Fin 8192)
  | cancel (fn : Fin 17) (q : Fin 8192)
  | fwCommit (fn : Fin 17) (q : Fin 8192) (stuck : Bool)
  | logRead (fn : Fin 17) (q : Fin 8192)
  | traceCfg (fn : Fin 17) (q : Fin 8192)
  | timeCfg (fn : Fin 17) (q : Fin 8192)
  | timeSet (fn : Fin 17) (q : Fin 8192)
  | timeRead (fn : Fin 17) (q : Fin 8192)
  | coreWatchdogExpire (core : Fin 8)
  | heartbeatLost
  | bar0WriteApply
  | traceRateSummary (point : Fin 4096)
  | coarsenBoundary (utils : List (Nat × Nat × Nat))
  | mctpControl (cmd : Nat) (data : List Byte)
  | pldmSensorRead (type_ : Nat) (sensor : Nat) (reading : Nat)
  | spdmRequest (secured : Bool) (req : SpdmReq)
  | faultRead
  | pldmLogRead (seq : BitVec 32) (count : Nat)
  | inventory
  | setdasa
  | entdaa (addr : Fin 128)
  | fwUpdateComponent (offset : Nat) (data : List Byte)
  | activateFirmware
  | ptpSync (k : Fin 36) (origin correction : Nat)
  | ptpDelayReq (k : Fin 36) (data : List Byte)
  | ptpDelayResp (k : Fin 36) (received : Nat)
  | ptpAnnounce (k : Fin 36) (set : ClockSet) (domain : Fin 128)
  | announceTimeout
  | holdoverExpire
  | ppsPulse (width : Nat)
  | ppsMiss
  -- reads with an effect of their own, and register accesses
  | queStData0Read
  | queEpErrRead (t : Fin 156)
  | queStErrRead
  | mprEccRead
  | mprErrRead
  | mprPerrRead (p : Fin 16)
  | lnkErrRead (k : Fin 36)
  | lnkErr2Read (k : Fin 36)
  | colIntegRead (p : Fin 16)
  | resFaultStatusRead
  | resFaultData0Read
  | resSnapStatusRead (p : Fin 16)
  | fwmStatusRead
  | fwmTimeStatusRead
  | pwrEmergRead
  | registerWrite (reg : RegName) (value : DWord)
  | bar4Access (fn : Fin 17) (offset : BitVec 44) (data : Option (List Byte)) (len : Nat)
  | syncInterval (announce : Bool)
  | tileUncorrectableError (t : Fin 156)
  | clusterStateError
  | pwrBrakeNDeassert
  | leakNDeassert
  | pcieL1Entry
  | spareWavelengthLock (k : Fin 36)
  | thermalTripRearm
  | entropyHealthRecover
  deriving DecidableEq, Repr

end Sys2Proof
end

