-- ==== Sys2Proof/Machine/State.lean ====
section
/-! DEFINITION. The state of the block: every register, memory, queue, counter, mode and pin that the spec gives it, as plain data, with the queue of waiting commands; and the state right after reset. -/

namespace Sys2Proof.Machine

/-- Why a command stops the machine. -/
inductive Fault where
  /-- An operand list has not the length its command needs (WellFormed.lean): raised by the meanings that take lists. Safe: no hardware event has that shape. -/
  | illFormed
  deriving DecidableEq, Repr

/-- Why a command has no meaning. -/
inductive Refusal where
  /-- No meaning yet; raised by an arm of exec that names its mnemonic. Safe: nothing can be proved of it. -/
  | notModelled (mnemonic : String)
  deriving DecidableEq, Repr

/-- Maintenance held for action 4 of a boundary (R375): kind (MAINT request), unit, and what its test will find. -/
structure Maint where
  kind : Nat
  unit : Nat
  pass : Bool
  deriving DecidableEq, Repr

/-- The whole state. -/
structure State where
  /-- Commands waiting, first in, first out. -/
  pending : List Instr
  /-- What has left the module, newest first. -/
  out : List Out
  /-- Free values taken so far (the model's own counter). -/
  draws : Nat
  boot : Boot
  pwr : Power
  tiles : Store Tile
  streams : Streams
  sys : Store SysChan
  hbm : Hbm
  /-- Page labels by 2 MiB page of device physical address (R300). -/
  pageLabels : Store Nat
  sec : Sec
  parts : Store Part
  jobs : Store Job
  links : Links
  coll : Coll
  res : Resil
  snaps : Store SnapPart
  flash : Flash
  fwm : Fwm
  hif : Hif
  maint : List Maint
  /-- Register values at the last 1 ms boundary (R308), by selector. -/
  view : Store Nat
  deriving DecidableEq, Repr

/-- Right after reset: the module before its AON rail is good; every register at its reset value, memories empty, no command waiting. -/
def State.reset : State where
  pending := []
  out := []
  draws := 0
  boot := .reset
  pwr := .reset
  tiles := []
  streams := .reset
  sys := []
  hbm := .reset
  pageLabels := []
  sec := .reset
  parts := []
  jobs := []
  links := .reset
  coll := .reset
  res := .reset
  snaps := []
  flash := .reset
  fwm := .reset
  hif := .reset
  maint := []
  view := []

end Sys2Proof.Machine
end

