-- ==== Sys2Proof/Machine/Ops.lean ====
section
/-! DEFINITION. Operations shared by the meanings: access to the parts of the state, output, trace and fault record, memory as origins see it, stage faults and the end of a run, host commands and their completions. -/

namespace Sys2Proof.Machine

/-- What a meaning answers. -/
abbrev Result := Host.Outcome State Fault Refusal

/-! ### Parts of the state -/

def State.tile (s : State) (t : Nat) : Tile := Store.get .reset s.tiles t
def State.setTile (s : State) (t : Nat) (x : Tile) : State := { s with tiles := Store.set .reset s.tiles t x }
def State.updTile (s : State) (t : Nat) (f : Tile → Tile) : State := s.setTile t (f (s.tile t))

def State.sysChan (s : State) (n : Nat) : SysChan := Store.get .reset s.sys n
def State.setSys (s : State) (n : Nat) (x : SysChan) : State := { s with sys := Store.set .reset s.sys n x }
def State.updSys (s : State) (n : Nat) (f : SysChan → SysChan) : State := s.setSys n (f (s.sysChan n))

def State.part (s : State) (p : Nat) : Part := Store.get .reset s.parts p
def State.setPart (s : State) (p : Nat) (x : Part) : State := { s with parts := Store.set .reset s.parts p x }
def State.updPart (s : State) (p : Nat) (f : Part → Part) : State := s.setPart p (f (s.part p))

def State.job (s : State) (p : Nat) : Job := Store.get .reset s.jobs p
def State.setJob (s : State) (p : Nat) (x : Job) : State := { s with jobs := Store.set .reset s.jobs p x }
def State.updJob (s : State) (p : Nat) (f : Job → Job) : State := s.setJob p (f (s.job p))

def State.snap (s : State) (p : Nat) : SnapPart := Store.get .reset s.snaps p
def State.setSnap (s : State) (p : Nat) (x : SnapPart) : State := { s with snaps := Store.set .reset s.snaps p x }
def State.updSnap (s : State) (p : Nat) (f : SnapPart → SnapPart) : State := s.setSnap p (f (s.snap p))

def State.port (s : State) (k : Nat) : Port := s.links.port k
def State.setPort (s : State) (k : Nat) (x : Port) : State := { s with links := s.links.setPort k x }
def State.updPort (s : State) (k : Nat) (f : Port → Port) : State := s.setPort k (f (s.port k))

/-- A partition exists on the module (R289, R312). -/
def State.anyPart (s : State) : Bool := s.parts.any fun e => e.2.live

/-- Phase 3 is complete: the firmware-private range holds the fault ring and Cicada (R368, R446). -/
def State.ringReady (s : State) : Bool := s.boot.past 3

/-- The control cluster runs (R33, R441). -/
def State.clusterUp (s : State) : Bool := s.boot.past 2 && !s.fwm.fatal

/-- Phase 4 is complete: the module serves partitions (Table 1.5). -/
def State.ready (s : State) : Bool := s.boot.past 4

/-- The number of the TIME domain (Table 17.4). -/
abbrev clkTime : Nat := 16

/-- With no command waiting, 1 ns passes: the time counters count while the TIME domain runs (R455). -/
def State.idle (s : State) : State := if s.pwr.runs clkTime then { s with fwm := s.fwm.tick } else s

/-- What leaves the module, in order. -/
def State.emit (s : State) (os : List Out) : State := { s with out := os.reverse ++ s.out }

/-- The next draw of a free value. -/
def State.draw (s : State) : Nat × State := (s.draws, { s with draws := s.draws + 1 })

/-- Set the host interface and send what it wrote. -/
def State.withHif (s : State) (h : Hif × List Out) : State := { s.emit h.2 with hif := h.1 }

/-! ### Trace and fault record (R368, R447) -/

/-- A trace point. -/
def State.trace (s : State) (point part sev : Nat) (args : List Nat) : State :=
  { s with fwm := s.fwm.trace s.ringReady point part sev args }

/-- Side-band message kinds: 0 in-band interrupt for a MODULE entry, 1 start-up report, 2 reply, 3 emergency, 4 tile interrupt. -/
abbrev sbFault : Nat := 0
abbrev sbStart : Nat := 1
abbrev sbReply : Nat := 2
abbrev sbEmergency : Nat := 3
abbrev sbTend : Nat := 4

/-- One entry of the fault record, its Cicada entry, and the in-band interrupt of class MODULE (R368, R447, R449). -/
def State.report (s : State) (cls source unit : Nat) (st : Status) (part detail : Nat) : State :=
  let e : FaultEntry := ⟨s.fwm.time, cls, source, unit, st, part, if part = noPart then 0 else (s.job part).step.stepNum, detail⟩
  let s1 := { s with res := s.res.write s.ringReady e }
  let b := e.bytes
  let s2 := s1.trace 0x0600 part (classSev cls) ((List.range 4).map fun i => field b (8 * i) 8)
  if cls = clsModule then s2.emit [.sideband sbFault st b] else s2

/-! ### Tiles of partitions -/

/-- Physical tiles of a partition's image, by logical tile (R42). -/
def State.tilesOf (s : State) (p : Nat) : List Nat := (s.job p).place

/-- Tiles of a partition's quads. -/
def State.quadTiles (s : State) (p : Nat) : List Nat :=
  (((List.range 36).filter fun q => bit ((s.part p).rec_).quads q).map fun q => s.res.quads.getD q []).flatten

/-- Apply a function to every tile of a list. -/
def State.updTiles (s : State) (ts : List Nat) (f : Tile → Tile) : State := ts.foldl (fun (a : State) t => a.updTile t f) s

/-! ### Keys and lanes (R229, R268) -/

/-- Hash key index of the firmware context. -/
abbrev fwHash : Nat := 2048

/-- Key IDs as the lanes see them. -/
def State.laneKeys (s : State) : LaneKeys :=
  ⟨fun p k => s.sec.useSlot k p [kindMem], fun k => if k = fwHash then s.sec.hashOf 0 else s.sec.hashOf k⟩

/-- Partition and class of a tree failure (R238): DATA for each owner of a PROTECTED granule met, else MODULE for FIRMWARE, else DEGRADED. -/
def State.treeReport (s : State) (pc slot level dpa : Nat) : State :=
  let n := 8 ^ Nat.min level 5
  let lo := slot / n * n / 256
  let hi := (slot / n * n + n - 1) / 256
  let gs := (List.range (hi - lo + 1)).map fun i => s.hbm.gran (lo + i)
  let owners := (gs.filterMap fun g => if g.state = .prot then some g.owner else none).eraseDups
  if !owners.isEmpty then owners.foldl (fun (a : State) p => a.report clsData srcMpr pc .tagFail p dpa) s
  else if gs.any fun g => decide (g.state = .firmware) then s.report clsModule srcMpr pc .tagFail noPart dpa
  else s.report clsDegraded srcMpr pc .tagFail noPart dpa

/-! ### Flushes (R62, R193) -/

/-- Drop the record in a unit and what waits behind it. -/
def Tile.dropUnit (t : Tile) (u : Nat) : Tile := t.setUnit u .idle

/-- A flush acts on a level queue; the consumer counts the packets and a QRECV copying from it is cancelled. Also the messages dropped. -/
def State.flushQueue (s : State) (i : Nat) : State :=
  let e := s.streams.entry i
  let (q, n) := s.streams.flush i
  let s1 := { s with streams := q }
  if e.consumer < 156 then s1.updTile e.consumer fun t =>
    let t1 := { t with ep := { t.ep with flushDrop := satAdd 16 t.ep.flushDrop n } }
    match t.ep.rx with
    | some x => if x.chosen = some i then { t1.dropUnit unitQin with ep := { t1.ep with rx := none, rxLast := .cancelled } } else t1
    | none => t1
  else if e.kind = kindLinkOut then s1.updPort (e.consumer - 156) fun x => { x with txQ := x.txQ.filter fun o => match o.ring with
      | some r => decide (r.1 ≠ i)
      | none => true }
  else s1

def State.flushMany (s : State) (is : List Nat) : State := is.foldl (fun (a : State) i => a.flushQueue i) s

/-! ### Host commands (R410, R411, R415 to R419) -/

/-- A command that waits on a fence that is ABANDONED. -/
def Hif.orphan (h : Hif) : Option (Nat × Nat × Nat) :=
  h.fns.findSome? fun e => e.2.sqs.findSome? fun q => match q.2 with
    | none => none
    | some s => s.cmds.findSome? fun c =>
      let f := c.refs.fences.getD (c.refs.fences.length - 1 - b2n c.entry.sigEn) 0
      let gone := match Store.get none (h.obj (objSpace e.1)).fences f with
        | some x => x.abandoned
        | none => false
      if c.entry.waitEn && !c.ready && !c.started && decide (c.checked = .done) && gone then some (e.1, q.1, c.entry.seq) else none

/-- Commands waiting on an ABANDONED fence complete ABANDONED (R419). -/
def Hif.dropOrphans : Nat → Hif → Hif × List Out
  | 0, h => (h, [])
  | n + 1, h =>
    match h.orphan with
    | none => (h, [])
    | some (fn, q, seq) =>
      let (h1, o1) := h.complete fn q seq .abandoned 0 0
      let (h2, o2) := Hif.dropOrphans n h1
      (h2, o1 ++ o2)

/-- Fetched commands in all. -/
def Hif.cmdCount (h : Hif) : Nat := (h.fns.map fun e => (e.2.sqs.map fun q => match q.2 with
  | some s => s.cmds.length
  | none => 0).sum).sum

/-- Set the host interface, then complete what an abandonment leaves waiting. -/
def State.settleHif (s : State) (h : Hif × List Out) : State :=
  (s.withHif h).withHif (h.1.dropOrphans h.1.cmdCount)

/-- A host command completes. -/
def State.complete (s : State) (fn q seq : Nat) (st : Status) (r0 r1 : Nat) : State := s.settleHif (s.hif.complete fn q seq st r0 r1)

/-- Partition that a function serves. -/
def fnPart (fn : Nat) : Nat := fn - 1

/-- Commands of a function complete PARTITION_GONE (R417): its partition does not exist, or is CLOSING or GONE. -/
def State.fnGone (s : State) (fn : Nat) : Bool :=
  decide (fn ≠ 0) && (!(s.part (fnPart fn)).live || decide ((s.part (fnPart fn)).sess = .closing))

/-- How a started command stands: completed with a status and results, or running on. -/
inductive CmdEnd where
  | done (st : Status) (r0 r1 : Nat)
  | running
  deriving DecidableEq, Repr

/-- The next command of a queue to start, when it has this opcode (R411). -/
def State.nextCmd (s : State) (fn q op : Nat) : Option Cmd :=
  if !s.clusterUp then none
  else match (s.hif.fn fn).sq q with
    | none => none
    | some x => match x.next with
      | some c => if c.entry.opcode = op then some c else none
      | none => none

/-- Run the next command of a queue if it has this opcode: a status from its checks at fetch, or the effect given. -/
def State.hostCmd (s : State) (fn q op : Nat) (f : State → Cmd → Nat → State × CmdEnd) : State :=
  match s.nextCmd fn q op with
  | none => s
  | some c =>
    let x := s.hif.fn fn
    match x.sq q with
    | none => s
    | some sq =>
      let s1 := { s with hif := s.hif.setFn fn (x.setSq q (some (sq.start c.entry.seq))) }
      if c.checked ≠ .done then s1.complete fn q c.entry.seq c.checked 0 0
      else if s.fnGone fn && decide (op ≠ 0x50 ∧ op ≠ 0x21) then s1.complete fn q c.entry.seq .partitionGone 0 0
      else match f s1 c sq.ctx with
        | (s2, .done st r0 r1) => s2.complete fn q c.entry.seq st r0 r1
        | (s2, .running) => s2

/-- A command of the simple kind: its state and status. -/
def ends (s : State) (st : Status) : State × CmdEnd := (s, .done st 0 0)

/-- Host bytes that a command reads; a refused access completes it ACCESS_DENIED (R401). -/
def withHost (s : State) (h : HostData) (f : List Byte → State × CmdEnd) : State × CmdEnd :=
  match h with
  | none => ends s .accessDenied
  | some b => f b

/-- The mappings of the issuing context. -/
def State.ctxMaps (s : State) (fn ctx : Nat) : List MapRun :=
  match (s.hif.fn fn).ctx ctx with
  | some c => c.maps
  | none => []

/-- The mappings a command works under: those its ranges had at its fetch while it holds their objects (R411, R422), then the context's. -/
def State.cmdMaps (s : State) (fn ctx : Nat) (c : Cmd) : List MapRun := (c.maps.filter fun r => c.refs.mems.contains r.mem) ++ s.ctxMaps fn ctx

/-! ### Stage faults and the stop of a run (R63, R64, R370) -/

/-- SOURCE of a unit's faults (Table 14.1). -/
def unitSource (u : Nat) : Nat :=
  if u = unitMxe then srcMxe else if u = unitVec then srcVec else if u = unitDma then srcDma
  else if u = unitQout ∨ u = unitQin then srcQue else if u = unitCol then srcCol else srcTil

/-- The stop of R63 step 2 on one tile: queued records, a QSEND waiting for its lock, a QRECV that has chosen nothing, collectives in progress (R361), and the DMA unit at its instruction boundary. -/
def Tile.stopDispatch (t : Tile) : Tile :=
  let t1 := ([unitMxe, unitVec, unitDma, unitQout, unitQin].foldl (fun (a : Tile) u => a.setUnit u ⟨(a.unit u).cur, []⟩) t).dropUnit unitCol
  let t2 := match t1.ep.tx with
    | some x => if x.locked then t1 else { t1.dropUnit unitQout with ep := { t1.ep with tx := none, txLast := .cancelled } }
    | none => t1
  let t3 := match t2.ep.rx with
    | some x => if x.chosen.isSome then t2 else { t2.dropUnit unitQin with ep := { t2.ep with rx := none, rxLast := .cancelled } }
    | none => t2
  { t3 with dma := t3.dma.stop }

/-- Lock requests of tiles whose QSEND was stopped are withdrawn; a grant already on its way stays. -/
def Streams.withdraw (q : Streams) (ts : List Nat) : Streams :=
  { q with asking := q.asking.filter (fun r => !ts.contains r.producer), waiting := q.waiting.filter (fun r => !ts.contains r.producer) }

/-- The data plane left: instances but those whose mismatch is still being counted (R360, R362), chunks on their way. -/
def CollPart.quiet (c : CollPart) : CollPart :=
  { c with insts := c.insts.filter fun i => i.cp || i.mismatch.isSome, frames := c.frames.filter fun f => bit f.ext 44, incoming := c.incoming.filter fun x => x.header.cp }

/-- The data-plane collectives that a module holds end CANCELLED (R361, Table 13.6 row 2). -/
def CollPart.cancelled (c : CollPart) : CollPart :=
  { c.quiet with lastStatus := if c.insts.all (·.cp) then c.lastStatus else .cancelled }

/-- The run of a partition stops with a status: dispatch stops, its queues are flushed (R193), its collectives end; the completion names a tile only when one faulted (R63, R370). -/
def State.stopRun (s : State) (p : Nat) (st : Status) : State :=
  let j := s.job p
  match j.run with
  | none => s
  | some r =>
    if r.phase = .faulting then s
    else
      let ts := s.tilesOf p
      let idle := ts.filter fun t => match (s.tile t).ep.tx with
        | some x => !x.locked
        | none => false
      let s1 := s.setJob p { j with run := some { r with phase := .faulting, ending := some st } }
      let s2 : State := { s1.updTiles ts Tile.stopDispatch with streams := s1.streams.withdraw idle, coll := s1.coll.updPart p CollPart.cancelled }
      s2.flushMany (s2.streams.queues fun e => decide (e.part = p))

/-- A stage fault of a tile (R63): its FAULT fields take the first failing record, it is HALTED, the fault record gets a STEP entry, and the partition stops. -/
def State.stageFault (s : State) (t : Nat) (st : Status) (recIdx unit : Nat) : State :=
  let x := s.tile t
  match x.part with
  | none => s
  | some p =>
    match (s.job p).run with
    | none => s
    | some _ =>
      let s1 := if x.stage.fault = .done then
          (s.setTile t { x with stage := { x.stage with state := .halted, fault := st, faultRec := recIdx, faultUnit := unit } }).report
            clsStep (unitSource unit) t st p 0
        else s
      s1.stopRun p st

/-- A fill from this module's mirror in progress ends CANCELLED, its frames that have not left withdrawn (R395). -/
def State.cancelFill (s : State) (p : Nat) : State :=
  match (s.snap p).asker with
  | none => s
  | some w =>
    let own := fun (x : Port) (u : OutUnit) => decide (u.vc = 7) && (match x.entry u.pkid with
      | some e => decide (e.part = p)
      | none => false)
    let s1 := (List.range 36).foldl (fun (a : State) k => a.updPort k fun x => { x with txQ := x.txQ.filter fun u => !own x u }) s
    (s1.updSnap p fun y => { y with asker := none }).complete w.1 w.2.1 w.2.2 .cancelled 0 0

/-- A fault of class TILE, DATA, LINK or MODULE that stops a partition's job (R369, R370, R395). -/
def State.jobFault (s : State) (cls source unit : Nat) (st : Status) (p detail : Nat) : State :=
  ((s.report cls source unit st p detail).stopRun p st).cancelFill p

/-- Every run of the module stops. -/
def State.stopAll (s : State) (st : Status) : State :=
  (List.range 16).foldl (fun (a : State) p => (a.stopRun p st).cancelFill p) s

/-- A tree failure is reported and stops the jobs that lost data. -/
def State.treeFault (s : State) (pc slot level dpa : Nat) : State :=
  let n := 8 ^ Nat.min level 5
  let lo := slot / n * n / 256
  let hi := (slot / n * n + n - 1) / 256
  let owners := (List.range (hi - lo + 1)).filterMap fun i => if (s.hbm.gran (lo + i)).state = .prot then some (s.hbm.gran (lo + i)).owner else none
  owners.eraseDups.foldl (fun (a : State) p => a.stopRun p .tagFail) (s.treeReport pc slot level dpa)

/-! ### Memory -/

/-- The state after a lane's access. -/
def State.afterLane (s : State) (o : LaneOut) (dpa : Nat) : State :=
  let s1 := { s with hbm := o.h }
  match o.tree with
  | some (pc, slot, level) => s1.treeFault pc slot level dpa
  | none => s1

/-- A line read by an origin (R229, R240). -/
def State.hbmRead (s : State) (o : Origin) (key dpa : Nat) (bar4 : Bool) (f : Fetch) : State × Status × List TWord :=
  let r := s.hbm.read s.laneKeys o key dpa bar4 f
  (s.afterLane r dpa, r.status, r.words)

/-- An early page or a conversion has begun a re-key pass (R245): NEXT_SLOT gets a key that Scarab derives for epoch + 1. -/
def State.startRekey (s : State) (p : Nat) : Option State :=
  let e := (s.hbm.part p).epoch + 1
  let sess := (s.part p).sessionSlot
  let free := ((List.range 2048).drop 16).find? fun i => decide ((s.sec.slot i).state = .free)
  match free with
  | none => none
  | some i =>
    let (sec1, st) := s.sec.derive sess i kindMem p e []
    if st ≠ .done then none
    else
      let h := s.hbm.rekey p i
      let h1 := h.updPart p fun mp => { mp with nextSlot := i, nextValid := true }
      some { s with sec := sec1, hbm := h1, parts := Store.upd .reset s.parts p fun x => { x with slots := x.slots ++ [i] } }

/-- A line written by an origin (R229, R241 to R246); none while R245 makes the write wait. -/
def State.hbmWrite (s : State) (o : Origin) (key dpa : Nat) (bar4 : Bool) (ws : List (Option TWord)) (f : Fetch) : Option (State × Status) :=
  let go := fun (s : State) =>
    let r := s.hbm.write s.laneKeys o key dpa bar4 ws f
    some (s.afterLane r dpa, r.status)
  if s.hbm.checkReq s.laneKeys o key dpa bar4 ≠ .done then go s
  else match s.hbm.writeNeed dpa with
    | .waits => none
    | .needsRekey p => match s.startRekey p with
      | some s1 => go s1
      | none => none
    | _ => go s

/-- Granules of a partition's pool of a kind, ascending (R420); those still FILLING for it count, so that a page keeps its place. -/
def State.pool (s : State) (p : Nat) (staging : Bool) : List Nat :=
  let k := if staging then GranState.staging else .prot
  s.hbm.gransIn fun g => decide (g.owner = p) && (decide (g.state = k) || decide (g.state = .filling ∧ g.next = k))

/-- Physical address of a page of an object. -/
def State.pageAddr (s : State) (p : Nat) (m : MemObj) (i : Nat) : Option Nat :=
  ((s.pool p m.staging)[(m.first + i) / 512]?).map fun g => g * 2 ^ 30 + (m.first + i) % 512 * 2 ^ 21

/-- Physical address behind a device virtual address of a space of partition p (R420). -/
def State.vaAddr (s : State) (p : Nat) (space : List MapRun) (va : Nat) : Option Nat :=
  match findPage space va with
  | none => none
  | some (m, i) => match Store.get none (s.hif.obj p).mems m with
    | none => none
    | some o => (s.pageAddr p o i).map fun b => b + va % 2097152

/-- The address lies in a STAGING object. -/
def State.vaStaging (s : State) (p : Nat) (space : List MapRun) (va : Nat) : Bool :=
  match findPage space va with
  | none => false
  | some (m, _) => match Store.get none (s.hif.obj p).mems m with
    | some o => o.staging
    | none => false

/-- What a bulk access met: the state, the first status that is not DONE, words. -/
structure Bulk where
  s : State
  status : Status
  words : List TWord

/-- The first status that is not DONE. -/
def keepBad (a b : Status) : Status := if a = .done then b else a

/-- Words of one line of partition p at a virtual address; 16 poison-tagged zeros where it cannot be read. -/
def State.vaLine (s : State) (o : Origin) (p : Nat) (space : List MapRun) (va : Nat) : State × Status × List TWord :=
  match s.vaAddr p space (va / 64 * 64) with
  | none => (s, .accessDenied, poisonWords)
  | some a =>
    let (s1, st, ws) := s.hbmRead o (s.hbm.part p).curSlot a false .clean
    (s1, st, if st = .done then ws else poisonWords)

/-- The next k lines from a virtual address, as many words as are asked for. -/
def State.readLines (o : Origin) (p : Nat) (space : List MapRun) : Nat → State → Nat → Nat → State × Status × List TWord
  | 0, s, _, _ => (s, .done, [])
  | k + 1, s, va, n =>
    let a0 := va % 64 / 4
    let m := Nat.min n (16 - a0)
    let (s1, st1, ws) := s.vaLine o p space va
    let (s2, st2, rest) := State.readLines o p space k s1 (va + 4 * m) (n - m)
    (s2, keepBad st1 st2, (ws.drop a0).take m ++ rest)

/-- n bytes at a virtual address, both multiples of 4, as words (R206, R298). -/
def State.vaRead (s : State) (o : Origin) (p : Nat) (space : List MapRun) (va n : Nat) : Bulk :=
  let r := State.readLines o p space (if n = 0 then 0 else linesOf va n) s va (n / 4)
  ⟨r.1, r.2.1, r.2.2⟩

/-- Write part of a line at a virtual address. -/
def State.vaPut (s : State) (o : Origin) (p : Nat) (space : List MapRun) (va : Nat) (ws : List TWord) : State × Status :=
  let a0 := va % 64 / 4
  match s.vaAddr p space (va / 64 * 64) with
  | none => (s, .accessDenied)
  | some a =>
    match s.hbmWrite o (s.hbm.part p).curSlot a false ((List.range 16).map fun k => if k < a0 then none else ws[k - a0]?) .clean with
    | some r => r
    | none => (s, .counterExhausted)

/-- Words into the next k lines from a virtual address; a line that cannot be written is noted. -/
def State.writeLines (o : Origin) (p : Nat) (space : List MapRun) : Nat → State → Nat → List TWord → State × Status
  | 0, s, _, _ => (s, .done)
  | k + 1, s, va, ws =>
    let m := 16 - va % 64 / 4
    let (s1, st1) := s.vaPut o p space va (ws.take m)
    let (s2, st2) := State.writeLines o p space k s1 (va + 4 * m) (ws.drop m)
    (s2, keepBad st1 st2)

/-- Write words at a virtual address. -/
def State.vaWrite (s : State) (o : Origin) (p : Nat) (space : List MapRun) (va : Nat) (ws : List TWord) : Bulk :=
  let r := State.writeLines o p space (if ws.isEmpty then 0 else linesOf va (4 * ws.length)) s va ws
  ⟨r.1, r.2, []⟩

/-- Bytes of words. -/
def twordBytes (ws : List TWord) : List Byte := wordsBytes (ws.map TWord.bits)

/-- Words of bytes, tags clear. -/
def cleanWords (bs : List Byte) : List TWord := (bytesWords bs).map fun w => ⟨w, false⟩

/-- 2 MiB pages that a range covers, by physical page; unmapped ones are left out. -/
def State.physPages (s : State) (p : Nat) (space : List MapRun) (va n : Nat) : List Nat :=
  let (q, k) := pageSpan va n
  (List.range k).filterMap fun i => (s.vaAddr p space ((q + i) * 2097152)).map fun a => a / 2097152

/-- OR a label into the pages of a range (R300). -/
def State.labelRange (s : State) (p : Nat) (space : List MapRun) (va n label : Nat) : State :=
  if label = 0 then s
  else { s with pageLabels := (s.physPages p space va n).foldl (fun m q => Store.upd 0 m q (· ||| label)) s.pageLabels }

/-- OR of the labels of the pages of a range. -/
def State.labelOf (s : State) (p : Nat) (space : List MapRun) (va n : Nat) : Nat :=
  (s.physPages p space va n).foldl (fun acc q => acc ||| Store.get 0 s.pageLabels q) 0

/-! ### The end of a run (R63, R158, R415) -/

/-- R1 of a final RUN entry. -/
def Run.finalWord (r : Run) (outcome : Nat) : Nat :=
  r.faultTile + (r.faultRec % 2 ^ 13) <<< 16 + (r.faultUnit % 8) <<< 29 + (Nat.min r.vetoes 65535) <<< 32 + outcome <<< 48

/-- The run ends with a status: its final completion is posted (R415). -/
def State.endRun (s : State) (p : Nat) (st : Status) : State :=
  let j := s.job p
  match j.run with
  | none => s
  | some r =>
    let s1 := s.setJob p { j with run := none }
    s1.complete r.asker.1 r.asker.2.1 r.asker.2.2 st j.step.stepNum (r.finalWord j.step.lastOutcome)

end Sys2Proof.Machine
end

