-- ==== Sys2Proof/Machine/Ends.lean ====
section
/-! DEFINITION. How a run ends and how a module tells its peers: hops to a rank, header-only messages, the fence exchange, flushes of level queues, the end of a run by a fault, and the way down to STANDBY. -/

namespace Sys2Proof.Machine

/-! ### Reaching a rank (R355, R364) -/

/-- The PKID under which a port binds a partition. -/
def Port.pkidOf (x : Port) (p : Nat) : Option Nat :=
  (x.entries.find? fun e => match e.2 with
    | some y => decide (y.part = p)
    | none => false).map Prod.fst

/-- Ports that bind a partition to a rank, ascending; only those UP when asked so. -/
def State.portsTo (s : State) (p r : Nat) (upOnly : Bool) : List Nat :=
  (List.range 36).filter fun k =>
    (!upOnly || decide ((s.port k).state = .up)) && (s.port k).entries.any fun e => match e.2 with
      | some y => decide (y.part = p ∧ y.peerRank = r)
      | none => false

/-- Ranks of a partition's job. -/
def CollPart.all (c : CollPart) : List Nat := List.range c.ranks

/-- The rank that a message to r goes to first: r itself where a port binds it, else along the L1 ring, and between pods along the L2 ring of position 0 (R364). -/
def State.hopTo (s : State) (p r : Nat) : Nat :=
  let c := s.coll.part p
  if !(s.portsTo p r true).isEmpty then r
  else
    let x := Geo.of (podsOf c.pod c.all) c.self
    if c.pod r ≠ c.pod c.self ∧ x.j = 0 then x.nextPod else x.succ

/-- Queue one unit of KIND COLLECTIVE on the (c mod n)-th of the n ports that reach a rank; with no UP port it waits at a bound one. -/
def State.sendUnit (s : State) (p r c vc : Nat) (i : Inner) (data : List Line) : State :=
  let ps := if (s.portsTo p r true).isEmpty then s.portsTo p r false else s.portsTo p r true
  match ps[c % ps.length]? with
  | none => s
  | some k => match (s.port k).pkidOf p with
    | none => s
    | some id => s.updPort k fun x => { x with txQ := x.txQ ++ [⟨vc, id, i, data, none⟩] }

/-- Inner header of a chunk's frames (R357). -/
def ChunkHeader.inner (h : ChunkHeader) (first last : Bool) : Inner :=
  ⟨FrameKind.collective.code, first, last, 0, 0, h.label, 0,
   h.group % 1024 + (h.chunk % 65536) <<< 10 + (h.seq % 65536) <<< 26 + (h.level % 4) <<< 42 + b2n h.cp <<< 44⟩

/-- A header as one 64 B unit, with a CRC in its last 8 bytes. -/
def headerLine (front : List Byte) (crc : Nat) : Line := cleanWords (front ++ natBytes crc 8)

/-- A fence word as a header (R364): NONFIN, TAINT, FAULT and MISMATCH in FLAGS, the step digest in DIGEST. -/
def fenceFront (rank word : Nat) : List Byte :=
  let fl := bits word 0 1 + bits word 1 1 <<< 5 + bits word 2 1 <<< 6 + bits word 3 1 <<< 7
  let a := natBytes 1 1 ++ natBytes 0xF3 1 ++ natBytes fl 1 ++ natBytes 0 1 ++ natBytes 0 2 ++ natBytes rank 2 ++ natBytes 0 8 ++
    natBytes (word / 16) 8 ++ natBytes 0 8 ++ natBytes 0 4 ++ natBytes 0x3F800000 4 ++ natBytes 0 4
  a ++ natBytes (crc64 a) 4 ++ List.replicate 8 0

/-- The word of a received fence header. -/
def fenceWord (b : List Byte) : Nat :=
  let fl := field b 2 1
  bits fl 0 1 + bits fl 5 1 <<< 1 + bits fl 6 1 <<< 2 + bits fl 7 1 <<< 3 + field b 0x10 8 * 16

/-- Send a fence header from a rank towards another. -/
def State.sendFence (s : State) (p src dst word : Nat) : State :=
  let f := fenceFront src word
  s.sendUnit p (s.hopTo p dst) 0 1 ⟨FrameKind.collective.code, true, true, 0, 0, 0, 0, 0⟩ [headerLine f (crc64 f)]

/-! ### The fence exchange (R156, R364) -/

/-- This module's fence word: its local bits and step digest. -/
def State.fenceOwn (s : State) (p : Nat) (fault : Bool) : Nat :=
  let c := s.coll.part p
  let latch := (s.tilesOf p).any fun t => (s.tile t).nonfin
  b2n (latch || c.nonfin) + b2n c.taint <<< 1 + b2n fault <<< 2 + stepDigest (s.job p).step.stepNum * 16

/-- The run spans more than one module. -/
def State.multi (s : State) (p : Nat) : Bool := decide (1 < (s.coll.part p).ranks)

/-- The fence of R61 is reached on this module. -/
def State.fenceReached (s : State) (p : Nat) : Bool :=
  (match (s.job p).run with
    | some r => decide (r.phase = .step)
    | none => false) &&
  (s.tilesOf p).all (fun t => decide ((s.tile t).stage.state = .atStepEnd)) && (s.coll.part p).insts.all fun i => i.cp

/-- A result goes down to the children of this rank. -/
def State.fenceDown (s : State) (p word : Nat) : State :=
  let c := s.coll.part p
  (treeChildren c.pod c.all c.self).foldl (fun (a : State) r => a.sendFence p c.self r word) s

/-- This module's word, joined with those of its children, goes up, or is the result at the lowest rank. -/
def State.fenceUp (s : State) (p : Nat) (fault : Bool) : State :=
  let c := s.coll.part p
  let w := c.fence.up.foldl (fun acc u => joinFence acc u.2) (s.fenceOwn p fault)
  match treeParent c.pod c.all c.self with
  | some r =>
    let s1 := { s with coll := s.coll.setPart p { c with fence := { c.fence with sent := true } } }
    s1.sendFence p c.self r w
  | none =>
    let s1 := { s with coll := s.coll.setPart p { c with fence := { c.fence with sent := true, result := some w } } }
    s1.fenceDown p w

/-- The exchange runs once the fence is reached here and every child has been heard. -/
def State.fenceTry (s : State) (p : Nat) : State :=
  let c := s.coll.part p
  let heard := (treeChildren c.pod c.all c.self).all fun r => c.fence.up.any fun u => decide (u.1 = r)
  if s.multi p && s.fenceReached p && !c.fence.sent && heard then s.fenceUp p false else s

/-- A fence header arrives: from a child it is combined, from the parent it is the result, any other is relayed; so is a result for a rank further on. -/
def State.fenceHear (s : State) (p rank word : Nat) : State :=
  let c := s.coll.part p
  if (treeChildren c.pod c.all c.self).contains rank then
    ({ s with coll := s.coll.setPart p { c with fence := { c.fence with up := c.fence.up.filter (fun (u : Nat × Nat) => decide (u.1 ≠ rank)) ++ [(rank, word)] } } }).fenceTry p
  else if treeParent c.pod c.all c.self = some rank then
    match c.fence.result with
    | none => ({ s with coll := s.coll.setPart p { c with fence := { c.fence with result := some word } } }).fenceDown p word
    | some _ =>
      let x := Geo.of (podsOf c.pod c.all) c.self
      s.sendFence p rank (if c.pod rank = c.pod c.self then x.succ else x.nextPod) word
  else match treeParent c.pod c.all rank with
    | some q => s.sendFence p rank q word
    | none => s

/-- ABORT naming CANCELLED and the step number, to every rank of the job (R361). -/
def State.abortAll (s : State) (p : Nat) : State :=
  let c := s.coll.part p
  s.emit ((c.all.filter fun r => decide (r ≠ c.self)).map fun r => .abort r 0 (s.job p).step.stepNum false .cancelled c.self 0 c.self 0xFF 0)

/-! ### The end of a run by a fault (R63, R64, R370) -/

/-- READY or ACTIVE by whether a run is in progress (Table 17.3). -/
def State.follow (s : State) : State :=
  let busy := s.jobs.any fun e => e.2.run.isSome
  match s.pwr.state with
  | .ready | .active => { s with pwr := { s.pwr with state := if busy then .active else .ready } }
  | _ => s

/-- The lowest logical tile that faulted, with its status, record and unit. -/
def State.namedFault (s : State) (p : Nat) : Option (Nat × Stage) :=
  ((List.range (s.tilesOf p).length).filterMap fun l =>
    match (s.tilesOf p)[l]? with
    | some t => if (s.tile t).stage.fault ≠ .done then some (l, (s.tile t).stage) else none
    | none => none).head?

/-- Nothing issued on a tile is still in progress. -/
def Tile.quiet (t : Tile) : Bool := t.units.all (fun e => e.2.cur.isEmpty && e.2.queue.isEmpty) && decide (t.dma.phase = .idle) && t.dma.reqs.isEmpty

/-- A tile after the end of a faulted run: one that faulted stays HALTED, one held for maintenance stays FENCED, the others are IDLE. -/
def Tile.afterFault (t : Tile) : Tile :=
  let st := if t.stage.state = .fenced then .fenced else if t.stage.fault ≠ .done then .halted else .idle
  { t with units := [], stage := { t.stage with state := st }, ep := { t.ep with tx := none, rx := none } }

/-- Steps 3 and 4 of R63: shadows are left, peers are told, the run ends. -/
def State.faultEnd (s : State) (p : Nat) (peers : Bool) : State :=
  let j := s.job p
  match j.run with
  | none => s
  | some r =>
    let named := s.namedFault p
    let st := match named with
      | some (_, g) => g.fault
      | none => r.ending.getD .cancelled
    let r1 := match named with
      | some (l, g) => { r with faultTile := l, faultRec := g.faultRec, faultUnit := g.faultUnit }
      | none => { r with faultTile := 0xFFFF, faultRec := 0, faultUnit := 0 }
    let s1 := { s with streams := { s.streams with held := s.streams.held.filter fun h => decide (h.1 ≠ p) } }
    let s2 := if peers && s.multi p then (s1.abortAll p).fenceUp p true else s1
    let c := s2.coll.part p
    let s3 := { s2 with coll := s2.coll.setPart p c.quiet }
    let s4 := s3.updTiles (s.tilesOf p) Tile.afterFault
    let s5 := s4.setJob p { j with run := some r1, posted := [], delivered := [], step := { j.step with lastOutcome := 4 } }
    (s5.endRun p st).follow

/-- Every run ends at once with a status (R475 step 1). -/
def State.endAll (s : State) (st : Status) (peers : Bool) : State :=
  (List.range 16).foldl (fun (a : State) p => (a.stopRun p st).faultEnd p peers) s

/-! ### Down to STANDBY (R463, R475) -/

/-- What is lost when the main rails go down: everything but AON, fuses, flashes and what the model keeps of the outside. -/
def State.lose (s : State) : State :=
  { State.reset with
    pending := s.pending, out := s.out, draws := s.draws
    boot := ⟨some 0, true, none⟩
    pwr := s.pwr
    sec := { Sec.reset with
      fuses := s.sec.fuses, draws := s.sec.draws, tokenFails := s.sec.tokenFails, rights := s.sec.rights, grant := s.sec.grant
      recProd := s.sec.recProd, recTest := s.sec.recTest }
    res := { Resil.reset with aonModule := s.res.aonModule, early := s.res.early }
    flash := s.flash
    fwm := { s.fwm.phase1 with early := s.fwm.early, nextSeq := s.fwm.nextSeq } }

/-- Pins by number: 0 PWR_GOOD, 1 ALERT_N, 2 THERMTRIP_N. -/
abbrev pinGood : Nat := 0
abbrev pinAlert : Nat := 1
abbrev pinTrip : Nat := 2

/-- Thermal causes (Table 17.6, R476). -/
def thermal (cause : Nat) : Bool := decide (cause = 1 ∨ cause = 2 ∨ cause = 3 ∨ cause = 4 ∨ cause = 12 ∨ cause = 14)

/-- The order of R475; hardware first, no word leaves for peers or host. -/
def State.shutDown (s : State) (cause unit source : Nat) (hardware entry : Bool) : State :=
  if s.pwr.state = .standby then s
  else
    let s0 := { s with pwr := { s.pwr with thermtrip := s.pwr.thermtrip || thermal cause, mainOpen := s.pwr.mainOpen || hardware } }
    let s1 := s0.emit ([.pin pinAlert false, .sideband sbEmergency .done [BitVec.ofNat 8 cause, 4]] ++ (if thermal cause then [.pin pinTrip false] else []))
    let s2 := if entry then s1.report clsModule source unit .cancelled noPart cause else s1
    let s3 := if hardware then s2 else s2.endAll .cancelled true
    let s4 := s3.lose
    ({ s4 with pwr := s4.pwr.standby }).emit [.pin pinGood false]

end Sys2Proof.Machine
end

