-- ==== Sys2Proof/Machine/Operands.lean ====
section
/-! DEFINITION. Operand forms: command records and their loop adjustment (R48 to R53), queue buffer descriptors (R51), and the access forms of register fields (R13, R14). -/

namespace Sys2Proof.Machine

/-! ### Command records (Table 2.6) -/

/-- A command record. -/
structure Record where
  op : Nat
  wtok : Nat
  wen : Bool
  stok : Nat
  sen : Bool
  wval : Nat
  a : Nat
  b : Nat
  /-- A reserved bit of Table 2.6 is not 0. -/
  reserved : Bool
  deriving DecidableEq, Repr

def Record.ofBits (v : Nat) : Record :=
  ⟨bits v 0 8, bits v 8 4, bit v 12, bits v 16 4, bit v 20, bits v 32 32, bits v 64 64, bits v 128 64,
   decide (bits v 13 3 ≠ 0 ∨ bits v 21 11 ≠ 0 ∨ bits v 192 64 ≠ 0)⟩

/-- OPCODE values (Table 2.7). -/
abbrev recNop : Nat := 0x01
abbrev recLoop : Nat := 0x02
abbrev recMxe : Nat := 0x10
abbrev recVec : Nat := 0x11
abbrev recDma : Nat := 0x12
abbrev recQsend : Nat := 0x20
abbrev recQrecv : Nat := 0x21
abbrev recCol : Nat := 0x30
abbrev recStepEnd : Nat := 0x3F

/-- Record i of the program in the scratchpad, which starts at offset 0. -/
def Tile.record (t : Tile) (i : Nat) : Record := .ofBits (wordsNat ((t.mem.spWords (32 * i) 8).map TWord.bits))

/-- LOOP operands (Table 2.8): iterations, records in the body, DSTEP, DMOD, SSTEP. -/
def Record.frame (r : Record) (pc : Nat) : LoopFrame :=
  ⟨pc + 1, pc + 1 + bits r.a 16 16, 0, bits r.a 0 16 + 1, signed 32 (bits r.b 0 32), bits r.b 32 16, signed 16 (bits r.b 48 16)⟩

/-- What an enclosing loop adds to an offset (R53). -/
def LoopFrame.shift (f : LoopFrame) : Int := ((if f.dmod = 0 then f.iter else f.iter % f.dmod : Nat) : Int) * f.dstep

/-- What an enclosing loop adds to a stream number (R53). -/
def LoopFrame.streamShift (f : LoopFrame) : Int := (f.iter : Int) * f.sstep

/-- An operand's offset field moved by the enclosing loops. -/
def shiftField (v lo n : Nat) (by_ : Int) : Nat := setBits v lo n (((bits v lo n : Nat) : Int) + by_).toNat

/-- Operands A and B as issued (R53). -/
def Record.adjust (r : Record) (ls : List LoopFrame) : Nat × Nat :=
  let d := ls.foldl (fun (acc : Int) f => acc + f.shift) 0
  if r.op = recQsend ∨ r.op = recQrecv then
    (shiftField r.a 0 16 (ls.foldl (fun (acc : Int) f => acc + f.streamShift) 0), shiftField r.b 0 22 d)
  else if r.op = recMxe ∨ r.op = recVec ∨ r.op = recDma ∨ r.op = recCol then (shiftField r.a 0 22 d, r.b)
  else (r.a, r.b)

/-- The record at which the dispatcher stands, as its unit would be given it. -/
def Tile.standing (t : Tile) : Record × Issued :=
  let r := t.record t.disp.pc
  let ab := r.adjust t.disp.loops
  (r, ⟨t.disp.pc, r.op, ab.1, ab.2, r.sen, r.stok, t.disp.count⟩)

/-- Loops whose body ends before pc repeat or close (R52). -/
def closeLoops (pc : Nat) : List LoopFrame → Nat × List LoopFrame
  | [] => (pc, [])
  | f :: rest =>
    if pc = f.stop then
      if f.iter + 1 < f.count then (f.start, { f with iter := f.iter + 1 } :: rest) else closeLoops pc rest
    else (pc, f :: rest)

/-- The dispatcher past the record at which it stands. -/
def Dispatcher.advance (d : Dispatcher) : Dispatcher :=
  let n := closeLoops (d.pc + 1) d.loops
  { d with pc := n.1, loops := n.2, count := d.count + 1 }

/-- The dispatcher into the body of the LOOP at which it stands. -/
def Dispatcher.openLoop (d : Dispatcher) (f : LoopFrame) : Dispatcher := { d with pc := d.pc + 1, loops := f :: d.loops }

/-- The token that a record waits on holds enough (R49). -/
def Tile.tokenOk (t : Tile) (r : Record) : Bool := !r.wen || decide (r.wval ≤ Store.get 0 t.disp.tokens r.wtok)

/-- WVAL subtracted in the cycle of dispatch (R49). -/
def Tile.takeToken (t : Tile) (r : Record) : Tile :=
  if r.wen then { t with disp := { t.disp with tokens := Store.upd 0 t.disp.tokens r.wtok (· - r.wval) } } else t

/-! ### Queue buffer descriptors (R51) -/

/-- A queue buffer descriptor. -/
structure BufDesc where
  off : Nat
  len : Nat
  reserved : Bool
  deriving DecidableEq, Repr

def BufDesc.ofBits (v : Nat) : BufDesc := ⟨bits v 0 22, bits v 32 32, decide (bits v 22 10 ≠ 0 ∨ bits v 64 64 ≠ 0)⟩

/-- The first row of R51's table. -/
def BufDesc.malformed (d : BufDesc) : Bool :=
  d.reserved || decide (d.off % 64 ≠ 0) || decide (d.len % 64 ≠ 0) || decide (d.len < 64) || decide (1048576 < d.len)

/-- The check of R51 at issue, on the descriptor words in the scratchpad. -/
def Tile.checkBuf (t : Tile) (at_ : Nat) (recv : Bool) : BufDesc × Status :=
  let ws := t.mem.spWords at_ 4
  let d := BufDesc.ofBits (wordsNat (ws.map TWord.bits))
  (d, if d.malformed then .versionUnsupported
    else if decide (spBytes < d.off + d.len) || t.inQueueArea d.off d.len || (recv && t.guarded d.off d.len) then .accessDenied
    else if ws.any TWord.poison then .poison
    else .done)

/-! ### Access forms of register fields (R13, R14) -/

/-- An RW field: the value written, unless it is one the field reserves (R14). -/
def fieldWrite (old lo n v : Nat) (legal : Nat → Bool) : Nat := if legal (bits v lo n) then setBits old lo n (bits v lo n) else old

/-- A W1C flag after a write of bit i of v: 1 clears it. -/
def w1c (old : Bool) (v i : Nat) : Bool := old && !bit v i

/-- W1C bits of a mask after a write. -/
def w1cMask (old v n : Nat) : Nat := (List.range n).foldl (fun (acc : Nat) i => acc + b2n (bit old i && !bit v i) <<< i) 0

end Sys2Proof.Machine
end

