-- ==== Sys2Proof/Machine/Flags.lean ====
section
/-! DEFINITION. Flags, tokens, latches and counters that a record leaves: token signals (R49), the registers of the engines (R117, R144, R197), the step non-finite latch (R155), and the sticky numeric flags (R88). -/

namespace Sys2Proof.Machine

/-- A token raised; it stays at 0xFFFF_FFFF rather than pass it (R49). -/
def Tile.raiseToken (t : Tile) (tok n : Nat) : Tile := { t with disp := { t.disp with tokens := Store.upd 0 t.disp.tokens tok (satAdd 32 · n) } }

/-- The signal of a completing record (R49). -/
def Tile.signalOf (t : Tile) (i : Issued) : Tile := if i.sen then t.raiseToken i.stok 1 else t

/-- A counter of 64 bits that wraps (R117, R144, R197, R220). -/
def wrap64 (a n : Nat) : Nat := (a + n) % 2 ^ 64

/-- A counter of single events whose register counts units of 1,024: the register wraps at 64 bits (Tables 4.12 and 5.10). -/
def wrapK (a n : Nat) : Nat := (a + n) % 2 ^ 74

/-- Registers of the MXE after a record's passes (Tables 4.11 and 4.12). -/
def MxeRegs.afterRun (m : MxeRegs) (r : MxeResult) : MxeRegs := { m with flags := r.flags, active := wrap64 m.active r.cycles, macs := wrapK m.macs r.macs }

/-- Registers of the VEC after a record's rows (Tables 5.8 to 5.10). -/
def VecRegs.afterRun (v : VecRegs) (r : VecResult) : VecRegs :=
  { v with flags := r.flags, rowEmpty := v.rowEmpty || r.rowEmpty, rowInf := v.rowInf || r.rowInf, rowNan := v.rowNan || r.rowNan,
           active := wrap64 v.active r.cycles, elems := wrapK v.elems r.elems, trans := wrapK v.trans r.trans }

/-- The last-status register of the unit that completed a record. -/
def Tile.noteStatus (t : Tile) (u tag : Nat) (st : Status) : Tile :=
  if u = unitMxe then { t with mxe := { t.mxe with lastStatus := st } }
  else if u = unitVec then { t with vec := { t.vec with lastStatus := st, lastOp := tag } }
  else if u = unitQout then { t with ep := { t.ep with txLast := st } }
  else if u = unitQin then { t with ep := { t.ep with rxLast := st } }
  else if u = unitDma then { t with dma := { t.dma with lastStatus := st } }
  else t

/-- Counters of QUE_EP_ERR (Table 7.7). -/
def Endpoint.addParity (e : Endpoint) (n : Nat) : Endpoint := { e with parityCnt := satAdd 16 e.parityCnt n }
def Endpoint.addDrop (e : Endpoint) (n : Nat) : Endpoint := { e with flushDrop := satAdd 16 e.flushDrop n }

end Sys2Proof.Machine
end

