-- ==== Sys2Proof/Machine/Issue.lean ====
section
/-! DEFINITION. The dispatcher (R46 to R50): taking the record at which a tile stands, issuing it to its unit, starting the next record of a unit and completing one. -/

namespace Sys2Proof.Machine

/-- The run of a tile's partition is inside a step and the tile dispatches (R60, R63). -/
def State.dispatching (s : State) (t : Nat) : Bool :=
  decide ((s.tile t).stage.state = .running) && match (s.tile t).part with
    | some p => match (s.job p).run with
      | some r => decide (r.phase = .step)
      | none => false
    | none => false

/-- Take the record at which a tile stands when it has the opcode and its token holds enough; none while it is blocked. -/
def State.take (s : State) (t op : Nat) : Option (State × Issued) :=
  let x := s.tile t
  let (r, i) := x.standing
  if s.dispatching t && decide (r.op = op) && x.tokenOk r then
    let y := x.takeToken r
    some (s.setTile t { y with disp := y.disp.advance }, i)
  else none

/-- The message a starting QRECV takes: the first level, most urgent first, whose head packet is the first of a message (R189); a FROZEN queue is not chosen from (R195). -/
def Streams.choose (q : Streams) (part stream : Nat) : Option Nat :=
  (q.levels part stream).find? fun i => decide ((q.entry i).state = .bound) && match q.head i with
    | some p => p.first
    | none => false

/-- A level queue of the stream is in ERROR (R180). -/
def Streams.broken (q : Streams) (part stream : Nat) : Bool := (q.levels part stream).any fun i => decide ((q.entry i).state = .error)

/-- Put a record in its unit. -/
def State.occupy (s : State) (t u : Nat) (f : InFlight) : State := s.updTile t fun x => x.setUnit u { x.unit u with cur := (x.unit u).cur ++ [f] }

/-- A matrix record is checked and run (R106). -/
def State.startMxe (s : State) (t : Nat) (i : Issued) : State :=
  let (d, s1) := s.draw
  let x := s1.tile t
  let r := runMxe x (bits i.a 0 22) d
  (s1.setTile t { x with mem := r.mem, mxe := x.mxe.afterRun r }).occupy t unitMxe ⟨i, r.status, r.cycles, r.banks⟩

/-- A vector record is checked and run (R130); a statistics word goes to the collector (R164), non-finite values set the step latch (R155). -/
def State.startVec (s : State) (t : Nat) (i : Issued) : State :=
  let x := s.tile t
  let r := runVec x (bits i.a 0 22)
  let s1 := s.setTile t { x with mem := r.mem, vec := x.vec.afterRun r, nonfin := x.nonfin || r.nonfin }
  let s2 := match r.stat, x.part with
    | some w, some p => s1.updJob p fun j => { j with posted := j.posted ++ [w] }
    | _, _ => s1
  s2.occupy t unitVec ⟨i, r.status, r.cycles, r.op⟩

/-- The step number in the SPA (Table 6.2). -/
def TileMem.spaStep (m : TileMem) : Nat := wordsNat ((m.spWords spaBase 2).map TWord.bits)

/-- A DMA record starts its program (R199, R203). -/
def State.startDma (s : State) (t : Nat) (i : Issued) : State :=
  let x := s.tile t
  (s.setTile t { x with dma := x.dma.start (bits i.a 0 22) 0 x.mem.spaStep }).occupy t unitDma ⟨i, .done, 0, 0⟩

/-- A QSEND reads its buffer descriptor and asks for the lock (R185 step 1). -/
def State.startSend (s : State) (t : Nat) (i : Issued) : State :=
  let x := s.tile t
  let (d, st) := x.checkBuf (bits i.b 0 22) false
  match x.part.bind fun p => s.streams.find p (bits i.a 0 16) (bits i.a 16 3) with
  | none => s.occupy t unitQout ⟨i, .versionUnsupported, 0, 0⟩
  | some e =>
    if st ≠ .done then s.occupy t unitQout ⟨i, st, 0, e⟩
    else if (s.streams.entry e).state = .error then s.occupy t unitQout ⟨i, .poison, 0, e⟩
    else
      let s1 := s.setTile t { x with ep := { x.ep with tx := some ⟨e, d.off, d.len / 64, 0, 0, false, true⟩ } }
      { s1.occupy t unitQout ⟨i, .done, 0, e⟩ with streams := { s.streams with asking := s.streams.asking ++ [⟨e, t, d.len / 64, x.label.toNat⟩] } }

/-- Copy landed packets of the chosen message into the buffer (R189): each returns its credit, its parity is checked and a word delivered poisoned is recorded (R183, Table 14.2), and its label is taken (R301). -/
def State.copyIn : Nat → State → Nat → State
  | 0, s, _ => s
  | n + 1, s, t =>
    let x := s.tile t
    match x.ep.rx with
    | none => s
    | some r => match r.chosen with
      | none => s
      | some e =>
        if r.copied < r.packets ∧ (s.streams.entry e).state = .bound ∧ !(s.streams.entry e).empty then
          let (q, p, bad) := s.streams.pop e
          let y : Tile := { x with
            mem := { x.mem with sp := Store.setMany .zero x.mem.sp ((r.buf + 64 * r.copied) / 4) p.words }
            label := x.label ||| BitVec.ofNat 32 p.label
            ep := { x.ep.addParity bad with rx := some { r with copied := r.copied + 1 } } }
          let s1 : State := { s.setTile t y with streams := q }
          let s2 := (List.range bad).foldl (fun (a : State) _ => (a.trace 0x0300 (q.entry e).part 0 [e]).report clsDegraded srcQue t .poison (q.entry e).part e) s1
          State.copyIn n s2 t
        else s

/-- A QRECV that waits chooses its message when one stands at a head; one longer than the buffer ends it NO_RESOURCE (R57, R189). -/
def State.chooseIn (s : State) (t : Nat) : State :=
  let x := s.tile t
  match x.ep.rx, x.part with
  | some r, some p =>
    if r.chosen.isSome then s
    else match s.streams.choose p r.stream with
      | none => s
      | some e => match s.streams.head e with
        | none => s
        | some h =>
          if r.len < 64 * h.len then
            let u := x.unit unitQin
            s.setTile t { x.setUnit unitQin { u with cur := u.cur.map fun f => { f with status := .noResource } } with ep := { x.ep with rx := none } }
          else (s.setTile t { x with ep := { x.ep with rx := some { r with chosen := some e, packets := h.len } } }).copyIn h.len t
  | _, _ => s

/-- A QRECV head-reads its stream (R189). -/
def State.startRecv (s : State) (t : Nat) (i : Issued) : State :=
  let x := s.tile t
  let stream := bits i.a 0 16
  let (d, st) := x.checkBuf (bits i.b 0 22) true
  if st ≠ .done then s.occupy t unitQin ⟨i, st, 0, 0⟩
  else if (match x.part with
    | some p => s.streams.broken p stream
    | none => true) then s.occupy t unitQin ⟨i, .poison, 0, 0⟩
  else
    let s1 := s.setTile t { x with ep := { x.ep with rx := some ⟨stream, d.off, d.len, none, 0, 0⟩ } }
    (s1.occupy t unitQin ⟨i, .done, 0, 0⟩).chooseIn t

/-- Start a record on its unit; the COL unit has its own entry (R352). -/
def State.startUnit (s : State) (t u : Nat) (i : Issued) : State :=
  if u = unitMxe then s.startMxe t i else if u = unitVec then s.startVec t i else if u = unitDma then s.startDma t i
  else if u = unitQout then s.startSend t i else if u = unitQin then s.startRecv t i else s

/-- An idle unit starts the record that has waited longest (R46). -/
def State.pump (s : State) (t u : Nat) : State :=
  let x := s.tile t
  match (x.unit u).cur, (x.unit u).queue with
  | [], i :: rest => (s.setTile t (x.setUnit u ⟨[], rest⟩)).startUnit t u i
  | _, _ => s

/-- Issue a record to its unit. -/
def State.issue (s : State) (t u : Nat) (i : Issued) : State :=
  let x := s.tile t
  (s.setTile t (x.setUnit u { x.unit u with queue := (x.unit u).queue ++ [i] })).pump t u

/-- Dispatch the record at which a tile stands to a unit. -/
def State.dispatch (s : State) (t op u : Nat) : State :=
  match s.take t op with
  | none => s
  | some (s1, i) => s1.issue t u i

/-- A record completes: its status, its signal (R49), a stage fault when the status is not DONE, save a record that the stop cancelled (R63). -/
def State.finish (s : State) (t u : Nat) (f : InFlight) (st : Status) : State :=
  let x := s.tile t
  let un := x.unit u
  let y := ((x.setUnit u { un with cur := un.cur.erase f }).noteStatus u f.tag st).signalOf f.issued
  let s1 := s.setTile t y
  let stopping := match x.part with
    | some p => match (s.job p).run with
      | some r => decide (r.phase = .faulting)
      | none => false
    | none => false
  if decide (st = .done) || (decide (st = .cancelled) && stopping) then s1 else s1.stageFault t st f.issued.idx u

/-- Complete the record in a unit with the status it carries, and start the next. -/
def State.completeUnit (s : State) (t u : Nat) (st : Option Status) : State :=
  match ((s.tile t).unit u).cur with
  | [] => s
  | f :: _ => (s.finish t u f (st.getD f.status)).pump t u

end Sys2Proof.Machine
end

