-- ==== Sys2Proof/Machine/ColUnit.lean ====
section
/-! DEFINITION. The check of a collective descriptor (R349, R351) and the places its contributor reads and writes. -/

namespace Sys2Proof.Machine

/-- What the check of a descriptor needs to know beside the tile. -/
structure ColEnv where
  vaSize : Nat
  mapped : Nat → Bool
  group : Option Group
  /-- An UP port binds the partition to a rank, or the rank is this module's. -/
  reach : Nat → Bool

/-- Contributors of an instance (R347). -/
def Group.total (g : Group) : Nat := g.ranks.length * g.loc

/-- Blocks of COUNT in the source and in the destination (Table 13.2). -/
def ColDesc.srcBlocks (d : ColDesc) (n : Nat) : Nat :=
  if d.op = opBarrier then 0 else if d.op = opReduceScatter ∨ d.op = opAllToAll then n else 1
def ColDesc.dstBlocks (d : ColDesc) (n : Nat) : Nat :=
  if d.op = opBarrier then 0 else if d.op = opAllGather ∨ d.op = opAllToAll then n else 1

/-- Bytes of the source and the destination buffers (R349). -/
def ColDesc.srcBytes (d : ColDesc) (n : Nat) : Nat := d.srcBlocks n * blockLen d.srcFmt d.count
def ColDesc.dstBytes (d : ColDesc) (n : Nat) : Nat := d.dstBlocks n * blockLen d.dstFmt d.count

/-- First row of R351's table, but for what needs the group. -/
def ColDesc.malformed (d : ColDesc) : Bool :=
  d.reserved || decide (d.op = 0 ∨ 6 < d.op) || decide (d.red = 3) || !d.formatsOk ||
  (decide (d.op ≠ opBarrier) && decide (d.count = 0)) || decide (d.srcSpace ≠ 0 ∧ d.srcSpace ≠ 2) || decide (d.dstSpace ≠ 0 ∧ d.dstSpace ≠ 2) ||
  decide (d.srcAddr % 4 ≠ 0) || decide (d.dstAddr % 4 ≠ 0) || (decide (d.op ≠ opBroadcast) && decide (d.root ≠ 0)) ||
  (if d.statEn then decide (4094 < d.glid) else decide (d.glid ≠ 0xFFF))

/-- A range lies in its space (R351). -/
def ColEnv.inside (e : ColEnv) (space a n : Nat) : Bool :=
  decide (n = 0) || (if space = 0 then decide (a + n ≤ spBytes) else decide (a + n ≤ e.vaSize) && rangeMapped e.mapped a n)

/-- The check of R351, in the order of its table. -/
def ColDesc.check (d : ColDesc) (t : Tile) (e : ColEnv) : Status :=
  let n := match e.group with
    | some g => g.total
    | none => 1
  let sb := d.srcBytes n
  let db := d.dstBytes n
  let groupBad := match e.group with
    | some g => decide (g.loc ≤ d.lidx) || (decide (d.op = opBroadcast) && decide (g.total ≤ d.root))
    | none => false
  let same := decide (d.srcSpace = d.dstSpace ∧ d.srcAddr = d.dstAddr ∧ sb = db) && decide (d.op = opAllReduce ∨ d.op = opBroadcast)
  if d.malformed || groupBad then .versionUnsupported
  else if decide (d.srcSpace = d.dstSpace) && overlaps d.srcAddr sb d.dstAddr db && !same then .versionUnsupported
  else match e.group with
    | none => .accessDenied
    | some g =>
      if !e.inside d.srcSpace d.srcAddr sb || !e.inside d.dstSpace d.dstAddr db || (d.statEn && decide (spBytes < d.statOff + 16)) then .accessDenied
      else if (decide (d.srcSpace = 0) && t.inQueueArea d.srcAddr sb) || (decide (d.dstSpace = 0) && (t.inQueueArea d.dstAddr db || t.guarded d.dstAddr db)) ||
          (d.statEn && (t.inQueueArea d.statOff 16 || t.guarded d.statOff 16)) then .accessDenied
      else if d.op = opAllToAll ∧ !g.ranks.all e.reach then .noResource
      else .done

/-- The environment of a partition's collectives. -/
def State.colEnv (s : State) (p : Nat) (group vaSize : Nat) (space : List MapRun) : ColEnv :=
  let c := s.coll.part p
  ⟨vaSize, fun a => (findPage space a).isSome, c.group group, fun r => decide (r = c.self) || !(s.portsTo p r true).isEmpty⟩

end Sys2Proof.Machine
end

