-- ==== Sys2Proof/Machine/Ring.lean ====
section
/-! DEFINITION. The collective engines as shared operations (R344, R347 to R365): entry of records and of control-plane commands, what an engine reads and writes, one advance of a chunk, chunk frames in both directions, header-only trees, mismatches and the census, and the end of an instance. -/

namespace Sys2Proof.Machine

/-! ### Shape of an instance (R353, R357) -/

/-- A control-plane command as a descriptor: bytes moved as one-byte elements. -/
def CpCall.desc (x : CpCall) (group : Nat) : ColDesc :=
  let f := if x.op = opBarrier then 0 else 3
  ⟨x.op, 0, f, f, 0, false, false, false, false, group, 0, 0xFFF, x.len, x.root, 0, 0, 0, 0, 0, 0, 0, false⟩

/-- Words 0 and 1 of the descriptor of a control-plane collective, for its digest (R344, R358). -/
def CpCall.word (x : CpCall) (group : Nat) : Nat := x.op + group <<< 32 + 0xFFF <<< 52 + x.len <<< 64 + x.root <<< 96

/-- What an instance does: the descriptor that the first contributor entered with. -/
def Inst.desc (i : Inst) : Option ColDesc :=
  match i.ctrl with
  | some x => some (x.desc i.group)
  | none => i.entered.head?.map Entered.desc

/-- This module's digest of an instance: that of the first contributor to enter (R359). -/
def Inst.own (i : Inst) : Option Nat := i.entered.head?.map Entered.digest

/-- The group of an instance; on the control plane each member module is one contributor (R344). -/
def CollPart.groupAs (c : CollPart) (group : Nat) (cp : Bool) : Option Group := (c.group group).map fun g => if cp then { g with loc := 1 } else g

/-- Elements of a whole chunk (R353). -/
def ColDesc.chunkElems (d : ColDesc) : Nat := if d.reduces then 262144 else 8388608 / (fmtOf d.srcFmt).bits

/-- Chunks of one block of COUNT elements. -/
def ColDesc.perBlock (d : ColDesc) : Nat := ceilDiv d.count d.chunkElems

/-- Elements of chunk c of a block. -/
def ColDesc.elems (d : ColDesc) (c : Nat) : Nat := Nat.min d.chunkElems (d.count - c * d.chunkElems)

/-- Words of n packed elements. -/
def wordsOf (f : Fmt) (n : Nat) : Nat := ceilDiv n f.perWord

/-- Blocks whose chunks are counted by CHUNK. -/
def ColDesc.blocks (d : ColDesc) (g : Group) : Nat :=
  if d.op = opReduceScatter ∨ d.op = opAllGather then g.total else if d.op = opAllToAll then g.loc * g.loc else 1

/-- CHUNK of chunk c of a block: the destination of REDUCE_SCATTER, the source of ALL_GATHER, and of ALL_TO_ALL the pair source × N + destination. -/
def ColDesc.wire (d : ColDesc) (g : Group) (origin c : Nat) : Nat :=
  if d.op = opAllToAll then (origin / g.total % g.loc * g.loc + origin % g.total % g.loc) * d.perBlock + c else origin * d.perBlock + c

/-- The block and chunk that CHUNK of a header names, between two members' positions. -/
def ColDesc.ofWire (d : ColDesc) (g : Group) (src self w : Nat) : Nat × Nat :=
  let b := w / d.perBlock
  if d.op = opAllToAll then ((src * g.loc + b / g.loc) * g.total + self * g.loc + b % g.loc, w % d.perBlock) else (b, w % d.perBlock)

/-- Where a chunk of a reduction ends: position and pod of its owner (R354). -/
def ColDesc.owner (d : ColDesc) (x : Geo) (g : Group) (origin c : Nat) : Nat × Nat :=
  if d.op = opReduceScatter then let q := x.find (g.ranks.getD (origin / g.loc) 0); (q.2, q.1)
  else (c % x.mN, c / x.mN % x.pN)

/-- The member from whom a chunk is passed on: pod and position. -/
def ColDesc.source (d : ColDesc) (x : Geo) (g : Group) (origin : Nat) : Nat × Nat :=
  x.find (g.ranks.getD ((if d.op = opBroadcast then d.root else origin) / g.loc) 0)

/-- Contributor k is on this module: its LIDX. -/
def Group.localOf (g : Group) (self k : Nat) : Option Nat := if g.ranks.getD (k / g.loc) 0 = self then some (k % g.loc) else none

/-- Position of this module in the group. -/
def Group.memberOf (g : Group) (rank : Nat) : Nat := indexIn g.ranks rank

/-- Chunks that this module takes part in. -/
def ColDesc.chunksDue (d : ColDesc) (g : Group) : Nat :=
  if d.op = opBarrier then 0
  else if d.op = opAllToAll then (2 * g.loc * g.total - g.loc * g.loc) * d.perBlock
  else d.blocks g * d.perBlock

/-- Every chunk that concerns this module has gone through. -/
def Inst.moved (i : Inst) (d : ColDesc) (g : Group) : Bool :=
  decide (d.chunksDue g ≤ (i.chunks.filter fun x => decide (x.stage = 5)).length)

/-- The instance ends with a header-only reduction: BARRIER, and the statistics of every operation but ALL_REDUCE (R358, R364). -/
def ColDesc.byTree (d : ColDesc) : Bool := decide (d.op = opBarrier) || (d.statEn && decide (d.op ≠ opAllReduce))

/-- Everything of the instance has happened on this module. -/
def Inst.whole (i : Inst) (d : ColDesc) (g : Group) : Bool :=
  i.moved d g && (!d.byTree || i.tree.result.isSome) && (!d.statEn || i.posted)

/-- An engine may work: every local contributor has entered, nothing has ended it, no mismatch is known (R359). -/
def Inst.open_ (i : Inst) (g : Group) : Bool :=
  (i.cp || decide (i.entered.length = g.loc)) && i.mismatch.isNone && i.ending.isNone

/-! ### Reading and writing (R348, R349, R354, R365) -/

/-- A word range of a contributor's space. -/
def State.colRead (s : State) (p t space a n : Nat) : Bulk :=
  if space = 0 then ⟨s, .done, (s.tile t).mem.spWords a n⟩ else s.vaRead (.collective p) p (s.job p).space a (4 * n)

/-- What an engine has read: values or words, label, numeric flags. -/
structure ColGot where
  s : State
  status : Status
  words : List TWord
  vals : List Num
  nonfin : Bool
  label : Nat
  flags : Flags

/-- Contribution e to chunk c of a block: words as they are and, for a reduction, each element times the source scale rounded once into FP32. -/
def State.contribution (s : State) (p : Nat) (e : Entered) (block c : Nat) : ColGot :=
  let d := e.desc
  let f := fmtOf d.srcFmt
  let n := d.elems c
  let a := d.srcAddr + block * blockLen d.srcFmt d.count + c * (d.chunkElems * f.bits / 8)
  let r := s.colRead p e.tile d.srcSpace a (wordsOf f n)
  let label := (s.tile e.tile).label.toNat ||| (if d.srcSpace = 0 then 0 else s.labelOf p (s.job p).space a (4 * wordsOf f n))
  let read : F (List Num) := (List.range n).mapM fun k =>
    let w := r.words.getD (k / f.perWord) .zero
    readNum f (elemOf f w.bits (k % f.perWord)) w.poison
  let all : F (List Num × Bool) := do
    let xs ← read
    if d.reduces then
      let sc ← readScale (s.tile e.tile).mem d.srcSc d.srcScOff
      let ys ← xs.mapM fun x => if d.srcSc then fmul x sc else pure x
      pure (ys, (xs ++ ys).any Num.nonFinite)
    else pure (xs, xs.any Num.nonFinite)
  let (v, fl) := all.exec
  ⟨r.s, r.status, r.words, v.1, v.2, label, fl⟩

/-- The statistics word of a contributor, at STAT_OFF; the neutral one when STAT_EN = 0 (R358). -/
def State.statOf (s : State) (e : Entered) : Nat :=
  let d := e.desc
  if d.statEn then wordsNat (((s.tile e.tile).mem.spWords d.statOff 2).map TWord.bits) else neutralStats d.glid

/-- Local contributors in ascending LIDX. -/
def Inst.byLidx (i : Inst) : List Entered :=
  (List.range 144).filterMap fun l => i.entered.find? fun e => decide (e.lidx = l)

/-- Statistics of the local contributors. -/
def State.localStats (s : State) (i : Inst) (d : ColDesc) : Nat := i.entered.foldl (fun acc e => combineStats acc (s.statOf e)) (neutralStats d.glid)

/-- Add one local contribution to the module partial (R354 step 1). -/
def State.addLocal (p : Nat) (red block c : Nat) (acc : ColGot) (e : Entered) : ColGot :=
  let g := acc.s.contribution p e block c
  let (vs, fl) := (if acc.vals.isEmpty then pure g.vals else reduceVals red acc.vals g.vals : F (List Num)).exec
  ⟨g.s, if acc.status = .done then g.status else acc.status, [], vs, acc.nonfin || g.nonfin, acc.label ||| g.label, acc.flags ||| g.flags ||| fl⟩

/-- What this module brings to chunk (origin, c): the module partial of a reduction, or the words of a local source. -/
def State.ownChunk (s : State) (p : Nat) (i : Inst) (d : ColDesc) (g : Group) (origin c : Nat) : State × Status × ChunkData × Flags :=
  let self := (s.coll.part p).self
  let empty : ChunkData := ⟨0, origin, c, d.srcFmt, 0x3F800000, [], false, neutralStats d.glid, 0⟩
  if d.reduces then
    let block := if d.op = opReduceScatter then origin else 0
    let r := i.byLidx.foldl (fun (acc : ColGot) e => State.addLocal p d.red block c acc e) ⟨s, .done, [], [], false, 0, 0⟩
    (r.s, r.status, { (empty.withVals r.vals) with nonfin := r.nonfin || r.vals.any Num.nonFinite, stats := s.localStats i d, label := r.label }, r.flags)
  else
    let k := if d.op = opBroadcast then d.root else if d.op = opAllToAll then origin / g.total else origin
    match g.localOf self k with
    | none => (s, .done, empty, 0)
    | some l =>
      if i.cp then
        (s, .done, { empty with words := ((cleanWords i.bytes).drop (c * (d.chunkElems / 4))).take (wordsOf .e4m3 (d.elems c)) }, 0)
      else match i.entered.find? fun e => decide (e.lidx = l) with
        | none => (s, .done, empty, 0)
        | some e =>
          let r := s.contribution p e (if d.op = opAllToAll then origin % g.total else 0) c
          (r.s, r.status, { empty with words := r.words, nonfin := r.nonfin, stats := s.localStats i d, label := r.label }, r.flags)

/-- Unused elements of the last word of a block are written as zero (R349). -/
def trimLast (f : Fmt) (n : Nat) (ws : List TWord) : List TWord :=
  let used := n % f.perWord
  if used = 0 then ws
  else match ws.getLast? with
    | none => ws
    | some w => ws.dropLast ++ [⟨BitVec.ofNat 32 (w.bits.toNat % 2 ^ (f.bits * used)), w.poison⟩]

/-- Words of a result at a destination: a total divided by the destination scale and rounded once, or the words moved (R349). -/
def State.resultWords (s : State) (e : Entered) (data : ChunkData) (n : Nat) : List TWord × Flags :=
  let d := e.desc
  let f := fmtOf d.dstFmt
  if d.reduces then
    let go : F (List TWord) := do
      let vs ← data.vals n
      let sc ← readScale (s.tile e.tile).mem d.dstSc d.dstScOff
      let cs ← vs.mapM fun v => do encodeMarked f d.sat (← (if d.dstSc then divX v sc else pure v))
      pure (packElems f cs)
    go.exec
  else (trimLast f n (data.words.take (wordsOf f n)), 0)

/-- Write a chunk of a block to one contributor's destination, label first (R365). -/
def State.colWrite (s : State) (p : Nat) (e : Entered) (block c : Nat) (data : ChunkData) : State × Status × Flags :=
  let d := e.desc
  let f := fmtOf d.dstFmt
  let (ws, fl) := s.resultWords e data (d.elems c)
  let a := d.dstAddr + block * blockLen d.dstFmt d.count + c * (d.chunkElems * f.bits / 8)
  if d.dstSpace = 0 then
    (s.updTile e.tile fun x => { x with mem := { x.mem with sp := Store.setMany .zero x.mem.sp (a / 4) ws }, label := x.label ||| BitVec.ofNat 32 data.label }, .done, fl)
  else
    let r := (s.labelRange p (s.job p).space a (4 * ws.length) data.label).vaWrite (.collective p) p (s.job p).space a ws
    (r.s, r.status, fl)

/-- Local contributors to whose destinations chunk (origin, c) goes, with the block there (Table 13.2). -/
def Inst.targets (i : Inst) (d : ColDesc) (g : Group) (self origin : Nat) : List (Entered × Nat) :=
  if d.op = opReduceScatter ∨ d.op = opAllToAll then
    match g.localOf self (origin % g.total) with
    | none => []
    | some l => (i.byLidx.filter fun e => decide (e.lidx = l)).map fun e => (e, if d.op = opAllToAll then origin / g.total else 0)
  else i.byLidx.map fun e => (e, if d.op = opAllGather then origin else 0)

/-- Deliver a chunk to the local destinations; one that carries NONFIN is noted (R363). -/
def State.landChunk (s : State) (p : Nat) (i : Inst) (d : ColDesc) (g : Group) (data : ChunkData) : State × Status × Flags :=
  match i.ctrl with
  | some x =>
    let bs := (twordBytes data.words).take (d.elems data.chunk)
    let pad := if d.op = opAllGather ∧ data.chunk + 1 = d.perBlock then List.replicate (blockLen d.dstFmt d.count - d.count) 0 else []
    let at_ := (if d.op = opAllGather then data.origin * blockLen d.dstFmt d.count else 0) + data.chunk * 1048576
    (s.emit [.hostWrite x.fn (x.dst + at_) (bs ++ pad)], .done, 0)
  | none =>
    let self := (s.coll.part p).self
    let r := (i.targets d g self data.origin).foldl (fun (acc : State × Status × Flags) e =>
      let w := acc.1.colWrite p e.1 e.2 data.chunk data
      (w.1, if acc.2.1 = .done then w.2.1 else acc.2.1, acc.2.2 ||| w.2.2)) (s, Status.done, (0 : Flags))
    ({ r.1 with coll := r.1.coll.updPart p fun c => { c with nonfin := c.nonfin || data.nonfin } }, r.2.1, r.2.2)

/-! ### Sending (R355, R357, R358) -/

/-- Words in 64 B units, the last filled with zeros. -/
def unitLines (ws : List TWord) : List Line :=
  (List.range (ceilDiv ws.length 16)).map fun i => let l := (ws.drop (16 * i)).take 16; l ++ List.replicate (16 - l.length) .zero

/-- Frames of up to 32 units. -/
def unitFrames (ls : List Line) : List (List Line) := (List.range (ceilDiv ls.length 32)).map fun i => (ls.drop (32 * i)).take 32

/-- The header of a chunk that this module sends. -/
def State.chunkHeader (s : State) (p : Nat) (i : Inst) (d : ColDesc) (g : Group) (data : ChunkData) : ChunkHeader :=
  let w := d.wire g data.origin data.chunk
  ⟨d.op, data.nonfin && !i.cp, decide (w + 1 = d.blocks g * d.perBlock), i.cp, data.level, data.fmt, i.group, (s.coll.part p).self, i.seq, w % 2 ^ 32,
   i.own.getD 0, data.stats, data.label, data.cscale.toNat, ceilDiv data.words.length 16⟩

/-- Send one chunk to a rank: opening part, payload, closing part. -/
def State.sendChunk (s : State) (p : Nat) (i : Inst) (d : ColDesc) (g : Group) (x : ColSend) : State :=
  let h := s.chunkHeader p i d g x.data
  let ls := unitLines x.data.words
  let crc := crc64 (h.opening ++ (ls.map twordBytes).flatten)
  let one := fun (a : State) (vc : Nat) (first last : Bool) (ls : List Line) => a.sendUnit p x.rank h.chunk vc (h.inner first last) ls
  let s1 := one s 1 true false [headerLine h.opening 0]
  let s2 := (unitFrames ls).foldl (fun (a : State) fr => one a (if i.cp then 3 else 2) false false fr) s1
  one s2 1 false true [cleanWords (List.replicate 56 0 ++ natBytes crc 8)]

/-- The instance as held by the partition. -/
def State.inst (s : State) (p group seq : Nat) (cp : Bool) : Option Inst := (s.coll.part p).inst group seq cp
def State.putInst (s : State) (p : Nat) (i : Inst) : State := { s with coll := s.coll.updPart p fun c => c.setInst i }

/-! ### Header-only trees (R364) -/

/-- A header-only message of an instance. -/
def State.sendTree (s : State) (p : Nat) (i : Inst) (d : ColDesc) (src dst word : Nat) : State :=
  let h : ChunkHeader := ⟨d.op, false, true, i.cp, 0, 0, i.group, src, i.seq, 0, i.own.getD 0, word, 0, 0x3F800000, 0⟩
  s.sendUnit p (s.hopTo p dst) 0 1 (h.inner true true) [headerLine h.opening (crc64 h.opening)]

/-- The reduced word of an instance goes down to the children. -/
def State.treeDown (s : State) (p : Nat) (i : Inst) (d : ColDesc) (g : Group) (word : Nat) : State :=
  let c := s.coll.part p
  (treeChildren c.pod g.ranks c.self).foldl (fun (a : State) r => a.sendTree p i d c.self r word) s

/-- The reduction runs once this module's data is through and every child has been heard. -/
def State.treeTry (s : State) (p : Nat) (i : Inst) (d : ColDesc) (g : Group) : State × Inst :=
  let c := s.coll.part p
  if !(d.byTree && i.open_ g && i.moved d g && !i.tree.sent && i.tree.ready c.pod g.ranks c.self) then (s, i)
  else
    let w := i.tree.up.foldl (fun acc u => combineStats acc u.2) (s.localStats i d)
    match treeParent c.pod g.ranks c.self with
    | some r =>
      let i1 := { i with tree := { i.tree with sent := true } }
      (s.sendTree p i1 d c.self r w, i1)
    | none =>
      let i1 := { i with tree := { i.tree with sent := true, result := some w } }
      (s.treeDown p i1 d g w, i1)

/-! ### The end of an instance (R344, R352, R358) -/

/-- Statistics: each contributor gets the delivered word at STAT_OFF + 8, and the collector takes it. -/
def State.postStats (s : State) (p : Nat) (i : Inst) (w : Nat) : State :=
  let s1 := i.entered.foldl (fun (a : State) e =>
    a.updTile e.tile fun x => { x with mem := { x.mem with sp := Store.setMany .zero x.mem.sp ((e.desc.statOff + 8) / 4) ((natWords w 2).map fun v => ⟨v, false⟩) } }) s
  s1.updJob p fun j => { j with delivered := j.delivered ++ [w] }

/-- A control-plane instance ends, and its command completes. -/
def State.endCp (s : State) (p : Nat) (i : Inst) (st : Status) : State :=
  let s1 := { s with coll := s.coll.updPart p fun c => { c.dropInst i with cpLast := st, incoming := c.incoming.filter fun x => !decide (x.header.cp = true ∧ x.header.group = i.group ∧ x.header.seq = i.seq) } }
  match i.ctrl with
  | some x => s1.complete x.fn x.sq x.seqNo st 0 0
  | none => s1

/-- After an advance: the tree, the statistics, the end of a control-plane command. -/
def State.settleInst (s : State) (p : Nat) (i : Inst) (d : ColDesc) (g : Group) : State :=
  let (s1, i1) := s.treeTry p i d g
  let word := if d.op = opAllReduce then some i1.stats else i1.tree.result
  let due := d.statEn && !i1.posted && i1.moved d g
  let (s2, i2) := match word with
    | some w => if due then (s1.postStats p i1 w, { i1 with posted := true }) else (s1, i1)
    | none => (s1, i1)
  let s3 := s2.putInst p i2
  if i2.cp && i2.whole d g then s3.endCp p i2 .done else s3

/-! ### One advance of a chunk -/

/-- One local pair of ALL_TO_ALL: send it, deliver it, or both ends are here. -/
def Inst.directStep (i : Inst) (g : Group) (self origin c : Nat) (own : ChunkData) : Option Moved :=
  if (i.chunk origin c).stage ≠ 0 then none
  else match g.localOf self (origin / g.total), g.localOf self (origin % g.total) with
    | some _, some _ => some ⟨i.setChunk ⟨5, own⟩, [], some own, 0⟩
    | some _, none => some ⟨i.setChunk ⟨5, own⟩, [⟨g.ranks.getD (origin % g.total / g.loc) 0, { own with level := 0 }⟩], none, 0⟩
    | none, some _ => (i.take 0 origin c).map fun t => ⟨t.2.setChunk ⟨5, t.1⟩, [], some t.1, 0⟩
    | none, none => none

/-- What an advance of chunk (origin, c) does, given this module's own data. -/
def Inst.stepChunk (i : Inst) (d : ColDesc) (x : Geo) (g : Group) (self origin c : Nat) (own : ChunkData) : Option Moved :=
  if d.reduces then
    let o := d.owner x g origin c
    let (m, fl) := (i.reduceStep x d.red d.l2Fmt (d.elems c) o.1 o.2 (decide (d.op = opAllReduce)) origin c own).exec
    m.map fun v => { v with flags := v.flags ||| fl }
  else if d.op = opAllToAll then i.directStep g self origin c own
  else
    let q := d.source x g origin
    i.passStep x q.1 q.2 origin c own

/-- The chunk exists in the operation. -/
def ColDesc.hasChunk (d : ColDesc) (g : Group) (origin c : Nat) : Bool :=
  decide (c < d.perBlock) && decide (origin < (if d.op = opReduceScatter ∨ d.op = opAllGather then g.total else if d.op = opAllToAll then g.total * g.total else 1))

/-- Lower chunks of the block on the same engine have made this step (R355). -/
def Inst.inTurn (i : Inst) (origin c : Nat) : Bool :=
  (List.range (c / 3)).all fun k => decide ((i.chunk origin c).stage < (i.chunk origin (c - 3 * (k + 1))).stage)

/-- Chunk (origin, c) of an instance of an operation moves on by one step: this module's data is read, an incoming chunk is combined or passed on, the result is sent or delivered. A next hop without an UP port holds it (R355); a refused word ends the instance (R352). -/
def State.advance (s : State) (op p group seq : Nat) (cp : Bool) (origin c : Nat) : State :=
  let cl := s.coll.part p
  match s.inst p group seq cp, cl.groupAs group cp with
  | some i, some g => match i.desc with
    | none => s
    | some d =>
      if !(decide (d.op = op) && i.open_ g && d.hasChunk g origin c && i.inTurn origin c) then s
      else
        let (s1, st, own, fl) := if (i.chunk origin c).stage = 0 then s.ownChunk p i d g origin c else (s, Status.done, (i.chunk origin c).data, (0 : Flags))
        if st ≠ .done then s1.putInst p { i with ending := some st }
        else match i.stepChunk d (cl.geo g) g cl.self origin c own with
          | none => s
          | some m =>
            if !m.sends.all fun x => !(s.portsTo p x.rank true).isEmpty then s
            else
              let s2 := m.sends.foldl (fun (a : State) x => a.sendChunk p i d g x) s1
              let (s3, st3, fl3) := match m.write with
                | some data => s2.landChunk p i d g data
                | none => (s2, Status.done, (0 : Flags))
              let s4 := { s3 with coll := s3.coll.raiseFlags (d.wire g origin c % 3) (fl ||| m.flags ||| fl3) }
              let i1 : Inst := match m.write with
                | some data => { m.inst with stats := combineStats m.inst.stats data.stats }
                | none => m.inst
              if st3 ≠ .done then s4.putInst p { i1 with ending := some st3 } else s4.settleInst p i1 d g
  | _, _ => s

/-! ### Mismatch and census (R359, R360) -/

/-- A message to every other member of a group. -/
def State.toMembers (s : State) (p : Nat) (g : Group) (f : Nat → Out) : State :=
  s.emit ((g.ranks.filter fun r => decide (r ≠ (s.coll.part p).self)).map f)

/-- The digest that most local contributors hold, ties to the lower LIDX. -/
def Inst.localMajor (i : Inst) : Nat :=
  let ds := i.byLidx.map Entered.digest
  ds.foldl (fun best d => if (ds.filter (· = best)).length < (ds.filter (· = d)).length then d else best) (ds.headD 0)

/-- The detecting module starts an abort: its digest, the suspect and the suspect's digest go to every member. -/
def State.startMismatch (s : State) (p : Nat) (i : Inst) (g : Group) (susRank susLidx susDigest : Nat) : State × Inst :=
  if i.mismatch.isSome then (s, i)
  else
    let self := (s.coll.part p).self
    let own := i.own.getD 0
    (s.toMembers p g fun r => .abort r i.group i.seq i.cp .descMismatch self own susRank susLidx susDigest,
     { i with mismatch := some ⟨own, susRank, susLidx, susDigest, false, []⟩ })

/-- The records of an instance on this module: tile and record in its COL unit. -/
def colKey (group seq : Nat) : Nat := group + 1024 * seq

def State.instRecords (s : State) (p group seq : Nat) : List (Nat × InFlight) :=
  ((s.tilesOf p).map fun t => ((((s.tile t).unit unitCol).cur.filter fun f => decide (f.cycles = 1 ∧ f.tag / 256 = colKey group seq)).map fun f => (t, f))).flatten

/-- Every record of an instance on this module completes with a status; the instance is gone. -/
def State.endRecords (s : State) (p : Nat) (i : Inst) (rs : List (Nat × InFlight)) (st : Status) : State :=
  let s1 := { s with coll := s.coll.updPart p fun c => c.dropInst i }
  let s2 := rs.foldl (fun (a : State) r => a.finish r.1 unitCol r.2 st) s1
  if rs.isEmpty then s2 else { s2 with coll := s2.coll.updPart p fun c => { c with lastStatus := st } }

/-- CENSUS_RESULT takes effect (R360 step 4). -/
def State.endMismatch (s : State) (p : Nat) (i : Inst) (major rank lidx count : Nat) : State :=
  let s1 := { s with coll := s.coll.updPart p fun c => { c with
    aborted := c.aborted || !i.cp
    errSeq := i.seq % 65536, errGroup := i.group, errRank := rank, errLidx := lidx, errCount := Nat.min count 0x3FFF
    own := (i.mismatch.map Mismatch.own).getD (i.own.getD 0), majority := major } }
  if i.cp then s1.endCp p i .descMismatch else s1.endRecords p i (s1.instRecords p i.group i.seq) .descMismatch

/-- The lowest rank counts the answers and tells every member (R360 step 3). -/
def State.concludeCensus (s : State) (p : Nat) (i : Inst) (g : Group) (m : Mismatch) : State :=
  let major := majority (m.census.map fun x => x.2.1)
  let offs := offenders g.ranks m.census major
  let first := offs.headD (0, 0xFF)
  let s1 := s.toMembers p g fun r => .censusResult r i.group i.seq i.cp major (Nat.min offs.length 0x3FFF) (offs.take 8)
  s1.endMismatch p i major first.1 first.2 offs.length

/-- An answer reaches the lowest rank; the last one ends the wait. -/
def State.addCensus (s : State) (p : Nat) (i : Inst) (g : Group) (rank digest lidx : Nat) : State :=
  match i.mismatch with
  | none => s
  | some m =>
    let m1 := { m with census := m.census.filter (fun x => decide (x.1 ≠ rank)) ++ [(rank, digest, lidx)] }
    let i1 := { i with mismatch := some m1 }
    let s1 := s.putInst p i1
    if g.ranks.all fun r => m1.census.any fun x => decide (x.1 = r) then s1.concludeCensus p i1 g m1 else s1

/-- This module's CENSUS goes to the group's lowest rank (R360 step 2). -/
def State.sendCensus (s : State) (p : Nat) (i : Inst) (g : Group) : State :=
  match i.mismatch with
  | none => s
  | some m =>
    if m.censusSent then s
    else
      let self := (s.coll.part p).self
      let digest := if i.cp then i.own.getD 0 else i.localMajor
      let lidx := if m.suspectRank = self then m.suspectLidx else 0xFF
      let i1 := { i with mismatch := some { m with own := digest, censusSent := true } }
      let low := g.ranks.headD 0
      if low = self then s.addCensus p i1 g self digest lidx
      else (s.putInst p i1).emit [.census low i.group i.seq i.cp self digest lidx]

/-- The count ends at once when every local contributor has entered. -/
def State.censusTry (s : State) (p : Nat) (i : Inst) (g : Group) : State :=
  if decide (i.mismatch.isSome) && (if i.cp then i.ctrl.isSome else decide (i.entered.length = g.loc)) then s.sendCensus p i g else s

/-! ### Entry (R347, R351, R352, R359) -/

/-- A contributor joins its instance; a digest that differs starts the mismatch. -/
def State.joinInst (s : State) (p group seq : Nat) (cp : Bool) (g : Group) (glid : Nat) (e : Entered) (f : Inst → Inst) : State :=
  let c := s.coll.part p
  let flat := (ringsOf c.pod g.ranks).2
  let i := (c.inst group seq cp).getD { Inst.start group seq cp with stats := neutralStats glid }
  let i1 := f { i with entered := i.entered ++ [e] }
  let s1 := { s with coll := s.coll.setPart p { c with
    insts := if (c.inst group seq cp).isSome then c.insts else c.insts ++ [i1]
    flatSeen := c.flatSeen || flat } }
  let (s2, i2) := if i1.own = some e.digest then (s1, i1) else s1.startMismatch p i1 g c.self e.lidx e.digest
  (s2.putInst p i2).censusTry p i2 g

/-- Destination range of a record in flight. -/
def State.colDest (s : State) (p t : Nat) (f : InFlight) : Option (Nat × Nat × Nat) :=
  let c := s.coll.part p
  let group := f.tag / 256 % 1024
  match c.inst group (f.tag / 256 / 1024) false, c.group group with
  | some i, some g => (i.entered.find? fun e => decide (e.tile = t ∧ e.lidx = f.tag % 256)).map fun e => (e.desc.dstSpace, e.desc.dstAddr, e.desc.dstBytes g.total)
  | _, _ => none

/-- Data-plane instances in flight on the module (R352). -/
def Coll.inFlight (c : Coll) : Nat := (c.parts.map fun e => (e.2.insts.filter fun i => !i.cp).length).sum

/-- The first record of a tile's COL unit is checked and entered, when the limits and its buffers allow it; none while it waits. -/
def State.enterCol (s : State) (t : Nat) : Option State :=
  let x := s.tile t
  match (x.unit unitCol).queue, x.part with
  | i :: rest, some p =>
    let c := s.coll.part p
    let cur := (x.unit unitCol).cur
    let ws := x.mem.spWords (bits i.a 0 22) 16
    let v := wordsNat (ws.map TWord.bits)
    let d := ColDesc.ofBits v
    let vaSize := match (s.job p).image with
      | some im => im.vaSize
      | none => 0
    let st0 := d.check x (s.colEnv p d.group vaSize (s.job p).space)
    let st := if st0 = .done ∧ ws.any TWord.poison then .poison else st0
    let put := fun (f : InFlight) => s.setTile t (x.setUnit unitCol ⟨cur ++ [f], rest⟩)
    if st ≠ .done then some (put ⟨i, st, 0, 0⟩)
    else match c.group d.group with
      | none => some (put ⟨i, .accessDenied, 0, 0⟩)
      | some g =>
        let k := 256 * d.group + d.lidx
        let seq := Store.get 0 c.seqs k
        let held := c.inst d.group seq false
        let clash := cur.any fun f => match s.colDest p t f with
          | some (sp, a, n) => (decide (d.srcSpace = sp) && overlaps d.srcAddr (d.srcBytes g.total) a n) || (decide (d.dstSpace = sp) && overlaps d.dstAddr (d.dstBytes g.total) a n)
          | none => false
        if 16 ≤ (cur.filter fun f => decide (f.cycles = 1)).length ∨ (held.isNone ∧ 256 ≤ s.coll.inFlight) ∨ clash then none
        else
          let e : Entered := ⟨d.lidx, t, i.idx, v, instDigest v g.digest seq false⟩
          let late := match held with
            | some h => if h.mismatch.isSome then Status.descMismatch else h.ending.getD .done
            | none => .done
          let st1 := if c.faultRx then Status.cancelled else late
          let s1 := put ⟨i, st1, 1, d.lidx + 256 * colKey d.group seq⟩
          let s2 := { s1 with coll := s1.coll.setPart p { c with seqs := Store.set 0 c.seqs k (seq + 1) } }
          some (s2.joinInst p d.group seq false g d.glid e id)
  | _, _ => none

/-- Records of a COL unit are entered one after another until one waits. -/
def State.pumpCol : Nat → State → Nat → State
  | 0, s, _ => s
  | n + 1, s, t => match s.enterCol t with
    | some s1 => State.pumpCol n s1 t
    | none => s

/-- Every COL unit goes on as far as it can. -/
def State.pumpAll (s : State) : State :=
  (List.range 156).foldl (fun (a : State) t => State.pumpCol ((a.tile t).unit unitCol).queue.length a t) s

/-- What the oldest record of a tile's COL unit completes with; none while it is still in progress (R352). -/
def State.colStatus (s : State) (p : Nat) (f : InFlight) : Option Status :=
  if f.status ≠ .done then some f.status
  else
    let c := s.coll.part p
    let group := f.tag / 256 % 1024
    match c.inst group (f.tag / 256 / 1024) false, c.group group with
    | some i, some g =>
      match i.ending with
      | some st => some st
      | none => match i.desc with
        | some d => if i.open_ g && i.whole d g then some .done else none
        | none => none
    | _, _ => some .cancelled

/-- The oldest record of a tile completes. A lane's refusal ends every record of the instance that stands first on its tile (R352). -/
def State.completeCol (s : State) (t : Nat) : State :=
  let x := s.tile t
  match (x.unit unitCol).cur, x.part with
  | f :: _, some p =>
    let group := f.tag / 256 % 1024
    let seq := f.tag / 256 / 1024
    match s.colStatus p f with
    | none => s
    | some st =>
      let s1 :=
        if st = .done then
          let s1 := s.finish t unitCol f .done
          let s2 := { s1 with coll := s1.coll.updPart p fun c => { c with lastStatus := .done } }
          if (s2.instRecords p group seq).isEmpty then
            match s2.inst p group seq false with
            | some i => { s2 with coll := s2.coll.updPart p fun c => c.dropInst i }
            | none => s2
          else s2
        else
          let firsts := if f.status ≠ .done then [] else (s.instRecords p group seq).filter fun r => decide (((s.tile r.1).unit unitCol).cur.head? = some r.2)
          match s.inst p group seq false with
          | some i => if firsts.isEmpty then let s1 := s.finish t unitCol f st; { s1 with coll := s1.coll.updPart p fun c => { c with lastStatus := st } } else s.endRecords p i firsts st
          | none => let s1 := s.finish t unitCol f st; { s1 with coll := s1.coll.updPart p fun c => { c with lastStatus := st } }
      s1.pumpAll.fenceTry p
  | _, _ => s

/-! ### Chunks that arrive (R356, R357, R359, R363) -/

/-- The first unit of a frame as bytes. -/
def ColFrame.bytes (f : ColFrame) : List Byte := twordBytes (f.data.headD [])

/-- The closing part: zeros before the CRC. -/
def ColFrame.closing (f : ColFrame) : Bool := decide (f.vc = 1 ∧ f.ext ≠ 2 ^ 49) && zeroBytes f.bytes 0 1

/-- A frame of KIND COLLECTIVE was lost. -/
def ColFrame.lost (f : ColFrame) : Bool := decide (f.ext = 2 ^ 49)

/-- The header that an inner header's bits [127:79] name: GROUP, CHUNK, SEQ, LEVEL and CP, low bits (R357). -/
def extMatches (ext : Nat) (h : ChunkHeader) : Bool := decide (ext = (h.inner false false).ext)

/-- The neighbour and level from which the next step of a chunk takes data; none when it waits for nothing. -/
def Inst.awaits (i : Inst) (d : ColDesc) (x : Geo) (g : Group) (self origin c : Nat) : Option (Nat × Nat) :=
  let st := (i.chunk origin c).stage
  let before := x.rank x.g (x.j + x.mN - 1)
  let podBefore := x.rank (x.g + x.pN - 1) x.j
  if d.reduces then
    let o := d.owner x g origin c
    if st = 0 then (if x.mN = 1 ∨ x.j = (o.1 + 1) % x.mN then none else some (before, 1))
    else if st = 1 then (if x.pN = 1 ∨ x.g = (o.2 + 1) % x.pN then none else some (podBefore, 2))
    else if st = 2 then some (podBefore, 2)
    else if st = 4 then some (before, 1) else none
  else if st ≠ 0 then none
  else if d.op = opAllToAll then
    (match g.localOf self (origin / g.total), g.localOf self (origin % g.total) with
    | none, some _ => some (g.ranks.getD (origin / g.total / g.loc) 0, 0)
    | _, _ => none)
  else
    let q := d.source x g origin
    if x.g = q.1 ∧ x.j = q.2 then none else if x.j = q.2 then some (podBefore, 2) else some (before, 1)

/-- Origins of an operation. -/
def ColDesc.origins (d : ColDesc) (g : Group) : Nat :=
  if d.op = opReduceScatter ∨ d.op = opAllGather then g.total else if d.op = opAllToAll then g.total * g.total else 1

/-- The next chunk that an instance expects from a neighbour, as the header it would have; no NONFIN, STATS or LABEL is taken from one that failed (R363). -/
def CollPart.expects (c : CollPart) (rank : Nat) (i : Inst) : Option ChunkHeader :=
  match c.groupAs i.group i.cp, i.desc with
  | some g, some d =>
    let x := c.geo g
    let here := fun (o k level : Nat) => (i.inbox.any fun y => decide (y.origin = o ∧ y.chunk = k ∧ y.level = level)) ||
      c.incoming.any fun y => decide (y.header.group = i.group ∧ y.header.seq = i.seq ∧ y.header.cp = i.cp ∧ y.header.level = level ∧ y.header.chunk = d.wire g o k)
    ((List.range (d.origins g)).findSome? fun o => (List.range d.perBlock).findSome? fun k =>
      match i.awaits d x g c.self o k with
      | some (r, level) =>
        if r = rank ∧ !here o k level then
          let f := if d.reduces then (if level = 2 then fmtOf d.l2Fmt else .fp32) else fmtOf d.srcFmt
          some (⟨d.op, false, false, i.cp, level, (if d.reduces then (if level = 2 then d.l2Fmt else 0) else d.srcFmt), i.group, rank, i.seq, d.wire g o k,
            i.own.getD 0, neutralStats d.glid, 0, 0x3F800000, ceilDiv (wordsOf f (d.elems k)) 16⟩ : ChunkHeader)
        else none
      | none => none)
  | _, _ => none

/-- The rank at the far end of a port for a partition. -/
def State.rankAt (s : State) (k p : Nat) : Nat :=
  ((s.port k).entries.findSome? fun e => match e.2 with
    | some y => if y.part = p then some y.peerRank else none
    | none => none).getD 0

/-- Payload frames of the chunks whose opening part has passed join them (R357). -/
def CollPart.absorb (c : CollPart) : CollPart :=
  c.frames.foldl (fun (a : CollPart) f =>
    if f.vc = 1 then a
    else match a.incoming.findIdx? fun x => decide (x.port = f.port ∧ x.units.length < x.header.units) && (f.lost || decide (x.ext = f.ext)) with
      | none => a
      | some n => match a.incoming[n]? with
        | none => a
        | some x => { a with incoming := setAt a.incoming n { x with units := x.units ++ f.data, ok := x.ok }, frames := a.frames.erase f }) c

/-- Fields of a received header that name an instance whose data this module may take now (R359). -/
def CollPart.enteredInst (c : CollPart) (h : ChunkHeader) : Option Inst :=
  (c.inst h.group h.seq h.cp).bind fun i => if i.own.isSome then some i else none

/-- A VC1 frame that this module can judge now: its instance is entered, or it needs none. -/
def CollPart.canOpen (c : CollPart) (f : ColFrame) : Bool :=
  decide (f.vc = 1) && !f.closing &&
  (f.lost || !headerOk f.bytes || decide ((ChunkHeader.ofBytes f.bytes).op = 0xF3) ||
   (c.enteredInst (.ofBytes f.bytes)).isSome || (c.group (ChunkHeader.ofBytes f.bytes).group).isNone ||
   (decide ((ChunkHeader.ofBytes f.bytes).units = 0) && (match c.group (ChunkHeader.ofBytes f.bytes).group with
     | some g => !((treeChildren c.pod g.ranks c.self).contains (ChunkHeader.ofBytes f.bytes).rank || decide (treeParent c.pod g.ranks c.self = some (ChunkHeader.ofBytes f.bytes).rank))
     | none => true)))

/-- A header-only message of an instance: from a child it is combined, from the parent it is the result, any other is relayed (R364). -/
def State.treeHear (s : State) (p : Nat) (h : ChunkHeader) : State :=
  let c := s.coll.part p
  let relay := fun (a : State) (dst : Nat) => a.sendUnit p (a.hopTo p dst) 0 1 (h.inner true true) [headerLine h.opening (crc64 h.opening)]
  match c.groupAs h.group h.cp with
  | none =>
    let x := Geo.of (podsOf c.pod c.all) c.self
    relay s x.succ
  | some g =>
    if (treeChildren c.pod g.ranks c.self).contains h.rank then
      match c.enteredInst h with
      | none => s
      | some i => match i.desc with
        | none => s
        | some d => s.settleInst p { i with tree := { i.tree with up := i.tree.up.filter (fun (u : Nat × Nat) => decide (u.1 ≠ h.rank)) ++ [(h.rank, h.stats)] } } d g
    else if treeParent c.pod g.ranks c.self = some h.rank then
      match c.enteredInst h with
      | none => s
      | some i => match i.desc with
        | none => s
        | some d => match i.tree.result with
          | none =>
            let i1 := { i with tree := { i.tree with result := some h.stats } }
            (s.treeDown p i1 d g h.stats).settleInst p i1 d g
          | some _ =>
            let x := c.geo g
            relay s (if c.pod h.rank = c.pod c.self then x.succ else x.nextPod)
    else match treeParent c.pod g.ranks h.rank with
      | some q => relay s q
      | none => s

/-- A counter of the partition's integrity. -/
def State.updColl (s : State) (p : Nat) (f : CollPart → CollPart) : State := { s with coll := s.coll.updPart p f }

/-- A digest that differs from this module's own aborts the instance (R359). -/
def State.remoteMismatch (s : State) (p : Nat) (i : Inst) (h : ChunkHeader) : State :=
  match (s.coll.part p).groupAs i.group i.cp with
  | none => s
  | some g =>
    let (s1, i1) := s.startMismatch p i g h.rank 0xFF h.digest
    (s1.putInst p i1).censusTry p i1 g

/-- A control-plane instance whose data failed ends TAG_FAIL (R344). -/
def State.failCp (s : State) (p group seq : Nat) : State :=
  match s.inst p group seq true with
  | some i => s.endCp p i .tagFail
  | none => s

/-- An opening part that cannot be read: its chunk is routed as the next one expected from that neighbour, and its payload is poison (R363). -/
def State.blindOpen (s : State) (p : Nat) (f : ColFrame) : State :=
  let c := s.coll.part p
  match c.insts.findSome? fun i => c.expects (s.rankAt f.port p) i with
  | none => s
  | some h =>
    let ext := if f.lost then (h.inner false false).ext else f.ext
    s.updColl p fun y => { y with incoming := y.incoming ++ [(⟨f.port, ext, h, h.opening, false, []⟩ : Incoming)] }

/-- The opening part of a chunk, or a header-only message, is judged (R359, R363). -/
def State.openChunk (s : State) (p : Nat) (f : ColFrame) : State :=
  let s0 := s.updColl p fun y => { y with frames := y.frames.erase f }
  if f.lost then
    let c := s0.coll.part p
    match c.incoming.find? fun x => decide (x.port = f.port ∧ x.header.units ≤ x.units.length) with
    | some x => s0.updColl p fun y => { y with incoming := setAt y.incoming (y.incoming.idxOf x) { x with ok := false }, frames := y.frames ++ [⟨f.port, x.ext, 1, [List.replicate 16 .zero]⟩] }
    | none => s0.blindOpen p f
  else if !headerOk f.bytes then
    (s0.updColl p fun y => { y with hdrFail := satAdd 16 y.hdrFail 1, taint := y.taint || !bit f.ext 44 }).blindOpen p f
  else
    let h := ChunkHeader.ofBytes f.bytes
    if h.op = 0xF3 then s0.fenceHear p h.rank (fenceWord f.bytes)
    else match (s0.coll.part p).enteredInst h with
      | none => if h.units = 0 then s0.treeHear p h else s0
      | some i =>
        if i.own ≠ some h.digest then s0.remoteMismatch p i h
        else if h.units = 0 then s0.treeHear p h
        else s0.updColl p fun y => ({ y with incoming := y.incoming ++ [(⟨f.port, f.ext, h, f.bytes.take 56, true, []⟩ : Incoming)] }).absorb

/-- The words of a received chunk: poison where its opening part failed. -/
def Incoming.words (x : Incoming) : List TWord := if x.ok then x.units.flatten else x.units.flatten.map fun w => ⟨w.bits, true⟩

/-- The chunk joins the instance: values wait for the engine (R356). -/
def State.acceptChunk (s : State) (p : Nat) (x : Incoming) : State :=
  let c := s.coll.part p
  let h := x.header
  match c.inst h.group h.seq h.cp, c.groupAs h.group h.cp with
  | some i, some g => match i.desc with
    | none => s
    | some d =>
      let q := d.ofWire g (g.memberOf h.rank) (g.memberOf c.self) h.chunk
      s.putInst p { i with inbox := i.inbox ++ [⟨h.level, q.1, q.2, h.fmt, BitVec.ofNat 32 h.cscale, x.words, h.nonfin, h.stats, h.label⟩] }
  | _, _ => s

/-- The closing part of a received chunk is checked (R363, R344). -/
def State.closeChunk (s : State) (p : Nat) (x : Incoming) (f : ColFrame) : State :=
  let s0 := s.updColl p fun y => { y with frames := y.frames.erase f, incoming := y.incoming.erase x }
  let good := decide (field f.bytes 56 8 = crc64 (x.front ++ (x.units.map twordBytes).flatten))
  let cp := x.header.cp
  let s1 := if x.ok && !good then s0.updColl p fun y => { y with crcFail := satAdd 16 y.crcFail 1, taint := y.taint || !cp } else s0
  if cp && !(x.ok && good) then s1.failCp p x.header.group x.header.seq else s1.acceptChunk p x

/-- A chunk whose payload is whole and whose closing part stands in the frames. -/
def CollPart.canClose (c : CollPart) : Option (Incoming × ColFrame) :=
  c.incoming.findSome? fun x =>
    if x.units.length < x.header.units then none
    else (c.frames.find? fun f => f.closing && decide (f.port = x.port ∧ f.ext = x.ext)).map fun f => (x, f)

end Sys2Proof.Machine
end

