-- ==== Sys2Proof/Machine/ExecCol.lean ====
section
/-! DEFINITION. Meanings: collectives (chapter 13). -/

namespace Sys2Proof.Machine

/-- COL: the record is dispatched, checked and enters its instance, or waits (R351, R352). -/
def execCol (t : Fin 156) (s : State) : Result :=
  match s.take t recCol with
  | none => .next s
  | some (s1, i) =>
    let s2 := s1.updTile t fun x => x.setUnit unitCol { x.unit unitCol with queue := (x.unit unitCol).queue ++ [i] }
    .next (State.pumpCol ((s2.tile t).unit unitCol).queue.length s2 t)

/-- ALL_REDUCE: one chunk moves on by one step (R354). -/
def execAllReduce (p : Fin 16) (group : Fin 1024) (seq : Nat) (cp : Bool) (origin chunk : Nat) (s : State) : Result :=
  .next (s.advance opAllReduce p group seq cp origin chunk)

/-- REDUCE_SCATTER: one chunk of one block moves on by one step (R354). -/
def execReduceScatter (p : Fin 16) (group : Fin 1024) (seq : Nat) (cp : Bool) (origin chunk : Nat) (s : State) : Result :=
  .next (s.advance opReduceScatter p group seq cp origin chunk)

/-- ALL_GATHER: one chunk of one contributor moves on by one step (R354). -/
def execAllGather (p : Fin 16) (group : Fin 1024) (seq : Nat) (cp : Bool) (origin chunk : Nat) (s : State) : Result :=
  .next (s.advance opAllGather p group seq cp origin chunk)

/-- BROADCAST: one chunk of the root moves on by one step (R354). -/
def execBroadcast (p : Fin 16) (group : Fin 1024) (seq : Nat) (cp : Bool) (origin chunk : Nat) (s : State) : Result :=
  .next (s.advance opBroadcast p group seq cp origin chunk)

/-- ALL_TO_ALL: one chunk of one pair moves on by one step (R354). -/
def execAllToAll (p : Fin 16) (group : Fin 1024) (seq : Nat) (cp : Bool) (origin chunk : Nat) (s : State) : Result :=
  .next (s.advance opAllToAll p group seq cp origin chunk)

/-- BARRIER: this member's word goes up the tree once every local contributor has entered and every child is heard (R364). -/
def execBarrier (p : Fin 16) (group : Fin 1024) (seq : Nat) (cp : Bool) (s : State) : Result :=
  match s.inst p group seq cp, (s.coll.part p).groupAs group cp with
  | some i, some g => match i.desc with
    | some d => if d.op = opBarrier then .next (s.settleInst p i d g) else .next s
    | none => .next s
  | _, _ => .next s

/-- The oldest opening part that can be judged arrives (R359, R363). -/
def execChunkOpenReceive (p : Fin 16) (s : State) : Result :=
  let c := s.coll.part p
  match c.frames.find? c.canOpen with
  | none => .next s
  | some f => .next ((s.openChunk p f).updColl p CollPart.absorb)

/-- A closing part whose payload is whole arrives (R363). -/
def execChunkCloseReceive (p : Fin 16) (s : State) : Result :=
  let s1 := s.updColl p CollPart.absorb
  match (s1.coll.part p).canClose with
  | none => .next s1
  | some (x, f) => .next (s1.closeChunk p x f)

/-- An ABORT naming CANCELLED and this step: every collective of the partition ends CANCELLED, held or entered later (R361, R362); a snapshot fill ends too (R395). -/
def State.abortStep (s : State) (p step : Nat) : State :=
  let j := s.job p
  let live : Bool := match j.run with
    | some r => decide (r.phase = .step)
    | none => false
  if !(live && decide (j.step.stepNum = step)) then s.cancelFill p
  else
    let s1 := s.updColl p fun c => { c with faultRx := true }
    let held := (s1.coll.part p).insts.filter fun i => !i.cp && i.mismatch.isNone
    let rs := (held.map fun i => s1.instRecords p i.group i.seq).flatten
    let s2 := rs.foldl (fun (a : State) r => a.finish r.1 unitCol r.2 .cancelled) s1
    (if rs.isEmpty then s2 else s2.updColl p fun c => { c with lastStatus := .cancelled }).cancelFill p

/-- An ABORT for one instance: the first is forwarded along the rings and this member counts; what it holds of the instance is given up (R360). -/
def State.abortInst (s : State) (p group seq : Nat) (cp : Bool) (rank digest susRank susLidx susDigest : Nat) : State :=
  let c := s.coll.part p
  match c.groupAs group cp with
  | none => s
  | some g =>
    let i := (c.inst group seq cp).getD (.start group seq cp)
    if i.mismatch.isSome then s
    else
      let x := c.geo g
      let along := (([x.succ] ++ (if 1 < x.pN then [x.nextPod] else [])).filter fun r => decide (r ≠ c.self ∧ r ≠ rank)).eraseDups
      let s1 := s.emit (along.map fun r => .abort r group seq cp .descMismatch rank digest susRank susLidx susDigest)
      let i1 := { i with mismatch := some ⟨i.own.getD 0, susRank, susLidx, susDigest, false, []⟩ }
      let s2 := s1.updColl p fun y => if (y.inst group seq cp).isSome then y.setInst i1 else { y with insts := y.insts ++ [i1] }
      s2.censusTry p i1 g

/-- An ABORT header arrives (R360 to R362). -/
def execAbort (p : Fin 16) (group : Fin 1024) (seq : Nat) (cp : Bool) (status : Status) (rank digest susRank susLidx susDigest : Nat) (s : State) : Result :=
  if status = .cancelled then .next (s.abortStep p seq)
  else if status = .descMismatch then .next (s.abortInst p group seq cp rank digest susRank susLidx susDigest)
  else .next s

/-- A CENSUS header arrives at the group's lowest rank (R360 steps 2 and 3). -/
def execCensusHeader (p : Fin 16) (group : Fin 1024) (seq : Nat) (cp : Bool) (rank digest lidx : Nat) (s : State) : Result :=
  let c := s.coll.part p
  match c.groupAs group cp with
  | none => .next s
  | some g =>
    if g.ranks.headD 0 = c.self ∧ rank ∈ g.ranks then
      let i := (c.inst group seq cp).getD (.start group seq cp)
      let i1 := if i.mismatch.isSome then i else { i with mismatch := some ⟨i.own.getD 0, rank, lidx, digest, false, []⟩ }
      let s1 := s.updColl p fun y => if (y.inst group seq cp).isSome then y.setInst i1 else { y with insts := y.insts ++ [i1] }
      .next (s1.addCensus p i1 g rank digest lidx)
    else .next s

/-- CENSUS_RESULT arrives: the instance ends DESC_MISMATCH (R360 step 4). -/
def execCensusResult (p : Fin 16) (group : Fin 1024) (seq : Nat) (cp : Bool) (major rank lidx count : Nat) (s : State) : Result :=
  match s.inst p group seq cp with
  | none => .next s
  | some i => .next (s.endMismatch p i major rank lidx count)

/-- 1 ms passes: the count of this member ends, then the wait of the lowest rank (R360 steps 2 and 3). -/
def execCensusTimeout (p : Fin 16) (group : Fin 1024) (seq : Nat) (cp : Bool) (s : State) : Result :=
  let c := s.coll.part p
  match s.inst p group seq cp, c.groupAs group cp with
  | some i, some g => match i.mismatch with
    | none => .next s
    | some m =>
      if !m.censusSent && i.own.isSome then .next (s.sendCensus p i g)
      else if g.ranks.headD 0 = c.self then .next (s.concludeCensus p i g m)
      else .next s
  | _, _ => .next s

/-- A fence header arrives and is combined, taken as the result, or relayed (R364). -/
def execFenceHeaderReceive (p : Fin 16) (rank word : Nat) (s : State) : Result := .next (s.fenceHear p rank word)

/-- A COL record completes (R352). -/
def execColRecordComplete (t : Fin 156) (s : State) : Result := .next (s.completeCol t)

/-- A control-plane call's fields (Table 15.8). -/
def CpCall.ofEntry (e : SubEntry) (fn sq : Nat) : CpCall := ⟨bits e.p0 0 8, bits e.p0 18 14, bits e.p0 32 21, e.p1, e.p2, fn, sq, e.seq⟩

/-- CTRL_COLL: this member enters a control-plane instance (R344). -/
def execCtrlColl (fn : Fin 17) (q : Fin 8192) (host : HostData) (s : State) : Result :=
  .next (s.hostCmd fn q 0x36 fun a c _ =>
    let p := fnPart fn
    let x := CpCall.ofEntry c.entry fn q
    let group := bits c.entry.p0 8 10
    let y := a.coll.part p
    let bad := decide (x.op ≠ opBarrier ∧ x.op ≠ opBroadcast ∧ x.op ≠ opAllGather) || decide (1048576 < x.len) ||
      (if x.op = opBarrier then decide (x.len ≠ 0) else decide (x.len = 0)) || (decide (x.op ≠ opBroadcast) && decide (x.root ≠ 0))
    if bad then ends a .versionUnsupported
    else match y.groupAs group true with
      | none => ends a .accessDenied
      | some g =>
        if g.ranks.length ≤ x.root then ends a .versionUnsupported
        else if 4 ≤ (y.insts.filter Inst.cp).length then ends a .noResource
        else withHost a host fun bs =>
          let seq := Store.get 0 y.cpSeqs group
          let e : Entered := ⟨0, 0, 0, x.word group, instDigest (x.word group) g.digest seq true⟩
          let a1 := a.updColl p fun z => { z with cpSeqs := Store.set 0 z.cpSeqs group (seq + 1) }
          (a1.joinInst p group seq true g 0xFFF e fun i => { i with ctrl := some x, bytes := bs.take x.len }, .running))

/-- RANKS_LOAD: the job rank table, RANKS and SELF (R345). -/
def execRanksLoad (fn : Fin 17) (q : Fin 8192) (host : HostData) (s : State) : Result :=
  .next (s.hostCmd fn q 0x34 fun a c _ => withHost a host fun bs =>
    let p := fnPart fn
    let n := bits c.entry.p1 0 15
    let self := bits c.entry.p1 16 15
    if n = 0 ∨ 16384 < n ∨ n ≤ self ∨ !(List.range n).all fun r => zeroBytes bs (16 * r + 10) 6 then ends a .versionUnsupported
    else
      let table := (List.range n).foldl (fun (m : Store (Nat × Nat)) r => Store.set (0, 0) m r (field bs (16 * r) 8, field bs (16 * r + 8) 2)) []
      ends (a.updColl p fun z => { z with ranks := n, self := self, table := table }) .done)

/-- GROUPS_LOAD: the group table, held for the next boundary while a run is in progress (R346). -/
def execGroupsLoad (fn : Fin 17) (q : Fin 8192) (host : HostData) (s : State) : Result :=
  .next (s.hostCmd fn q 0x35 fun a c _ => withHost a host fun bs =>
    let p := fnPart fn
    let y := a.coll.part p
    match groupTable (bs.take c.entry.p1) y.ranks y.self with
    | none => ends a .versionUnsupported
    | some gs =>
      if (a.job p).run.isSome then ends (a.updColl p fun z => { z with pendingGroups := some gs }) .deferred
      else ends (a.updColl p fun z => { z with groups := gs, pendingGroups := none }) .done)

end Sys2Proof.Machine
end

