-- ==== Sys2Proof/Machine/Xform.lean ====
section
/-! DEFINITION. The transforms of system channels (Table 8.6): owner records (R297 to R299, R305) and sealed snapshot records (R382). -/

namespace Sys2Proof.Machine

/-- SESSION_ID of a partition. -/
def State.sessionId (s : State) (p : Nat) : Nat := (s.part p).rec_.sessionId

/-- Owner data key: the first half of an OWNER slot's material (R294). -/
def State.dataKey (s : State) (slot : Nat) : BitVec 256 := s.sec.keyOf slot

/-- Steps 1 to 3 of R298 on the bytes of a record: header, then tag; the payload when DONE. -/
def State.openOwner (s : State) (p : Nat) (space : List MapRun) (bs : List Byte) : Status × OwnerHeader × List Byte :=
  let h := OwnerHeader.ofBytes (bs.take 64)
  let x := s.part p
  let pages := pageSpan h.va h.length
  let covered := (List.range pages.2).all fun i => (s.vaAddr p space ((pages.1 + i) * 2097152)).isSome && !s.vaStaging p space ((pages.1 + i) * 2097152)
  if h.magic ≠ ownerMagic ∨ h.version ≠ 1 ∨ h.dir ≠ 1 ∨ h.sessionId ≠ x.rec_.sessionId ∨ h.reserved ∨ h.serial ≠ 0 ∨ x.rec_.owners ≤ h.owner ∨
     !bit h.label h.owner ∨ h.length % 64 ≠ 0 ∨ h.length = 0 ∨ 1048576 < h.length ∨ !covered then (.accessDenied, h, [])
  else if h.seq ≤ Store.get 0 x.ingestSeq h.owner then (.accessDenied, h, [])
  else
    let slot := Store.get 0 x.ownerSlots h.owner
    let st := s.sec.useSlot slot p [kindOwner]
    if st ≠ .done then (st, h, [])
    else
      let c := (bs.drop 64).take h.length
      let key := s.dataKey slot
      if Config.gcmTag key (ownerNonce h) (bs.take 64) c ≠ BitVec.ofNat 128 (field bs (64 + h.length) 16) then (.tagFail, h, [])
      else (.done, h, gcmOpened key (ownerNonce h) (bs.take 64) c)

/-- Step 4 of R298 but for the payload: the highest SEQ becomes this one. -/
def State.acceptOwner (s : State) (p : Nat) (h : OwnerHeader) : State := s.updPart p fun x => { x with ingestSeq := Store.set 0 x.ingestSeq h.owner h.seq }

/-- Every page of a range leaves under some rule (R305). -/
def State.mayRelease (s : State) (p : Nat) (space : List MapRun) (form recipient va n : Nat) : Bool :=
  let q := pageSpan va n
  match (s.part p).policy with
  | none => false
  | some pol => (List.range q.2).all fun i => pol.allows form recipient (q.1 + i) (s.labelOf p space ((q.1 + i) * 2097152) 2097152)

/-- A release record of a payload for owner j (R299). -/
def State.sealOwner (s : State) (p j va label : Nat) (payload : List Byte) : State × Status × List Byte :=
  let x := s.part p
  let slot := Store.get 0 x.ownerSlots j
  let st := s.sec.useSlot slot p [kindOwner]
  if st ≠ .done then (s, st, [])
  else
    let seq := Store.get 0 x.released j + 1
    let h : OwnerHeader := ⟨ownerMagic, 1, 2, j, x.rec_.sessionId, label, payload.length, seq, va, s.sec.fuses.serial, false⟩
    let key := releaseKey (s.dataKey slot).toNat s.sec.fuses.serial
    let c := gcmSealed key (ownerNonce h) h.bytes payload
    (s.updPart p fun y => { y with released := Store.set 0 y.released j seq }, .done, h.bytes ++ c ++ natBytes (Config.gcmTag key (ownerNonce h) h.bytes c).toNat 16)

/-- Checkpoint key of a writer in the partition's session (Table 10.2, R382). -/
def State.ckptKey (s : State) (p serial : Nat) : BitVec 256 :=
  BitVec.ofNat 256 (kdf (s.sec.keyOf (s.part p).sessionSlot) "CKPT" (natBytes (s.sessionId p) 16 ++ natBytes serial 8) 256)

/-- A SNAP_NONCE: 64 bits that Scarab draws (R382). -/
def State.drawNonce (s : State) : Nat × State :=
  let (v, k) := s.sec.draw
  (v.toNat % 2 ^ 64, { s with sec := k })

end Sys2Proof.Machine
end

