-- ==== Sys2Proof/Machine/ExecDma.lean ====
section
/-! DEFINITION. Meanings: DMA programs of tile units and system channels (chapter 8). Channel c is tile unit c below 156, else system channel c - 156. -/

namespace Sys2Proof.Machine

/-! ### Channels -/

def isSys (c : Nat) : Bool := decide (156 ≤ c)

def State.chan (s : State) (c : Nat) : DmaChan := if isSys c then (s.sysChan (c - 156)).chan else (s.tile c).dma

def State.setChan (s : State) (c : Nat) (x : DmaChan) : State :=
  if isSys c then s.updSys (c - 156) fun y => { y with chan := x } else s.updTile c fun t => { t with dma := x }

/-- The partition that a channel serves; none for the firmware context and a tile that belongs to none (R219). -/
def State.chanPart (s : State) (c : Nat) : Option Nat :=
  if isSys c then (let y := s.sysChan (c - 156); if y.fw then none else some y.part) else (s.tile c).part

/-- Index of the DMA record in the unit; 0 for a system program. -/
def State.chanRec (s : State) (c : Nat) : Nat :=
  if isSys c then 0 else match ((s.tile c).unit unitDma).cur with
    | f :: _ => f.issued.idx
    | [] => 0

/-- n words of the memory that holds a channel's program. -/
def State.progWords (s : State) (c off n : Nat) : List TWord :=
  if isSys c then Store.getMany .zero (s.sysChan (c - 156)).program (off / 4) n else (s.tile c).mem.spWords off n

/-- Bytes of that memory. -/
def progLimit (c : Nat) : Nat := if isSys c then 32768 else spBytes

/-- The instruction at which a running channel stands: its words, and it decoded. -/
def State.dmaInstr (s : State) (c : Nat) : List TWord × DmaInstr :=
  let x := s.chan c
  let ws := s.progWords c (x.base + 8 * x.pc) 2
  (ws, DmaInstr.ofBits (wordsNat (ws.map TWord.bits)))

/-- OP values that are not reserved (Table 8.2). -/
def dmaDefined (op : Nat) : Bool := decide (op = dmaMove ∨ op = dmaLoop ∨ op = dmaWait ∨ op = dmaSignal ∨ op = dmaEnd)

/-- A channel halts at the instruction at which it stands. -/
def State.haltHere (s : State) (c : Nat) (st : Status) : State :=
  let x := s.chan c
  s.setChan c (x.halt st (x.base + 8 * x.pc) 0 false)

/-- Execute the standing instruction of a running channel when it has this OP; one that Table 8.8 refuses halts the channel, and a reserved OP halts it whichever OP was awaited. -/
def State.dmaStep (s : State) (c op : Nat) (f : DmaInstr → State) : State :=
  let x := s.chan c
  let (ws, i) := s.dmaInstr c
  if x.phase ≠ .running ∧ x.phase ≠ .waitToken then s
  else if i.op ≠ op ∧ dmaDefined i.op then s
  else if 4096 ≤ x.pc ∨ progLimit c < x.base + 8 * x.pc + 8 then s.haltHere c .versionUnsupported
  else if ws.any TWord.poison then s.haltHere c .poison
  else if i.bad || (isSys c && i.sysBad) then s.haltHere c .versionUnsupported
  else f i

/-! ### MOVE -/

/-- Image space and its size, as a channel's binding sees them. -/
def State.chanSpace (s : State) (c : Nat) : List MapRun := match s.chanPart c with
  | some p => (s.job p).space
  | none => []

/-- Physical tile of a logical tile of a channel's partition. -/
def State.chanTile (s : State) (c lt : Nat) : Option Nat := (s.chanPart c).bind fun p => (s.job p).tileOf lt

/-- The places a channel can name (R203, R212). -/
def State.chanEnv (s : State) (c : Nat) : DmaEnv :=
  let p := s.chanPart c
  let j := match p with
    | some q => s.job q
    | none => .reset
  let onTile := fun (lt : Nat) (f : Tile → Bool) => match j.tileOf lt with
    | some t => f (s.tile t)
    | none => false
  ⟨isSys c, isSys c && p.isNone, j.place.length, j.vaSize, fun a => (findPage j.space a).isSome,
   fun lt a n => onTile lt fun t => t.guarded a n, fun lt a n => onTile lt fun t => t.inQueueArea a n,
   if isSys c then 0 else ((s.tile c).ltile).getD 0⟩

/-- Whether a side lies in staging: for VIRT, the page's kind; protected for FWPRIV, scratchpads and stashes; no answer for the flash (R307). -/
def State.sideStaging (s : State) (c : Nat) (sp : Space) (a : Nat) : Option Bool :=
  match sp, s.chanPart c with
  | .virt, some p => some (s.vaStaging p (s.chanSpace c) a)
  | .ckpt, _ => none
  | .localSp, _ => if isSys c then none else some false
  | _, _ => some false

/-- Execute a MOVE (R203, R206, R208, R212). -/
def State.doMove (s : State) (c : Nat) (i : DmaInstr) : State :=
  let x := s.chan c
  if progLimit c < i.srcDesc + 32 ∨ progLimit c < i.dstDesc + 32 then s.haltHere c .versionUnsupported
  else
    let sw := s.progWords c i.srcDesc 8
    let dw := s.progWords c i.dstDesc 8
    let sd := AddrDesc.ofBits (wordsNat (sw.map TWord.bits))
    let dd := AddrDesc.ofBits (wordsNat (dw.map TWord.bits))
    let it := fun (d : AddrDesc) => d.addr (loopIter x.loops 0) (loopIter x.loops 1) (loopIter x.loops 2) (d.stepTerm x.step)
    let a := it sd
    let b := it dd
    let e := s.chanEnv c
    let st := moveStatus e sd dd a b i.len
    match Space.ofCode sd.space, Space.ofCode dd.space with
    | some ss, some ds =>
      let mix := if isSys c then stagingMix (s.sideStaging c ss a.toNat) (s.sideStaging c ds b.toNat) sd.xform dd.xform
        else decide (s.sideStaging c ss a.toNat = some true) || decide (s.sideStaging c ds b.toNat = some true)
      if st ≠ .done then
        let srcBad := sd.malformed e.sys e.fw false || decide (sd.checkAddr e a i.len false ≠ .done)
        s.setChan c (x.halt st (if srcBad then a.toNat else b.toNat) (if srcBad then sd.space else dd.space) (!srcBad))
      else if mix then s.setChan c (x.halt .accessDenied a.toNat sd.space false)
      else if sw.any TWord.poison then s.setChan c (x.halt .poison i.srcDesc 0 false)
      else if dw.any TWord.poison then s.setChan c (x.halt .poison i.dstDesc 0 true)
      else
        let (d, s1) := s.draw
        let reqs := moveRequests x (s.chanRec c) ⟨ss, sd.ltile, a.toNat, sd.xform, sd.ksel⟩ ⟨ds, dd.ltile, b.toNat, dd.xform, dd.ksel⟩ i.len d
        let y := { x.advance with reqs := x.reqs ++ reqs, rdLines := wrap64 x.rdLines (linesOf a.toNat i.len) }
        s1.setChan c (if i.bar then { y with phase := .waitArrival } else y)
    | _, _ => s.setChan c (x.halt .versionUnsupported (x.base + 8 * x.pc) 0 false)

/-- MOVE (R206). -/
def execMove (c : Fin 204) (s : State) : Result := .next (s.dmaStep c dmaMove fun i => s.doMove c i)

/-- LOOP (R204). -/
def execDmaLoop (c : Fin 204) (s : State) : Result :=
  .next (s.dmaStep c dmaLoop fun i =>
    let x := s.chan c
    if loopOk x.pc i x.loops then
      s.setChan c { x with pc := x.pc + 1, phase := .running, loops := ⟨i.level, x.pc + 1, x.pc + 1 + i.body, 0, i.count⟩ :: x.loops }
    else s.haltHere c .versionUnsupported)

/-- A channel's token (R210). -/
def State.chanTok (s : State) (c tok : Nat) : Nat := if isSys c then (s.sysChan (c - 156)).tok tok else Store.get 0 (s.tile c).disp.tokens tok

/-- WAIT (R210, R211): it takes VAL once its token holds it, else the channel waits. -/
def execWait (c : Fin 204) (s : State) : Result :=
  .next (s.dmaStep c dmaWait fun i =>
    let x := s.chan c
    if i.val ≤ s.chanTok c i.tok then
      let s1 := if isSys c then s.updSys (c.val - 156) fun y => y.setTok i.tok (y.tok i.tok - i.val)
        else s.updTile c fun t => { t with disp := { t.disp with tokens := Store.upd 0 t.disp.tokens i.tok (· - i.val) } }
      s1.setChan c x.advance
    else s.setChan c { x with phase := .waitToken })

/-- SIGNAL (R210): it executes once the earlier MOVEs of the program have met R209. -/
def execSignal (c : Fin 204) (s : State) : Result :=
  .next (s.dmaStep c dmaSignal fun i =>
    let x := s.chan c
    if drained x.reqs (s.chanRec c) then
      let s1 := if isSys c then s.updSys (c.val - 156) fun y => y.setTok i.tok (satAdd 8 (y.tok i.tok) i.amt)
        else s.updTile c fun t => t.raiseToken i.tok i.amt
      s1.setChan c x.advance
    else s)

/-- END (R209). -/
def execEndProgram (c : Fin 204) (s : State) : Result :=
  .next (s.dmaStep c dmaEnd fun _ =>
    let x := s.chan c
    s.setChan c { x with phase := .draining, ending := some .done })

/-! ### Line requests -/

/-- What a read of a place gives: the state, its status, its words. -/
def State.readPlace (s : State) (c : Nat) (a : DmaAddr) (words : Nat) (f : Fetch) : State × Status × List TWord :=
  match a.space with
  | .localSp => (s, .done, s.progWords c a.addr words)
  | .localStash => (s, .done, Store.getMany .zero (s.tile c).mem.stash (a.addr / 4) words)
  | .tileSp => match s.chanTile c a.ltile with
    | some t => (s, .done, (s.tile t).mem.spWords a.addr words)
    | none => (s, .accessDenied, [])
  | .virt => match s.chanPart c with
    | none => (s, .accessDenied, [])
    | some p =>
      let o := if isSys c then Origin.sysChan p else .tileDma p
      match s.vaAddr p (s.chanSpace c) (a.addr / 64 * 64) with
      | none => (s, .accessDenied, [])
      | some dpa =>
        if words ≤ 16 then
          let (s1, st, ws) := s.hbmRead o (s.hbm.part p).curSlot dpa false f
          (s1, st, (ws.drop (a.addr % 64 / 4)).take words)
        else
          let b := s.vaRead o p (s.chanSpace c) a.addr (4 * words)
          (b.s, b.status, b.words)
  | .ckpt => (s, .done, cleanWords (s.flash.read a.addr (4 * words)))
  | .fwPriv => match (s.hbm.gransIn fun g => decide (g.state = .firmware))[a.addr / 2 ^ 30]? with
    | none => (s, .accessDenied, [])
    | some g =>
      let (s1, st, ws) := s.hbmRead .firmware 0 (g * 2 ^ 30 + a.addr % 2 ^ 30 / 64 * 64) false f
      (s1, st, (ws.drop (a.addr % 64 / 4)).take words)

/-- A part of a line as word enables from its offset. -/
def lineEnables (off : Nat) (ws : List TWord) : List (Option TWord) := (List.range 16).map fun k => if k < off then none else ws[k - off]?

/-- A write of a place: none while R245 makes it wait. -/
def State.writePlace (s : State) (c : Nat) (a : DmaAddr) (ws : List TWord) (f : Fetch) : Option (State × Status) :=
  match a.space with
  | .localSp =>
    if isSys c then some (s.updSys (c - 156) fun y => { y with program := Store.setMany .zero y.program (a.addr / 4) ws }, .done)
    else some (s.updTile c fun t => { t with mem := { t.mem with sp := Store.setMany .zero t.mem.sp (a.addr / 4) ws } }, .done)
  | .localStash => some (s.updTile c fun t => { t with mem := { t.mem with stash := Store.setMany .zero t.mem.stash (a.addr / 4) ws } }, .done)
  | .tileSp => match s.chanTile c a.ltile with
    | some t =>
      let label := if isSys c then 0 else (s.tile c).label
      some (s.updTile t fun x => { x with mem := { x.mem with sp := Store.setMany .zero x.mem.sp (a.addr / 4) ws }, label := x.label ||| label }, .done)
    | none => some (s, .accessDenied)
  | .virt => match s.chanPart c with
    | none => some (s, .accessDenied)
    | some p =>
      let o := if isSys c then Origin.sysChan p else .tileDma p
      let s1 := if isSys c then s else s.labelRange p (s.chanSpace c) a.addr (4 * ws.length) (s.tile c).label.toNat
      match s1.vaAddr p (s.chanSpace c) (a.addr / 64 * 64) with
      | none => some (s1, .accessDenied)
      | some dpa =>
        if a.addr % 64 / 4 + ws.length ≤ 16 then s1.hbmWrite o (s1.hbm.part p).curSlot dpa false (lineEnables (a.addr % 64 / 4) ws) f
        else
          let b := s1.vaWrite o p (s.chanSpace c) a.addr ws
          some (b.s, b.status)
  | .ckpt => some ({ s with flash := s.flash.put a.addr (twordBytes ws) }, .done)
  | .fwPriv => match (s.hbm.gransIn fun g => decide (g.state = .firmware))[a.addr / 2 ^ 30]? with
    | none => some (s, .accessDenied)
    | some g =>
      if a.addr % 64 / 4 + ws.length ≤ 16 then s.hbmWrite .firmware 0 (g * 2 ^ 30 + a.addr % 2 ^ 30 / 64 * 64) false (lineEnables (a.addr % 64 / 4) ws) f
      else
        let n := 16 - a.addr % 64 / 4
        match s.hbmWrite .firmware 0 (g * 2 ^ 30 + a.addr % 2 ^ 30 / 64 * 64) false (lineEnables (a.addr % 64 / 4) (ws.take n)) f with
        | some (s1, .done) => s1.hbmWrite .firmware 0 (g * 2 ^ 30 + (a.addr % 2 ^ 30 / 64 + 1) * 64) false (lineEnables 0 (ws.drop n)) .clean
        | r => r

/-- Slot that a KSEL names (R202). -/
def State.kselSlot (s : State) (c ksel : Nat) : Nat := ((s.sysChan (c - 156)).keys.getD ksel 0)

/-- The source side of a transforming MOVE of n payload bytes (Table 8.6): bytes and label. -/
def State.decryptSource (s : State) (c : Nat) (r : LineReq) (f : Fetch) : State × Status × List TWord :=
  let n := 4 * r.words
  match s.chanPart c with
  | none => (s, .accessDenied, [])
  | some p =>
    if r.src.xform = 1 then
      let (s1, st, ws) := s.readPlace c r.src ((64 + n + 16) / 4) f
      if st ≠ .done then (s1, st, [])
      else match s1.openOwner p (s.chanSpace c) (twordBytes ws) with
        | (.done, h, pay) =>
          let s2 := (s1.acceptOwner p h).labelRange p (s.chanSpace c) r.dst.addr n h.label
          (s2, .done, cleanWords pay)
        | (st1, _, _) => (s1, st1, [])
    else if r.src.xform = 3 then
      let (s1, st, ws) := s.readPlace c r.src ((64 + n + 64) / 4) f
      let slot := s.kselSlot c r.src.ksel
      let bs := twordBytes ws
      if st ≠ .done then (s1, st, [])
      else if s.sec.useSlot slot p [kindCkpt] ≠ .done then (s1, s.sec.useSlot slot p [kindCkpt], [])
      else
        let h := { SnapHeader.ofBytes bs with session := s.sessionId p, len := n }
        match openRecord (s.sec.keyOf slot) h bs with
        | (.done, pay) => (s1, .done, cleanWords pay)
        | (st1, _) => (s1, st1, [])
    else s.readPlace c r.src r.words f

/-- The destination side of a transforming MOVE: what is written, and its status. -/
def State.encryptDest (s : State) (c : Nat) (r : LineReq) (ws : List TWord) : State × Status × List TWord :=
  match s.chanPart c with
  | none => (s, .accessDenied, [])
  | some p =>
    let n := 4 * r.words
    let slot := s.kselSlot c r.dst.ksel
    if r.dst.xform = 2 then
      if s.sec.useSlot slot p [kindCkpt] ≠ .done then (s, s.sec.useSlot slot p [kindCkpt], [])
      else
        let (nonce, s1) := s.drawNonce
        let h : SnapHeader := ⟨snapState, s.sessionId p, s.sec.fuses.serial, (s.snap p).epoch, nonce, 0, n⟩
        (s1, .done, cleanWords (sealRecord (s.sec.keyOf slot) h (twordBytes ws)))
    else if r.dst.xform = 4 then
      let j := ((List.range 32).find? fun k => decide (Store.get 0 (s.part p).ownerSlots k = slot)).getD 32
      if !s.mayRelease p (s.chanSpace c) 2 j r.src.addr n then (s, .accessDenied, [])
      else match s.sealOwner p j r.src.addr (s.labelOf p (s.chanSpace c) r.src.addr n) (twordBytes ws) with
        | (s1, .done, bs) => (s1, .done, cleanWords bs)
        | (s1, st, _) => (s1, st, [])
    else (s, .done, ws)

/-- Replace request i of a channel. -/
def State.setReq (s : State) (c i : Nat) (r : LineReq) : State := s.setChan c { s.chan c with reqs := setAt (s.chan c).reqs i r }

/-- A request ends: it has arrived and leaves the list; a channel waiting at a BAR looks again. -/
def State.endReq (s : State) (c i : Nat) (r : LineReq) : State :=
  let x := { s.chan c with reqs := setAt (s.chan c).reqs i { r with arrived := true } }
  s.setChan c (x.prune.wake (s.chanRec c))

/-- A refusal: the running program halts with it; one that reaches a tile unit after its record has completed is a stage fault (R209, R212). -/
def State.refuse (s : State) (c i : Nat) (r : LineReq) (dst : Bool) (st : Status) : State :=
  let a := if dst then r.dst else r.src
  let x := s.chan c
  if x.phase ≠ .idle ∧ (isSys c ∨ r.recIdx = s.chanRec c) then
    let y := x.halt st a.addr a.space.code dst
    (s.setChan c { y with errPc := if y.ending = x.ending then x.errPc else r.pc }).endReq c i r
  else
    let s1 := s.setChan c { x with errAddr := a.addr / 64 * 64, errSpace := a.space.code, errDst := dst, errPc := r.pc }
    (s1.endReq c i r).stageFault c st r.recIdx unitDma

/-- The data of request i goes to its destination, when the order of the channel's accesses to its lines lets it (R207). -/
def State.serveWrite (s : State) (c i : Nat) (f : Fetch) : State :=
  let x := s.chan c
  match x.reqs[i]? with
  | none => s
  | some r => match r.data with
    | none => s
    | some ws =>
      if !mayWrite x.reqs i then s
      else
        let (s1, st, ws1) := if r.dst.xform = 0 then (s, Status.done, ws) else s.encryptDest c r ws
        if st ≠ .done then s1.refuse c i r true st
        else match s1.writePlace c r.dst (overlapWords r ws1) f with
          | none => s
          | some (s2, st2) =>
            if st2 ≠ .done then s2.refuse c i r true st2
            else
              let y := s2.chan c
              (s2.setChan c { y with wrLines := wrap64 y.wrLines (linesOf r.dst.addr (4 * ws1.length)) }).endReq c i r

/-- Label that a tile takes from the VIRT page it reads (R301). -/
def State.takeLabel (s : State) (c : Nat) (a : DmaAddr) (n : Nat) : State :=
  if isSys c ∨ a.space ≠ .virt then s
  else match s.chanPart c with
    | none => s
    | some p => s.updTile c fun t => { t with label := t.label ||| BitVec.ofNat 32 (s.labelOf p (s.chanSpace c) a.addr n) }

/-- Read data of request i returns (R206, R218); a local destination is written at once. -/
def execDmaReadReturn (c : Fin 204) (i : Nat) (fetch : Fetch) (s : State) : Result :=
  let x := s.chan c
  match x.reqs[i]? with
  | none => .next s
  | some r =>
    if !mayRead x.reqs i then .next s
    else
      let (s1, st, ws) := if r.src.xform = 0 then s.readPlace c r.src r.words fetch else s.decryptSource c r fetch
      if st ≠ .done then .next (s1.refuse c i r false st)
      else
        let s2 := (s1.takeLabel c r.src (4 * r.words)).setReq c i { r with data := some ws }
        .next (if r.dst.space = .localSp ∨ r.dst.space = .localStash then s2.serveWrite c i .clean else s2)

/-- The target of request i accepts or refuses its write (R209). -/
def execDmaWriteComplete (c : Fin 204) (i : Nat) (fetch : Fetch) (s : State) : Result := .next (s.serveWrite c i fetch)

/-- A record or system program completes (R209, R212, R215): a record at its END needs its reads and local writes, one that halted or stopped and every system program needs all its requests. -/
def execDmaProgramComplete (c : Fin 204) (s : State) : Result :=
  let x := s.chan c
  match x.ending with
  | none => .next s
  | some st =>
    let r := s.chanRec c
    if x.phase = .draining ∧ !isSys c ∧ drained x.reqs r then .next ((s.setChan c { x with phase := .idle, ending := none }).completeUnit c unitDma (some st))
    else if (x.phase = .halted ∨ (x.phase = .draining ∧ isSys c)) ∧ allArrived x.reqs r then
      if isSys c then .next (s.setChan c { x with phase := .idle, ending := none, lastStatus := st })
      else .next ((s.setChan c { x with phase := .idle, ending := none }).completeUnit c unitDma (some st))
    else .next s

/-! ### Bus errors (R213, R214) -/

/-- RETRY in force for a channel. -/
def State.chanRetry (s : State) (c : Nat) : Nat := (s.chan c).retry

/-- A bus error of request i: re-issued while retries are left, else the channel halts BUS_HALT; a stop in progress keeps CANCELLED (R215). -/
def State.busError (s : State) (c i : Nat) : State :=
  let x := s.chan c
  match x.reqs[i]? with
  | none => s
  | some r =>
    if r.again then s
    else if r.retries < s.chanRetry c then s.setReq c i { r with again := true }
    else s.refuse c i r r.data.isSome .busHalt

/-- DMA_BUS_ERROR (R213). -/
def execDmaBusError (c : Fin 204) (i : Nat) (s : State) : Result := .next (s.busError c i)

/-- DMA_LINE_TIMEOUT counts as a bus error (R213). -/
def execDmaLineTimeout (c : Fin 204) (i : Nat) (s : State) : Result := .next (s.busError c i)

/-- DMA_RETRY (R213): the line is requested again, counted and traced. -/
def execDmaRetry (c : Fin 204) (i : Nat) (s : State) : Result :=
  let x := s.chan c
  match x.reqs[i]? with
  | none => .next s
  | some r =>
    if !r.again then .next s
    else
      let s1 := (s.setChan c { x with retries := wrap64 x.retries 1 }).setReq c i { r with again := false, retries := r.retries + 1 }
      let a := if r.data.isSome then r.dst.addr else r.src.addr
      .next (s1.trace 0x0301 ((s.chanPart c).getD noPart) 0 [c, a])

/-! ### Starting and stopping (R199, R215, R219) -/

/-- DMA: the record goes to the tile's DMA unit (R199). -/
def execDma (t : Fin 156) (s : State) : Result := .next (s.dispatch t recDma unitDma)

/-- START (R219): ignored unless the channel is IDLE. -/
def execStart (n : Fin 48) (pc : Fin 4096) (s : State) : Result :=
  let y := s.sysChan n
  if !s.clusterUp then .next s
  else if y.chan.phase ≠ .idle then .next s
  else .next (s.setSys n { y with chan := y.chan.start 0 pc (if y.fw then 0 else (s.job y.part).step.stepNum) })

/-- STOP (R215). -/
def execStop (n : Fin 48) (s : State) : Result :=
  if !s.clusterUp then .next s else .next (s.updSys n fun y => { y with chan := y.chan.stop })

/-- A write of DMA_SYS_BIND (R219, Table 8.13). -/
def execDmaSysBindWrite (n : Fin 48) (value : DWord) (s : State) : Result :=
  let y := s.sysChan n
  let v := value.toNat
  let cleared := w1c y.refused v 5
  if !s.clusterUp then .next s
  else if y.chan.phase ≠ .idle then .next (s.setSys n { y with refused := true })
  else .next (s.setSys n { y with refused := cleared, fw := bit v 4, part := bits v 0 4, keys := if bit v 4 then [] else
      let x := s.part (bits v 0 4)
      x.ckptSlot :: (List.range 32).filterMap fun j => if Store.get 0 x.ownerSlots j = 0 then none else some (Store.get 0 x.ownerSlots j) })

end Sys2Proof.Machine
end

