-- ==== Sys2Proof/Machine/Startup.lean ====
section
/-! DEFINITION. Start-up and power requests as shared operations: loss of the AON rail, warm reset, the phases of Table 1.5 and their failures, power-on and power-off, and what a change of the emergency level does. -/

namespace Sys2Proof.Machine

/-! ### Resets (R277, R280) -/

/-- Loss of the AON rail: a cold reset. Fuses, both flashes and the reversed-input flag stand, and so do the levels of pins outside (Table 10.11). -/
def State.coldLoss (s : State) : State :=
  { State.reset with
    pending := s.pending, out := s.out, draws := s.draws
    pwr := { Power.reset with
      running := 0, reversed := s.pwr.reversed, pwrReq := s.pwr.pwrReq, tripArmed := s.pwr.tripArmed
      asked := s.pwr.asked.filter fun e => decide (e.1 = 5 ∨ e.1 = 9) }
    sec := { Sec.reset with fuses := s.sec.fuses, draws := s.sec.draws, recProd := s.sec.recProd, recTest := s.sec.recTest }
    flash := s.flash
    fwm := { s.fwm.phase1 with i3cAddr := 0, eid := 0 } }

/-- The fuses say SCRAPPED. -/
def State.scrapped (s : State) : Bool := decide (s.sec.fuses.state = .scrapped)

/-- Phase 1 begins (R33, R463): its clocks start, and the rails that are not yet good start in their order. -/
def State.beginPhase1 (s : State) : State :=
  { s with boot := ⟨some 1, false, none⟩
           pwr := ({ s.pwr with state := .starting, mainOpen := false }.startClks (phaseClocks 1)).startNext s.scrapped }

/-- A warm reset (R277): AON and the debug grant stand, everything else is cleared, the early buffers are emptied, and start-up runs again from phase 1. -/
def State.warmReset (s : State) : State :=
  let s1 := s.lose
  ({ s1 with
    pwr := { s1.pwr with running := 1 + 1 <<< 14, coreStop := [], selfRefresh := 0 }
    res := { s1.res with early := .empty }
    fwm := { s1.fwm with early := [], nextSeq := 0 } }).beginPhase1

/-! ### The phases (R33 to R36) -/

/-- A phase fails (R35): start-up stops in it; the side-band and the fault record report phase and cause. -/
def State.failPhase (s : State) (cause : Nat) : State :=
  let n := s.boot.phase.getD 0
  let s1 := { s with boot := { s.boot with failed := some cause }, pwr := { s.pwr with state := .halted } }
  (s1.report clsModule srcFwm 0 .noResource noPart n).emit [.sideband sbStart .noResource [BitVec.ofNat 8 n, BitVec.ofNat 8 cause]]

/-- A phase completes: its services are available (Table 1.5). -/
def State.passPhase (s : State) : State :=
  let n := s.boot.phase.getD 0
  let s1 := { s with boot := { s.boot with complete := true } }
  if n = 0 then s1 else s1.trace 0x0001 noPart 0 [n]

/-- The scrap wipe from step 2 (R282): slots, firmware flash, checkpoint flash, fuse fields. -/
def State.scrapWipe (s : State) : State :=
  { s with
    sec := { s.sec with fuses := s.sec.fuses.scrapWipe, slots := [], recProd := ⟨0, false⟩, recTest := ⟨0, false⟩ }
    fwm := { s.fwm with slotA := [], slotB := [], cert := [], bcb0 := .erased, bcb1 := .erased }
    flash := .reset }

/-- A key slot fails its check (R270): the fault record gets MODULE for slots 0 to 15, DEGRADED for others. -/
def State.reportSlot (s : State) (i : Nat) : State := s.report (if i < 16 then clsModule else clsDegraded) srcSec i .keyRevoked noPart 0

/-- End of phase 1: Scarab's state, the choice of a firmware slot (R433). -/
def State.endPhase1 (s : State) (failed : List Nat) : State :=
  if s.scrapped then (if s.sec.fuses.wiped then s else s.scrapWipe).failPhase causeScrapped
  else
    let s1 := { s with sec := s.sec.phase1 failed, flash := s.flash.startUp }
    let s2 := failed.foldl (fun (a : State) i => a.reportSlot i) s1
    if Sec.slotsTooBad failed then s2.failPhase causeSlots
    else
      let (f, c) := s2.fwm.choose s2.sec.fuses (bit s2.sec.rights 4)
      let s3 := c.rejected.foldl (fun (a : State) r =>
        (a.report clsDegraded srcFwm (b2n r.1) r.2.2 noPart r.2.1).trace 0x0002 noPart 1 [b2n r.1, r.2.1]) { s2 with fwm := f }
      match c.run with
      | some _ => s3.passPhase
      | none => s3.failPhase causeFwNone

/-- A pseudo-channel that fails training is remapped (R253, R255); whether a limit refuses it. -/
def Hbm.trainFail (x : Hbm × Bool) (c : Nat) : Hbm × Bool :=
  let h := x.1
  if h.isRetired c then x
  else if 32 ≤ h.retiredCount ∨ 8 ≤ h.stackRetired (c % 16) then (h, true)
  else match h.retireGran with
    | some w =>
      let h1 := h.setGran w ⟨.withdrawn, 0, .withdrawn⟩
      ({ h1 with retired := h1.retired ++ [(c, w)], lastPc := c }, x.2)
    | none => (h, true)

/-- End of phase 3: stacks trained, metadata and roots set, granules marked, the early entries moved into their rings (R236, R255, R368, R446). -/
def State.endPhase3 (s : State) (pcs : List Nat) : State :=
  let (h, excess) := pcs.foldl Hbm.trainFail (s.hbm, false)
  let s1 := (h.retired.map Prod.fst).foldl (fun (a : State) c => a.report clsDegraded srcMpr c .tagFail noPart 0) { s with hbm := h }
  if excess then s1.failPhase causeRetire
  else
    let s2 := { s1 with hbm := s1.hbm.markPhase3, res := s1.res.moveEarly, fwm := s1.fwm.moveEarly }
    s2.passPhase

/-- End of phase 4: every tile cleared, the tiles in service chosen, the registers of chapters 2 to 8, 12 and 13 reset (R36, R66, R373). -/
def State.endPhase4 (s : State) (failed : List Nat) : State :=
  let mask := failed.foldl (fun acc t => if t < 156 then setBits acc t 1 1 else acc) 0
  if fieldsShort mask then ({ s with res := { s.res with failed := mask } }).failPhase causeTiles
  else
    let s1 := { s with tiles := [], streams := .reset, sys := [], links := .reset, coll := .reset, res := s.res.phase4 mask
                       pwr := { s.pwr with state := .ready } }
    s1.passPhase

/-! ### Power requests (R467) -/

/-- Pins and side-band after the emergency level has changed; a fall to NORMAL lets a held activation proceed (R438, R473). -/
def State.levelOuts (s : State) (old : Nat) : State :=
  let new := s.pwr.level
  let s1 := if old = 0 ∧ new ≠ 0 then s.emit [.pin pinAlert false, .sideband sbEmergency .done [BitVec.ofNat 8 s.pwr.cause, BitVec.ofNat 8 new]]
    else if old ≠ 0 ∧ new = 0 then s.emit [.pin pinAlert true, .sideband sbEmergency .done [BitVec.ofNat 8 s.pwr.cause, 0]]
    else s
  if old ≠ 0 ∧ new = 0 ∧ s1.fwm.held then s1.warmReset else s1

/-- Power-on: refused while the rails are LOCKED or a trigger asks for level 4; no change when the module is on. -/
def State.powerOn (s : State) : State × Status :=
  if s.pwr.locked then (s, .accessDenied)
  else if s.pwr.state ≠ .standby then (s, .done)
  else if 4 ≤ s.pwr.askedLevel then (s, .accessDenied)
  else
    let old := s.pwr.level
    let s1 := if s.pwr.thermtrip then s.emit [.pin pinTrip true] else s
    let s2 := { s1 with pwr := { s1.pwr with level := s1.pwr.askedLevel, thermtrip := false } }
    ((s2.levelOuts old).beginPhase1, .done)

/-- Power-off: the level-4 sequence with cause POWER_OFF; an entry only when a partition existed. -/
def State.powerOff (s : State) : State :=
  if s.pwr.state = .standby then s
  else ({ s with pwr := s.pwr.force 0x10 }).shutDown 0x10 0 srcPwr false s.anyPart

/-- A trigger asks for a level (R474): a rise takes effect at once, level 4 runs R475. -/
def State.askLevel (s : State) (cause level unit : Nat) (hardware : Bool) : State :=
  let old := s.pwr.level
  let s1 := { s with pwr := s.pwr.ask cause level }
  if old < 4 ∧ s1.pwr.level = 4 then s1.shutDown cause unit srcPwr hardware true
  else if old < s1.pwr.level then s1.levelOuts old
  else s1

/-- Level 4 by a cause that is no standing trigger. -/
def State.forceDown (s : State) (cause unit source : Nat) (hardware : Bool) : State :=
  ({ s with pwr := s.pwr.force cause }).shutDown cause unit source hardware true

/-- AON runs and its start-up work is done (phase 0). -/
def State.aonUp (s : State) : Bool := s.boot.past 0

/-- A side-band request refused: point 0x0700 with the message type and the status (Table 16.6). -/
def State.refusal (s : State) (kind code : Nat) : State := s.trace 0x0700 noPart 1 [kind, code]

/-- A side-band reply of PLDM Type 63; a refusal is traced. -/
def State.reply (s : State) (st : Status) (data : List Byte) : State :=
  let s1 := s.emit [.sideband sbReply st data]
  if st = .done ∨ st = .deferred then s1 else s1.refusal 1 st.code

/-- A field is idle (R469). -/
def State.fieldIdle (s : State) (f : Nat) : Bool :=
  (List.range 52).all fun n =>
    let t := s.tile (52 * f + n)
    decide (t.vec.mode = 0) && match t.part with
      | some p => (s.job p).run.isNone
      | none => true

/-- No system channel, collective engine or port engine is busy. -/
def State.meshIdle (s : State) : Bool :=
  s.sys.all (fun e => decide (e.2.chan.phase = .idle) && e.2.chan.reqs.isEmpty) &&
  s.coll.parts.all (fun e => e.2.insts.isEmpty) &&
  s.links.ports.all fun e => e.2.txQ.isEmpty && e.2.inMsgs.isEmpty

/-- A field's core clock stops (1 gated, 2 PLL off); with all three stopped and nothing busy, MESH stops too (Table 17.4). -/
def State.stopCore (s : State) (f how : Nat) : State :=
  let p := { s.pwr.stopClk (3 + f) with coreStop := Store.set 0 s.pwr.coreStop f how }
  let p1 := if !p.runs 3 && !p.runs 4 && !p.runs 5 && s.meshIdle then p.stopClk 6 else p
  { s with pwr := p1 }

end Sys2Proof.Machine
end

