-- ==== Sys2Proof/Machine/Attest.lean ====
section
/-! DEFINITION. Attestation as shared operations: a signature with the next index, the measurements of the SPDM responder, and kills of contexts with what they stop. -/

namespace Sys2Proof.Machine

/-- What a request for a signature meets (R285, R286, Table 10.6). -/
inductive Signed where
  | made (s : State) (index : Nat) (sig : List Byte)
  | waits
  | refused (s : State) (st : Status)

/-- Sign a digest with the next index; never in BLANK. An exhausted key is reported (R452). -/
def State.sign (s : State) (digest : Nat → BitVec 256) : Signed :=
  if s.sec.fuses.state = .blank ∨ s.scrapped then .refused s .accessDenied
  else match s.sec.sign with
  | .signed k i =>
    .made { s with sec := k } i (signature (BitVec.ofNat 256 k.seeds) i (digest i))
  | .waits => .waits
  | .refused =>
    let s1 := { s with sec := if s.sec.attestRec.valid then s.sec else { s.sec with recordFail := true } }
    .refused (s1.report clsDegraded srcSec 0 .counterExhausted noPart 0) .counterExhausted

/-- A measurement of the SPDM responder (R452). -/
def State.measurement (s : State) (i : Nat) : Option (List Byte) :=
  let h := s.fwm.hdr
  if i = 1 then some (natBytes s.fwm.digest.toNat 32)
  else if i = 2 then some (natBytes h.version 4 ++ natBytes h.svn 1 ++ natBytes s.sec.fuses.floor 1)
  else if i = 3 then some (natBytes s.sec.fuses.state.num 1 ++ natBytes (if s.sec.root = .test then 1 else 0) 1 ++ natBytes s.sec.rights 4)
  else if i = 4 then some (natBytes s.sec.fuses.serial 8)
  else if 0x10 ≤ i ∧ i < 0x20 ∧ (s.part (i - 0x10)).live then some (natBytes (s.part (i - 0x10)).configDigest.toNat 32)
  else none

/-- SPDM ERROR with its code: ResponseNotReady, InvalidRequest, Unspecified (the standard's numbers). -/
def spdmError (code : Nat) : List Byte := [0x7F, BitVec.ofNat 8 code]
abbrev spdmNotReady : Nat := 0x42
abbrev spdmInvalid : Nat := 0x01
abbrev spdmUnspecified : Nat := 0x05

/-- The responder's answer (R34, R452): the measurement asked for and, when signed, the index and the signature over measurement and nonce. None: it waits for a subtree. -/
def State.spdm (s : State) (req : SpdmReq) : Option (State × List Byte) :=
  if !s.boot.past 2 then some (s, spdmError spdmNotReady)
  else
    let m := if req.index = 0 then some [] else s.measurement req.index
    match m with
    | none => some (s, spdmError spdmInvalid)
    | some b =>
      if !req.signed then some (s, b)
      else match s.sign (fun i => Config.shake256 (b ++ natBytes req.nonce.toNat 32 ++ natBytes i 8)) with
        | .made s1 i sig => some (s1, b ++ natBytes i 8 ++ sig)
        | .waits => none
        | .refused s1 _ => some (s1, spdmError spdmUnspecified)

/-! ### Kills (R424, R425) -/

/-- A run that a context asked for stops at the next boundary. -/
def State.cancelRun (s : State) (fn ctx : Nat) : State :=
  (List.range 16).foldl (fun (a : State) p =>
    let j := a.job p
    match j.run with
    | some r =>
      let mine := decide (r.asker.1 = fn) && (match (a.hif.fn fn).sq r.asker.2.1 with
        | some q => decide (q.ctx = ctx)
        | none => false)
      if mine then a.setJob p { j with run := some { r with cancelled := true } } else a
    | none => a) s

/-- Every context of a function is killed. -/
def State.killFn (s : State) (fn : Nat) : State :=
  let cs := (s.hif.fn fn).ctxs.map Prod.fst
  let s1 := cs.foldl (fun (a : State) c => a.cancelRun fn c) s
  s1.settleHif (s1.hif.killAll fn)

/-- A function's registers at their reset values. -/
def State.resetFn (s : State) (fn : Nat) : State := { s with hif := s.hif.setFn fn (s.hif.fn fn).resetRegs }

end Sys2Proof.Machine
end

