-- ==== Sys2Proof/Machine/Load.lean ====
section
/-! DEFINITION. Image load (R39 to R45, R59, R147 to R153, R181, R182): the checks on programs with their loops expanded, placement, rings, the stream table, and what a tile holds after a load, a rebinding or a release. -/

namespace Sys2Proof.Machine

/-! ### What the image puts into a tile -/

/-- Words into the scratchpad at a byte offset, tags clear. -/
def TileMem.place (m : TileMem) (off : Nat) (ws : List Word) : TileMem :=
  { m with sp := Store.setMany .zero m.sp (off / 4) (ws.map fun w => ⟨w, false⟩) }

/-- Program, descriptors and constants of a logical tile (Table 2.3), with the regions it guards (R59). -/
def Tile.install (t : Tile) (d : LTileDesc) (queueBase : Nat) : Tile :=
  let m1 := t.mem.place 0 d.program
  let m2 := d.descs.foldl (fun (m : TileMem) e => m.place e.1 e.2) m1
  let m3 := d.consts.foldl (fun (m : TileMem) e => m.place e.1 e.2) m2
  { t with mem := m3, progBytes := 4 * d.program.length, resident := d.resident.map fun r => (r.off, r.len), queueBase := queueBase }

/-- Records of a program. -/
def LTileDesc.records (d : LTileDesc) : Nat := d.program.length / 8

/-! ### Rings (R181, R182) -/

/-- Bytes of a ring (Table 7.2). -/
def ringBytes (size : Nat) : Nat := 4096 * 2 ^ size

/-- Rings of the streams that a logical tile consumes, ascending: stream, level, size. -/
def ImageBody.ringsOf (b : ImageBody) (l : Nat) : List (Nat × Nat × Nat) :=
  ((List.range b.streams.length).map fun s => match b.streams[s]? with
    | some d => if d.kind ≠ kindLinkOut ∧ d.consumer = l then
        ((List.range 8).filter fun v => d.levels.contains v).map fun v => (s, v, d.ringSize) else []
    | none => []).flatten

/-- Bytes of a tile's queue area. -/
def ImageBody.ringSpace (b : ImageBody) (l : Nat) : Nat := ((b.ringsOf l).map fun r => ringBytes r.2.2).sum

/-- Lowest byte of the queue area. -/
def ImageBody.queueBase (b : ImageBody) (l : Nat) : Nat := spaBase - b.ringSpace l

/-- Offsets of the rings, working downward from the SPA. -/
def placeRings : Nat → List (Nat × Nat × Nat) → List (Nat × Nat × Nat × Nat)
  | _, [] => []
  | top, (s, v, z) :: rest => (s, v, z, top - ringBytes z) :: placeRings (top - ringBytes z) rest

/-! ### Load-time checks (R40 step 4) -/

/-- Loops open at each record, by static position. -/
def openFrames (record : Nat → Record) : Nat → Nat → List LoopFrame → List (Nat × List LoopFrame)
  | 0, _, _ => []
  | n + 1, pc, ls =>
    let here := ls.filter fun f => decide (pc < f.stop)
    let r := record pc
    (pc, here) :: openFrames record n (pc + 1) (if r.op = recLoop then r.frame pc :: here else here)

/-- Every combination of iterations of the open loops. -/
def frameIters : List LoopFrame → List (List LoopFrame)
  | [] => [[]]
  | f :: rest => ((frameIters rest).map fun fs => (List.range f.count).map fun i => { f with iter := i } :: fs).flatten

/-- Operand bits that Table 2.8 reserves are 0, and fixed operand rules hold. -/
def Record.operandsOk (r : Record) : Bool :=
  if r.op = recNop ∨ r.op = recStepEnd then decide (r.a = 0 ∧ r.b = 0)
  else if r.op = recLoop then
    decide (bits r.a 32 32 = 0) && decide (1 ≤ bits r.a 16 16 ∧ bits r.a 16 16 ≤ 8189) && decide (signed 32 (bits r.b 0 32) % 64 = 0) && decide (bits r.b 32 16 ≠ 1)
  else if r.op = recMxe ∨ r.op = recVec ∨ r.op = recCol then decide (bits r.a 0 6 = 0 ∧ bits r.a 22 42 = 0 ∧ r.b = 0)
  else if r.op = recDma then decide (bits r.a 0 3 = 0 ∧ bits r.a 22 42 = 0 ∧ r.b = 0)
  else if r.op = recQsend then decide (bits r.a 19 45 = 0 ∧ bits r.b 0 4 = 0 ∧ bits r.b 22 42 = 0)
  else if r.op = recQrecv then decide (bits r.a 16 48 = 0 ∧ bits r.b 0 4 = 0 ∧ bits r.b 22 42 = 0)
  else false

/-- The form of a record (Tables 2.6 to 2.8, R49, R52). -/
def Record.ok (r : Record) (pc n : Nat) (ls : List LoopFrame) : Bool :=
  !r.reserved && r.operandsOk && (if r.wen then decide (r.wval ≠ 0) else decide (r.wval = 0)) &&
  (decide (r.op ≠ recLoop) || (decide (ls.length < 3) && decide ((r.frame pc).stop ≤ n) && ls.all fun f => decide ((r.frame pc).stop ≤ f.stop))) &&
  (decide (r.op ≠ recStepEnd) || ls.isEmpty)

/-- An adjusted field stays in its range (R53). -/
def Record.inRange (r : Record) (ls : List LoopFrame) : Bool :=
  let d := ls.foldl (fun (acc : Int) f => acc + f.shift) 0
  let q := ls.foldl (fun (acc : Int) f => acc + f.streamShift) 0
  let within := fun (x : Int) (top : Nat) => decide (0 ≤ x) && decide (x < (top : Int))
  if r.op = recQsend ∨ r.op = recQrecv then within (((bits r.b 0 22 : Nat) : Int) + d) spBytes && within (((bits r.a 0 16 : Nat) : Int) + q) 65536
  else if r.op = recMxe ∨ r.op = recVec ∨ r.op = recDma ∨ r.op = recCol then within (((bits r.a 0 22 : Nat) : Int) + d) spBytes
  else true

/-- What the load checks of a partition know: the image, the tiles as loaded, the mappings, the collective tables. -/
structure LoadEnv where
  body : ImageBody
  vaSize : Nat
  mapped : Nat → Bool
  tiles : List Tile
  col : Nat → ColEnv

/-- The place checks of a DMA program of logical tile l. -/
def LoadEnv.dma (e : LoadEnv) (l : Nat) : DmaEnv :=
  ⟨false, false, e.body.ltiles.length, e.vaSize, e.mapped, fun u a n => (e.tiles.getD u .reset).guarded a n, fun u a n => (e.tiles.getD u .reset).inQueueArea a n, l⟩

/-- One issued record passes its load check. -/
def LoadEnv.recordOk (e : LoadEnv) (l : Nat) (t : Tile) (op a b : Nat) : Bool :=
  let off := bits a 0 22
  let room := fun (o n : Nat) => decide (o + n ≤ spBytes) && !t.inQueueArea o n
  if op = recMxe then room off 64 && decide (let d := MxeDesc.ofBits (wordsNat ((t.mem.spWords off 16).map TWord.bits)); d.check t (decide (d.mask = 0)) = .done)
  else if op = recVec then room off 128 && decide ((VecDesc.ofBits (wordsNat ((t.mem.spWords off 32).map TWord.bits))).check t = .done)
  else if op = recDma then
    decide (off < spBytes) && dmaProgramOk (e.dma l) off spBytes (fun o => wordsNat ((t.mem.spWords o 2).map TWord.bits))
      (fun o => wordsNat ((t.mem.spWords o 8).map TWord.bits))
  else if op = recCol then
    let d := ColDesc.ofBits (wordsNat ((t.mem.spWords off 16).map TWord.bits))
    room off 64 && decide (d.check t (e.col d.group) = .done)
  else if op = recQsend then
    let n := bits a 0 16
    (match e.body.streams[n]? with
      | some d => d.producers.contains l && decide (d.kind ≠ kindLinkIn) && d.levels.contains (bits a 16 3)
      | none => false) && room (bits b 0 22) 16 && decide ((t.checkBuf (bits b 0 22) false).2 = .done)
  else if op = recQrecv then
    let n := bits a 0 16
    (match e.body.streams[n]? with
      | some d => decide (d.consumer = l ∧ d.kind ≠ kindLinkOut)
      | none => false) && room (bits b 0 22) 16 && decide ((t.checkBuf (bits b 0 22) true).2 = .done)
  else true

/-- The program of one logical tile passes: every record, every iteration (R40 step 4, R52, R60). -/
def LoadEnv.programOk (e : LoadEnv) (l : Nat) : Bool :=
  let t := e.tiles.getD l .reset
  let n := match e.body.ltiles[l]? with
    | some d => d.records
    | none => 0
  let at_ := openFrames t.record n 0 []
  decide (n ≤ 8192) && decide ((at_.filter fun p => decide ((t.record p.1).op = recStepEnd)).length = 1) &&
  at_.all fun p =>
    let r := t.record p.1
    r.ok p.1 n p.2 && (frameIters p.2).all fun fs => r.inRange fs && (let ab := r.adjust fs; e.recordOk l t r.op ab.1 ab.2)

/-- Regions and constants of the logical tile table (R59, R151, R153). -/
def LTileDesc.regionsOk (d : LTileDesc) (lay : Layout) (vaSize : Nat) (mapped : Nat → Bool) : Bool :=
  let prog := 4 * d.program.length
  let clear := fun (o n : Nat) => decide (o + n ≤ spaBase) && !overlaps o n 0 prog
  decide (d.resident.length ≤ 8) && decide (d.program.length % 8 = 0) &&
  d.resident.all (fun r => clear r.off r.len && decide (r.backing + r.len ≤ vaSize) && rangeMapped mapped r.backing r.len && (!r.committed || lay.inCopy0 r.backing r.len)) &&
  (List.range d.resident.length).all (fun i => (List.range d.resident.length).all fun k =>
    match d.resident[i]?, d.resident[k]? with
    | some x, some y => decide (i = k) || !overlaps x.off x.len y.off y.len
    | _, _ => true) &&
  d.consts.all fun c => clear c.1 (4 * c.2.length) && d.resident.all fun r => !overlaps c.1 (4 * c.2.length) r.off r.len

/-- Bits that a patch entry writes: first and number, from the word's bit 0. -/
def Patch.span (p : Patch) : Nat × Nat := (8 * p.wordOff + p.bitPos, if p.kind = 0 then 4 else 48)

/-- Patch lists (R148, R150). -/
def LTileDesc.patchesOk (d : LTileDesc) (lay : Layout) : Bool :=
  decide (d.patches.length ≤ 16384) &&
  d.patches.all (fun p => !p.reserved && decide (p.kind ≤ 2) && decide (p.wordOff % 8 = 0) &&
    (if p.kind = 0 then decide (p.bitPos ≤ 60) && decide (p.glid ≠ 0xFFF) else decide (p.bitPos ≤ 16) && decide (p.glid = 0) && lay.inCopy0 p.base 1) &&
    decide (p.wordOff + 8 ≤ spaBase) && d.resident.all fun r => !overlaps p.wordOff 8 r.off r.len) &&
  (List.range d.patches.length).all fun i => (List.range i).all fun k =>
    match d.patches[i]?, d.patches[k]? with
    | some x, some y => !overlaps x.span.1 x.span.2 y.span.1 y.span.2
    | _, _ => true

/-- GLIDs that a tile uses: those of its patches and of its GSTAT descriptors, ascending (R147). -/
def LoadEnv.glids (e : LoadEnv) (l : Nat) : List Nat :=
  match e.body.ltiles[l]? with
  | none => []
  | some d =>
    let t := e.tiles.getD l .reset
    let stats := ((openFrames t.record d.records 0 []).map fun p =>
      let r := t.record p.1
      if r.op = recVec then (frameIters p.2).filterMap fun fs =>
        let v := VecDesc.ofBits (wordsNat ((t.mem.spWords (bits (r.adjust fs).1 0 22) 32).map TWord.bits))
        if v.op = VecOp.gstat.code then some v.glid else none
      else []).flatten
    let gs := (d.patches.filter fun p => decide (p.kind = 0)).map Patch.glid ++ stats
    (List.range 4095).filter fun g => gs.contains g

/-- Stream declarations (R56, Tables 2.10 and 7.2). -/
def StreamDecl.ok (d : StreamDecl) (ltiles ranks : Nat) : Bool :=
  decide (d.kind ≤ 2) && decide (d.ringSize ≤ 6) && decide (1 ≤ d.levels.length) && d.levels.all (fun v => decide (v ≤ 7)) && decide (d.levels.Nodup) &&
  (if d.kind = kindLocal then decide (1 ≤ d.producers.length ∧ d.producers.length ≤ 48 ∧ d.consumer < ltiles) && d.producers.all fun p => decide (p < ltiles)
   else if d.kind = kindLinkIn then decide (d.producers.length = 1 ∧ d.consumer < ltiles) && d.producers.all fun p => decide (p < ranks)
   else decide (d.producers.length = 1 ∧ d.consumer < ranks) && d.producers.all fun p => decide (p < ltiles))

/-- Groups of the image against its logical tiles (Table 2.5). -/
def ImageBody.groupsOk (b : ImageBody) : Bool :=
  (List.range b.groups.length).all (fun g => match b.groups[g]? with
    | some (n, c) => decide (c ≤ 2) && decide ((b.ltiles.filter fun d => decide (d.group = g)).length = n)
    | none => false) && b.ltiles.all fun d => decide (d.group < b.groups.length)

/-- Everything of step 4. -/
def LoadEnv.ok (e : LoadEnv) (h : ImageHeader) (ranks : Nat) : Bool :=
  h.ok && decide (e.body.ltiles.length = h.ltiles ∧ e.body.groups.length = h.groups ∧ e.body.streams.length = h.streams) &&
  e.body.groupsOk && e.body.streams.all (fun d => d.ok h.ltiles ranks) && e.body.layout.ok h.vaSize &&
  (List.range h.ltiles).all fun l => match e.body.ltiles[l]? with
    | some d => d.regionsOk e.body.layout e.vaSize e.mapped && d.patchesOk e.body.layout && decide ((e.glids l).length ≤ 252) &&
        decide (d.tokens.length ≤ 16) && d.tokens.all (fun v => decide (v < 2 ^ 32)) && e.programOk l
    | none => false

/-- The tiles as the image would load them, their queue areas placed or not (R40 steps 4 and 5). -/
def ImageBody.tiles (b : ImageBody) (queues : Bool) : List Tile :=
  (List.range b.ltiles.length).map fun l => match b.ltiles[l]? with
    | some d => Tile.reset.install d (if queues then b.queueBase l else spaBase)
    | none => .reset

/-! ### Placement (R44, R45) -/

/-- A tile fits a group beside those already placed. -/
def placeOk (quadOf : Nat → Nat) (kind : Nat) (others : List Nat) (t : Nat) : Bool :=
  if kind = 1 then others.all fun u => decide (u / 52 = t / 52)
  else if kind = 2 then others.all fun u => decide (quadOf u = quadOf t)
  else true

/-- The least placement of logical tiles (group, kind, logical tile) in their order. -/
def placeFrom (cands : List Nat) (quadOf : Nat → Nat) : List (Nat × Nat × Nat) → List (Nat × Nat × Nat) → Option (List (Nat × Nat × Nat))
  | [], acc => some acc
  | (g, k, l) :: rest, acc => cands.findSome? fun t =>
    if (acc.any fun x => decide (x.2.2 = t)) || !placeOk quadOf k ((acc.filter fun x => decide (x.1 = g)).map fun x => x.2.2) t then none
    else placeFrom cands quadOf rest ((g, l, t) :: acc)

/-- The list of R45: group by group, logical tiles ascending. -/
def ImageBody.order (b : ImageBody) : List (Nat × Nat × Nat) :=
  ((List.range b.groups.length).map fun g => (List.range b.ltiles.length).filterMap fun l => match b.ltiles[l]? with
    | some d => if d.group = g then some (g, (b.groups.getD g (0, 0)).2, l) else none
    | none => none).flatten

/-- Quad of a physical tile (R24). -/
def State.quadOf (s : State) (t : Nat) : Nat := (s.res.quads.findIdx? fun q => q.contains t).getD 36

/-- Physical tiles by logical tile, or none when no placement satisfies every constraint. -/
def State.placement (s : State) (p : Nat) (b : ImageBody) : Option (List Nat) :=
  let mine := s.quadTiles p
  let cands := (List.range 156).filter fun t => mine.contains t
  (placeFrom cands s.quadOf b.order []).map fun acc => (List.range b.ltiles.length).map fun l => match acc.find? fun x => decide (x.2.1 = l) with
    | some x => x.2.2
    | none => 0

/-! ### The stream table (R42, R178, R337) -/

/-- Entries that an image takes. -/
def ImageBody.entries (b : ImageBody) : Nat := (b.streams.map fun d => d.levels.length).sum

/-- The port of a LINK_OUT stream: the lowest UP port that binds its peer rank (R337). -/
def State.linkPort (s : State) (p rank : Nat) : Option Nat := (s.portsTo p rank true).head?

/-- Bytes of the transmit buffer of a port that rings take. -/
def Streams.txBytes (q : Streams) (k : Nat) : Nat :=
  ((q.entries.filter fun e => decide (e.2.kind = kindLinkOut ∧ e.2.state ≠ .free ∧ e.2.consumer = 156 + k)).map fun e => ringBytes e.2.ringSize).sum

/-- The lowest 4 KiB place of a transmit buffer that n bytes fit in. -/
def Streams.txPlace (q : Streams) (k n : Nat) : Option Nat :=
  let held := (q.entries.filter fun e => decide (e.2.kind = kindLinkOut ∧ e.2.state ≠ .free ∧ e.2.consumer = 156 + k)).map fun e => (e.2.ringBase * 4096, ringBytes e.2.ringSize)
  (List.range 256).find? fun b => decide (b * 4096 + n ≤ 1048576) && held.all fun h => !overlaps (b * 4096) n h.1 h.2

/-- The lowest FREE entry of a partition's quota. -/
def State.freeEntry (s : State) (p : Nat) : Option Nat :=
  (s.part p).blocks.findSome? fun b => ((List.range 1024).find? fun i => decide ((s.streams.entry (b + i)).state = .free)).map (b + ·)

/-- Bind one level queue of the image; none when an entry, a port or room is wanting. -/
def State.bindQueue (s : State) (p : Nat) (place : List Nat) (b : ImageBody) (stream : Nat) (d : StreamDecl) (level : Nat) : Option State :=
  match s.freeEntry p with
  | none => none
  | some i =>
    if d.kind = kindLinkOut then
      match s.linkPort p d.consumer with
      | none => none
      | some k => match s.streams.txPlace k (ringBytes d.ringSize) with
        | none => none
        | some base => some { s with streams := s.streams.setEntry i ⟨d.kind, level, .bound, p, 156 + k, base, d.ringSize, 0, 0, 0, false, 0, 0, 0, stream⟩ }
    else
      let base := match (placeRings spaBase (b.ringsOf d.consumer)).find? fun r => decide (r.1 = stream ∧ r.2.1 = level) with
        | some r => r.2.2.2 / 4096
        | none => 0
      some { s with streams := s.streams.setEntry i ⟨d.kind, level, .bound, p, place.getD d.consumer 0, base, d.ringSize, 0, 0, 0, false, 0, 0, 0, stream⟩ }

/-- Bind every level queue of an image, streams and levels ascending. -/
def State.bindStreams (s : State) (p : Nat) (place : List Nat) (b : ImageBody) : Option State :=
  (List.range b.streams.length).foldl (fun (acc : Option State) n => match b.streams[n]? with
    | none => acc
    | some d => ((List.range 8).filter fun v => d.levels.contains v).foldl (fun (a : Option State) v => a.bind fun x => x.bindQueue p place b n d v) acc) (some s)

/-! ### Loading a tile (R43, R59, R153) -/

/-- Load a resident region from its backing copy (R153); a line that cannot be read gives poison-tagged zeros. -/
def State.loadRegion (s : State) (p t : Nat) (r : Resident) : State :=
  let j := s.job p
  let delta := match j.image with
    | some i => i.body.layout.delta
    | none => 0
  let b := s.vaRead (.sysChan p) p j.space (if r.committed then r.backing + j.step.live * delta else r.backing) r.len
  b.s.updTile t fun x => { x with mem := { x.mem with sp := Store.setMany .zero x.mem.sp (r.off / 4) b.words } }

/-- Program, constants and CONSTANT regions of logical tile l on tile t; the label is the OR of the labels of its backing pages (R300). -/
def State.loadTile (s : State) (p l t : Nat) : State :=
  let j := s.job p
  match j.image with
  | none => s
  | some im => match im.body.ltiles[l]? with
    | none => s
    | some d =>
      let s1 := s.updTile t fun x => { x.install d (im.body.queueBase l) with part := some p, ltile := some l }
      d.resident.foldl (fun (a : State) r => if r.committed && j.fresh then a else a.loadRegion p t r) s1

/-- Label of a logical tile at load (R300). -/
def State.regionLabel (s : State) (p : Nat) (d : LTileDesc) : Nat :=
  d.resident.foldl (fun acc r => acc ||| s.labelOf p (s.job p).space r.backing r.len) 0

/-- Load every COMMITTED region of a partition (R153). -/
def State.loadCommitted (s : State) (p : Nat) : State :=
  let j := s.job p
  match j.image with
  | none => s
  | some im => (List.range j.place.length).foldl (fun (a : State) l => match im.body.ltiles[l]?, j.place[l]? with
    | some d, some t => (d.resident.filter Resident.committed).foldl (fun (x : State) r => x.loadRegion p t r) a
    | _, _ => a) s

/-! ### Release action 5 (R146 to R149) -/

/-- The 16 B slot of a GLID (Table 6.3). -/
def StepState.slotBytes (s : StepState) (g : Nat) : List Byte :=
  let e := Store.get FmtEntry.load s.fmts g
  let k := if e.rank = 0 then (0 : Int) else e.cand
  natBytes e.code 1 ++ [0, 0, 0] ++ natBytes (pow2Word k).toNat 4 ++ natBytes (pow2Word (-k)).toNat 4 ++ natBytes (pow2Word e.cand).toNat 4

/-- The step parameter area (Table 6.2). -/
def Job.spaBytes (j : Job) (digest : BitVec 256) (glids : List Nat) : List Byte :=
  let s := j.step
  let seed := (Config.shake256 (natBytes digest.toNat 32 ++ natBytes s.stepNum 8)).toNat % 2 ^ 64
  let front := natBytes s.stepNum 8 ++ natBytes s.optStep 8 ++ natBytes (pow2Word s.lsExp).toNat 4 ++ natBytes (pow2Word (-s.lsExp)).toNat 4 ++
    natBytes seed 8 ++ natBytes s.taintRun 4 ++ natBytes s.live 4 ++ List.replicate 24 0
  let slots := (glids.map s.slotBytes).flatten
  front ++ slots ++ List.replicate (4096 - 64 - slots.length) 0

/-- One patch applied to the scratchpad (R149). -/
def Patch.apply (p : Patch) (m : TileMem) (s : StepState) (delta : Nat) : TileMem :=
  let w := p.wordOff / 4
  let ws := m.spWords p.wordOff 2
  let v := wordsNat (ws.map TWord.bits)
  let v1 := if p.kind = 0 then setBits v p.bitPos 4 (Store.get FmtEntry.load s.fmts p.glid).code
    else if p.kind = 1 then setBits v p.bitPos 48 (p.base + s.live * delta) else setBits v p.bitPos 48 (p.base + (1 - s.live) * delta)
  { m with sp := Store.setMany .zero m.sp w ((List.range 2).map fun i => (⟨BitVec.ofNat 32 (v1 / 2 ^ (32 * i)), (ws.getD i .zero).poison⟩ : TWord)) }

/-- SPA, patches, tokens, record 0, cleared fault fields and latch: one tile at release (R60, R146, R149, R155). -/
def Tile.release (t : Tile) (d : LTileDesc) (j : Job) (digest : BitVec 256) (delta : Nat) (glids : List Nat) : Tile :=
  let m1 := t.mem.place spaBase (bytesWords (j.spaBytes digest glids))
  let m2 := d.patches.foldl (fun (m : TileMem) p => p.apply m j.step delta) m1
  { t with
    mem := m2, units := [], nonfin := false
    disp := ⟨0, [], Store.setMany 0 [] 0 d.tokens, 0⟩
    stage := { t.stage with state := .running, fault := .done, faultRec := 0, faultUnit := 0 } }

end Sys2Proof.Machine
end

