-- ==== Sys2Proof/Machine/Wire.lean ====
section
/-! DEFINITION. Movement of packets (R185 to R195, R337, R338): injection by a QSEND or by a port engine, the cut of a LINK_OUT ring into frames, a queue in ERROR, flushes that firmware commands. -/

namespace Sys2Proof.Machine

/-- The packet that a QSEND injects next (R183, R184), with the sender's label. -/
def Tile.packet (x : Tile) (tx : TxState) : Packet :=
  let ws := x.mem.spWords (tx.buf + 64 * tx.sent) 16
  ⟨ws, parityBits ws, decide (tx.sent = 0), decide (tx.sent + 1 = tx.packets), tx.packets, x.label.toNat⟩

/-- A QSEND injects in buffer order while it holds credits (R185 step 3); into a FROZEN queue nothing moves (R195). -/
def State.inject : Nat → State → Nat → State
  | 0, s, _ => s
  | n + 1, s, t =>
    let x := s.tile t
    match x.ep.tx with
    | none => s
    | some tx =>
      if tx.locked ∧ 0 < tx.credits ∧ tx.sent < tx.packets ∧ (s.streams.entry tx.entry).state = .bound then
        let y : Tile := { x with ep := { x.ep with tx := some { tx with sent := tx.sent + 1, credits := tx.credits - 1 }, txPkts := wrap64 x.ep.txPkts 1 } }
        State.inject n { s.setTile t y with streams := { s.streams with flights := s.streams.flights ++ [⟨tx.entry, t, x.packet tx⟩] } } t
      else s

/-! ### Port engines as producers (R338) -/

/-- The message that a held frame belongs to. -/
def Port.msgOf (x : Port) (f : HeldFrame) : Option InMsg := x.inMsgs.find? fun m => decide (m.part = f.part ∧ m.stream = f.stream ∧ m.level = f.level)

/-- Replace the first message of the same queue. -/
def updMsg (m : InMsg) (new : Option InMsg) : List InMsg → List InMsg
  | [] => []
  | x :: rest => if x.part = m.part ∧ x.stream = m.stream ∧ x.level = m.level then new.toList ++ rest else x :: updMsg m new rest

/-- The first held frame of a VC. -/
def Port.front (x : Port) (vc : Nat) : Option HeldFrame := x.held.find? fun f => decide (f.vc = vc)

/-- The packet that a port engine lands next: parity generated, flags and length from the message (R338). -/
def InMsg.packet (m : InMsg) (l : Line) : Packet := ⟨l, parityBits l, decide (m.sent = 0), decide (m.sent + 1 = m.packets), m.packets, m.label⟩

/-- A port engine lands the packets of the front frame of a VC as credits allow; an emptied frame leaves the receive buffer and its credits are owed to the peer (R329). -/
def State.land : Nat → State → Nat → Nat → State
  | 0, s, _, _ => s
  | n + 1, s, k, vc =>
    let x := s.port k
    match x.front vc with
    | none => s
    | some f => match f.data, x.msgOf f with
      | [], _ => State.land n (s.setPort k { x with held := x.held.erase f, owed := Store.upd 0 x.owed vc (· + f.units) }) k vc
      | _ :: _, none => State.land n (s.setPort k { x with held := x.held.erase f, owed := Store.upd 0 x.owed vc (· + f.units) }) k vc
      | l :: rest, some m => match s.streams.find m.part m.stream m.level with
        | none => s
        | some e =>
          if m.locked ∧ 0 < m.credits ∧ (s.streams.entry e).state = .bound then
            let m1 := { m with sent := m.sent + 1, credits := m.credits - 1 }
            let y := { x with held := x.held.map (fun g => if g = f then { f with data := rest } else g)
                              inMsgs := updMsg m (if m1.sent = m1.packets then none else some m1) x.inMsgs }
            State.land n { s.setPort k y with streams := { s.streams with flights := s.streams.flights ++ [⟨e, 156 + k, m.packet l⟩] } } k vc
          else s

/-- Frames and packets held for a VC. -/
def Port.heldWork (x : Port) (vc : Nat) : Nat := ((x.held.filter fun f => decide (f.vc = vc)).map fun f => f.data.length + 1).sum

def State.landAll (s : State) (k : Nat) : State := (List.range 8).foldl (fun (a : State) vc => a.land ((a.port k).heldWork vc) k vc) s

/-! ### Port engines as consumers (R337) -/

/-- Packets of a LINK_OUT ring already cut into waiting frames. -/
def Port.cutOf (x : Port) (i : Nat) : Nat := (x.txQ.map fun u => match u.ring with
  | some r => if r.1 = i then r.2 else 0
  | none => 0).sum

/-- Packets of the next frame of a ring from a position, and whether it is whole: it is full or ends its message. -/
def Streams.frameLen (q : Streams) (i : Nat) : Nat → Nat → Nat → Nat × Bool
  | 0, _, _ => (0, true)
  | _ + 1, _, 0 => (0, false)
  | room + 1, pos, avail + 1 =>
    if (q.slot i pos).last then (1, true)
    else
      let r := q.frameLen i room (pos + 1) avail
      (r.1 + 1, r.2)

/-- A LINK_OUT queue gives a frame: a full one, or the rest of a message (R337). -/
def State.cut (s : State) (i : Nat) : Option State :=
  let e := s.streams.entry i
  let k := e.consumer - 156
  let x := s.port k
  let done := x.cutOf i
  let (n, whole) := s.streams.frameLen i (versionUnits x.version) (e.head + done) (e.held - done)
  let first := s.streams.slot i (e.head + done)
  let last := s.streams.slot i (e.head + done + n - 1)
  if 0 < n && whole then (x.pkidOf e.part).map fun id => s.setPort k { x with txQ := x.txQ ++ [⟨if 4 ≤ e.level then 4 else 5, id,
      ⟨FrameKind.queue.code, first.first, last.last, e.level, e.stream, first.label, if first.first then first.len else 0, 0⟩, [], some (i, n)⟩] }
  else none

def State.cutSome : Nat → State → Nat → State
  | 0, s, _ => s
  | n + 1, s, i => match s.cut i with
    | some s1 => State.cutSome n s1 i
    | none => s

/-- Every whole frame of a LINK_OUT queue waits for its VC. -/
def State.cutAll (s : State) (i : Nat) : State := s.cutSome (s.streams.entry i).held i

/-! ### Tiles that wait on a queue -/

/-- Withdraw a tile's lock requests. -/
def Streams.withdrawOf (q : Streams) (t : Nat) : Streams :=
  { q with asking := q.asking.filter (fun r => decide (r.producer ≠ t)), waiting := q.waiting.filter (fun r => decide (r.producer ≠ t)) }

/-- The QSEND of a tile ends with a status. -/
def State.endSend (s : State) (t : Nat) (st : Status) : State :=
  let s1 := s.updTile t fun x => { x with ep := { x.ep with tx := none } }
  { s1 with streams := s1.streams.withdrawOf t }.completeUnit t unitQout (some st)

/-- The QRECV of a tile ends with a status. -/
def State.endRecv (s : State) (t : Nat) (st : Status) : State :=
  (s.updTile t fun x => { x with ep := { x.ep with rx := none } }).completeUnit t unitQin (some st)

/-- The QSEND of a tile is bound to level queue i. -/
def Tile.sendsTo (x : Tile) (i : Nat) : Bool := match x.ep.tx with
  | some y => decide (y.entry = i)
  | none => false

/-- The QRECV of a tile copies from level queue i, or waits on its stream. -/
def Tile.waitsOn (x : Tile) (part i stream : Nat) : Bool := match x.ep.rx with
  | some y => decide (y.chosen = some i) || (y.chosen.isNone && decide (x.part = some part ∧ y.stream = stream))
  | none => false

/-- A level queue goes to ERROR (R180): the register, every record bound to it POISON, a TILE entry with its index, and the job's stop (R369, R370). -/
def State.entryError (s : State) (i : Nat) : State :=
  let e := s.streams.entry i
  if e.state = .free ∨ e.state = .error then s
  else
    let s1 := { s with streams := { s.streams.setEntry i { e with state := .error } with fatal := true, fatalIndex := i } }
    let snd := (List.range 156).filter fun t => (s.tile t).sendsTo i
    let rcv := (List.range 156).filter fun t => (s.tile t).waitsOn e.part i e.stream
    let recs := (snd.map fun t => (t, unitQout, ((s.tile t).unit unitQout).cur)) ++ rcv.map fun t => (t, unitQin, ((s.tile t).unit unitQin).cur)
    let s2 := snd.foldl (fun (a : State) t => { a.updTile t fun x => { x with ep := { x.ep with tx := none } } with streams := a.streams.withdrawOf t }) s1
    let s3 := s2.updTiles rcv fun x => { x with ep := { x.ep with rx := none } }
    let s4 := recs.foldl (fun (a : State) r => match r.2.2 with
      | f :: _ => a.finish r.1 r.2.1 f .poison
      | [] => a) s3
    s4.jobFault clsTile srcQue (if e.consumer < 156 then e.consumer else 0) .poison e.part i

/-! ### Flushes that firmware commands (R193) -/

/-- Level queues that a QUE_FLUSH names: 0 an entry, 1 the entry's stream, 2 a partition. -/
def Streams.named (q : Streams) (p scope i : Nat) : List Nat :=
  if scope = 2 then q.queues fun e => decide (e.part = p)
  else if (q.entry i).state = .free then []
  else if scope = 0 then [i] else q.levels (q.entry i).part (q.entry i).stream

/-- A flush command: held, and reported DEFERRED, while the partition has a run in progress; else its queues await their packet boundary. -/
def State.askFlush (s : State) (p scope i : Nat) : State :=
  if (s.job p).run.isSome then { s with streams := { s.streams with held := s.streams.held ++ [(p, scope, i)] } }.emit [.sideband sbReply .deferred []]
  else { s with streams := { s.streams with due := s.streams.due ++ s.streams.named p scope i } }

/-- At a boundary the held commands of a partition act. -/
def State.heldFlushes (s : State) (p : Nat) : State :=
  let mine := s.streams.held.filter fun h => decide (h.1 = p)
  let s1 := { s with streams := { s.streams with held := s.streams.held.filter fun h => decide (h.1 ≠ p) } }
  mine.foldl (fun (a : State) h => a.flushMany (a.streams.named h.1 h.2.1 h.2.2)) s1

end Sys2Proof.Machine
end

