-- ==== Sys2Proof/Machine/Boundary.lean ====
section
/-! DEFINITION. The step boundary (R37, R61, R62, R156 to R161): outcomes, the boundary flush, the way to the next release or the end of the run, held maintenance, and release. -/

namespace Sys2Proof.Machine

/-! ### Requests of MAINT (R375); 8 is the rebinding of a port after ACCEPT_REMAP (R324) -/

abbrev mntTileTest : Nat := 1
abbrev mntTileReplace : Nat := 2
abbrev mntRecal : Nat := 5
abbrev mntLane : Nat := 6
abbrev mntPort : Nat := 8

/-- A port carries a partition. -/
def State.carries (s : State) (k p : Nat) : Bool := (s.port k).parts.contains p

/-- A held request uses a resource of the partition. -/
def State.concerns (s : State) (p : Nat) (m : Maint) : Bool :=
  if m.kind = mntTileTest ∨ m.kind = mntTileReplace then decide ((s.tile m.unit).part = some p)
  else if m.kind = mntLane ∨ m.kind = mntPort then s.carries m.unit p else false

/-- A recalibration waits for every run (R254). -/
def State.recalWaits (s : State) : Bool := s.maint.any fun m => decide (m.kind = mntRecal)

/-! ### Rebinding (R43, R196, R374) -/

/-- The stream entries that logical tile l consumes move with it, their pointers at 0 (R196); a grant or credit under way names the new endpoint. -/
def Streams.moveConsumer (q : Streams) (p old new : Nat) : Streams :=
  { q with entries := q.entries.map fun e => if e.2.state ≠ .free ∧ e.2.part = p ∧ e.2.kind ≠ kindLinkOut ∧ e.2.consumer = old
      then (e.1, { e.2 with consumer := new, head := if e.2.kind = kindLocal then 0 else e.2.head, tail := if e.2.kind = kindLocal then 0 else e.2.tail, msgCnt := if e.2.kind = kindLocal then 0 else e.2.msgCnt,
                            state := if e.2.state = .error then .bound else e.2.state }) else e }

/-- Logical tile l of a partition moves to tile u: map, stream entries, program, constants and resident regions, label (R43, R302). -/
def State.rebind (s : State) (p t u : Nat) : State :=
  let j := s.job p
  match j.ltileOf t with
  | none => s
  | some l =>
    let x := s.tile t
    let s1 := s.setJob p { j with place := setAt j.place l u }
    let s2 := { s1 with streams := s1.streams.moveConsumer p t u }
    let s3 := s2.updTile u fun y => { y with label := y.label ||| x.label, stage := { y.stage with state := .idle } }
    let s4 := s3.updTile t fun y => { y with part := none, ltile := none, label := 0, units := [] }
    s4.loadTile p l u

/-- Tile t leaves its quad for the spare of its field; its logical tile, when it has one, is rebound (R374); none without a spare. -/
def State.replaceTile (s : State) (t : Nat) : Option State :=
  match s.res.spare (t / 52) with
  | none => none
  | some u =>
    let s1 := { s with res := s.res.swapTile t u }
    some (match (s.tile t).part with
      | some p => s1.rebind p t u
      | none => s1)

/-- A tile raises TILE: FENCED and set in RES_TILE_FAIL (R374). -/
def State.failTile (s : State) (t : Nat) : State :=
  let s1 := s.updTile t fun x => { x with stage := { x.stage with state := .fenced } }
  { s1 with res := { s1.res with failed := setBits s1.res.failed t 1 1 } }

/-- A field without a spare: MODULE (R374, R36). -/
def State.noSpare (s : State) (t : Nat) : State := (s.report clsModule srcTil t .noResource noPart 0).stopAll .noResource

/-- An in-service test: the tile is replaced and FENCED; its test makes it a spare or a failed tile (Table 14.3). -/
def State.testTile (s : State) (t : Nat) (pass : Bool) : State × Status :=
  match s.replaceTile t with
  | none => (s, .noResource)
  | some s1 =>
    if pass then (s1.updTile t fun x => { x with stage := { x.stage with state := .idle } }, .done)
    else (s1.failTile t, .done)

/-- A replacement on request (Table 14.3): the tile becomes a spare. -/
def State.swapOut (s : State) (t : Nat) : State × Status :=
  match s.replaceTile t with
  | none => (s, .noResource)
  | some s1 => (s1, .done)

/-- Every LINK stream of a partition whose port no longer serves its peer rank moves to the lowest UP port that does (R324, R372). -/
def State.moveLinks (s : State) (p : Nat) : State :=
  match (s.job p).image with
  | none => s
  | some im => (s.streams.queues fun e => decide (e.part = p ∧ e.kind = kindLinkOut)).foldl (fun (a : State) i =>
      let e := a.streams.entry i
      let k := e.consumer - 156
      match im.body.streams[e.stream]? with
      | none => a
      | some d =>
        if (a.portsTo p d.consumer true).contains k then a
        else match a.linkPort p d.consumer with
          | none => a
          | some n => match a.streams.txPlace n (ringBytes e.ringSize) with
            | none => a
            | some base =>
              let a1 := a.updPort k fun x => { x with txQ := x.txQ.filter fun u => match u.ring with
                | some r => decide (r.1 ≠ i)
                | none => true }
              { a1 with streams := a1.streams.setEntry i { e with consumer := 156 + n, ringBase := base } }.cutAll i) s

/-- One held request runs (R37 action 4). -/
def State.runMaint (s : State) (m : Maint) : State :=
  if m.kind = mntTileTest then (s.testTile m.unit m.pass).1
  else if m.kind = mntTileReplace then (s.swapOut m.unit).1
  else if m.kind = mntPort then (s.port m.unit).parts.foldl (fun (a : State) p => a.moveLinks p) s
  else s

/-! ### From the boundary to the next release, or the end (R37, R415, R424) -/

/-- The run goes on to its release, or ends. -/
def State.toRelease (s : State) (p : Nat) : State :=
  let j := s.job p
  match j.run with
  | none => s
  | some r =>
    match r.ending with
    | some st => (s.endRun p st).follow
    | none =>
      if r.cancelled then (s.endRun p .cancelled).follow
      else if r.left = 0 then (s.endRun p .done).follow
      else s.setJob p { j with run := some { r with phase := .release } }

/-- Action 4 stands before the release when a request is held for the partition, or a recalibration waits. -/
def State.toMaintenance (s : State) (p : Nat) : State :=
  if s.maint.any (s.concerns p) || s.recalWaits then s.updJob p fun j => { j with run := j.run.map fun r => { r with phase := .maintenance } }
  else s.toRelease p

/-- Action 3: a due snapshot is taken or skipped (R378). -/
def State.toSnapshot (s : State) (p : Nat) (eligible : Bool) : State :=
  let x := s.snap p
  let n := (s.job p).step.stepNum
  if !(eligible && x.isDue n) then s.toMaintenance p
  else if x.mayTake then s.updJob p fun j => { j with run := j.run.map fun r => { r with phase := .snapshot } }
  else ((s.setSnap p { x with skipped := satAdd 8 x.skipped 1, due := true }).trace 0x0203 p 0 [n]).toMaintenance p

/-! ### Outcomes (R157 to R162) -/

/-- TAINT_LIMIT and VETO_LIMIT (Table 6.10). -/
def taintLimit (pol : Nat) : Nat := bits pol 2 4
def vetoLimit (pol : Nat) : Nat := bits pol 56 8

/-- LAST_OUTCOME codes (Table 6.9). -/
abbrev outCommitted : Nat := 1
abbrev outTainted : Nat := 2
abbrev outVetoed : Nat := 3

/-- Step state after TAINTED (R158). -/
def StepState.tainted (x : StepState) (pol : Nat) : StepState :=
  if x.taintRun = taintLimit pol then { x with lastOutcome := outTainted } else { x with lastOutcome := outTainted, taintRun := x.taintRun + 1 }

/-- Step state after VETOED (R159, R162): the change of policy, then the back-off. -/
def StepState.vetoed (x : StepState) (old new : Nat) (loc remote : Bool) : StepState :=
  let y := (x.policyChange old new).backOff new
  { y with stepNum := (x.stepNum + 1) % 2 ^ 64, taintRun := 0, vetoRun := satAdd 8 x.vetoRun 1, lastOutcome := outVetoed, vetoLocal := loc, vetoRemote := remote }

/-- Step state after COMMITTED (R160 steps 1 and 2). -/
def StepState.committed (x : StepState) (old new : Nat) : StepState :=
  let y := (x.policyChange old new).grow new
  { y with live := 1 - x.live, stepNum := (x.stepNum + 1) % 2 ^ 64, optStep := (x.optStep + 1) % 2 ^ 64, vetoRun := 0, taintRun := 0, lastOutcome := outCommitted }

/-- An interim entry for the boundary (R415). -/
def State.interim (s : State) (r : Run) (st : Status) (step outcome : Nat) : State :=
  if r.cqe then s.withHif (s.hif.interim r.asker.1 r.asker.2.1 r.asker.2.2 st step (outcome <<< 48)) else s

/-- Format changes and words with GLID 0xFFF are reported (R167, R169). -/
def State.traceFormats (s : State) (p : Nat) (a b : StepState) (words : List Nat) : State :=
  let s1 := (words.filter fun w => decide (bits w 24 12 = 0xFFF)).foldl (fun (x : State) _ => x.trace 0x0202 p 0 []) s
  (formatChanges a b).foldl (fun (x : State) c => x.trace 0x0201 p 0 [c.1, c.2.1, c.2.2, b.stepNum]) s1

/-- R62: messages left in LOCAL streams are flushed, LEFTOVER counts them, and commands held for the boundary act (R193). -/
def State.boundaryFlush (s : State) (p : Nat) : State :=
  let qs := s.streams.queues fun e => decide (e.part = p ∧ e.kind = kindLocal)
  let s1 := (s.tilesOf p).foldl (fun (a : State) t =>
    let n := ((qs.filter fun i => decide ((s.streams.entry i).consumer = t)).map fun i => (s.streams.entry i).msgCnt).sum
    let a1 := a.updTile t fun x => { x with stage := { x.stage with leftover := Nat.min n 0xFFFF } }
    if n = 0 then a1 else a1.trace 0x0200 p 0 [((a.tile t).ltile).getD 0, n]) s
  (s1.flushMany qs).heldFlushes p

/-- The fence resolves to an outcome, and actions 1 and 2 of R37 run (R157 to R160). -/
def State.resolve (s : State) (p : Nat) (r : Run) (w : Nat) : State :=
  let j := s.job p
  let c := s.coll.part p
  let latch := (s.tilesOf p).any fun t => (s.tile t).nonfin
  let s0 := { s with coll := s.coll.setPart p { c with fence := .none } }.updTiles (s.tilesOf p) fun t => { t with stage := t.stage.toIdle }
  if bit w 2 || bit w 3 then (s0.stopRun p (if bit w 2 then .cancelled else .descMismatch)).faultEnd p false
  else if bit w 1 then
    let y := (j.step.tainted j.lossPolicy).formats j.gfmtPolicy false [] []
    let last := decide (j.step.taintRun = taintLimit j.lossPolicy)
    let r1 := { r with ending := if last then some .tainted else none }
    let s1 := (s0.setJob p { j with step := y, posted := [], delivered := [], run := some r1 }).traceFormats p j.step y []
    (((if last then s1 else s1.interim r .tainted j.step.stepNum outTainted).boundaryFlush p)).toMaintenance p
  else if bit w 0 then
    let remote := c.nonfin || !latch || c.fence.up.any fun u => bit u.2 0
    let y := (j.step.vetoed j.lossInForce j.lossPolicy latch remote).formats j.gfmtPolicy false [] []
    let lim := vetoLimit j.lossPolicy
    let r1 := { r with vetoes := r.vetoes + 1, left := r.left - 1, ending := if lim ≠ 0 ∧ lim ≤ y.vetoRun then some .nonfiniteVeto else none }
    let s1 := (s0.setJob p { j with step := y, lossInForce := j.lossPolicy, posted := [], delivered := [], run := some r1 }).traceFormats p j.step y []
    let s2 := (s1.interim r .nonfiniteVeto j.step.stepNum outVetoed).boundaryFlush p
    if r.cancelled then s2.toRelease p else s2.toSnapshot p true
  else
    let y := (j.step.committed j.lossInForce j.lossPolicy).formats j.gfmtPolicy true j.delivered j.posted
    let r1 := { r with left := r.left - 1 }
    let s1 := (s0.setJob p { j with step := y, lossInForce := j.lossPolicy, posted := [], delivered := [], run := some r1 }).traceFormats p j.step y j.delivered
    let s2 := ((s1.loadCommitted p).interim r .done j.step.stepNum outCommitted).boundaryFlush p
    if r.cancelled then s2.toRelease p else s2.toSnapshot p true

/-! ### Release (R60, R147, R149, R153, R346, R347, R363) -/

/-- Arbitration and RETRY take effect (R214, R336); the collective epoch and SEQ counts start again; a held group table is in force. -/
def State.newStep (s : State) (p : Nat) : State :=
  let c := s.coll.part p
  let s1 := { s with coll := s.coll.setPart p { c with
    seqs := [], taint := false, nonfin := false, aborted := false, faultRx := false, insts := c.insts.filter (·.cp), groups := c.pendingGroups.getD c.groups, pendingGroups := none } }
  let s2 := (List.range 36).foldl (fun (a : State) k => if a.carries k p then a.updPort k Port.arbitrate else a) s1
  let s3 := s2.moveLinks p
  s3.updTiles (s3.tilesOf p) fun t => { t with dma := { t.dma with retry := (s.job p).retryCfg } }

/-- GLIDs of a logical tile of the loaded image (R147). -/
def State.glidsOf (s : State) (p : Nat) (im : Image) (l : Nat) : List Nat :=
  let e : LoadEnv := ⟨im.body, im.vaSize, fun _ => true, im.body.tiles true, fun _ => s.colEnv p 0 im.vaSize (s.job p).space⟩
  e.glids l

/-- Action 5 of R37: every tile of the partition is released. -/
def State.releaseStep (s : State) (p : Nat) : State :=
  let j := s.job p
  match j.image, j.run with
  | some im, some r =>
    let s1 := s.newStep p
    let s2 := if j.fresh then s1.loadCommitted p else s1
    let j2 := { j with fresh := false, run := some { r with phase := .step } }
    let s3 := (List.range j.place.length).foldl (fun (a : State) l => match im.body.ltiles[l]?, j.place[l]? with
      | some d, some t => a.updTile t fun x => x.release d j2 im.digest im.body.layout.delta (s.glidsOf p im l)
      | _, _ => a) s2
    s3.setJob p j2
  | _, _ => s

end Sys2Proof.Machine
end

