-- ==== Sys2Proof/Machine/Tenant.lean ====
section
/-! DEFINITION. Partitions as shared operations (chapter 11): key slots of a quota, arming, the actions of a removal, and the end of a session re-key. -/

namespace Sys2Proof.Machine

/-! ### Key slots of a quota (R289, R292) -/

/-- Partitions that hold resources. -/
def State.liveParts (s : State) : List Nat := (List.range 16).filter fun p => (s.part p).live

/-- The lowest FREE slot, when the quota of the partition has one left. -/
def State.slotFor (s : State) (p : Nat) : Option Nat :=
  if (s.part p).rec_.slots ≤ (s.part p).slots.length then none
  else ((List.range 2048).drop 16).find? fun i => decide ((s.sec.slot i).state = .free)

/-- A slot enters the quota. -/
def State.takeSlot (s : State) (p i : Nat) : State := s.updPart p fun x => { x with slots := x.slots ++ [i] }

/-- A slot of the quota is zeroized and returned (R274). -/
def State.dropSlot (s : State) (p i : Nat) : State :=
  { s.updPart p fun x => { x with slots := x.slots.filter fun k => decide (k ≠ i) } with sec := s.sec.zeroize i }

/-- DERIVE from a SESSION slot into a new slot of the quota. -/
def State.deriveFor (s : State) (p src kind epoch : Nat) (ctx : List Byte) : State × Status × Nat :=
  match s.slotFor p with
  | none => (s, .noResource, 0)
  | some i =>
    let (k, st) := s.sec.derive src i kind p epoch ctx
    if st ≠ .done then (s, st, 0) else (({ s with sec := k }).takeSlot p i, .done, i)

/-- GENERATE into a new slot of the quota. -/
def State.generateFor (s : State) (p kind : Nat) : State × Status × Nat :=
  match s.slotFor p with
  | none => (s, .noResource, 0)
  | some i =>
    let (k, st) := s.sec.generate i kind p 0
    if st ≠ .done then (s, st, 0) else (({ s with sec := k }).takeSlot p i, .done, i)

/-- Context of a CKPT derivation: SESSION_ID and the writer's SERIAL (R382). -/
def State.ckptContext (s : State) (p : Nat) : List Byte := natBytes (s.sessionId p) 16 ++ natBytes s.sec.fuses.serial 8

/-! ### Arming (R291, R292 step 7) -/

/-- Every roster owner has imported. -/
def Part.allImported (x : Part) : Bool := decide (x.imported = 2 ^ x.rec_.owners - 1)

/-- Granules of a partition in a state. -/
def State.gransOf (s : State) (p : Nat) (f : GranState → Bool) : List Nat := s.hbm.gransIn fun g => decide (g.owner = p) && f g.state

/-- The session becomes ARMED when the last owner has imported and the last FILL has ended. -/
def State.tryArm (s : State) (p : Nat) : State :=
  let x := s.part p
  let filling := s.gransOf p fun t => decide (t = .filling)
  let carved := s.gransOf p fun t => decide (t = .prot)
  if x.sess = .opened ∧ x.allImported ∧ filling.isEmpty ∧ !carved.isEmpty then s.setPart p { x with sess := .armed } else s

/-! ### Removal (R310) -/

/-- DMA units and system channels of a partition still hold requests. -/
def State.dmaBusy (s : State) (p : Nat) : Bool :=
  ((List.range 156).any fun t => decide ((s.tile t).part = some p) && !(s.tile t).dma.reqs.isEmpty) ||
  (List.range 48).any fun n => !(s.sysChan n).fw && decide ((s.sysChan n).part = p) && !(s.sysChan n).chan.reqs.isEmpty

/-- Ports clear the partition's entries; frames waiting, kept for replay or held are dropped and counted (R340). Also how many. -/
def State.clearPorts (s : State) (p : Nat) : State × Nat :=
  (List.range 36).foldl (fun (acc : State × Nat) k =>
    let x := acc.1.port k
    let ids := (x.entries.filter fun e => match e.2 with
      | some y => decide (y.part = p)
      | none => false).map Prod.fst
    if ids.isEmpty then acc
    else
      let y := x.discard ids.contains
      let n := (x.txQ.length - y.txQ.length) + (x.replay.length - y.replay.length)
      let z := { y with entries := y.entries.filter (fun e => !ids.contains e.1), inMsgs := y.inMsgs.filter (fun m => decide (m.part ≠ p)), held := y.held.filter (fun f => decide (f.part ≠ p)) }
      (acc.1.setPort k z, acc.2 + n)) (s, 0)

/-- Commands that wait for a CONFIRM on an entry of the partition complete PARTITION_GONE (R312). -/
def State.endBinds (s : State) (p : Nat) : State :=
  ((List.range 36).map fun k => ((s.port k).entries.filterMap fun e => match e.2 with
    | some y => if y.part = p then y.asker else none
    | none => none)).flatten.foldl (fun (a : State) w => a.complete w.1 w.2.1 w.2.2 .partitionGone 0 0) s

/-- Control-plane collectives that the partition runs complete CANCELLED on this module (R310 action 1). -/
def State.endCtrl (s : State) (p : Nat) : State :=
  let c := s.coll.part p
  let calls := c.insts.filterMap Inst.ctrl
  let s1 := { s with coll := s.coll.setPart p { c with insts := [], frames := [], incoming := [], lastStatus := if c.insts.isEmpty then c.lastStatus else .cancelled } }
  calls.foldl (fun (a : State) x => a.complete x.fn x.sq x.seqNo .cancelled 0 0) s1

/-- Actions 1 and 2: freeze, then revoke; the drain begins. -/
def State.removePart (s : State) (p : Nat) (asker : Option (Nat × Nat × Nat)) (create : Option ((Nat × Nat × Nat) × Status)) : State :=
  let x := s.part p
  let s1 := s.setPart p { x with sess := .closing, removal := some ⟨.drain, 0, 0, asker.toList, create⟩ }
  let s2 := if s1.multi p then s1.abortAll p else s1
  let s3 := { s2 with streams := s2.streams.freeze p, hif := s2.hif.closePart p }
  let s4 := s3.stopRun p .partitionGone
  let s5 := (s4.flushMany (s4.streams.queues fun e => decide (e.part = p))).endCtrl p
  let s6 := s5.updTiles (s5.tilesOf p) fun t => { t with dma := t.dma.stop }
  let s7 := (List.range 48).foldl (fun (a : State) n =>
    let c := a.sysChan n
    if !c.fw && decide (c.part = p) then a.setSys n { c with chan := c.chan.stop } else a) s6
  let s75 := match (s7.snap p).asker with
    | some w => s7.complete w.1 w.2.1 w.2.2 .partitionGone 0 0
    | none => s7
  let s8 := { s75 with
    hbm := s75.hbm.revoke p, sec := x.slots.foldl (fun (k : Sec) i => k.revokeSlot i) s75.sec
    snaps := Store.upd .reset s75.snaps p fun y => { y.emptied with mirrorSt := .none, flashSt := .none, reqPending := false, due := false, hold := false }
    flash := { s75.flash with snaps := s75.flash.snaps.filter fun f => f.complete || decide (f.session ≠ x.rec_.sessionId) } }
  let (s9, n) := (s8.endBinds p).clearPorts p
  s9.updPart p fun y => { y with rekey := none, removal := y.removal.map fun r => { r with dropped := n } }

/-- Action 6: the partition is GONE, everything of it is free again, and the removal completes. -/
def State.finishRemoval (s : State) (p : Nat) : State :=
  let x := s.part p
  match x.removal with
  | none => s
  | some r =>
    let ts := s.quadTiles p
    let s1 := s.updTiles ts fun t => { t with part := none, ltile := none, label := 0, units := [], stage := .reset, ep := { t.ep with tx := none, rx := none }, dma := { t.dma with phase := .idle, loops := [], reqs := [], ending := none } }
    let s2 := { s1 with
      parts := Store.set .reset s1.parts p { Part.reset with sess := .gone, lastStatus := match r.create with
        | some c => c.2
        | none => .done }
      jobs := Store.set .reset s1.jobs p .reset
      snaps := Store.set .reset s1.snaps p .reset
      coll := s1.coll.setPart p .reset
      streams := s1.streams.release p
      hif := s1.hif.endPart p }
    let s3 := match r.create with
      | some c => s2.complete c.1.1 c.1.2.1 c.1.2.2 c.2 0 0
      | none => s2
    (r.askers.foldl (fun (a : State) w => a.complete w.1 w.2.1 w.2.2 .done r.revoked r.dropped) s3).follow

/-- Actions 3 to 5: the drain is over; the run in progress is answered, slots are zeroized and every granule is wiped. -/
def State.drained (s : State) (p : Nat) : State :=
  let x := s.part p
  match x.removal with
  | none => s
  | some r =>
    let n := (s.hbm.part p).refused
    let s1 := s.setPart p { x with slots := [], removal := some { r with step := .wiping, revoked := n } }
    let s2 := match (s1.job p).run with
      | some q => (s1.updJob p fun j => { j with run := some { q with faultTile := 0xFFFF, faultRec := 0, faultUnit := 0 } }).endRun p .partitionGone
      | none => s1
    let gs := s2.gransOf p fun t => decide (t = .prot ∨ t = .staging ∨ t = .filling)
    let s3 := { s2 with sec := x.slots.foldl (fun (k : Sec) i => k.zeroize i) s2.sec, hbm := gs.foldl (fun (h : Hbm) g => h.wipeGone g) s2.hbm }
    if (s3.gransOf p fun t => decide (t = .wiping)).isEmpty then
      ({ s3 with hbm := s3.hbm.updPart p fun mp => { mp with gone := true } }).finishRemoval p
    else s3

/-! ### LINK slots (R330, R332) -/

/-- The LINK slot that a partition holds for a peer. -/
def State.linkSlot (s : State) (p serial : Nat) : Option Nat :=
  (List.range 36).findSome? fun k => (s.port k).entries.findSome? fun e => match e.2 with
    | some y => if y.part = p ∧ y.peerSerial = serial then some y.newest else none
    | none => none

/-- Peers that a partition's entries name. -/
def State.linkPeers (s : State) (p : Nat) : List Nat :=
  ((List.range 36).map fun k => (s.port k).entries.filterMap fun e => match e.2 with
    | some y => if y.part = p then some y.peerSerial else none
    | none => none).flatten.eraseDups

/-- A LINK slot that no entry of its partition names any longer is zeroized. -/
def State.freeLink (s : State) (p slot : Nat) : State :=
  let used := (List.range 36).any fun k => (s.port k).entries.any fun e => match e.2 with
    | some y => decide (y.part = p) && (decide (y.slot = slot) || (match y.next with
      | some (n, _) => decide (n = slot)
      | none => false))
    | none => false
  if used || !(s.part p).slots.contains slot then s else s.dropSlot p slot

/-- KEY_READY for the entries of a port that have a new slot; only an UP port of version 2.0 sends it. -/
def State.sayReady (s : State) (k : Nat) : State :=
  let x := s.port k
  if x.state = .up ∧ x.version = 3 then
    s.emit ((x.entries.filterMap fun e => match e.2 with
      | some y => (match y.next with
        | some (n, _) => if n ≠ 0 ∧ y.flipped = false then some (Out.keyReady k e.1 (1 - y.kg)) else none
        | none => none)
      | none => none))
  else s

/-- New LINK slots for every peer, installed beside the old ones; none when a slot is wanting. -/
def State.linkRekey (s : State) (p session : Nat) : Option State :=
  let s1 := (s.linkPeers p).foldl (fun (acc : Option State) serial => acc.bind fun a =>
    let (b, st, i) := a.deriveFor p session kindLink 0 (linkContext s.sec.fuses.serial serial)
    if st ≠ .done then none
    else some ((List.range 36).foldl (fun (c : State) k => c.updPort k fun x =>
      { x with entries := x.entries.map fun (e : Nat × Option PkidEntry) => (e.1, e.2.map fun y => if y.part = p ∧ y.peerSerial = serial then y.install i else y) }) b)) (some s)
  s1.map fun a => (List.range 36).foldl (fun (c : State) k => (c.sayReady k).updPort k Port.rekeyAll) a

/-! ### A session re-key (R295) -/

/-- Steps 1 and 2 on a member whose new session secret lies in a slot; all of it is given up when a slot is wanting. -/
def State.memberRekey (s : State) (p session : Nat) (again : Bool) : State × Status :=
  let x := s.part p
  let (s1, st1, m) := s.deriveFor p session kindMem 0 []
  let (s2, st2, c) := s1.deriveFor p session kindCkpt 0 (s.ckptContext p)
  if st1 ≠ .done then (s.dropSlot p session, st1)
  else if st2 ≠ .done then (s.dropSlot p session, st2)
  else match s2.linkRekey p session with
    | none => (s.dropSlot p session, .noResource)
    | some s3 =>
      let s4 := { s3 with hbm := s3.hbm.sessionRekey p m }
      let s5 := { s4 with snaps := Store.upd .reset s4.snaps p SnapPart.aged, flash := s4.flash.aged x.rec_.sessionId }
      (s5.updPart p fun y => { y with sessionSlot := session, ckptSlot := c, rekey := some ⟨session, x.sessionSlot, x.ckptSlot, again⟩ }, .done)

/-- The originating module makes a new session secret and re-keys itself. -/
def State.beginRekey (s : State) (p : Nat) : State × Status :=
  let (s1, st, i) := s.generateFor p kindSession
  if st ≠ .done then (s, st) else s1.memberRekey p i false

/-- A re-key step has ended; with none left the re-key is over, and one asked for meanwhile runs. -/
def State.rekeyStep (s : State) (p : Nat) (r : RekeyState) : State :=
  if r.oldSession ≠ 0 ∨ r.oldCkpt ≠ 0 then s.updPart p fun x => { x with rekey := some r }
  else
    let s1 := s.updPart p fun x => { x with rekey := none }
    if r.again then (s1.beginRekey p).1 else s1

/-- Step 3: the pass has ended, the old SESSION slot is zeroized, and copies under the old secret leave their areas (R387). -/
def State.rekeyed (s : State) (p : Nat) : State :=
  match (s.part p).rekey with
  | none => s
  | some r => if r.oldSession = 0 then s else ((s.updSnap p SnapPart.shed).dropSlot p r.oldSession).rekeyStep p { r with oldSession := 0 }

/-- Step 4: the first snapshot under the new key is complete, the old CKPT slot is zeroized. -/
def State.rekeySnapped (s : State) (p : Nat) : State :=
  match (s.part p).rekey with
  | none => s
  | some r => if r.oldCkpt = 0 then s else (s.dropSlot p r.oldCkpt).rekeyStep p { r with oldCkpt := 0 }

end Sys2Proof.Machine
end

