-- ==== Sys2Proof/Machine/Snap.lean ====
section
/-! DEFINITION. Snapshots as shared operations (R376 to R393): areas, the state stream and the schedule record, taking a snapshot, the mirror and fills over the fibre, the check of a copy, and restore. -/

namespace Sys2Proof.Machine

/-! ### Areas (R377, R381, R420) -/

/-- Mappings within a range of bytes. -/
def mapsIn (maps : List MapRun) (va n : Nat) : List MapRun :=
  let q := pageSpan va n
  maps.filterMap fun r =>
    let lo := Nat.max r.va q.1
    let hi := Nat.min (r.va + r.pages) (q.1 + q.2)
    if hi ≤ lo then none else some ⟨lo, hi - lo, r.mem, r.first + (lo - r.va)⟩

/-- What a bulk read brought: the first n bytes, or the status that stops it; a poisoned word does. -/
def Bulk.bytes (b : Bulk) (n : Nat) : State × Status × List Byte :=
  if b.status ≠ .done then (b.s, b.status, [])
  else if b.words.any TWord.poison then (b.s, .poison, [])
  else (b.s, .done, (twordBytes b.words).take n)

/-- Bytes of a range of a space. -/
def State.rangeBytes (s : State) (p : Nat) (space : List MapRun) (va n : Nat) : State × Status × List Byte :=
  (s.vaRead (.sysChan p) p space va ((n + 3) / 4 * 4)).bytes n

/-- Start of the local or of the mirror area, its size and its pages. -/
def SnapPart.areaOf (x : SnapPart) (mirror : Bool) : Option (Nat × Nat × List MapRun) :=
  if mirror then x.mirrorArea.map fun a => (a.1, a.2, x.mirrorMap) else x.localArea.map fun a => (a.1, a.2, x.localMap)

/-- Bytes of an area from an offset. -/
def State.areaBytes (s : State) (p : Nat) (mirror : Bool) (off n : Nat) : State × Status × List Byte :=
  match (s.snap p).areaOf mirror with
  | none => (s, .accessDenied, [])
  | some (va, size, space) => if size < off + n then (s, .noResource, []) else s.rangeBytes p space (va + off) n

/-- Write bytes into an area. -/
def State.areaPut (s : State) (p : Nat) (mirror : Bool) (off : Nat) (bs : List Byte) : State × Status :=
  match (s.snap p).areaOf mirror with
  | none => (s, .accessDenied)
  | some (va, size, space) =>
    if size < off + bs.length then (s, .noResource)
    else
      let b := s.vaWrite (.sysChan p) p space (va + off) (cleanWords bs)
      (b.s, b.status)

/-- Write records one after another. -/
def State.areaPutAll (s : State) (p : Nat) (mirror : Bool) (recs : List (List Byte)) : State × Status :=
  let r := recs.foldl (fun (acc : State × Status × Nat) bs =>
    if acc.2.1 ≠ .done then acc
    else
      let w := acc.1.areaPut p mirror acc.2.2 bs
      (w.1, w.2, acc.2.2 + bs.length)) (s, .done, 0)
  (r.1, r.2.1)

/-- The layout segment of a partition's image. -/
def State.layoutOf (s : State) (p : Nat) : Option Layout := (s.job p).image.map fun i => i.body.layout

/-- Place of the schedule record: behind every state record (R381). -/
def schedOffset (l : Layout) : Nat :=
  (List.range (snapCount l)).foldl (fun acc i => acc + recordBytes (Nat.min stateRecordBytes (snapSize l - i * stateRecordBytes))) 0

/-! ### What a snapshot holds (R376, Table 14.4) -/

/-- The state stream: committed ranges from their live copy, SNAP ranges in place. -/
def State.stateStream (s : State) (p : Nat) (l : Layout) : State × Status × List Byte :=
  let j := s.job p
  (snapRanges l).foldl (fun (acc : State × Status × List Byte) r =>
    if acc.2.1 ≠ .done then acc
    else
      let w := acc.1.rangeBytes p j.space (if l.committed.contains r then r.1 + j.step.live * l.delta else r.1) r.2
      (w.1, w.2.1, acc.2.2 ++ w.2.2)) (s, .done, [])

/-- Entry indices of a partition's quota. -/
def Part.quotaEntries (x : Part) : List Nat := (x.blocks.map fun b => (List.range 1024).map (b + ·)).flatten

/-- An entry as the stream table shows it; a FREE one is 0. -/
def SEntry.saved (e : SEntry) : Nat := if e.state = .free then 0 else e.word

/-- Slot contents of a LINK_IN queue that is not empty, head first. -/
def Streams.savedSlots (q : Streams) (i : Nat) : List (List TWord) :=
  let e := q.entry i
  if e.state ≠ .free ∧ e.kind = kindLinkIn then (List.range e.held).map fun k => (q.slot i (e.head + k)).words else []

/-- System channels bound to a partition, ascending. -/
def State.boundChans (s : State) (p : Nat) : List Nat := (List.range 48).filter fun n => !(s.sysChan n).fw && decide ((s.sysChan n).part = p)

/-- A paused program. -/
def SysChan.paused (c : SysChan) : PausedProg :=
  ⟨(Store.getMany .zero c.program 0 8192).map TWord.bits, c.chan.pc,
   (List.range 3).map fun lv => match c.chan.loops.find? fun l => decide (l.level = lv) with
     | some l => l.iter
     | none => 0,
   c.toks, c.bindWord⟩

/-- The schedule record's content. -/
def State.schedOf (s : State) (p : Nat) : Sched :=
  let j := s.job p
  let x := s.part p
  let digest := match j.image with
    | some i => i.digest
    | none => 0
  { step := j.step
    lossPolicy := j.lossPolicy
    gfmtPolicy := j.gfmtPolicy
    retry := j.retryCfg
    entries := x.quotaEntries.map fun i => (s.streams.entry i).saved
    slots := (x.quotaEntries.map s.streams.savedSlots).flatten
    tilePcs := j.place.map fun t => (s.tile t).dma.pc
    programs := ((s.boundChans p).filter fun n => decide ((s.sysChan n).chan.phase ≠ .idle)).map fun n => (s.sysChan n).paused
    pageLabels := (List.range (j.vaSize / 2097152)).map fun i => s.labelOf p j.space (i * 2097152) 1
    tileLabels := j.place.map fun t => (s.tile t).label.toNat
    owners := (List.range x.rec_.owners).map fun o => (Store.get 0 x.ingestSeq o, Store.get 0 x.released o)
    seed := (Config.shake256 (natBytes digest.toNat 32 ++ natBytes j.step.stepNum 8)).toNat % 2 ^ 64 }

/-! ### Taking a snapshot (R379) -/

/-- Every LINK frame of a partition is delivered, and every frame it sent acknowledged (R379 step 1). -/
def State.linksQuiet (s : State) (p : Nat) : Bool :=
  ((List.range 36).all fun k =>
    let x := s.port k
    let mine := fun id => match x.entry id with
      | some e => decide (e.part = p)
      | none => false
    x.txQ.all (fun u => !mine u.pkid) && x.replay.all (fun r => !mine r.pkid) && x.held.all fun f => decide (f.part ≠ p)) &&
  s.streams.flights.all fun f => decide (f.producer < 156) || decide ((s.streams.entry f.entry).part ≠ p)

/-- The records of a snapshot under a nonce, and its root. -/
def State.makeRecords (s : State) (p nonce : Nat) (l : Layout) (program : BitVec 256) : State × Status × List (List Byte) × BitVec 256 :=
  let r := s.stateStream p l
  if r.2.1 ≠ .done then (r.1, r.2.1, [], 0)
  else
    let key := s.sec.keyOf (s.part p).ckptSlot
    let hdr := fun (kind index n : Nat) => (⟨kind, s.sessionId p, s.sec.fuses.serial, (s.job p).step.stepNum, nonce, index, n⟩ : SnapHeader)
    let states := (List.range (snapCount l)).map fun i =>
      let pay := statePayload r.2.2 i
      sealRecord key (hdr snapState i pay.length) pay
    let sp := (r.1.schedOf p).bytes
    let leaves := states ++ [sealRecord key (hdr snapSchedule schedIndex sp.length) sp]
    let root := rootOf leaves
    let mp := Manifest.bytes ⟨program, snapSize l, snapCount l, root, snapRanges l⟩
    (r.1, .done, leaves ++ [sealRecord key (hdr snapManifest manifestIndex mp.length) mp], root)

/-- A snapshot that cannot be taken: discarded, its area EMPTY (Table 14.7). -/
def SnapPart.discarded (x : SnapPart) (st : Status) : SnapPart := { x with area := .empty, localCopy := none, lastStatus := st }

/-- Steps 3 to 6 of R379. -/
def State.capture (s : State) (p : Nat) : State × Status :=
  match (s.job p).image with
  | none => (s, .accessDenied)
  | some im =>
    let key := s.sec.useSlot (s.part p).ckptSlot p [kindCkpt]
    if !s.sec.entropyOk then (s.updSnap p fun x => { x with lastStatus := .noResource }, .noResource)
    else if key ≠ .done then (s.updSnap p fun x => { x with lastStatus := key }, key)
    else
      let (nonce, s1) := s.drawNonce
      let s2 := s1.updSnap p fun x => { x with area := .writing, localCopy := none, reqPending := false, due := false }
      let (s3, st, recs, root) := s2.makeRecords p nonce im.body.layout im.digest
      if st ≠ .done then (s3.updSnap p fun x => x.discarded st, st)
      else
        let (s4, st4) := s3.areaPutAll p false recs
        if st4 ≠ .done then (s4.updSnap p fun x => x.discarded st4, st4)
        else
          let e := (s.job p).step.stepNum
          (s4.updSnap p fun x => { x with area := .complete, epoch := e, lastStatus := .done, localFill := none, localCopy := some ⟨s.sessionId p, s.sec.fuses.serial, e, root, false⟩ }, .done)

/-! ### Records over the fibre (R384, R392) -/

/-- Lists of n elements. -/
def groupsOf {α : Type} (n : Nat) (l : List α) : List (List α) := (List.range (ceilDiv l.length n)).map fun i => (l.drop (n * i)).take n

/-- Bytes as 64 B data units. -/
def dataUnits (bs : List Byte) : List Line := groupsOf 16 (cleanWords bs)

/-- Inner header of a frame of a record (R384). -/
def systemInner (index frame : Nat) (fill first last : Bool) : Inner :=
  ⟨FrameKind.system.code, first, last, 0, 0, 0, 0, index % 2 ^ 32 + (frame % 65536) <<< 32 + b2n fill <<< 48⟩

/-- A record waits on a port, cut into frames. -/
def Port.queueRecord (x : Port) (vc pkid index : Nat) (fill : Bool) (bs : List Byte) : Port :=
  let fs := groupsOf (versionUnits x.version) (dataUnits bs)
  { x with txQ := x.txQ ++ (List.range fs.length).map fun i => (⟨vc, pkid, systemInner index i fill (decide (i = 0)) (decide (i + 1 = fs.length)), fs.getD i [], none⟩ : OutUnit) }

/-- INDEX of the i-th record of an area with c state records. -/
def recordIndex (c i : Nat) : Nat := if i < c then i else if i = c then schedIndex else manifestIndex

/-- Records of an area, as they lie. -/
def State.areaRecords (s : State) (p : Nat) (mirror : Bool) (c : Nat) : State × Status × List (List Byte) :=
  let r := (List.range (c + 2)).foldl (fun (acc : State × Status × List (List Byte) × Nat) _ =>
    if acc.2.1 ≠ .done then acc
    else
      let h := acc.1.areaBytes p mirror acc.2.2.2 64
      if h.2.1 ≠ .done then (h.1, h.2.1, [], 0)
      else
        let w := h.1.areaBytes p mirror acc.2.2.2 (recordLen h.2.2)
        (w.1, w.2.1, acc.2.2.1 ++ [w.2.2], acc.2.2.2 + w.2.2.length)) (s, .done, [], 0)
  (r.1, r.2.1, r.2.2.1)

/-- Send an area's records over ports: record INDEX i on the (i mod n)-th. -/
def State.sendRecords (s : State) (p : Nat) (ports : List Nat) (vc : Nat) (fill : Bool) (c : Nat) (recs : List (List Byte)) : State :=
  (List.range recs.length).foldl (fun (a : State) i =>
    let idx := recordIndex c i
    match ports[idx % ports.length]? with
    | none => a
    | some k => match (a.port k).pkidOf p with
      | none => a
      | some id => a.updPort k fun x => x.queueRecord vc id idx fill (recs.getD i [])) s

/-- Twin ports that are UP. -/
def State.twinUp (s : State) : List Nat := ((List.range 36).drop 32).filter fun k => decide ((s.port k).state = .up)

/-- The background work that follows a snapshot starts: the mirror when the module is PAIRED, and the flash drain (R379, R384, R385). -/
def State.startCopies (s : State) (p : Nat) : State :=
  let x := s.snap p
  let s1 := s.updSnap p fun y => { y with mirrorSt := .none, flashSt := if x.flash then .active else .none }
  let ports := s.twinUp.filter fun k => ((s.port k).pkidOf p).isSome
  if x.mirror && decide (s.twinUp.length = 4) && !ports.isEmpty then
    match s.layoutOf p with
    | none => s1
    | some l => match s1.areaRecords p false (snapCount l) with
      | (s2, .done, recs) => (s2.sendRecords p ports 6 false (snapCount l) recs).updSnap p fun y => { y with mirrorSt := .active }
      | (s2, _, _) => s2.updSnap p fun y => { y with mirrorSt := .failed }
  else s1

/-- A frame of a VC that belongs to a partition waits, or is not acknowledged. -/
def Port.owes (x : Port) (vc p : Nat) : Bool :=
  let mine := fun id => match x.entry id with
    | some e => decide (e.part = p)
    | none => false
  x.txQ.any (fun u => decide (u.vc = vc) && mine u.pkid) || x.replay.any fun r => mine r.pkid && decide (bits (field r.bytes 0 1) 4 3 = vc)

/-- A mirror or fill whose frames are all acknowledged has ended on this side. -/
def State.copiesAcked (s : State) : State :=
  (List.range 16).foldl (fun (a : State) p =>
    let x := a.snap p
    let clear := fun vc => (List.range 36).all fun k => !(a.port k).owes vc p
    let b := if x.mirrorSt = .active ∧ clear 6 then a.updSnap p fun y => { y with mirrorSt := .done } else a
    match x.asker with
    | some w => if clear 7 then (b.updSnap p fun y => { y with asker := none }).complete w.1 w.2.1 w.2.2 .done 0 0 else b
    | none => b) s

/-! ### Arrival (R384, R392) -/

/-- Place of a record in an area: state records at fixed offsets, the schedule behind them. -/
def recordPlace (l : Layout) (index : Nat) : Option Nat :=
  if index < snapCount l then some (index * (stateRecordBytes + 128)) else if index = schedIndex then some (schedOffset l) else none

/-- A frame of a record lands: its bytes, with the counts of what has landed. -/
def FillState.take (f : FillState) (index : Nat) (first : Bool) (n : Nat) (bs : List Byte) : FillState :=
  { f with got := Store.set 0 f.got index ((if first then 0 else Store.get 0 f.got index) + n)
           tail := if index = manifestIndex then (if first then bs else f.tail ++ bs) else f.tail }

/-- The copy that a first frame belongs to; one of another writer, epoch or nonce starts anew. -/
def fillOf (old : Option FillState) (first : Bool) (bs : List Byte) : Option FillState :=
  if first then
    let h := SnapHeader.ofBytes bs
    match old with
    | some f => if f.serial = h.serial ∧ f.epoch = h.epoch ∧ f.nonce = h.nonce then some f else some ⟨h.serial, h.epoch, h.nonce, [], []⟩
    | none => some ⟨h.serial, h.epoch, h.nonce, [], []⟩
  else old

/-- The local area may be overwritten: no run reads it (R378, R386). -/
def SnapPart.free (x : SnapPart) : Bool := !x.hold && decide (x.mirrorSt ≠ .active) && decide (x.flashSt ≠ .active) && decide (x.area ≠ .writing ∧ x.area ≠ .restoring)

/-- The local area becomes FILLING with a copy. -/
def SnapPart.fillLocal (x : SnapPart) (f : FillState) : SnapPart := { x with area := .filling, localCopy := none, epoch := f.epoch, localFill := some f }

/-- The mirror area becomes FILLING with a copy. -/
def SnapPart.fillMirror (x : SnapPart) (f : FillState) : SnapPart := { x with mirrorCopy := none, holdEpoch := 0, mirrorFill := some f }

/-- A frame of KIND SYSTEM arrives (R384, R392). -/
def State.hearSystem (s : State) (p : Nat) (i : Inner) (data : List Line) : State :=
  let index := bits i.ext 0 32
  let fill := bit i.ext 48
  let bs := (data.map twordBytes).flatten
  let x := s.snap p
  match s.layoutOf p, x.areaOf (!fill) with
  | some l, some _ =>
    if fill && !x.free then s
    else match fillOf (if fill then x.localFill else x.mirrorFill) i.first bs with
      | none => s
      | some f =>
        let done := if i.first then 0 else 64 * Store.get 0 f.got index
        let g := f.take index i.first data.length bs
        let s1 := s.updSnap p fun y => if fill then y.fillLocal g else y.fillMirror g
        match recordPlace l index with
        | some off => (s1.areaPut p (!fill) (off + done) bs).1
        | none => s1
  | _, _ => s

/-! ### The check of a copy (R384, R393) -/

/-- Open an area's manifest against a writer and epoch: its content, and the nonce of the snapshot. -/
def State.openManifest (s : State) (p serial epoch : Nat) (bs : List Byte) : Status × Manifest × Nat :=
  let h := SnapHeader.ofBytes bs
  let want : SnapHeader := ⟨snapManifest, s.sessionId p, serial, epoch, h.nonce, manifestIndex, h.len⟩
  let r := openRecord (s.ckptKey p serial) want bs
  (r.1, Manifest.ofBytes r.2, h.nonce)

/-- The check of the records of a copy: its manifest opens and its ROOT equals the tree's. -/
def State.judgeCopy (s : State) (p serial epoch : Nat) (recs : List (List Byte)) : Status × BitVec 256 :=
  match recs.getLast? with
  | none => (.digestMismatch, 0)
  | some m => match s.openManifest p serial epoch m with
    | (.done, x, _) => (if x.root = rootOf recs.dropLast then .done else .digestMismatch, x.root)
    | (st, _, _) => (st, 0)

/-- Every record of an arriving copy is whole. -/
def FillState.whole (f : FillState) (l : Layout) (schedLen : Nat) : Bool :=
  (List.range (snapCount l)).all (fun i => decide (recordBytes (Nat.min stateRecordBytes (snapSize l - i * stateRecordBytes)) ≤ 64 * Store.get 0 f.got i)) &&
  decide (0 < Store.get 0 f.got schedIndex) && decide (schedLen ≤ 64 * Store.get 0 f.got schedIndex) && decide (64 ≤ f.tail.length) && decide (recordLen f.tail ≤ f.tail.length)

/-- The copy in the local area is COMPLETE. -/
def SnapPart.keepLocal (x : SnapPart) (c : Copy) : SnapPart := { x with area := .complete, localCopy := some c, epoch := c.epoch, localFill := none, lastStatus := .done }

/-- The copy in the mirror area is complete. -/
def SnapPart.keepMirror (x : SnapPart) (c : Copy) : SnapPart := { x with mirrorCopy := some c, holdEpoch := c.epoch, mirrorFill := none }

/-- A copy whose records have all arrived is checked; one that fails stays FILLING with its status. -/
def State.endFill (s : State) (p : Nat) (mirror : Bool) : Option State :=
  let x := s.snap p
  match s.layoutOf p, (if mirror then x.mirrorFill else x.localFill) with
  | some l, some f =>
    let off := schedOffset l
    let h := s.areaBytes p mirror off 64
    if h.2.1 = .done ∧ f.whole l (recordLen h.2.2) then
      let (s1, st1) := h.1.areaPut p mirror (off + recordLen h.2.2) f.tail
      let (s2, st2, recs) := s1.areaRecords p mirror (snapCount l)
      let st := if st1 ≠ .done then st1 else st2
      let (st3, root) := if st = .done then s2.judgeCopy p f.serial f.epoch recs else (st, 0)
      let c : Copy := ⟨s.sessionId p, f.serial, f.epoch, root, false⟩
      some (if st3 = .done then s2.updSnap p fun y => if mirror then y.keepMirror c else y.keepLocal c
        else s2.updSnap p fun y => if mirror then { y with mirrorFill := some { f with got := [], tail := [] } }
          else { y with localFill := some { f with got := [], tail := [] }, lastStatus := st3 })
    else none
  | _, _ => none

/-! ### Restore (R393) -/

/-- Decrypt the state records in INDEX order. -/
def State.openStates (s : State) (p serial epoch nonce c : Nat) (recs : List (List Byte)) : Status × List Byte :=
  (List.range c).foldl (fun (acc : Status × List Byte) i =>
    if acc.1 ≠ .done then acc
    else
      let bs := recs.getD i []
      let r := openRecord (s.ckptKey p serial) ⟨snapState, s.sessionId p, serial, epoch, nonce, i, (SnapHeader.ofBytes bs).len⟩ bs
      (r.1, acc.2 ++ r.2)) (.done, [])

/-- The state stream goes into copy 0 of the committed ranges and into the SNAP ranges. -/
def State.putStream (s : State) (p : Nat) (l : Layout) (stream : List Byte) : State × Status :=
  let r := (snapRanges l).foldl (fun (acc : State × Status × Nat) q =>
    if acc.2.1 ≠ .done then acc
    else
      let b := acc.1.vaWrite (.sysChan p) p (s.job p).space q.1 (cleanWords ((stream.drop acc.2.2).take q.2))
      (b.s, b.status, acc.2.2 + q.2)) (s, .done, 0)
  (r.1, r.2.1)

/-- Step 2: FILL passes over every granule of the partition that holds a fenced page; their pages lose their labels (R302). -/
def State.refill (s : State) (p : Nat) : State :=
  let gs := s.hbm.gransIn fun g => decide (g.owner = p ∧ g.state = .prot)
  let bad := gs.filter fun g => s.hbm.fences.any fun f => overlaps f.2.1 f.2.2 (256 * g) 256
  bad.foldl (fun (a : State) g => { a with hbm := a.hbm.zeroGran g, pageLabels := Store.clear a.pageLabels (512 * g) 512 }) s

/-- A stream entry takes its saved pointers and lock fields. -/
def SEntry.restored (e : SEntry) (w : Nat) : SEntry :=
  if e.state = .free then e
  else { e with head := bits w 40 13, tail := bits w 53 13, lockOwner := bits w 66 8, lockValid := bit w 74, lockRemain := bits w 75 15, msgCnt := bits w 90 14 }

/-- A LINK_IN slot as refilled: flags, length and label of its message are free (Config.refilledHeader), parity is generated. -/
def refilledPacket (draw slot : Nat) (ws : List TWord) : Packet :=
  let h := Config.refilledHeader draw slot
  ⟨ws, parityBits ws, bit h 0, bit h 1, bits h 2 15, bits h 17 32⟩

/-- Stream entries and LINK_IN rings (step 4). -/
def State.putStreams (s : State) (p : Nat) (d : Sched) : State :=
  let (draw, s0) := s.draw
  let ids := (s0.part p).quotaEntries
  let r := (List.range ids.length).foldl (fun (acc : Streams × Nat) n =>
    let i := ids.getD n 0
    let w := d.entries.getD n 0
    let e := (acc.1.entry i).restored w
    let q1 := (acc.1.emptyRing i).setEntry i e
    if e.state ≠ .free ∧ e.kind = kindLinkIn then
      let q2 := (List.range e.held).foldl (fun (q : Streams) k =>
        { q with rings := Store.set .none q.rings (ringKey i ((e.head + k) % e.slots)) (refilledPacket draw (acc.2 + k) (d.slots.getD (acc.2 + k) [])) }) q1
      (q2, acc.2 + e.held)
    else (q1, acc.2)) (s0.streams, 0)
  { s0 with streams := r.1 }

/-- Labels gain their saved bits; none is removed (R302). -/
def State.putLabels (s : State) (p : Nat) (d : Sched) : State :=
  let j := s.job p
  let s1 := (List.range d.pageLabels.length).foldl (fun (a : State) i => a.labelRange p j.space (i * 2097152) 1 (d.pageLabels.getD i 0)) s
  (List.range j.place.length).foldl (fun (a : State) l => match j.place[l]? with
    | some t => a.updTile t fun x => { x with label := x.label ||| BitVec.ofNat 32 (d.tileLabels.getD l 0) }
    | none => a) s1

/-- A saved program restarts on a channel at its PC, loop counters and tokens. -/
def SysChan.resumed (c : SysChan) (q : PausedProg) (step : Nat) : SysChan :=
  let mem := Store.setMany .zero [] 0 (q.words.map fun w => (⟨w, false⟩ : TWord))
  let instr := fun pc => DmaInstr.ofBits (wordsNat ((Store.getMany .zero mem (2 * pc) 2).map TWord.bits))
  let loops := match (openLoops instr 4096 0 []).find? fun x => decide (x.1 = q.pc) with
    | some x => x.2.map fun l => { l with iter := q.iters.getD l.level 0 }
    | none => []
  { c with program := mem, toks := q.toks, chan := { c.chan.start 0 q.pc step with loops := loops } }

/-- Saved programs restart on the IDLE channels bound to the partition, ascending. -/
def State.putPrograms (s : State) (p : Nat) (d : Sched) : State :=
  let free := (s.boundChans p).filter fun n => decide ((s.sysChan n).chan.phase = .idle)
  (List.range d.programs.length).foldl (fun (a : State) i => match free[i]?, d.programs[i]? with
    | some n, some q => a.updSys n fun c => c.resumed q d.step.stepNum
    | _, _ => a) s

/-- The schedule record applied (step 4). -/
def State.putSched (s : State) (p : Nat) (d : Sched) : State :=
  let s1 := s.updJob p fun j => { j with step := d.step, lossPolicy := d.lossPolicy, lossInForce := d.lossPolicy, gfmtPolicy := d.gfmtPolicy, retryCfg := d.retry }
  let s2 := ((s1.putStreams p d).putLabels p d).putPrograms p d
  let s3 := s2.updPart p fun x => (List.range d.owners.length).foldl (fun (y : Part) o =>
    let v := d.owners.getD o (0, 0)
    { y with ingestSeq := Store.set 0 y.ingestSeq o v.1, released := Store.upd 0 y.released o (Nat.max v.2) }) x
  (s3.updJob p fun j => { j with fresh := false }).loadCommitted p

/-- Steps 2 to 4 on a manifest that matches. -/
def State.applyCopy (s : State) (p serial epoch nonce : Nat) (l : Layout) (recs : List (List Byte)) : State × Status :=
  let s1 := (s.updSnap p fun x => { x with area := .restoring }).refill p
  let (st, stream) := s1.openStates p serial epoch nonce (snapCount l) recs
  if st ≠ .done then (s1, st)
  else
    let (s2, st2) := s1.putStream p l stream
    if st2 ≠ .done then (s2, st2)
    else
      let bs := recs.getD (snapCount l) []
      let r := openRecord (s2.ckptKey p serial) ⟨snapSchedule, s.sessionId p, serial, epoch, nonce, schedIndex, (SnapHeader.ofBytes bs).len⟩ bs
      if r.1 ≠ .done then (s2, r.1)
      else
        let x := s2.part p
        let j := s2.job p
        (s2.putSched p (Sched.ofBytes r.2 x.quotaEntries.length j.place.length (j.vaSize / 2097152) x.rec_.owners), .done)

/-- A restore (R393). -/
def State.restoreFrom (s : State) (p serial epoch : Nat) (root : BitVec 256) : State × Status :=
  match (s.job p).image with
  | none => (s, .accessDenied)
  | some im =>
    let l := im.body.layout
    let s0 := s.updJob p fun j => { j with restorePending := true }
    let (s1, st, recs) := s0.areaRecords p false (snapCount l)
    if st ≠ .done then (s1, .busHalt)
    else match s1.openManifest p serial epoch (recs.getLast?.getD []) with
      | (.done, m, nonce) =>
        if m.root ≠ root ∨ m.program ≠ im.digest then (s1, .digestMismatch)
        else if m.ranges ≠ snapRanges l ∨ m.size ≠ snapSize l ∨ m.count ≠ snapCount l then (s1, .versionUnsupported)
        else
          let (s2, st2) := s1.applyCopy p serial epoch nonce l recs
          let s3 := s2.updSnap p fun x => { x with area := .complete }
          (if st2 = .done then s3.updJob p fun j => { j with restorePending := false } else s3, st2)
      | (st2, _, _) => (s1, st2)

end Sys2Proof.Machine
end

