-- ==== Sys2Proof/Machine/Ports.lean ====
section
/-! DEFINITION. Ports as shared operations (R316 to R340): changes of state with their reports, the link layer's receiving side, the judgement of DATA frames, delivery by KIND, and sending. -/

namespace Sys2Proof.Machine

/-! ### Changes of state (R325, R372, R469) -/

/-- The optical clocks of a port run (Table 17.4). -/
def PortState.lit : PortState → Bool
  | .off | .failed => false
  | _ => true

/-- OPTTX and OPTRX run while some port is neither OFF nor FAILED. -/
def State.opticalClocks (s : State) : State :=
  if (List.range 36).any fun k => (s.port k).state.lit then { s with pwr := s.pwr.startClks [10, 11] } else { s with pwr := (s.pwr.stopClk 10).stopClk 11 }

/-- Frames of a partition that a port no longer holds. -/
def Port.lostOf (old new : Port) (p : Nat) : Nat :=
  let mine := fun id => match old.entry id with
    | some e => decide (e.part = p)
    | none => false
  let count := fun (x : Port) => (x.txQ.filter fun u => mine u.pkid).length + (x.replay.filter fun r => mine r.pkid).length
  count old - count new

/-- Another UP port binds a partition to a rank that port k binds. -/
def State.otherPort (s : State) (k p : Nat) : Bool :=
  (s.port k).entries.all fun e => match e.2 with
    | some y => decide (y.part ≠ p) || (s.portsTo p y.peerRank true).any fun n => decide (n ≠ k)
    | none => true

/-- The fault that a port's change is for a partition it carries (R325, R372, Table 14.2). -/
def State.judgePort (s : State) (k : Nat) (old : Port) (p : Nat) : State :=
  let x := s.port k
  let lost := decide (0 < old.lostOf x p)
  let st := if x.lastStatus = .done then Status.timeout else x.lastStatus
  let bad := decide (x.state = .miswired ∨ x.state = .idFail ∨ x.state = .failed) || (decide (x.state = .off) && decide (old.state = .up ∨ old.state = .retrain))
  let s1 := if lost && old.owes 6 p && decide ((s.snap p).mirrorSt = .active) then s.updSnap p fun y => { y with mirrorSt := .failed } else s
  if bad then
    if lost || !s.otherPort k p then s1.jobFault clsLink srcLnk k st p 0 else s1.report clsDegraded srcLnk k st p 0
  else if old.state = .up ∧ x.state = .retrain ∧ s.otherPort k p then s1.report clsDegraded srcLnk k st p 0
  else s1

/-- A training has ended in this state. -/
def PortState.settled : PortState → Bool
  | .training | .ident | .retrain => false
  | _ => true

/-- The command that waits for a training completes with LAST_STATUS. -/
def State.endTraining (s : State) (k : Nat) : State :=
  let x := s.port k
  match x.asker with
  | some w => if x.state.settled then (s.setPort k { x with asker := none }).complete w.1 w.2.1 w.2.2 x.lastStatus 0 0 else s
  | none => s

/-- Entries that have gone over and have heard the new generation let the old slot go (R332). -/
def State.closeGens (s : State) (k : Nat) : State :=
  let gone := (s.port k).entries.filterMap fun e => match e.2 with
    | some y => (match y.next with
      | some (n, _) => if y.flipped = true ∧ y.rxSeq ≠ 0 then some (e.1, y.part, n) else none
      | none => none)
    | none => none
  gone.foldl (fun (a : State) c =>
    (a.updPort k fun x => x.setEntry c.1 ((x.entry c.1).map fun y => { y with next := none, flipped := false })).freeLink c.2.1 c.2.2) s

/-- Entries of a port go over to their new slots where they may (R332). -/
def State.rekeyPort (s : State) (k : Nat) : State := (s.updPort k Port.rekeyAll).closeGens k

/-- Everything that follows a port's change of state. -/
def State.portMoved (s : State) (k : Nat) (old : Port) : State :=
  let x := s.port k
  if x.state = old.state then s
  else
    let s1 := (s.trace 0x0400 noPart 0 [k, old.state.code, x.state.code]).opticalClocks
    let s2 := if x.state = .up ∧ 32 ≤ k then { s1 with res := { s1.res with twin := x.peerSerial } } else s1
    let s3 := x.parts.eraseDups.foldl (fun (a : State) p => a.judgePort k old p) s2
    let s4 := if x.state = .up then (s3.sayReady k).rekeyPort k else s3
    s4.endTraining k

/-- Change a port, with what follows. -/
def State.movePort (s : State) (k : Nat) (f : Port → Port) : State := (s.updPort k f).portMoved k (s.port k)

/-- Every frame kept for replay goes out again. -/
def State.emitReplay (s : State) (k : Nat) : State := s.emit ((s.port k).replay.map fun r => .fibre k r.bytes)

/-- The link layer starts anew with a peer: numbers, replay and credits. -/
def Port.anew (x : Port) : Port := { x with txLseq := 0, rxLseq := 0, nak := false, replay := [], spent := [] }

/-- Into RETRAIN (R325). -/
def State.retrainPort (s : State) (k : Nat) : State := s.movePort k fun x => x.enterRetrain s.links.retrainLimit

/-- Frames discarded, and the port to a state. -/
def Port.dropTo (x : Port) (st : PortState) (last : Status) : Port := { x.discard (fun _ => true) with state := st, lastStatus := last, before := none }

/-! ### The link layer (R327 to R329) -/

/-- What a received header says of the other direction has been taken: resends go out, acknowledged copies end, held re-keys go on, and a frame sent too often retrains the port. -/
def State.hearPort (s : State) (k : Nat) (o : Outer) : State :=
  let s1 := s.updPort k fun x => x.hearHeader o
  let s2 := if o.nak then s1.emitReplay k else s1
  let s3 := (s2.copiesAcked).rekeyPort k
  if (s3.port k).state = .up && (s3.port k).retryOut s.links.retryLimit then s3.retrainPort k else s3

/-- A frame at the link layer: dropped with a NAK, or passed up with its header. -/
def State.linkLayer (s : State) (k : Nat) (bs : List Byte) : State × Option Outer :=
  if !crcOk bs then (s.updPort k fun x => { x with nak := true }, none)
  else
    let o := Outer.ofWord (field bs 0 16)
    let s1 := (s.updPort k fun x => { x with rxBytes := (x.rxBytes + bs.length) % 2 ^ 64 }).hearPort k o
    if o.type = 0 then (s1, some o)
    else if o.lseq ≠ ((s.port k).rxLseq + 1) % 16384 then (s1.updPort k fun x => { x with nak := true }, none)
    else (s1.updPort k fun x => { x with rxLseq := o.lseq }, some o)

/-- The receive buffer's units of a frame that is done with are owed to the peer. -/
def State.owe (s : State) (k vc n : Nat) : State := s.updPort k fun x => { x with owed := Store.upd 0 x.owed vc (· + n) }

/-- Bytes of a frame by its header (Table 12.5). -/
def Outer.frameLen (o : Outer) : Nat := 56 + 64 * o.len + (if o.pmap then 16 * ceilDiv o.len 8 else 0)

/-- Count AUTH_FAIL, REPLAY or DROP_NOKEY. -/
def Port.countAuth (x : Port) : Port := { x with authFail := satAdd 16 x.authFail 1 }
def Port.countReplay (x : Port) : Port := { x with replayCnt := satAdd 16 x.replayCnt 1 }
def Port.countNoKey (x : Port) : Port := { x with dropNoKey := satAdd 16 x.dropNoKey 1 }

/-! ### DATA frames (R331 to R333) -/

/-- Generations under which a received frame may open: slot, last SEQ accepted, whether it is the other one. A 2.0 link marks them by KG. -/
def PkidEntry.gens (e : PkidEntry) (marks : Bool) (kg : Nat) : List (Nat × Nat × Bool) :=
  let other := match e.next with
    | some (n, _) => if n = 0 then [] else [(n, e.rxNext, true)]
    | none => []
  if marks then (if kg = e.kg then [(e.slot, e.rxSeq, false)] else other) else (e.slot, e.rxSeq, false) :: other

/-- The tag of a received frame passes under a LINK slot. -/
def State.frameOk (s : State) (k slot : Nat) (o : Outer) (bs : List Byte) : Bool :=
  let x := s.port k
  let nonce := frameNonce x.peerPort (decide (x.peerSerial < s.sec.fuses.serial)) o.seq
  decide (bs.length = o.frameLen) && decide (Config.gcmTag (s.sec.keyOf slot) nonce (bs.take 16) (frameCipher bs) = frameTag bs)

/-- The opened body of a received frame. -/
def State.frameBody (s : State) (k slot : Nat) (o : Outer) (bs : List Byte) : List Byte :=
  let x := s.port k
  gcmOpened (s.sec.keyOf slot) (frameNonce x.peerPort (decide (x.peerSerial < s.sec.fuses.serial)) o.seq) (bs.take 16) (frameCipher bs)

/-- The tile that a lost QUEUE frame is laid to: the consumer of the message in progress on the port, else logical tile 0 (R333). -/
def State.lossTile (s : State) (k p : Nat) : Option Nat :=
  let m := (s.port k).inMsgs.find? fun m => decide (m.part = p)
  match m.bind fun m => s.streams.find p m.stream m.level with
  | some i => if (s.streams.entry i).consumer < 156 then some (s.streams.entry i).consumer else (s.tilesOf p).head?
  | none => (s.tilesOf p).head?

/-- A loss that is a stage fault of the partition (R333). -/
def State.lossFault (s : State) (k p : Nat) : State :=
  match s.lossTile k p with
  | none => s
  | some t =>
    let x := s.tile t
    let r := match (x.unit unitQin).cur with
      | f :: _ => f.issued.idx
      | [] => x.disp.pc
    s.stageFault t .tagFail r unitQin

/-- Mark of a frame of KIND COLLECTIVE that was lost: no inner header has it. -/
abbrev lostExt : Nat := 2 ^ 49

/-- Lost frames whose VC says COLLECTIVE (Table 12.8): their units are poison, the epoch is TAINTED (R363). -/
def State.lossColl (s : State) (k p : Nat) (ms : List (Nat × Nat)) : State :=
  let c := s.coll.part p
  let data := ms.any fun m => decide (m.1 ≠ 3)
  { s with coll := s.coll.setPart p { c with
    taint := c.taint || data
    lostUnits := satAdd 16 c.lostUnits (ms.map Prod.snd).sum
    frames := c.frames ++ ms.map fun m => (⟨k, lostExt, m.1, List.replicate m.2 poisonWords⟩ : ColFrame) } }

/-- Frames missing before an accepted one are lost (R333 row 4). -/
def State.loseFrames (s : State) (k p n : Nat) (ms : List (Nat × Nat)) : State :=
  if n = 0 then s
  else if ms.length = n ∧ ms.all fun m => decide (1 ≤ m.1 ∧ m.1 ≤ 3) then s.lossColl k p ms
  else s.lossFault k p

/-- A QUEUE frame (R338). -/
def State.hearQueue (s : State) (k p : Nat) (o : Outer) (i : Inner) (data : List Line) (units : Nat) : State :=
  match s.streams.find p i.stream i.level with
  | some e =>
    if (s.streams.entry e).kind = kindLinkIn then
      let s1 := if i.first then
          let m : InMsg := ⟨p, i.stream, i.level, i.lenPkts, i.label, 0, 0, false⟩
          { s.updPort k fun x => { x with inMsgs := x.inMsgs ++ [m] } with streams := { s.streams with asking := s.streams.asking ++ [⟨e, 156 + k, i.lenPkts, i.label⟩] } }
        else s
      if (s1.port k).inMsgs.any fun m => decide (m.part = p ∧ m.stream = i.stream ∧ m.level = i.level) then
        (s1.updPort k fun x => { x with held := x.held ++ [⟨o.vc, p, i.stream, i.level, units, data⟩] }).landAll k
      else s1.owe k o.vc units
    else ((s.updPort k Port.countAuth).owe k o.vc units).lossFault k p
  | none => ((s.updPort k Port.countAuth).owe k o.vc units).lossFault k p

/-- Delivery by KIND (Table 12.7). -/
def State.deliver (s : State) (k p : Nat) (o : Outer) (body : List Byte) : State :=
  let i := Inner.ofWord (field body 0 16)
  let data := bodyData o body
  let units := frameUnits o.frameLen
  match FrameKind.ofCode i.kind with
  | none => (s.updPort k Port.countAuth).owe k o.vc units
  | some .queue => s.hearQueue k p o i data units
  | some .collective => { s.owe k o.vc units with coll := s.coll.updPart p fun c => { c with frames := c.frames ++ [⟨k, i.ext, o.vc, data⟩] } }
  | some .system => (s.owe k o.vc units).hearSystem p i data
  | some .control => s.owe k o.vc units

/-- The judgement of Table 12.9. -/
def State.judgeData (s : State) (k : Nat) (o : Outer) (bs : List Byte) : State :=
  let x := s.port k
  let units := frameUnits bs.length
  match x.entry o.pkid with
  | none => (s.updPort k Port.countNoKey).owe k o.vc units
  | some e =>
    let live := (e.gens (decide (x.version = 3)) o.kg).filter fun g => decide (s.sec.useSlot g.1 e.part [kindLink] = .done)
    match live with
    | [] => (s.updPort k Port.countNoKey).owe k o.vc units
    | g0 :: _ =>
      let g := (live.find? fun g => s.frameOk k g.1 o bs).getD g0
      if o.seq ≤ g.2.1 then (s.updPort k Port.countReplay).owe k o.vc units
      else if !s.frameOk k g.1 o bs then
        (s.updPort k fun y => y.countAuth.setEntry o.pkid (some { e with missing := e.missing ++ [(o.vc, o.len)] })).owe k o.vc units
      else
        let e1 := { (if g.2.2 then { e with rxNext := o.seq } else { e with rxSeq := o.seq }) with missing := [] }
        let s1 := ((s.updPort k fun y => y.setEntry o.pkid (some e1)).closeGens k).loseFrames k e.part (o.seq - g.2.1 - 1) e.missing
        s1.deliver k e.part o (s.frameBody k g.1 o bs)

/-- The slot of the class link key (Table 10.2). -/
abbrev classSlot : Nat := 3

/-! ### Sending (R327 to R331, R337) -/

/-- Take the packets of a ring's next frame, parity checked as they are read (R183, R337). -/
def State.popRing : Nat → State → Nat → State × List Line
  | 0, s, _ => (s, [])
  | n + 1, s, i =>
    let e := s.streams.entry i
    let (q, p, bad) := s.streams.pop i
    let s1 : State := { s with streams := q }
    let s2 := (List.range bad).foldl (fun (a : State) _ => (a.trace 0x0300 e.part 0 [i]).report clsDegraded srcQue e.consumer .poison e.part i) s1
    let r := State.popRing n s2 i
    (r.1, p.words :: r.2)

/-- A unit with the data it carries. -/
def State.fillUnit (s : State) (u : OutUnit) : State × OutUnit :=
  match u.ring with
  | none => (s, u)
  | some (i, n) =>
    let r := s.popRing n i
    (r.1, { u with data := r.2, ring := none })

/-- Header, key and initialisation vector of a unit's frame; none when its slot is not usable. A CONFIRM has SEQ 0 (R330), a control frame the counter of R334. -/
def State.sealUnit (s : State) (k : Nat) (u : OutUnit) : Option (List Byte × Port) :=
  let x := s.port k
  let pm := u.data.any fun l => l.any TWord.poison
  let crvc := ((List.range 8).find? fun v => decide (Store.get 0 x.owed v ≠ 0)).getD 0
  let back := Nat.min (Store.get 0 x.owed crvc) 4095
  let o : Outer := ⟨if u.pkid = 0 then 2 else 1, u.vc, u.pkid, u.data.length, pm, 0, (x.txLseq + 1) % 16384, x.rxLseq, x.nak, crvc, back, 0⟩
  let y := { x with txLseq := o.lseq, nak := false, owed := Store.upd 0 x.owed crvc (· - back) }
  if u.pkid = 0 then
    let nonce := match x.sent with
      | some h => h.nonce.toNat
      | none => 0
    let iv := s.sec.fuses.serial + nonce <<< 64 + x.ctrlTx <<< 320
    some (sealFrame (s.sec.keyOf classSlot) iv { o with seq := x.ctrlTx } (bodyBytes u), { y with ctrlTx := x.ctrlTx + 1 })
  else match x.entry u.pkid with
    | none => none
    | some e =>
      if s.sec.useSlot e.slot e.part [kindLink] ≠ .done then none
      else
        let seq := if u.inner.kind = FrameKind.control.code then 0 else e.txSeq + 1
        let nonce := frameNonce k (decide (s.sec.fuses.serial < e.peerSerial)) seq
        some (sealFrame (s.sec.keyOf e.slot) nonce { o with kg := e.kg, seq := seq } (bodyBytes u),
          y.setEntry u.pkid (some (if seq = 0 then e else { e with txSeq := seq })))

/-- Room of the replay buffer (R328). -/
abbrev replayBytes : Nat := 262144

def Port.replayed (x : Port) : Nat := (x.replay.map fun r => r.bytes.length).sum

/-- The next frame of a VC leaves when credits and replay room allow it (R328, R329). -/
def State.sendOne (s : State) (k vc : Nat) : Option State :=
  let x := s.port k
  match takeUnit (fun u => decide (u.vc = vc) && !x.holds u.pkid) x.txQ with
  | none => none
  | some (u, rest) =>
    let (s1, v) := (s.setPort k { x with txQ := rest }).fillUnit u
    match s1.sealUnit k v with
    | none => none
    | some (bs, y) =>
      if x.credits vc < frameUnits bs.length ∨ replayBytes < x.replayed + bs.length then none
      else
        let z := { y with
          spent := Store.upd 0 y.spent vc (· + frameUnits bs.length)
          replay := y.replay ++ [⟨y.txLseq, u.pkid, bs, 1⟩]
          txBytes := (y.txBytes + bs.length) % 2 ^ 64 }
        let s2 := (s1.setPort k z).emit [.fibre k bs]
        some (match u.ring with
          | some (i, _) => s2.cutAll i
          | none => s2)

/-- An IDLE frame keeps acknowledgements and credits flowing; it takes no LSEQ. -/
def State.sendIdle (s : State) (k : Nat) : State :=
  let x := s.port k
  let crvc := ((List.range 8).find? fun v => decide (Store.get 0 x.owed v ≠ 0)).getD 0
  let back := Nat.min (Store.get 0 x.owed crvc) 4095
  let bs := idleFrame ⟨0, 0, 0, 0, false, 0, x.txLseq, x.rxLseq, x.nak, crvc, back, 0⟩
  (s.setPort k { x with nak := false, owed := Store.upd 0 x.owed crvc (· - back), txBytes := (x.txBytes + bs.length) % 2 ^ 64 }).emit [.fibre k bs]

end Sys2Proof.Machine
end

