-- ==== Sys2Proof/Machine/ExecSnap.lean ====
section
/-! DEFINITION. Snapshots, copies, fills and restore (chapter 14). -/

namespace Sys2Proof.Machine

/-- Action 3 is over: the boundary goes on, unless a fault has stopped the run. -/
def State.afterSnapshot (s : State) (p : Nat) : State :=
  match (s.job p).run with
  | some r => if r.phase = .snapshot then s.toMaintenance p else s
  | none => s

/-- SNAPSHOT (R379): once every LINK frame of the partition is delivered and acknowledged. -/
def execSnapshot (p : Fin 16) (s : State) : Result :=
  match (s.job p).run with
  | none => .next s
  | some r =>
    if r.phase ≠ .snapshot ∨ s.linksQuiet p = false then .next s
    else
      let (s1, st) := s.capture p
      .next (if st = .done then ((s1.startCopies p).rekeySnapped p).afterSnapshot p else s1.afterSnapshot p)

/-- SNAPSHOT_REQUEST (R378). -/
def execSnapshotRequest (p : Fin 16) (s : State) : Result :=
  if (s.part p).live then .next (s.updSnap p fun x => { x with reqPending := true }) else .next s

/-- MIRROR_FILL_CHECK (R384): a copy whose records have all landed, the mirror first. -/
def execMirrorFillCheck (p : Fin 16) (s : State) : Result :=
  match s.endFill p true with
  | some s1 => .next s1
  | none => match s.endFill p false with
    | some s1 => .next s1
    | none => .next s

/-- Offsets and lengths of records in a row. -/
def recordSpans (base : Nat) (recs : List (List Byte)) : List (Nat × Nat) :=
  (recs.foldl (fun (acc : List (Nat × Nat) × Nat) bs => (acc.1 ++ [(acc.2, bs.length)], acc.2 + bs.length)) ([], base)).1

/-- The drain's records and directory entry (R385). -/
def State.drainTo (s : State) (p : Nat) (c : Copy) (recs : List (List Byte)) : State :=
  let n := (recs.map List.length).sum
  match s.flash.room s.flash.snaps.length n with
  | some (base, f) =>
    let f1 := (f.put base recs.flatten)
    let x : FlashSnap := ⟨c.session, c.serial, c.epoch, c.root, base, recordSpans base recs, true, c.stale⟩
    { s.updSnap p (fun y => { y with flashSt := .done }) with flash := { f1 with snaps := f1.snaps ++ [x] } }
  | none => (s.updSnap p fun y => { y with flashSt := .failed }).report clsDegraded srcRes 0 .noResource p c.epoch

/-- FLASH_DRAIN_COMPLETE (R385): the directory entry, or no space. -/
def execFlashDrainComplete (p : Fin 16) (s : State) : Result :=
  let x := s.snap p
  if x.flashSt ≠ .active then .next s
  else match s.layoutOf p, x.localCopy with
    | some l, some c => match s.areaRecords p false (snapCount l) with
      | (s1, .done, recs) => .next (s1.drainTo p c recs)
      | (s1, st, _) => .next ((s1.updSnap p fun y => { y with flashSt := .failed }).report clsDegraded srcRes 0 st p c.epoch)
    | _, _ => .next (s.updSnap p fun y => { y with flashSt := .failed })

/-! ### Host commands -/

/-- Every page of a range is mapped to STAGING. -/
def State.allStaging (s : State) (p : Nat) (maps : List MapRun) (va n : Nat) : Bool :=
  let q := pageSpan va n
  (List.range q.2).all fun i => s.vaStaging p maps ((q.1 + i) * 2097152)

/-- Bytes that an area needs: state records, the longest schedule record, manifest (R377, R381). -/
def State.areaNeed (s : State) (p : Nat) (l : Layout) : Nat :=
  let x := s.part p
  let j := s.job p
  let slots := (x.quotaEntries.map fun i => let e := s.streams.entry i; if e.state ≠ .free ∧ e.kind = kindLinkIn then e.slots else 0).sum
  Sys2Proof.Machine.areaBytes l (8320 + 16 * x.quotaEntries.length + 66 * slots + 8 * j.place.length + 48 * 33024 + 4 * (j.vaSize / 2097152) + 16 * x.rec_.owners + 8)

/-- SNAP_CONFIG (R377, R420). -/
def execSnapConfig (fn : Fin 17) (q : Fin 8192) (s : State) : Result :=
  .next (s.hostCmd fn q 0x40 fun a c ctx =>
    let p := fnPart fn
    let maps := a.cmdMaps fn ctx c
    let va := c.entry.p0
    let n := c.entry.p1
    let mv := c.entry.p2
    let x := a.snap p
    match a.layoutOf p with
    | none => ends a .accessDenied
    | some l =>
      if !x.free ∨ va % 64 ≠ 0 ∨ mv % 64 ≠ 0 ∨ a.allStaging p maps va n = false ∨ (mv ≠ 0 ∧ a.allStaging p maps mv n = false) ∨
         (l.snap.any fun r => overlaps r.1 r.2 va n) then ends a .accessDenied
      else if n < a.areaNeed p l then (a, .done .noResource (a.areaNeed p l) 0)
      else
        let lm := mapsIn maps va n
        let mm := if mv = 0 then [] else mapsIn maps mv n
        let a1 := a.updSnap p fun y => { y.emptied with localArea := some (va, n), mirrorArea := if mv = 0 then none else some (mv, n), localMap := lm, mirrorMap := mm }
        let o := a1.hif.obj p
        let h := (a1.hif.setObj p { o with areas := mapMems lm ++ mapMems mm }).sweep p
        ends { a1 with hif := h } .done)

/-- SNAP_HOLD (R386). -/
def execSnapHold (fn : Fin 17) (q : Fin 8192) (s : State) : Result :=
  .next (s.hostCmd fn q 0x41 fun a c _ =>
    let p := fnPart fn
    if (a.snap p).localArea.isNone then ends a .accessDenied
    else ends (a.updSnap p fun x => { x with hold := bit c.entry.p0 0 }) .done)

/-- A census entry (Table 15.10). -/
def censusEntry (kind : Nat) (complete stale : Bool) (c serial epoch : Nat) (root : BitVec 256) : List Byte :=
  natBytes kind 1 ++ natBytes (b2n complete + 2 * b2n stale) 1 ++ [0, 0] ++ natBytes c 4 ++ natBytes serial 8 ++ natBytes epoch 8 ++ natBytes root.toNat 32 ++ List.replicate 8 0

/-- Every holding of a partition's session: LOCAL, MIRROR, FLASH (R388). -/
def State.census (s : State) (p : Nat) : List (List Byte) :=
  let x := s.snap p
  let c := match s.layoutOf p with
    | some l => snapCount l
    | none => 0
  let copy := fun (kind : Nat) (held : Option Copy) (coming : Option FillState) => match held, coming with
    | some y, _ => [censusEntry kind true y.stale c y.serial y.epoch y.root]
    | none, some f => [censusEntry kind false false c f.serial f.epoch 0]
    | none, none => []
  copy 1 x.localCopy x.localFill ++ copy 2 x.mirrorCopy x.mirrorFill ++
    (s.flash.snaps.filter fun f => decide (f.session = s.sessionId p)).map fun f => censusEntry 3 f.complete f.stale (f.recs.length - 2) f.serial f.epoch f.root

/-- CENSUS. -/
def execCensus (fn : Fin 17) (q : Fin 8192) (s : State) : Result :=
  .next (s.hostCmd fn q 0x42 fun a c _ =>
    let es := (a.census (fnPart fn)).take c.entry.p1
    (a.emit (if es.isEmpty then [] else [.hostWrite fn c.entry.p0 es.flatten]), .done .done es.length 0))

/-- Records of a snapshot in flash. -/
def FlashSnap.read (x : FlashSnap) (f : Flash) : List (List Byte) := x.recs.map fun r => f.read r.1 r.2

/-- A copy brought whole into the local area is checked as a fill (R384, R392). -/
def State.fillWith (s : State) (p serial epoch : Nat) (put : Bool) (recs : List (List Byte)) : State × Status :=
  let s1 := s.updSnap p fun y => if (match y.localCopy with
      | some c => decide (c.serial = serial ∧ c.epoch = epoch)
      | none => false) then y else y.fillLocal ⟨serial, epoch, (SnapHeader.ofBytes (recs.headD [])).nonce, [], []⟩
  let (s2, st2) := if put then s1.areaPutAll p false recs else (s1, Status.done)
  let (st, root) := if st2 = .done then s2.judgeCopy p serial epoch recs else (st2, 0)
  if st = .done then (s2.updSnap p fun y => y.keepLocal ⟨s.sessionId p, serial, epoch, root, false⟩, .done)
  else (s2.updSnap p fun y => { y.fillLocal ⟨serial, epoch, 0, [], []⟩ with lastStatus := st }, st)

/-- FILL from the mirror held here: over every UP fabric port that binds the target's rank (R392); the command ends when every frame is acknowledged. -/
def State.fillOut (s : State) (p serial epoch rank : Nat) (asker : Nat × Nat × Nat) : State × CmdEnd :=
  let x := s.snap p
  let ports := (s.portsTo p rank true).filter fun k => decide (k < 32)
  match s.layoutOf p, x.mirrorCopy with
  | some l, some m =>
    if m.serial ≠ serial ∨ m.epoch ≠ epoch ∨ x.asker.isSome then ends s .accessDenied
    else if ports.isEmpty then ends s .noResource
    else match s.areaRecords p true (snapCount l) with
      | (s1, .done, recs) => ((s1.sendRecords p ports 7 true (snapCount l) recs).updSnap p fun y => { y with asker := some asker }, .running)
      | (s1, st, _) => ends s1 st
  | _, _ => ends s .accessDenied

/-- FILL (R392). -/
def execFill (fn : Fin 17) (q : Fin 8192) (s : State) : Result :=
  .next (s.hostCmd fn q 0x43 fun a c _ =>
    let p := fnPart fn
    let serial := c.entry.p1
    let epoch := c.entry.p2
    let src := bits c.entry.p0 0 2
    if 2 ≤ src then ends a .versionUnsupported
    else if src = 0 then a.fillOut p serial epoch (bits c.entry.p0 16 16) (fn, q, c.entry.seq)
    else match a.flash.find (a.sessionId p) serial epoch with
      | none => ends a .accessDenied
      | some x =>
        if !(a.snap p).free ∨ (a.snap p).localArea.isNone then ends a .accessDenied
        else
          let (a1, st) := a.fillWith p serial epoch true (x.read a.flash)
          ends a1 st)

/-- FILL_CHECK (R392): the records that the host wrote through BAR4. -/
def execFillCheck (fn : Fin 17) (q : Fin 8192) (s : State) : Result :=
  .next (s.hostCmd fn q 0x44 fun a c _ =>
    let p := fnPart fn
    match a.layoutOf p with
    | none => ends a .accessDenied
    | some l =>
      if !(a.snap p).free ∨ (a.snap p).localArea.isNone then ends a .accessDenied
      else match a.areaRecords p false (snapCount l) with
        | (a1, .done, recs) =>
          let (a2, st) := a1.fillWith p c.entry.p1 c.entry.p2 false recs
          ends a2 st
        | (a1, st, _) => ends (a1.updSnap p fun y => { y with lastStatus := st }) st)

/-- RESTORE (R393). -/
def execRestore (fn : Fin 17) (q : Fin 8192) (host : HostData) (s : State) : Result :=
  .next (s.hostCmd fn q 0x45 fun a c _ => withHost a host fun bs =>
    let p := fnPart fn
    let x := a.snap p
    let root : BitVec 256 := BitVec.ofNat 256 (field bs 0 32)
    let named : Bool := match x.localCopy with
      | some y => decide (y.serial = c.entry.p1 ∧ y.epoch = c.entry.p2 ∧ y.root = root)
      | none => false
    if (a.part p).sess ≠ .active ∨ (a.job p).run.isSome ∨ x.area ≠ .complete ∨ !named then ends a .accessDenied
    else
      let (a1, st) := a.restoreFrom p c.entry.p1 c.entry.p2 root
      ends (a1.updSnap p fun y => { y with lastStatus := st }) st)

/-- FLASH_READ (R413): the snapshot that a census entry names, into staging. -/
def execFlashRead (fn : Fin 17) (q : Fin 8192) (host : HostData) (s : State) : Result :=
  .next (s.hostCmd fn q 0x46 fun a c ctx => withHost a host fun bs =>
    let p := fnPart fn
    let maps := a.cmdMaps fn ctx c
    match a.flash.find (a.sessionId p) (field bs 8 8) (field bs 0x10 8) with
    | none => ends a .accessDenied
    | some x =>
      let data := (x.read a.flash).flatten
      if field bs 0 1 ≠ 3 ∨ BitVec.ofNat 256 (field bs 0x18 32) ≠ x.root ∨ a.allStaging p maps c.entry.p1 data.length = false then ends a .accessDenied
      else
        let b := a.vaWrite (.sysChan p) p maps c.entry.p1 (cleanWords data)
        (b.s, .done b.status (if b.status = .done then data.length else 0) 0))

end Sys2Proof.Machine
end

