-- ==== Sys2Proof/Machine/View.lean ====
section
/-! DEFINITION. Registers as their readers see them: the words of the tile registers, the sample taken every 1 ms, and its coarsening (R308, R309, Table 15.13). -/

namespace Sys2Proof.Machine

/-! ### Words of tile registers -/

/-- A unit holds a record in progress. -/
def Tile.working (t : Tile) (u : Nat) : Bool := !(t.unit u).cur.isEmpty

/-- TIL_STAGE_STATUS (Table 2.11). -/
def Tile.stageWord (t : Tile) : Nat :=
  let r := t.standing.1
  let blocked := decide (t.stage.state = .running) && !t.tokenOk r
  t.stage.state.code + t.stage.fault.code <<< 8 + (t.stage.faultRec % 8192) <<< 16 + (t.stage.faultUnit % 8) <<< 29 + t.stage.leftover <<< 32 +
  (if blocked then r.wtok % 16 else 0) <<< 48 + b2n blocked <<< 52

/-- MXE_STATUS (Table 4.10); a record in progress shows COMPUTING. -/
def Tile.mxeWord (t : Tile) : Nat :=
  b2n (t.working unitMxe) <<< 1 + ((t.unit unitMxe).cur.foldl (fun acc x => acc ||| x.tag % 16) 0) <<< 8 + t.mxe.lastStatus.code <<< 16

/-- VEC_STATUS (Table 5.8); a record in progress shows STREAMING. -/
def Tile.vecWord (t : Tile) : Nat :=
  (if t.vec.clearing then 6 else if t.vec.mode = 1 then 5 else if t.working unitVec then 2 else 0) + b2n t.vec.rowEmpty <<< 16 +
  b2n t.vec.rowInf <<< 17 + b2n t.vec.rowNan <<< 18 + (t.vec.lastOp % 256) <<< 24 + t.vec.lastStatus.code <<< 32

/-- QUE_EP_STATUS (Table 7.6). -/
def State.epWord (s : State) (t : Nat) : Nat :=
  let e := (s.tile t).ep
  let tx := match e.tx with
    | some x => 1 + b2n (!x.locked) <<< 1 + b2n (x.locked && decide (x.credits = 0)) <<< 2
    | none => 0
  let rx := match e.rx with
    | some x => (match x.chosen with
      | some i => 1 <<< 7 + (s.streams.entry i).level <<< 8
      | none => 1 <<< 11)
    | none => 0
  tx + rx + (s.streams.reqPending t) <<< 16 + e.txLast.code <<< 32 + e.rxLast.code <<< 40

/-- QUE_EP_ERR (Table 7.7). -/
def Endpoint.errWord (e : Endpoint) : Nat := b2n e.hdrFatal + e.hdrFixed <<< 8 + e.parityCnt <<< 16 + e.flushDrop <<< 48

/-- MPR_PERR and MPR_PART of a partition (Tables 9.11 and 9.14). -/
def MprPart.errWord (m : MprPart) : Nat := m.tagFail + m.poisonRead <<< 16 + m.errRevoked <<< 32

def Hbm.partWord (h : Hbm) (p : Nat) : Nat :=
  let m := h.part p
  let run := h.running fun x => decide (x.part = p ∧ x.kind = .rekey)
  let sess := h.running fun x => decide (x.part = p ∧ x.kind = .sessionRekey)
  let pass := if run then 1 else if sess then 2 else if h.hasRekey p then 3 else 0
  m.curSlot + b2n m.curValid <<< 11 + m.nextSlot <<< 16 + b2n m.nextValid <<< 27 + pass <<< 32 + m.epoch <<< 40 + b2n m.exhausted <<< 48 + b2n m.gone <<< 49

/-! ### Registers by selector (Table 15.13) -/

/-- Bytes of memory objects and of mappings of a context, and its commands. -/
def State.ctxWord (s : State) (p reg c : Nat) : Nat :=
  let f := s.hif.fn (p + 1)
  match f.ctx c with
  | none => 0
  | some x =>
    if reg = 0 then (x.mems.map fun m => match Store.get none (s.hif.obj p).mems m with
      | some o => o.pages * 2097152
      | none => 0).sum
    else if reg = 1 then (x.maps.map fun r => r.pages * 2097152).sum
    else if reg = 2 then (f.cmdsOf c).length
    else 0

/-- LNK_STATUS as a tenant may see it: STATE, VERSION, STRICT and DEGRADED. -/
def lnkTenantMask : Nat := 0xF + 0x3 <<< 4 + 1 <<< 6 + 1 <<< 7

/-- A register of a partition, exact. -/
def State.regRaw (s : State) (p block reg unit : Nat) : Nat :=
  let j := s.job p
  let t := match j.place[unit]? with
    | some u => s.tile u
    | none => .reset
  match block, reg with
  | 1, 0 => t.stageWord
  | 1, 1 => t.label.toNat
  | 1, 2 => j.step.stepNum
  | 1, 3 => j.step.optStep
  | 1, 4 => j.step.statusWord
  | 1, 5 => j.step.lossWord
  | 2, 0 => t.mxeWord
  | 2, 1 => t.mxe.flags.toNat
  | 2, 2 => t.mxe.active
  | 2, 3 => t.mxe.macs / 1024
  | 2, n => (Store.get scaleOne t.mem.scale (n - 4)).toNat
  | 3, 0 => t.vecWord
  | 3, 1 => t.vec.flags.toNat
  | 3, 2 => t.vec.active
  | 3, 3 => t.vec.elems / 1024
  | 3, _ => t.vec.trans / 1024
  | 4, 0 => match j.place[unit]? with
    | some u => s.epWord u
    | none => 0
  | 4, 1 => t.ep.errWord
  | 4, 2 => t.ep.txPkts
  | 4, _ => t.ep.rxPkts
  | 5, 0 => t.dma.statusWord
  | 5, 1 => t.dma.errWord
  | 5, 2 => t.dma.rdLines
  | 5, 3 => t.dma.wrLines
  | 5, _ => t.dma.retries
  | 6, 0 => (s.hbm.part p).errWord
  | 6, _ => s.hbm.partWord p &&& (0x1FF <<< 40)
  | 7, 0 => s.sec.lcStatus
  | 7, 1 => s.sec.fuses.serial
  | 7, 2 => s.sec.attestWord
  | 7, _ => (s.part p).statusWord
  | 8, _ => (s.port unit).statusWord &&& lnkTenantMask
  | 9, 1 => (s.coll.part p).statusWord
  | 9, 2 => (s.coll.part p).integWord
  | 9, 3 => (s.coll.part p).errWord
  | 9, 4 => (s.coll.part p).own
  | 9, 5 => (s.coll.part p).majority
  | 10, 7 => (s.snap p).statusWord
  | 10, 8 => (s.snap p).epochWord
  | 10, 9 => (s.snap p).holdEpoch
  | 14, _ => s.ctxWord p reg unit
  | _, _ => 0

/-- Registers of each block that a partition's readers see sampled. -/
def sampledRegs : List (Nat × Nat) :=
  ((List.range 6).map fun r => (1, r)) ++ ((List.range 8).map fun r => (2, r)) ++ ((List.range 5).map fun r => (3, r)) ++
  ((List.range 4).map fun r => (4, r)) ++ ((List.range 5).map fun r => (5, r)) ++ [(6, 0), (6, 1), (7, 0), (7, 1), (7, 2), (7, 3), (8, 0)] ++
  ((List.range 5).map fun r => (9, r + 1)) ++ [(10, 7), (10, 8), (10, 9), (14, 0), (14, 1), (14, 2)]

/-- Units of a register: logical tiles, ports, contexts, or none. -/
def State.viewUnits (s : State) (p block reg : Nat) : List Nat :=
  if block = 1 ∧ 2 ≤ reg then [0]
  else if 1 ≤ block ∧ block ≤ 5 then List.range (s.job p).place.length
  else if block = 8 then List.range 36
  else if block = 14 then (s.hif.fn (p + 1)).ctxs.map Prod.fst
  else [0]

/-- Place of a sampled register. -/
def viewKey (p block reg unit : Nat) : Nat := ((p * 16 + block) * 256 + reg) * 65536 + unit

/-- Take the registers of a list as they stand. -/
def State.sample (s : State) (p : Nat) (regs : List (Nat × Nat)) : State :=
  { s with view := regs.foldl (fun (v : Store Nat) r => (s.viewUnits p r.1 r.2).foldl (fun (w : Store Nat) u => Store.set 0 w (viewKey p r.1 r.2 u) (s.regRaw p r.1 r.2 u)) v) s.view }

/-- No sample taken before a partition was created is shown for it (R308). -/
def State.freshView (s : State) (p : Nat) : State :=
  State.sample { s with view := Store.clear s.view (viewKey p 0 0 0) (16 * 256 * 65536) } p sampledRegs

/-- Fields of a register that count, as (lowest bit, width); the rest is status (R308). -/
def countFields (block reg : Nat) : List (Nat × Nat) :=
  if (block = 2 ∧ (reg = 2 ∨ reg = 3)) ∨ (block = 3 ∧ 2 ≤ reg) ∨ (block = 4 ∧ 2 ≤ reg) ∨ (block = 5 ∧ 2 ≤ reg) then [(0, 64)]
  else if block = 4 ∧ reg = 1 then [(8, 8), (16, 16), (48, 16)]
  else if block = 6 ∧ reg = 0 then [(0, 16), (16, 16), (32, 16)]
  else if block = 9 ∧ reg = 2 then [(16, 16), (32, 16), (48, 16)]
  else []

/-- A sampled value as it is shown. -/
def shownValue (block reg v : Nat) : Nat := (countFields block reg).foldl (fun acc f => setBits acc f.1 f.2 (coarsen (bits v f.1 f.2))) v

/-- What a tenant sees of a register of its partition. -/
def State.tenantView (s : State) (p block reg unit : Nat) : Nat := shownValue block reg (Store.get 0 s.view (viewKey p block reg unit))

/-- What the operator sees: the coarsened sum over the partition's tiles or contexts (R309). -/
def State.operatorSum (s : State) (p block reg : Nat) : Nat :=
  coarsen (((s.viewUnits p block reg).map fun u => Store.get 0 s.view (viewKey p block reg u)).sum % 2 ^ 64)

end Sys2Proof.Machine
end

