-- ==== Sys2Proof/Machine/ExecHost.lean ====
section
/-! DEFINITION. Meanings: the host interface (chapter 15): enabling a function, doorbells, interrupts, fence waits, and the commands on contexts, queues, memory objects, fences, staging copies and queries. -/

namespace Sys2Proof.Machine

/-! ### Functions, doorbells, interrupts (R404, R405, R407, R412) -/

/-- ENABLE goes from 0 to 1 (R407). A function in TDI ERROR answers nothing (R399). -/
def State.enableFn (s : State) (fn : Nat) : State :=
  let f := s.hif.fn fn
  if f.enable ∨ f.tdiError then s
  else
    let h := s.hif.setFn fn f.enableNow
    { s with hif := if fn = 0 then h else { h with vfEnable := true, numVfs := Nat.max h.numVfs fn } }

/-- ENABLE goes from 1 to 0: every context of the function is killed (R425), and READY falls. -/
def State.disableFn (s : State) (fn : Nat) : State :=
  if (s.hif.fn fn).enable then
    let s1 := s.killFn fn
    { s1 with hif := s1.hif.setFn fn { s1.hif.fn fn with enable := false, ready := false, actMajor := 0, actMinor := 0, startDue := false } }
  else s

/-- HIF_ENABLE (R407). -/
def execHifEnable (fn : Fin 17) (s : State) : Result := .next (if s.clusterUp then s.enableFn fn else s)

/-- HIF_DISABLE (R425). -/
def execHifDisable (fn : Fin 17) (s : State) : Result := .next (if s.clusterUp then s.disableFn fn else s)

/-- An ignored doorbell sets DB_ERR when its index is out of range (R404). -/
def State.badDoorbell (s : State) (fn : Nat) : State := { s with hif := s.hif.setFn fn { s.hif.fn fn with dbErr := true } }

/-- SQ_TAIL_DOORBELL (R404, R410, R411): entries up to the tail are fetched in ring order, given as read from host memory. -/
def execSqTailDoorbell (fn : Fin 17) (q : Fin 8192) (tail : BitVec 32) (entries : List (List Byte)) (s : State) : Result :=
  let f := s.hif.fn fn
  match f.sq q with
  | none => .next s
  | some x =>
    if !s.clusterUp || f.tdiError || (match f.ctx x.ctx with
      | some c => c.dying
      | none => true) then .next s
    else if 2 ^ x.log2 ≤ tail.toNat then .next (s.badDoorbell fn)
    else if entries.length ≠ (tail.toNat + 2 ^ x.log2 - x.head) % 2 ^ x.log2 then .fault .illFormed
    else
      .next (entries.foldl (fun (a : State) e => a.settleHif (a.hif.fetch fn q (a.fnGone fn) (.ofBytes e))) s)

/-- CQ_HEAD_DOORBELL (R404, R412). -/
def execCqHeadDoorbell (fn : Fin 17) (q : Fin 8192) (head : BitVec 32) (s : State) : Result :=
  let f := s.hif.fn fn
  match f.cq q with
  | none => .next s
  | some x =>
    if !s.clusterUp || f.tdiError || (match f.ctx x.ctx with
      | some c => c.dying
      | none => true) then .next s
    else if 2 ^ x.log2 ≤ head.toNat then .next (s.badDoorbell fn)
    else
      let (x1, o) := x.release fn head.toNat
      .next (s.withHif (s.hif.setFn fn (f.setCq q (some x1)), o))

/-- CQ_INTERRUPT_TIMER (R405): entries posted since the last interrupt raise the vector. -/
def execCqInterruptTimer (fn : Fin 17) (q : Fin 8192) (s : State) : Result :=
  let f := s.hif.fn fn
  match f.cq q with
  | none => .next s
  | some x =>
    if x.since = 0 then .next s
    else .next (s.withHif (s.hif.setFn fn (f.setCq q (some { x with since := 0 })), if x.vector < fnVectors fn then [.irq fn x.vector] else []))

/-- The fence that a command waits on. -/
def Cmd.waitIndex (c : Cmd) : Nat := c.refs.fences.getD (c.refs.fences.length - 1 - b2n c.entry.sigEn) 0

/-- A fence has reached the value that a command waits for (R419). -/
def Hif.reached (h : Hif) (fn : Nat) (c : Cmd) : Bool :=
  c.entry.waitEn && decide (c.checked = .done) && !c.started && !c.ready &&
  match Store.get none (h.obj (objSpace fn)).fences c.waitIndex with
  | some f => !f.abandoned && decide (c.entry.waitValue ≤ f.value)
  | none => false

/-- FENCE_WAIT_SATISFIED (R419): commands of the queue whose fence has reached their value may start. -/
def execFenceWaitSatisfied (fn : Fin 17) (q : Fin 8192) (s : State) : Result :=
  let f := s.hif.fn fn
  match f.sq q with
  | none => .next s
  | some x =>
    let y := { x with cmds := x.cmds.map fun c => if s.hif.reached fn c then { c with ready := true } else c }
    .next { s with hif := s.hif.setFn fn (f.setSq q (some y)) }

/-! ### Contexts and queues (R413, R418, R423, R425) -/

/-- Contexts that a function may hold, its admin context among them (R288, R423, Table 15.8). -/
def State.ctxLimit (s : State) (fn : Nat) : Nat := if fn = 0 then 64 else (s.part (fnPart fn)).rec_.contexts

/-- CTX_CREATE. -/
def execCtxCreate (fn : Fin 17) (q : Fin 8192) (s : State) : Result :=
  .next (s.hostCmd fn q 0x01 fun a _ _ =>
    let f := a.hif.fn fn
    let n := a.ctxLimit fn
    if n ≤ f.ctxs.length then ends a .noResource
    else match lowestFree f.ctxs 1 n with
      | none => ends a .noResource
      | some c => ({ a with hif := a.hif.setFn fn (f.setCtx c (some .fresh)) }, .done .done (handleOf 1 (Store.get 0 f.ctxGen c) c) 0))

/-- A context named by handle. -/
def Fn.ctxHandle (f : Fn) (h : Nat) : Option (Nat × Ctx) :=
  if handleKind h = 1 ∧ Store.get 0 f.ctxGen (handleIndex h) = handleGen h then (f.ctx (handleIndex h)).map fun c => (handleIndex h, c) else none

/-- A queue's index by handle. -/
def Fn.sqHandle (f : Fn) (h : Nat) : Option (Nat × Sq) :=
  if handleKind h = 2 ∧ Store.get 0 f.sqGen (handleIndex h) = handleGen h then (f.sq (handleIndex h)).map fun c => (handleIndex h, c) else none
def Fn.cqHandle (f : Fn) (h : Nat) : Option (Nat × Cq) :=
  if handleKind h = 3 ∧ Store.get 0 f.cqGen (handleIndex h) = handleGen h then (f.cq (handleIndex h)).map fun c => (handleIndex h, c) else none

/-- Contexts and queues whose end is due go now. -/
def State.settleFn (s : State) (fn : Nat) : State := s.settleHif (s.hif.settle 16 fn)

/-- CTX_DESTROY: it ends with the context's last command (R425 steps 3 to 6). -/
def execCtxDestroy (fn : Fin 17) (q : Fin 8192) (s : State) : Result :=
  let r := s.hostCmd fn q 0x02 fun a c _ =>
    let f := a.hif.fn fn
    let h := bits c.entry.p0 0 32
    if handleKind h = 1 ∧ handleIndex h = 0 then ends a .accessDenied
    else match f.ctxHandle h with
      | none => ends a .handleStale
      | some (i, x) => ({ a with hif := a.hif.setFn fn (f.setCtx i (some { x with destroyers := x.destroyers ++ [c.entry.seq] })) }, .running)
  .next (r.settleFn fn)

/-- CTX_KILL (R425, R426). -/
def execCtxKill (fn : Fin 17) (q : Fin 8192) (s : State) : Result :=
  let r := s.hostCmd fn q 0x03 fun a c _ =>
    let f := a.hif.fn fn
    let h := bits c.entry.p0 0 32
    if handleKind h = 1 ∧ handleIndex h = 0 then ends a .accessDenied
    else match f.ctxHandle h with
      | none => ends a .handleStale
      | some (i, _) =>
        let a1 := a.cancelRun fn i
        ({ a1 with hif := a1.hif.beginKill fn i (some c.entry.seq) }, .running)
  .next (r.settleFn fn)

/-- SQ_CREATE. -/
def execSqCreate (fn : Fin 17) (q : Fin 8192) (s : State) : Result :=
  .next (s.hostCmd fn q 0x04 fun a c _ =>
    let f := a.hif.fn fn
    let e := c.entry
    let n := bits e.p2 0 4
    if e.p1 % 4096 ≠ 0 ∨ n < 4 ∨ 12 < n then ends a .versionUnsupported
    else match f.ctxHandle (bits e.p0 0 32), f.cqHandle (bits e.p0 32 32) with
      | some (i, x), some (k, y) =>
        if x.dying ∨ y.ctx ≠ i then ends a .accessDenied
        else if 8 ≤ (f.sqs.filter fun z => match z.2 with
          | some w => decide (w.ctx = i)
          | none => false).length then ends a .noResource
        else match lowestFree f.sqs 1 (fnQueues fn) with
          | none => ends a .noResource
          | some j => ({ a with hif := a.hif.setFn fn (f.setSq j (some ⟨i, k, e.p1, n, 0, 0, [], [], none⟩)) }, .done .done (handleOf 2 (Store.get 0 f.sqGen j) j) j)
      | _, _ => ends a .handleStale)

/-- SQ_DESTROY: it ends with the last command fetched from the queue. -/
def execSqDestroy (fn : Fin 17) (q : Fin 8192) (s : State) : Result :=
  let r := s.hostCmd fn q 0x05 fun a c _ =>
    let f := a.hif.fn fn
    match f.sqHandle (bits c.entry.p0 0 32) with
    | none => ends a .handleStale
    | some (i, x) =>
      if i = 0 ∨ x.destroyer.isSome then ends a .accessDenied
      else ({ a with hif := a.hif.setFn fn (f.setSq i (some { x with destroyer := some c.entry.seq })) }, .running)
  .next (r.settleFn fn)

/-- CQ_CREATE. -/
def execCqCreate (fn : Fin 17) (q : Fin 8192) (s : State) : Result :=
  .next (s.hostCmd fn q 0x06 fun a c _ =>
    let f := a.hif.fn fn
    let e := c.entry
    let n := bits e.p2 0 4
    let v := bits e.p2 16 16
    if n < 4 ∨ 12 < n ∨ (fnVectors fn ≤ v ∧ v ≠ 0xFFFF) then ends a .versionUnsupported
    else match f.ctxHandle (bits e.p0 0 32) with
      | none => ends a .handleStale
      | some (i, x) =>
        if x.dying then ends a .accessDenied
        else if 8 ≤ (f.cqs.filter fun z => match z.2 with
          | some w => decide (w.ctx = i)
          | none => false).length then ends a .noResource
        else match lowestFree f.cqs 1 (fnQueues fn) with
          | none => ends a .noResource
          | some j => ({ a with hif := a.hif.setFn fn (f.setCq j (some ⟨i, e.p1, n, v, bits e.p2 32 16, 0, true, 0, 0, [], 0⟩)) }, .done .done (handleOf 3 (Store.get 0 f.cqGen j) j) j))

/-- CQ_DESTROY. -/
def execCqDestroy (fn : Fin 17) (q : Fin 8192) (s : State) : Result :=
  .next (s.hostCmd fn q 0x07 fun a c _ =>
    let f := a.hif.fn fn
    match f.cqHandle (bits c.entry.p0 0 32) with
    | none => ends a .handleStale
    | some (i, _) =>
      if i = 0 ∨ f.sqs.any fun z => match z.2 with
        | some w => decide (w.cq = i)
        | none => false then ends a .accessDenied
      else ends { a with hif := a.hif.setFn fn { f with cqs := Store.set none f.cqs i none, cqGen := Store.upd 0 f.cqGen i fun v => (v + 1) % 256 } } .done)

/-! ### Memory objects (R420 to R422) -/

/-- The issuing context changed. -/
def State.updCtx (s : State) (fn ctx : Nat) (g : Ctx → Ctx) : State :=
  let f := s.hif.fn fn
  match f.ctx ctx with
  | some c => { s with hif := s.hif.setFn fn (f.setCtx ctx (some (g c))) }
  | none => s

/-- Objects of a function's space changed. -/
def State.updObjs (s : State) (fn : Nat) (g : Objs → Objs) : State := { s with hif := s.hif.setObj (objSpace fn) (g (s.hif.obj (objSpace fn))) }

/-- Addresses of the lines of a 2 MiB page that do not read as zeros. -/
def Hbm.stained (h : Hbm) (dpa : Nat) : List Nat :=
  if h.lost.any fun e => decide (e.2 = granOf dpa) then (List.range 32768).map fun i => dpa + 64 * i
  else ((h.lines.filter fun e => decide (pageOf dpa ≤ e.1 ∧ e.1 < pageOf dpa + 512)).map fun e =>
    (e.2.filter fun l => decide (l.2 ≠ some .zero)).map fun l => e.1 * 4096 + 64 * l.1).flatten

/-- Write a page of a partition with zeros; a line that holds zeros already is not written again. -/
def State.zeroPage (s : State) (p : Nat) (dpa : Nat) : State :=
  (s.hbm.stained dpa).foldl (fun (a : State) i =>
    match a.hbmWrite (.sysChan p) (a.hbm.part p).curSlot i false (List.replicate 16 (some .zero)) .clean with
    | some r => r.1
    | none => a) s

/-- Pages of a new object that held an earlier one (R420). -/
def Objs.wornPages (o : Objs) (m : MemObj) : List Nat :=
  (List.range m.pages).filter fun i => o.worn.any fun w => decide (w.1 = m.staging ∧ w.2.1 ≤ m.first + i ∧ m.first + i < w.2.1 + w.2.2)

/-- The record of worn runs once an object's pages are zero. -/
def Objs.fresh (o : Objs) (m : MemObj) : List (Bool × Nat × Nat) :=
  (o.worn.map fun w =>
    let e := m.first + m.pages
    if w.1 ≠ m.staging ∨ w.2.1 + w.2.2 ≤ m.first ∨ e ≤ w.2.1 then [w]
    else (if w.2.1 < m.first then [(w.1, w.2.1, m.first - w.2.1)] else []) ++ (if e < w.2.1 + w.2.2 then [(w.1, e, w.2.1 + w.2.2 - e)] else [])).flatten

/-- MEM_ALLOC (R420): the lowest run of free pages; pages that held an object are zero before it completes. -/
def execMemAlloc (fn : Fin 17) (q : Fin 8192) (s : State) : Result :=
  .next (s.hostCmd fn q 0x08 fun a c ctx =>
    let p := fnPart fn
    let o := a.hif.obj p
    let n := c.entry.p0
    let staging := bit c.entry.p1 0
    if n = 0 ∨ 524288 < n then ends a .versionUnsupported
    else match o.freeRun staging n (512 * (a.pool p staging).length), lowestFree o.mems 0 (2 ^ 20) with
      | some b, some i =>
        let m : MemObj := ⟨staging, b, n, none, false⟩
        let a1 := (o.wornPages m).foldl (fun (x : State) k => match x.pageAddr p m k with
          | some d => x.zeroPage p d
          | none => x) a
        let a2 := a1.updObjs fn fun y => { y with mems := Store.set none y.mems i (some m), worn := o.fresh m }
        (a2.updCtx fn ctx fun x => { x with mems := x.mems ++ [i] }, .done .done (handleOf 4 (Store.get 0 o.memGen i) i) (if staging then b * 2097152 else 0))
      | _, _ => ends a .noResource)

/-- An object is held only by commands (R422). -/
def State.zombieNow (s : State) (fn i : Nat) : Bool :=
  let o := s.hif.obj (objSpace fn)
  !o.image.contains i && !o.areas.contains i && !(s.hif.fns.any fun e => decide (objSpace e.1 = objSpace fn) && e.2.ctxs.any fun d => match d.2 with
    | some y => y.mems.contains i || y.maps.any fun r => decide (r.mem = i)
    | none => false)

/-- MEM_FREE (R422): the context's mappings and holding of the object go at once. -/
def execMemFree (fn : Fin 17) (q : Fin 8192) (s : State) : Result :=
  .next (s.hostCmd fn q 0x09 fun a c ctx =>
    match a.hif.heldMem fn ctx (bits c.entry.p0 0 32) with
    | none => ends a .handleStale
    | some i =>
      let a1 := a.updCtx fn ctx fun x => { x with mems := x.mems.filter (fun (m : Nat) => decide (m ≠ i)), maps := x.maps.filter fun r => decide (r.mem ≠ i) }
      if a1.zombieNow fn i then
        ends (a1.updObjs fn fun o => { o with mems := Store.set none o.mems i ((Store.get none o.mems i).map fun m => { m with zombie := true }) }) .done
      else ends a1 .done)

/-- MEM_MAP (R420). -/
def execMemMap (fn : Fin 17) (q : Fin 8192) (s : State) : Result :=
  .next (s.hostCmd fn q 0x0A fun a c ctx =>
    let e := c.entry
    let va := e.p1 / 2097152
    let first := bits e.p2 0 32
    let n := bits e.p2 32 32
    match a.hif.heldMem fn ctx (bits e.p0 0 32) with
    | none => ends a .handleStale
    | some i =>
      if e.p1 % 2097152 ≠ 0 then ends a .versionUnsupported
      else
        let past := match Store.get none (a.hif.obj (objSpace fn)).mems i with
          | some m => decide (m.pages < first + n)
          | none => true
        if past || decide (2 ^ 27 < va + n) || (a.ctxMaps fn ctx).any (fun r => overlaps va n r.va r.pages) then ends a .accessDenied
        else if n = 0 then ends a .done
        else ends (a.updCtx fn ctx fun x => { x with maps := x.maps ++ [(⟨va, n, i, first⟩ : MapRun)] }) .done)

/-- MEM_UNMAP (R420). -/
def execMemUnmap (fn : Fin 17) (q : Fin 8192) (s : State) : Result :=
  .next (s.hostCmd fn q 0x0B fun a c ctx =>
    let n := bits c.entry.p2 32 32
    if c.entry.p1 % 2097152 ≠ 0 then ends a .versionUnsupported
    else if (rangeMems (a.ctxMaps fn ctx) c.entry.p1 (n * 2097152)).isNone then ends a .accessDenied
    else ends (a.updCtx fn ctx fun x => { x with maps := cutMaps x.maps (c.entry.p1 / 2097152) n }) .done)

/-- The random tag of a token (R418). -/
def State.tokenTag (s : State) : Nat × State :=
  let (e, k) := s.sec.draw
  (e.toNat % 2 ^ 32, { s with sec := k })

/-- MEM_EXPORT (R418): the object's token, its tag drawn at the first export. -/
def execMemExport (fn : Fin 17) (q : Fin 8192) (s : State) : Result :=
  .next (s.hostCmd fn q 0x0C fun a c ctx =>
    match a.hif.heldMem fn ctx (bits c.entry.p0 0 32) with
    | none => ends a .handleStale
    | some i => match Store.get none (a.hif.obj (objSpace fn)).mems i with
      | none => ends a .handleStale
      | some m => match m.tag with
        | some t => (a, .done .done (bits c.entry.p0 0 32 + t <<< 32) 0)
        | none =>
          let (t, a1) := a.tokenTag
          (a1.updObjs fn fun o => { o with mems := Store.set none o.mems i (some { m with tag := some t }) }, .done .done (bits c.entry.p0 0 32 + t <<< 32) 0))

/-- MEM_IMPORT (R418): into another context of the function, while the object exists and is no zombie (R422). -/
def execMemImport (fn : Fin 17) (q : Fin 8192) (s : State) : Result :=
  .next (s.hostCmd fn q 0x0D fun a c ctx =>
    let h := bits c.entry.p0 0 32
    let i := handleIndex h
    let o := a.hif.obj (objSpace fn)
    match Store.get none o.mems i with
    | none => ends a .handleStale
    | some m =>
      if handleKind h ≠ 4 ∨ Store.get 0 o.memGen i ≠ handleGen h ∨ m.zombie then ends a .handleStale
      else if decide (m.tag ≠ some (bits c.entry.p0 32 32)) || (match (a.hif.fn fn).ctx ctx with
        | some x => x.mems.contains i
        | none => true) then ends a .accessDenied
      else (a.updCtx fn ctx fun x => { x with mems := x.mems ++ [i] }, .done .done h 0))

/-! ### Fences (R419) -/

/-- FENCE_CREATE. -/
def execFenceCreate (fn : Fin 17) (q : Fin 8192) (s : State) : Result :=
  .next (s.hostCmd fn q 0x0E fun a c ctx =>
    let e := c.entry
    let v := bits e.p2 0 16
    let o := a.hif.obj (objSpace fn)
    if 2 ^ 63 ≤ e.p0 ∨ e.p1 % 8 ≠ 0 ∨ (fnVectors fn ≤ v ∧ v ≠ 0xFFFF) then ends a .versionUnsupported
    else match lowestFree o.fences 0 (2 ^ 20) with
      | none => ends a .noResource
      | some i =>
        let a1 := a.updObjs fn fun y => { y with fences := Store.set none y.fences i (some (⟨e.p0, false, fn, e.p1, v, none⟩ : Fence)) }
        (a1.updCtx fn ctx fun x => { x with fences := x.fences ++ [i] }, .done .done (handleOf 5 (Store.get 0 o.fenceGen i) i) 0))

/-- FENCE_DESTROY drops the context's holding (R421). -/
def execFenceDestroy (fn : Fin 17) (q : Fin 8192) (s : State) : Result :=
  .next (s.hostCmd fn q 0x0F fun a c ctx =>
    match a.hif.heldFence fn ctx (bits c.entry.p0 0 32) with
    | none => ends a .handleStale
    | some i => ends (a.updCtx fn ctx fun x => { x with fences := x.fences.filter (fun (m : Nat) => decide (m ≠ i)) }) .done)

/-- FENCE_EXPORT (R418). -/
def execFenceExport (fn : Fin 17) (q : Fin 8192) (s : State) : Result :=
  .next (s.hostCmd fn q 0x10 fun a c ctx =>
    match a.hif.heldFence fn ctx (bits c.entry.p0 0 32) with
    | none => ends a .handleStale
    | some i => match Store.get none (a.hif.obj (objSpace fn)).fences i with
      | none => ends a .handleStale
      | some m => match m.tag with
        | some t => (a, .done .done (bits c.entry.p0 0 32 + t <<< 32) 0)
        | none =>
          let (t, a1) := a.tokenTag
          (a1.updObjs fn fun o => { o with fences := Store.set none o.fences i (some { m with tag := some t }) }, .done .done (bits c.entry.p0 0 32 + t <<< 32) 0))

/-- FENCE_IMPORT (R418): into another context of the function that created it. -/
def execFenceImport (fn : Fin 17) (q : Fin 8192) (s : State) : Result :=
  .next (s.hostCmd fn q 0x11 fun a c ctx =>
    let h := bits c.entry.p0 0 32
    let i := handleIndex h
    let o := a.hif.obj (objSpace fn)
    match Store.get none o.fences i with
    | none => ends a .handleStale
    | some m =>
      if handleKind h ≠ 5 ∨ Store.get 0 o.fenceGen i ≠ handleGen h then ends a .handleStale
      else if decide (m.tag ≠ some (bits c.entry.p0 32 32)) || (match (a.hif.fn fn).ctx ctx with
        | some x => x.fences.contains i
        | none => true) then ends a .accessDenied
      else (a.updCtx fn ctx fun x => { x with fences := x.fences ++ [i] }, .done .done h 0))

/-! ### NOP, staging copies, reserved entries (R411, R413) -/

/-- NOP waits on or signals a fence alone. -/
def execHostNop (fn : Fin 17) (q : Fin 8192) (s : State) : Result := .next (s.hostCmd fn q 0x12 fun a _ _ => ends a .done)

/-- STAGE_COPY by a system channel, host memory given or written. -/
def execStageCopy (fn : Fin 17) (q : Fin 8192) (host : HostData) (s : State) : Result :=
  .next (s.hostCmd fn q 0x13 fun a c ctx =>
    let p := fnPart fn
    let maps := a.cmdMaps fn ctx c
    let va := c.entry.p1
    let n := bits c.entry.p2 0 48
    if n % 64 ≠ 0 ∨ va % 64 ≠ 0 then ends a .versionUnsupported
    else if !a.allStaging p maps va n then ends a .accessDenied
    else if bit c.entry.p2 63 then
      let r := a.vaRead (.sysChan p) p maps va n
      if r.status ≠ .done then ends r.s r.status
      else if host.isNone then ends r.s .accessDenied
      else ends (r.s.emit (if n = 0 then [] else [.hostWrite fn c.entry.p0 (twordBytes r.words)])) .done
    else withHost a host fun bs =>
      let r := a.vaWrite (.sysChan p) p maps va (cleanWords (bs ++ List.replicate (n - bs.length) 0) |>.take (n / 4))
      ends r.s r.status)

/-- HOST_RESERVED_OPCODE (R411): the next command, whose entry its fetch found reserved or malformed, completes VERSION_UNSUPPORTED. -/
def execHostReservedOpcode (fn : Fin 17) (q : Fin 8192) (s : State) : Result :=
  match (s.hif.fn fn).sq q with
  | none => .next s
  | some x => match x.next with
    | some c => if c.checked = .versionUnsupported then .next (s.hostCmd fn q c.entry.opcode fun a _ _ => ends a .versionUnsupported) else .next s
    | none => .next s

/-! ### Queries (R308, R309, R427, R428) -/

/-- Registers of each block (Table 15.13). -/
def queryRegs (block : Nat) : Nat :=
  match block with
  | 1 => 6
  | 2 => 8
  | 3 => 5
  | 4 => 4
  | 5 => 5
  | 6 => 2
  | 7 => 4
  | 8 => 8
  | 9 => 6
  | 10 => 12
  | 14 => 4
  | _ => 0

/-- LNK_ERR and LNK_ERR2 (Table 12.10). -/
def Port.errWord (x : Port) : Nat := x.retries + x.authFail <<< 16 + x.dropNoKey <<< 32 + x.dropTx <<< 48
def Port.err2Word (x : Port) : Nat := x.replayCnt + x.fecUe <<< 16 + x.swaps <<< 32 + x.retrains <<< 40

/-- RES_PAIR (Table 14.10). -/
def State.pairWord (s : State) : Nat := pairState s.twinUp.length

/-- The ring that RES_FAULT registers show (R368). -/
def State.faultRing (s : State) : FaultRing × Nat := if s.ringReady then (s.res.ring, ringEntries) else (s.res.early, earlyEntries)

/-- Part n of the bytes of an entry. -/
def entryPart (b : List Byte) (n : Nat) : Nat := field b (8 * n) 8

/-- A module-wide register in full (R428). -/
def State.fullReg (s : State) (block reg unit : Nat) : Option Nat :=
  let x := s.port unit
  match block, reg with
  | 7, 0 => some s.sec.lcStatus
  | 7, 1 => some s.sec.fuses.serial
  | 7, 2 => some s.sec.attestWord
  | 7, 3 => if unit < 16 then some (s.part unit).statusWord else none
  | 8, r => if 36 ≤ unit then none else some (match r with
    | 0 => x.statusWord
    | 1 => x.peerSerial
    | 2 => x.peerInfo
    | 3 => x.weights <<< 8
    | 4 => x.errWord
    | 5 => x.err2Word
    | 6 => x.txBytes
    | _ => x.rxBytes)
  | 9, 0 => if unit < 3 then some (Store.get 0 s.coll.flags unit).toNat else none
  | 10, 0 => some s.faultRing.1.statusWord
  | 10, 5 => if unit < 3 then some (s.res.mapWord unit) else none
  | 10, 6 => if unit < 3 then some (s.res.failWord unit) else none
  | 10, 10 => some s.res.twin
  | 10, 11 => some s.pairWord
  | 10, r => if 1 ≤ r ∧ r ≤ 4 ∧ unit < s.faultRing.2 then some (match s.faultRing.1.at_ s.faultRing.2 unit with
      | some e => entryPart e.bytes (r - 1)
      | none => 0) else none
  | _, _ => none

/-- A partition whose registers nobody sees any more (R417). -/
def State.partGone (s : State) (p : Nat) : Bool := !(s.part p).live || decide ((s.part p).sess = .closing)

/-- A tenant's entry (Table 15.13). -/
def State.tenantQuery (s : State) (p block reg unit : Nat) : Status × Nat :=
  let no : Status × Nat := (.accessDenied, 0)
  if s.partGone p then (.partitionGone, 0)
  else if block = 10 ∧ 1 ≤ reg ∧ reg ≤ 4 then
    match s.faultRing.1.at_ s.faultRing.2 unit with
    | some e => if e.part = p ∧ unit < s.faultRing.2 then (.done, entryPart e.coarse.bytes (reg - 1)) else no
    | none => no
  else if block = 10 ∧ !(7 ≤ reg ∧ reg ≤ 9) then no
  else if block = 9 ∧ reg = 0 then no
  else if block = 8 ∧ (reg ≠ 0 ∨ 36 ≤ unit ∨ !(s.port unit).parts.contains p) then no
  else if ((block = 1 ∧ reg < 2) ∨ (2 ≤ block ∧ block ≤ 5)) ∧ (s.job p).place.length ≤ unit then no
  else if block = 14 ∧ ((s.hif.fn (p + 1)).ctx unit).isNone then no
  else (.done, s.tenantView p block reg (if (block = 1 ∧ 2 ≤ reg) ∨ block = 6 ∨ block = 7 ∨ block = 9 ∨ block = 10 then 0 else unit))

/-- Registers whose sum over a partition the operator sees. -/
def summedReg (block reg : Nat) : Bool :=
  decide (block = 2 ∧ 2 ≤ reg ∧ reg ≤ 3) || decide (block = 3 ∧ 2 ≤ reg) || decide (block = 4 ∧ 2 ≤ reg) || decide (block = 5 ∧ 2 ≤ reg) || decide (block = 14)

/-- The operator's entry. -/
def State.operatorQuery (s : State) (block reg unit : Nat) : Status × Nat :=
  if summedReg block reg then
    if 16 ≤ unit then (.accessDenied, 0)
    else if s.partGone unit then (.partitionGone, 0)
    else (.done, s.operatorSum unit block reg)
  else match s.fullReg block reg unit with
    | some v => (.done, v)
    | none => (.accessDenied, 0)

/-- One selector served: 16 bytes. -/
def State.serveQuery (s : State) (fn : Nat) (sel : List Byte) : List Byte :=
  let reg := field sel 0 1
  let block := field sel 1 1
  let r : Status × Nat :=
    if queryRegs block ≤ reg ∨ field sel 4 4 ≠ 0 then (.versionUnsupported, 0)
    else if fn = 0 then s.operatorQuery block reg (field sel 2 2) else s.tenantQuery (fnPart fn) block reg (field sel 2 2)
  natBytes r.2 8 ++ natBytes r.1.code 1 ++ List.replicate 7 0

/-- QUERY: every selector gets its result entry. -/
def execQuery (fn : Fin 17) (q : Fin 8192) (host : HostData) (s : State) : Result :=
  .next (s.hostCmd fn q 0x50 fun a c _ =>
    let n := c.entry.p2
    if n = 0 ∨ 4096 < n then ends a .versionUnsupported
    else withHost a host fun bs =>
      ends (a.emit [.hostWrite fn c.entry.p1 ((List.range n).map fun i => a.serveQuery fn ((bs.drop (8 * i)).take 8)).flatten]) .done)

end Sys2Proof.Machine
end

