-- ==== Sys2Proof/Machine/ExecFw.lean ====
section
/-! DEFINITION. Meanings: firmware commands, the control cluster, Cicada, Mantis and time (chapter 16). -/

namespace Sys2Proof.Machine

/-! ### Firmware commands (R437, R438) -/

/-- Run a firmware command that Table 16.6 traces: its completion is point 0x0100 with opcode and status. -/
def State.fwCmd (s : State) (fn q op : Nat) (mine : Cmd → Bool) (f : State → Cmd → State × Status × Nat × Nat) : State :=
  match s.nextCmd fn q op with
  | none => s
  | some c =>
    if !mine c then s
    else if c.checked ≠ .done then (s.trace 0x0100 noPart 0 [op, c.checked.code]).hostCmd fn q op fun a _ _ => ends a .done
    else s.hostCmd fn q op fun a d _ =>
      let r := f a d
      (r.1.trace 0x0100 noPart 0 [op, r.2.1.code], .done r.2.1 r.2.2.1 r.2.2.2)

/-- Any command of an opcode. -/
def anyCmd (_ : Cmd) : Bool := true

/-- FW_INFO (Table 16.4). -/
def execFwInfo (fn : Fin 17) (q : Fin 8192) (s : State) : Result :=
  .next (s.hostCmd fn q 0x60 fun a c _ => ends (a.emit [.hostWrite fn c.entry.p0 (a.fwm.info a.sec.fuses.floor)]) .done)

/-- FW_WRITE. -/
def execFwWrite (fn : Fin 17) (q : Fin 8192) (host : HostData) (s : State) : Result :=
  .next (s.fwCmd fn q 0x61 anyCmd fun a c =>
    let off := c.entry.p1
    let n := c.entry.p2
    if off % 4096 ≠ 0 ∨ n % 4096 ≠ 0 ∨ 16777216 < n then (a, .versionUnsupported, 0, 0)
    else if fwSlotBytes < off + n then (a, .accessDenied, 0, 0)
    else match host with
      | none => (a, .accessDenied, 0, 0)
      | some b => ({ a with fwm := a.fwm.program off ((b ++ List.replicate (n - b.length) 0).take n) }, .done, 0, 0))

/-- The test-firmware right of the debug grant (Table 10.9). -/
def State.fwTest (s : State) : Bool := bit s.sec.rights 4

/-- FW_VERIFY: R431 on the inactive slot. -/
def execFwVerify (fn : Fin 17) (q : Fin 8192) (s : State) : Result :=
  .next (s.fwCmd fn q 0x62 anyCmd fun a _ =>
    let b := a.fwm.image a.fwm.inactive
    let st := (verifyImage a.sec.fuses a.fwTest b).2
    let h := FwHeader.ofBytes b
    if st = .done then ({ a with fwm := { a.fwm with verified := true } }, st, h.version, h.svn) else (a, st, 0, 0))

/-- PENDING names the inactive slot, with TRIES 0. -/
def Fwm.arm (f : Fwm) (held : Bool) : Fwm := { f.setBcb f.bcb.active (some f.inactive) 0 with held := held }

/-- FW_ACTIVATE NEXT_RESET (R438 steps 2 and 3). -/
def execNextReset (fn : Fin 17) (q : Fin 8192) (s : State) : Result :=
  .next (s.fwCmd fn q 0x63 (fun c => decide (c.entry.p0 = 0)) fun a _ =>
    if !a.fwm.verified then (a, .accessDenied, 0, 0) else ({ a with fwm := a.fwm.arm a.fwm.held }, .done, 0, 0))

/-- What FW_ACTIVATE NOW meets (R438 steps 2 and 4 to 6). -/
def State.nowStatus (s : State) : Status :=
  if !s.fwm.verified ∨ s.anyPart then .accessDenied else if s.pwr.level ≠ 0 then .deferred else .done

/-- A NOW that stands next in a queue passes its checks and makes a warm reset. -/
def State.nowResets (s : State) (fn q : Nat) : Bool :=
  match s.nextCmd fn q 0x63 with
  | some c => decide (c.entry.p0 = 1 ∧ c.checked = .done ∧ s.nowStatus = .done)
  | none => false

/-- FW_ACTIVATE NOW: the warm reset follows the completion. -/
def execNow (fn : Fin 17) (q : Fin 8192) (s : State) : Result :=
  let r := s.fwCmd fn q 0x63 (fun c => decide (c.entry.p0 = 1)) fun a _ =>
    if a.nowStatus = .accessDenied then (a, .accessDenied, 0, 0)
    else ({ a with fwm := a.fwm.arm (decide (a.nowStatus = .deferred)) }, a.nowStatus, 0, 0)
  .next (if s.nowResets fn q then r.warmReset else r)

/-- FW_ACTIVATE CANCEL (R438 step 1). -/
def execCancel (fn : Fin 17) (q : Fin 8192) (s : State) : Result :=
  .next (s.fwCmd fn q 0x63 (fun c => decide (c.entry.p0 = 2)) fun a _ =>
    let f := if a.fwm.bcb.pending.isSome then a.fwm.setBcb a.fwm.bcb.active none 0 else a.fwm
    ({ a with fwm := { f with held := false } }, .done, 0, 0))

/-- FW_COMMIT (R436): the floor rises for a production image, then ACTIVE becomes the running slot; a fuse bit that does not read back leaves the image PENDING. -/
def execFwCommit (fn : Fin 17) (q : Fin 8192) (stuck : Bool) (s : State) : Result :=
  .next (s.fwCmd fn q 0x64 anyCmd fun a _ =>
    let f := a.fwm
    match f.running with
    | none => (a, .accessDenied, 0, 0)
    | some b =>
      if f.bcb.pending ≠ some b then (a, .accessDenied, 0, 0)
      else
        let fz := a.sec.fuses
        let rises := decide (f.hdr.keysel = 0 ∧ fz.floor < f.hdr.svn ∧ (fz.state = .manufacture ∨ fz.state = .deployed))
        if rises && stuck then (a.report clsDegraded srcFwm 0 .noResource noPart 0, .noResource, 0, 0)
        else
          let a1 := if rises then ({ a with sec := { a.sec with fuses := raiseFloor fz f.hdr.svn } }).trace 0x0101 noPart 0 [f.hdr.svn] else a
          ({ a1 with fwm := a1.fwm.setBcb b none 0 }, .done, 0, 0))

/-! ### Cicada (R447, R448) -/

/-- LOG_READ's entries: their bytes, and the SEQ after the last. -/
def State.logBytes (s : State) (seq n : Nat) : List Byte × Nat × Nat :=
  let es := s.fwm.logFrom s.ringReady seq n
  let whole := s.sec.grant && bit s.sec.rights 3
  ((es.map fun e => (e.shown whole).bytes).flatten, es.length, match es.getLast? with
    | some e => e.seq + 1
    | none => seq)

/-- LOG_READ (R448). -/
def execLogRead (fn : Fin 17) (q : Fin 8192) (s : State) : Result :=
  .next (s.hostCmd fn q 0x65 fun a c _ =>
    let n := c.entry.p2
    if n = 0 ∨ 65536 < n then ends a .versionUnsupported
    else
      let r := a.logBytes c.entry.p1 n
      (a.emit (if r.2.1 = 0 then [] else [.hostWrite fn c.entry.p0 r.1]), .done .done r.2.1 r.2.2))

/-- TRACE_CFG (R447). -/
def execTraceCfg (fn : Fin 17) (q : Fin 8192) (s : State) : Result :=
  .next (s.hostCmd fn q 0x66 fun a c _ => ends { a with fwm := { a.fwm with traceEn := bits c.entry.p0 0 8 } } .done)

/-- TRACE_RATE_SUMMARY (R447): the second of a point has ended. -/
def execTraceRateSummary (point : Fin 4096) (s : State) : Result :=
  let r := Store.get PointRate.none s.fwm.rates point
  .next (if r.second < s.fwm.time / 1000000000 then { s with fwm := s.fwm.summary s.ringReady point } else s)

/-! ### Time commands (R456, R458) -/

/-- FWM_TIME_CFG written; a LOSS_S of 0 is reserved and keeps the field (R14). -/
def Fwm.setTimeCfg (f : Fwm) (v : Nat) : Fwm :=
  { f with domain := bits v 0 7, ptpEn := bit v 7, gm := bit v 8, lossS := if bits v 16 8 = 0 then f.lossS else bits v 16 8 }

/-- TIME_CFG. -/
def execTimeCfg (fn : Fin 17) (q : Fin 8192) (s : State) : Result :=
  .next (s.hostCmd fn q 0x67 fun a c _ =>
    if bits c.entry.p0 16 8 = 0 then ends a .versionUnsupported else ends { a with fwm := a.fwm.setTimeCfg c.entry.p0 } .done)

/-- The source changes: point 0x0501. -/
def State.setSource (s : State) (src : Nat) : State :=
  if s.fwm.source = src then s else ({ s with fwm := { s.fwm with source := src } }).trace 0x0501 noPart 0 [src]

/-- Clock class of the master that is the source. -/
def Fwm.masterClass (f : Fwm) : Nat :=
  match Store.get none f.masters f.port with
  | some c => c.cls
  | none => 248

/-- TIME_SET (R458). -/
def execTimeSet (fn : Fin 17) (q : Fin 8192) (s : State) : Result :=
  .next (s.hostCmd fn q 0x68 fun a c _ =>
    let f := a.fwm
    if f.source = 1 ∧ (f.masterClass = 6 ∨ f.masterClass = 7) ∨ !f.gm then ends a .accessDenied
    else
      let off : Int := (f.time : Int) - (c.entry.p0 : Int)
      let a1 := ({ a with fwm := { f with time := c.entry.p0 % 2 ^ 64, slew := 0, timeSet := true } }).trace 0x0500 noPart 0 [(off % 2 ^ 64).toNat]
      ends (a1.setSource 4) .done)

/-- TIME_READ: a read without the effect of the RC field. -/
def execTimeRead (fn : Fin 17) (q : Fin 8192) (s : State) : Result :=
  .next (s.hostCmd fn q 0x69 fun a _ _ => (a, .done .done a.fwm.time a.fwm.timeStatusWord))

/-! ### The control cluster (R439 to R443) -/

/-- A restart (R441): a MODULE fault, every run stopped, the cause counted and traced. -/
def State.restart (s : State) (cause unit : Nat) (st : Status) : State :=
  if !s.clusterUp then s
  else
    let s1 := (s.report clsModule srcFwm unit st noPart 0).stopAll st
    ({ s1 with fwm := s1.fwm.restart cause }).trace 0x0003 noPart 3 [cause]

/-- CORE_WATCHDOG_EXPIRE (R440). -/
def execCoreWatchdogExpire (core : Fin 8) (s : State) : Result := .next (s.restart 1 core .timeout)

/-- HEARTBEAT_LOST (R440). -/
def execHeartbeatLost (s : State) : Result := .next (s.restart 2 0 .timeout)

/-- CLUSTER_STATE_ERROR (R439, R440). -/
def execClusterStateError (s : State) : Result := .next (s.restart 3 0 .poison)

/-- TIL_LOSS_POLICY written (Table 6.10). -/
def lossWritten (old v : Nat) : Nat :=
  let v1 := setBits (setBits v 36 4 0) 6 2 0
  let v2 := if bits v 32 4 = 0 then setBits v1 32 4 (bits old 32 4) else v1
  (if bits v 0 2 = 3 then setBits v2 0 2 (bits old 0 2) else v2) % 2 ^ 64

/-- COL_GFMT_POLICY written (Table 6.11). -/
def gfmtWritten (old v : Nat) : Nat :=
  let v1 := setBits (v % 2 ^ 36) 2 6 0
  if bits v 0 2 = 3 then setBits v1 0 2 (bits old 0 2) else v1

/-- RES_SNAP_CFG written (Table 14.9): a 1 to REQ asks for a snapshot (R378). -/
def SnapPart.cfgWritten (x : SnapPart) (v : Nat) : SnapPart :=
  { x with mirror := bit v 0, flash := bit v 1, interval := bits v 48 16, reqPending := x.reqPending || bit v 2 }

/-- The four registers of the partition window, by offset from 0x1000 (Table 15.4). -/
def State.windowWrite (s : State) (p off v : Nat) : State :=
  match off with
  | 0x00 => s.updJob p fun j => { j with lossPolicy := lossWritten j.lossPolicy v }
  | 0x08 => s.updJob p fun j => { j with gfmtPolicy := gfmtWritten j.gfmtPolicy v }
  | 0x10 => s.updJob p fun j => { j with retryCfg := bits v 0 3 }
  | 0x18 => s.updSnap p fun x => x.cfgWritten v
  | _ => s

/-- HIF_AQ_CFG written: each field keeps its value when given a reserved one (R14). -/
def Fn.aqWritten (f : Fn) (fn v : Nat) : Fn :=
  let ok := fun (n : Nat) => decide (4 ≤ n ∧ n ≤ 12)
  { f with
    asqLog2 := if ok (bits v 0 4) then bits v 0 4 else f.asqLog2
    acqLog2 := if ok (bits v 8 4) then bits v 8 4 else f.acqLog2
    avector := if bits v 32 16 < fnVectors fn ∨ bits v 32 16 = 0xFFFF then bits v 32 16 else f.avector }

/-- A BAR0 register written by its function (Tables 15.4 and 15.5); the others are read-only. -/
def State.bar0Write (s : State) (w : BarWrite) : State :=
  let f := s.hif.fn w.fn
  let put := fun (g : Fn) => { s with hif := s.hif.setFn w.fn g }
  let v := w.value
  match w.offset with
  | 0x10 => put { f with drvMajor := bits v 8 8, drvMinor := bits v 0 8 }
  | 0x18 => if bit v 0 then s.enableFn w.fn else s.disableFn w.fn
  | 0x20 => put { f with dbErr := w1c f.dbErr v 2 }
  | 0x28 => put (f.aqWritten w.fn v)
  | 0x30 => put { f with asqBase := v / 4096 * 4096 }
  | 0x38 => put { f with acqBase := v / 4096 * 4096 }
  | o => if w.fn ≠ 0 ∧ 0x1000 ≤ o ∧ (s.part (fnPart w.fn)).live then s.windowWrite (fnPart w.fn) (o - 0x1000) v else s

/-- BAR0_WRITE_APPLY (R443). -/
def execBar0WriteApply (s : State) : Result :=
  match s.fwm.writes with
  | [] => .next s
  | w :: rest => .next (if s.clusterUp then ({ s with fwm := { s.fwm with writes := rest } }).bar0Write w else s)

/-- Utilisation of contexts over the last millisecond (Table 15.13): function, context, percent; a context not named used none. -/
def State.noteUtil (s : State) (utils : List (Nat × Nat × Nat)) : State :=
  { s with view := (List.range 16).foldl (fun (v : Store Nat) p =>
      utils.foldl (fun (w : Store Nat) u => if u.1 = p + 1 ∧ u.2.1 < 65536 then Store.set 0 w (viewKey p 14 3 u.2.1) (Nat.min u.2.2 100) else w)
        (Store.clear v (viewKey p 14 3 0) 65536)) s.view }

/-- COARSEN_BOUNDARY (R308, R455): the counter has passed a millisecond beyond the last boundary seen; every live partition is sampled. -/
def execCoarsenBoundary (utils : List (Nat × Nat × Nat)) (s : State) : Result :=
  let b := s.fwm.time / 1000000
  if b ≤ s.fwm.boundary then .next s
  else
    let s1 := { s with fwm := { s.fwm with boundary := b } }
    .next (((List.range 16).foldl (fun (a : State) p => if (a.part p).live then a.sample p sampledRegs else a) s1).noteUtil utils)

/-! ### Mantis (R449 to R454) -/

/-- A PLDM Type 63 request that is served from a phase on (Table 16.7). -/
def State.mantis (s : State) (ph : Nat) (f : State → State) : State :=
  if !s.pwr.aon then s
  else if s.scrapped then s.reply .accessDenied []
  else if !s.boot.past ph then s.reply .deferred []
  else f s

/-- A side-band answer of a message type with a completion code; a code other than 0 is a refusal. -/
def State.answerCode (s : State) (kind code : Nat) (data : List Byte) : State :=
  let s1 := s.emit [.sideband sbReply .done (BitVec.ofNat 8 code :: data)]
  if code = 0 then s1 else s1.refusal kind code

/-- MCTP control (R450), as its standard numbers the commands: Set Endpoint ID, Get Endpoint ID, version and message types. -/
def execMctpControl (cmd : Nat) (data : List Byte) (s : State) : Result :=
  if !s.aonUp then .next s
  else match cmd with
  | 1 =>
    let e := (data.getD 1 0).toNat
    .next (({ s with fwm := { s.fwm with eid := e } }).answerCode 0 0 [0, BitVec.ofNat 8 e, 0])
  | 2 => .next (s.answerCode 0 0 [BitVec.ofNat 8 s.fwm.eid, 0, 0])
  | 4 => .next (s.answerCode 0 0 [1, 0xF1, 0xF3, 0xF1, 0])
  | 5 => .next (s.answerCode 0 0 [3, 1, 5, 6])
  | _ => .next (s.answerCode 0 0x05 [])

/-- PLDM Types 0, 2 and 4 (R450): the types served, a figure in whole watts or degrees, SERIAL. -/
def execPldmSensorRead (type_ sensor reading : Nat) (s : State) : Result :=
  .next (s.mantis 0 fun a =>
    match type_ with
    | 0 => a.answerCode 1 0 (natBytes (1 + 1 <<< 2 + 1 <<< 4 + 1 <<< 5 + 1 <<< 63) 8)
    | 2 => a.answerCode 1 0 (natBytes sensor 2 ++ natBytes (reading / 100) 4)
    | 4 => a.answerCode 1 0 (natBytes a.sec.fuses.serial 8)
    | _ => a.answerCode 1 0x20 [])

/-- SPDM_REQUEST (R34, R452): clear (type 5) or secured (type 6). -/
def execSpdmRequest (secured : Bool) (req : SpdmReq) (s : State) : Result :=
  if !s.pwr.aon then .next s
  else if s.scrapped then .next ((s.emit [.sideband sbReply .accessDenied []]).refusal (if secured then 6 else 5) Status.accessDenied.code)
  else match s.spdm req with
    | some (s1, b) => .next (s1.emit [.sideband sbReply .done b])
    | none => .next s

/-- FAULT_READ: the MODULE entries in AON and the ring, or the early buffer before phase 3 has completed (R368). -/
def execFaultRead (s : State) : Result :=
  .next (s.mantis 0 fun a => a.reply .done ((a.res.aonModule ++ (a.res.shown a.ringReady).entries).map FaultEntry.bytes).flatten)

/-- LOG_READ through Mantis (R448); after a stopped start-up the early buffer is served too (R446). -/
def execPldmLogRead (seq : BitVec 32) (count : Nat) (s : State) : Result :=
  .next (s.mantis (if s.boot.failed.isSome then 0 else 2) fun a => a.reply .done (a.logBytes seq.toNat count).1)

/-- INVENTORY (Table 16.7), served in SCRAPPED too. -/
def execInventory (s : State) : Result :=
  if !s.pwr.aon then .next s
  else if !s.aonUp then .next (s.reply .deferred [])
  else
    let fz := s.sec.fuses
    .next (s.reply .done (natBytes fz.serial 8 ++ natBytes fz.state.num 1 ++ natBytes s.fwm.hdr.version 4 ++ natBytes fz.floor 1))

/-- SETDASA (R449). -/
def execSetdasa (s : State) : Result := .next (if s.pwr.aon then ({ s with fwm := { s.fwm with i3cAddr := 0x4A } }).emit [.i3c 0x4A] else s)

/-- ENTDAA (R449). -/
def execEntdaa (addr : Fin 128) (s : State) : Result :=
  .next (if s.pwr.aon then ({ s with fwm := { s.fwm with i3cAddr := addr } }).emit [.i3c addr] else s)

/-- Firmware update over PLDM Type 5 is open (R454). -/
def State.updateMode (s : State) : Bool := decide (s.boot.failed = some causeFwNone) || s.fwm.fatal

/-- PLDM's code for a module that is not in update mode. -/
abbrev pldmNotInUpdate : Nat := 0x80

/-- FW_UPDATE_COMPONENT (R454): a component into slot A. -/
def execFwUpdateComponent (offset : Nat) (data : List Byte) (s : State) : Result :=
  .next (s.mantis 0 fun a =>
    if !a.updateMode then a.answerCode 1 pldmNotInUpdate []
    else if fwSlotBytes < offset + data.length then a.reply .accessDenied []
    else ({ a with fwm := { a.fwm with slotA := Store.setMany erasedByte a.fwm.slotA offset data, verified := a.fwm.verified && a.fwm.inactive } }).answerCode 1 0 [])

/-- ACTIVATE_FIRMWARE (R454): slot A verified, then a warm reset. -/
def execActivateFirmware (s : State) : Result :=
  let go := s.pwr.aon && !s.scrapped && s.aonUp && s.updateMode && decide ((verifyImage s.sec.fuses s.fwTest (s.fwm.image false)).2 = .done)
  let r := s.mantis 0 fun a =>
    if !a.updateMode then a.answerCode 1 pldmNotInUpdate []
    else a.reply (verifyImage a.sec.fuses a.fwTest (a.fwm.image false)).2 []
  .next (if go then r.warmReset else r)

/-! ### Time (R455 to R458) -/

/-- A port that takes part in PTP (R456): an UP fabric port. -/
def State.ptpPort (s : State) (k : Nat) : Bool := decide (k < 32) && s.fwm.ptpEn && decide ((s.port k).state = .up)

/-- One offset of the servo (R457, R458): stepped or slewed away, counted towards lock. -/
def State.servo (s : State) (off : Int) : State :=
  let good := if off.natAbs ≤ 100 then Nat.min (s.fwm.good + 1) 16 else 0
  let (f, stepped) := s.fwm.correct off
  let s1 := { s with fwm := { f with offset := sat32 off, good := good, locked := decide (good = 16) } }
  if stepped then s1.trace 0x0500 noPart 0 [(off % 2 ^ 64).toNat] else s1

/-- PTP_SYNC: from the port chosen, whose master becomes the source (R457). -/
def execPtpSync (k : Fin 36) (origin correction : Nat) (s : State) : Result :=
  if !s.ptpPort k ∨ s.fwm.best ≠ some k.val then .next s
  else
    let f := s.fwm
    let fresh := decide (f.source ≠ 1 ∨ f.port ≠ k.val)
    let t1 := origin + correction
    let off : Int := (f.time : Int) - (t1 : Int) - f.meanDelay
    let s1 := { s with fwm := { f with port := k, lastSync := some (k.val, t1, f.time), good := if fresh then 0 else f.good, locked := f.locked && !fresh } }
    .next ((s1.setSource 1).servo off)

/-- PTP_DELAY_REQ: answered with the time of its arrival on a port where the module is master (R456). -/
def execPtpDelayReq (k : Fin 36) (data : List Byte) (s : State) : Result :=
  .next (if s.ptpPort k && decide (s.fwm.best ≠ some k.val) then s.emit [.ptp k 9 (natBytes s.fwm.time 8 ++ data)] else s)

/-- PTP_DELAY_RESP: half of the two one-way differences is the mean path delay (R456). -/
def execPtpDelayResp (k : Fin 36) (received : Nat) (s : State) : Result :=
  match s.fwm.lastSync with
  | none => .next s
  | some (p, t1, t2) =>
    if !s.ptpPort k ∨ p ≠ k.val ∨ s.fwm.best ≠ some k.val then .next s
    else
      let t3 := Store.get 0 s.fwm.delayReq k
      let sum : Int := ((t2 : Int) - (t1 : Int)) + ((received : Int) - (t3 : Int))
      .next { s with fwm := { s.fwm with meanDelay := sum / 2 } }

/-- No PTP source: the 1 PPS input when a valid pulse came within 2 s, else free-running (R457). -/
def State.localSource (s : State) : State :=
  let valid := match s.fwm.lastPps with
    | some t => decide (s.fwm.mono ≤ t + 2000000000)
    | none => false
  if valid then s.setSource 3 else ({ s with fwm := { s.fwm with locked := false, good := 0 } }).setSource 0

/-- PTP_ANNOUNCE: the best master clock algorithm runs on what every port has heard (R456). -/
def execPtpAnnounce (k : Fin 36) (set : ClockSet) (domain : Fin 128) (s : State) : Result :=
  if !s.ptpPort k ∨ domain.val ≠ s.fwm.domain then .next s
  else
    let f := s.fwm
    let ms := Store.set none f.masters k (some set)
    let best := bestMaster (f.ownSet s.sec.fuses.serial).key ms
    let s1 := { s with fwm := { f with masters := ms, best := best } }
    .next (if best.isNone ∧ f.source = 1 then s1.localSource else s1)

/-- ANNOUNCE_TIMEOUT: holdover (R457). -/
def execAnnounceTimeout (s : State) : Result :=
  let f := s.fwm
  let s1 := { s with fwm := { f with masters := [], best := none, heldSix := decide (f.ownClass = 6) } }
  .next (if f.source = 1 then s1.setSource 2 else { s with fwm := { f with masters := [], best := none } })

/-- HOLDOVER_EXPIRE (R457). -/
def execHoldoverExpire (s : State) : Result :=
  .next (if s.fwm.source = 2 then ({ s with fwm := { s.fwm with heldSix := false } }).localSource else s)

/-- PPS_PULSE: short or far from a whole second it is ignored and counted; otherwise it is valid, and aligned when it is the source (R457). -/
def execPpsPulse (width : Nat) (s : State) : Result :=
  let f := s.fwm
  if !s.pwr.runs clkTime then .next s
  else if width < 100 ∨ 100000 < f.ppsOffset.natAbs then .next { s with fwm := { f with ppsBad := satAdd 16 f.ppsBad 1 } }
  else
    let s1 := { s with fwm := { f with lastPps := some f.mono } }
    if f.source = 1 ∨ f.source = 2 then .next s1 else .next ((s1.setSource 3).servo f.ppsOffset)

/-- PPS_MISS: three seconds in a row without a pulse (R457). -/
def execPpsMiss (s : State) : Result :=
  let s1 := { s with fwm := { s.fwm with lastPps := none } }
  .next (if s.fwm.source = 3 then s1.localSource else s1)

/-- Bytes of an Announce's data set. -/
def ClockSet.bytes (c : ClockSet) : List Byte :=
  natBytes c.priority1 1 ++ natBytes c.cls 1 ++ natBytes c.accuracy 1 ++ natBytes c.variance 2 ++ natBytes c.priority2 1 ++ natBytes c.identity 8 ++
  natBytes c.steps 2

/-- What the module announces: its own data set, or its master's one step further. -/
def State.announced (s : State) : ClockSet :=
  match s.fwm.best with
  | some k => match Store.get none s.fwm.masters k with
    | some c => { c with steps := c.steps + 1 }
    | none => s.fwm.ownSet s.sec.fuses.serial
  | none => s.fwm.ownSet s.sec.fuses.serial

/-- SYNC_INTERVAL (R456): a Delay_Req on the port of the source; a two-step Sync on the others, and each second an Announce. -/
def execSyncInterval (announce : Bool) (s : State) : Result :=
  .next ((List.range 32).foldl (fun (a : State) k =>
    if !a.ptpPort k then a
    else if a.fwm.best = some k then ({ a with fwm := { a.fwm with delayReq := Store.set 0 a.fwm.delayReq k a.fwm.time } }).emit [.ptp k 1 []]
    else a.emit ([.ptp k 0 [], .ptp k 8 (natBytes a.fwm.time 8)] ++ (if announce then [.ptp k 0xB (natBytes a.fwm.domain 1 ++ a.announced.bytes)] else []))) s)

end Sys2Proof.Machine
end

