-- ==== Sys2Proof/Machine/ExecHbm.lean ====
section
/-! DEFINITION. Protected memory (chapter 9): line requests, MPR_CMD, Weevil's passes, the scrubber, retirement, recalibration. -/

namespace Sys2Proof.Machine

/-! ### Requests (R229, R240 to R242) -/

/-- The host reaches memory only through its window (Table 9.4). -/
def Origin.viaBar (o : Origin) : Bool := decide (o = .host)

/-- HBM_READ (R240). -/
def execHbmRead (origin : Origin) (key : Fin 2048) (dpa : BitVec 40) (fetch : Fetch) (s : State) : Result :=
  if s.ringReady then
    let (s1, st, ws) := s.hbmRead origin key dpa.toNat origin.viaBar fetch
    .next (s1.emit [.line st ws])
  else .next s

/-- A write that R245 makes wait is served later: nothing happens yet. -/
def State.lineWrite (s : State) (o : Origin) (key dpa : Nat) (ws : List (Option TWord)) (f : Fetch) : State :=
  if s.ringReady then match s.hbmWrite o key dpa o.viaBar ws f with
    | some (s1, st) => s1.emit [.line st []]
    | none => s
  else s

/-- HBM_FULL_WRITE (R241). -/
def execHbmFullWrite (origin : Origin) (key : Fin 2048) (dpa : BitVec 40) (data : List TWord) (fetch : Fetch) (s : State) : Result :=
  if data.length = 16 then .next (s.lineWrite origin key dpa.toNat (data.map some) fetch) else .fault .illFormed

/-- HBM_PARTIAL_WRITE (R242). -/
def execHbmPartialWrite (origin : Origin) (key : Fin 2048) (dpa : BitVec 40) (data : List (Option TWord)) (fetch : Fetch) (s : State) : Result :=
  if data.length = 16 then .next (s.lineWrite origin key dpa.toNat data fetch) else .fault .illFormed

/-! ### MPR_CMD (Table 9.13): the control cluster writes it once phase 3 has begun -/

/-- A command of the control cluster to the memory protection. -/
def State.mprCmd (s : State) (f : Hbm → Hbm) : State := if s.clusterUp && s.ringReady then { s with hbm := f s.hbm } else s

def execCarve (p : Fin 16) (g : Fin 1024) (slot : Fin 2048) (fw : Bool) (s : State) : Result := .next (s.mprCmd fun h => h.carve p g slot fw)

def execWipe (g : Fin 1024) (s : State) : Result := .next (s.mprCmd fun h => h.wipe g)

def execStage (p : Fin 16) (g : Fin 1024) (s : State) : Result := .next (s.mprCmd fun h => h.stage p g)

def execUnstage (g : Fin 1024) (s : State) : Result := .next (s.mprCmd fun h => h.unstage g)

def execRekey (p : Fin 16) (slot : Fin 2048) (s : State) : Result := .next (s.mprCmd fun h => h.rekey p slot)

def execMprSessionRekey (p : Fin 16) (slot : Fin 2048) (s : State) : Result := .next (s.mprCmd fun h => h.sessionRekey p slot)

def execMprRevoke (p : Fin 16) (s : State) : Result := .next (s.mprCmd fun h => h.revoke p)

/-- A retirement beyond the limits of R255 reports the stack, or the module, failed, and every job stops (R370). -/
def State.retirePc (s : State) (c : Nat) (dead : Bool) : State :=
  let (h, refused) := s.hbm.retire c dead
  let s1 := { s with hbm := h }
  if refused then (s1.report clsModule srcMpr (if 32 ≤ h.retiredCount then 0 else c % 16) .noResource noPart 0).stopAll .noResource else s1

/-- RETIRE (R253 to R258). -/
def execRetire (pc : Fin 1024) (s : State) : Result :=
  if s.clusterUp && s.ringReady then .next (s.retirePc pc false) else .next s

/-- TEST (R254): it writes and reads only in the test area; what it finds has no stated effect. -/
def execMprTest (_pc : Fin 1024) (_errors : Bool) (s : State) : Result := .next (s.mprCmd fun h => { h with lastStatus := .done })

/-! ### Passes (R247 to R251, R258) -/

/-- WEEVIL_PASS_START (R247, R251). -/
def execWeevilPassStart (s : State) : Result :=
  match s.hbm.startPass with
  | some h => .next { s with hbm := h }
  | none => .next s

/-- FILL_PASS_END (R249): the granule's pages carry no label, and the partition may now be ARMED (R292 step 7, R300). -/
def execFillPassEnd (g : Fin 1024) (s : State) : Result :=
  match s.hbm.fillEnd g with
  | none => .next s
  | some h =>
    let s1 := { s with hbm := { h with lastStatus := .done }, pageLabels := Store.clear s.pageLabels (512 * g.val) 512 }
    .next (s1.tryArm (s.hbm.gran g).owner)

/-- WIPE_PASS_END (R250): the last granule of a removed partition ends its removal (R310 action 6). -/
def execWipePassEnd (g : Fin 1024) (s : State) : Result :=
  match s.hbm.wipeEnd g with
  | none => .next s
  | some h =>
    let p := (s.hbm.gran g).owner
    let s1 := { s with hbm := { h with lastStatus := .done }, pageLabels := Store.clear s.pageLabels (512 * g.val) 512 }
    .next (if (h.part p).gone && !(s.hbm.part p).gone then s1.finishRemoval p else s1)

/-- REKEY_PASS_END (R248): the old slot is zeroized; a session re-key goes on (R295 step 3). -/
def execRekeyPassEnd (p : Fin 16) (s : State) : Result :=
  match s.hbm.rekeyEnd p with
  | none => .next s
  | some (h, old, session) =>
    let s1 := ({ s with hbm := { h with lastStatus := .done } }).dropSlot p old
    let s2 := s1.updPart p fun x => { x with memSlot := (h.part p).curSlot }
    .next (if session then s2.rekeyed p else s2)

/-- MIGRATE_PASS_END (R258): the pseudo-channel is retired with its contents moved (Table 14.2 DEGRADED). -/
def execMigratePassEnd (pc : Fin 1024) (unreadable : List Nat) (s : State) : Result :=
  match s.hbm.migrateEnd pc unreadable with
  | none => .next s
  | some h => .next (({ s with hbm := { h with lastStatus := .done } }).report clsDegraded srcMpr pc .done noPart 0)

/-- RETIREMENT_RESUME (R255). -/
def execRetirementResume (s : State) : Result :=
  match s.hbm.resume with
  | some h => .next { s with hbm := h }
  | none => .next s

/-! ### Scrub (R252, R253) -/

/-- The line at a device physical address lies in a range of virtual addresses. -/
def State.lineIn (s : State) (p : Nat) (space : List MapRun) (va n dpa : Nat) : Bool :=
  let (q, k) := pageSpan va n
  (List.range k).any fun i =>
    let a := (q + i) * 2097152 + dpa % 2097152
    decide (s.vaAddr p space a = some dpa) && decide (va / 64 * 64 ≤ a) && decide (a < va + n)

/-- A line of a partition lies in a committed range, in either copy, or in a SNAP range (R252, Table 14.2). -/
def State.keptLine (s : State) (p dpa : Nat) : Bool :=
  let j := s.job p
  match j.image with
  | none => false
  | some im =>
    let l := im.body.layout
    (l.committed.any fun r => s.lineIn p j.space r.1 r.2 dpa || s.lineIn p j.space (r.1 + l.delta) r.2 dpa) ||
      l.snap.any fun r => s.lineIn p j.space r.1 r.2 dpa

/-- A pseudo-channel that has reached a threshold within the period is retired (R253). -/
def State.scrubLimit (s : State) (c : Nat) : State :=
  let h := s.hbm
  if !h.isRetired c && decide (h.retireCe ≤ Store.get 0 h.pcCe c ∨ h.retireUe ≤ Store.get 0 h.pcUe c) then s.retirePc c false else s

/-- SCRUB_LINE: what the scrubber met at a line, and what follows; a new period begins at the first line of a pseudo-channel. -/
def execScrubLine (dpa : BitVec 40) (found : ScrubFind) (s : State) : Result :=
  let a := dpa.toNat / 64 * 64
  if !s.ringReady then .next s
  else match s.hbm.placeOf a with
    | none => .next s
    | some (c, slot) =>
      let h0 := s.hbm
      let fresh := decide (slot = 0 ∧ (decodeDpa a).line = 0)
      let h1 : Hbm := if fresh then { h0 with pcCe := Store.set 0 h0.pcCe c 0, pcUe := Store.set 0 h0.pcUe c 0 } else h0
      let g := h1.gran (granOf a)
      match found with
      | .good => .next { s with hbm := h1 }
      | .corrected =>
        let h2 : Hbm := { h1 with ce := satAdd 32 h1.ce 1, pcCe := Store.upd 0 h1.pcCe c (· + 1) }
        .next ((({ s with hbm := h2 }).report clsCorrected srcMpr c .done noPart a).scrubLimit c)
      | .uncorrectable =>
        if g.state = .prot ∨ g.state = .firmware then
          let h2 : Hbm := h1.putLine a .poisoned
          let h3 : Hbm := { h2 with ue := satAdd 16 h2.ue 1, pcUe := Store.upd 0 h2.pcUe c (· + 1) }
          let s1 := ({ s with hbm := h3 }).trace 0x0302 (if g.state = GranState.prot then g.owner else noPart) 0 [a]
          let s2 := if decide (g.state = .prot) && s.keptLine g.owner a then s1.jobFault clsData srcMpr c .tagFail g.owner a
            else s1.report clsDegraded srcMpr c .tagFail (if g.state = GranState.prot then g.owner else noPart) a
          .next (s2.scrubLimit c)
        else .next { s with hbm := h1 }
      | .metadata level =>
        let h2 : Hbm := h1.treeFailure c slot level
        .next (({ s with hbm := h2 }).treeFault c slot level a)

/-! ### Loss of a pseudo-channel, recalibration (R254, R258) -/

/-- PC_UNRESPONSIVE (R258): retired without a copy; every partition with protected granules lost data (Table 14.2). -/
def execPcUnresponsive (pc : Fin 1024) (s : State) : Result :=
  if s.ringReady && !s.hbm.retired.any (fun e => decide (e.1 = pc.val)) then
    let owners := (List.range 16).filter fun p => !(s.hbm.gransIn fun g => decide (g.state = GranState.prot ∧ g.owner = p)).isEmpty
    let s1 := s.retirePc pc true
    .next (if owners.isEmpty then s1.report clsData srcMpr pc .tagFail noPart 0
      else owners.foldl (fun (a : State) p => a.jobFault clsData srcMpr pc .tagFail p 0) s1)
  else .next s

/-- STACK_RECAL_RUN (R254): once every run in progress has reached its boundary; the held partitions are released. -/
def execStackRecalRun (stack : Fin 16) (s : State) : Result :=
  let mine := fun (m : Maint) => decide (m.kind = mntRecal ∧ m.unit = stack.val)
  let held := (List.range 16).filter fun p => match (s.job p).run with
    | some r => decide (r.phase = .maintenance)
    | none => false
  let atBoundary := (List.range 16).all fun p => match (s.job p).run with
    | some r => decide (r.phase = .maintenance)
    | none => true
  if s.maint.any mine && atBoundary then
    let s1 := { s with maint := s.maint.filter fun m => !mine m }
    .next (if s1.recalWaits then s1 else held.foldl (fun (a : State) p => if a.maint.any (a.concerns p) then a else a.toRelease p) s1)
  else .next s

end Sys2Proof.Machine
end

