-- ==== Sys2Proof/Machine/ExecKeys.lean ====
section
/-! DEFINITION. Key slots, the entropy source, the life cycle, debug authorisation and Scarab's mailbox (chapters 10 and 16). -/

namespace Sys2Proof.Machine

/-! ### Replies (R445) -/

/-- A reply in the mailbox format: TAG, STATUS, reserved, LENGTH, body. -/
def mboxReply (request : List Byte) (st : Status) (body : List Byte) : List Byte :=
  natBytes (field request 4 4) 4 ++ natBytes st.code 1 ++ [0] ++ natBytes body.length 2 ++ body

/-- Scarab answers the request it serves: the reply buffer takes the reply, DONE is set. -/
def State.answer (s : State) (st : Status) (body : List Byte) : State :=
  { s with fwm := { s.fwm with reply := mboxReply s.fwm.request st body, mboxDone := s.fwm.mboxDone || s.fwm.busy, busy := false } }

/-- A reply to the TCK mailbox or on the side-band. -/
def State.tckReply (s : State) (tck : Bool) (st : Status) (body : List Byte) : State :=
  if tck then s.emit [.exported st body] else s.reply st body

/-- Scarab serves the slot commands of the control cluster (R271). -/
def State.slotCmd (s : State) (f : State → State × Status × List Byte) : State :=
  if s.clusterUp then
    let (s1, st, body) := f s
    s1.answer st body
  else s

/-- A slot filled for a partition counts against its quota. -/
def State.filled (s : State) (k : Sec) (owner i : Nat) (st : Status) : State :=
  let s1 := { s with sec := k }
  if st = .done ∧ owner < 16 then s1.takeSlot owner i else s1

/-! ### Slot commands (Table 10.5) -/

def execGenerate (slot : Fin 2048) (kind : Fin 16) (owner : Fin 32) (epoch : Fin 256) (s : State) : Result :=
  .next (s.slotCmd fun a =>
    let (k, st) := a.sec.generate slot kind owner epoch
    (a.filled k owner slot st, st, []))

def execDerive (src dst : Fin 2048) (kind : Fin 16) (owner : Fin 32) (epoch : Fin 256) (context : List Byte) (s : State) : Result :=
  .next (s.slotCmd fun a =>
    let (k, st) := a.sec.derive src dst kind owner epoch context
    (a.filled k owner dst st, st, []))

/-- KEM_KEYGEN: the encapsulation key of a LOADED KEM slot. -/
def Sec.kemKeygen (k : Sec) (i : Nat) : Status × List Byte :=
  let x := k.slot i
  if x.state = .revoked ∨ x.state = .failed then (.keyRevoked, [])
  else if x.state ≠ .loaded ∨ x.kind ≠ kindKem then (.accessDenied, [])
  else (.done, kemPublic (BitVec.ofNat 512 x.material))

def execKemKeygen (slot : Fin 2048) (s : State) : Result :=
  .next (s.slotCmd fun a => (a, (a.sec.kemKeygen slot).1, (a.sec.kemKeygen slot).2))

def execImportKey (kem dst : Fin 2048) (kind : Fin 16) (owner : Fin 32) (epoch : Fin 256) (wrapped : Wrapped) (s : State) : Result :=
  .next (s.slotCmd fun a =>
    let (k, st) := a.sec.importSlot kem dst kind owner epoch wrapped
    (a.filled k owner dst st, st, []))

/-- Ciphertext, encrypted material and tag (R272 step 7). -/
def Wrapped.message (w : Wrapped) : List Byte := w.kem ++ w.material ++ natBytes w.tag.toNat 16

def execExportSlot (slot : Fin 2048) (peer : PeerEvidence) (ownEvidence : BitVec 256) (s : State) : Result :=
  .next (s.slotCmd fun a =>
    let (k, st, w) := a.sec.exportSlot slot peer a.fwm.digest ownEvidence
    let body := match w with
      | some x => x.message
      | none => []
    (({ a with sec := k }).emit [.exported st body], st, body))

def execSlotRevoke (slot : Fin 2048) (s : State) : Result :=
  .next (s.slotCmd fun a => ({ a with sec := a.sec.revokeSlot slot }, .done, []))

/-- ZEROIZE; the slot leaves the quota it was in. -/
def execZeroize (slot : Fin 2048) (s : State) : Result :=
  .next (s.slotCmd fun a =>
    if slot.val < 4 then (a, .accessDenied, [])
    else
      let o := (a.sec.slot slot).owner
      if (a.part o).slots.contains slot.val then (a.dropSlot o slot, .done, []) else ({ a with sec := a.sec.zeroize slot }, .done, []))

/-- SLOT_SWEEP (R270): a slot that fails its check. -/
def execSlotSweep (slot : Fin 2048) (s : State) : Result :=
  if s.boot.past 1 && decide ((s.sec.slot slot).state ≠ .failed) then
    let s1 := ({ s with sec := s.sec.failSlot slot }).reportSlot slot
    .next (if slot.val < 16 then s1.stopAll .keyRevoked else s1)
  else .next s

/-! ### Roots and entropy (R263, R264) -/

/-- Scarab runs: start-up has begun phase 1. -/
def State.scarabUp (s : State) : Bool := match s.boot.phase with
  | some n => decide (1 ≤ n)
  | none => false

/-- GEN_ROOT (R263). -/
def execGenRoot (s : State) : Result :=
  if !s.scarabUp then .next s
  else if s.sec.fuses.state ≠ .manufacture ∨ s.sec.fuses.udr ≠ 0 then .next (s.answer .accessDenied [])
  else if s.sec.entropyOk = false then .next (s.answer .noResource [])
  else
    let (v, k) := s.sec.draw
    .next (({ s with sec := { k with fuses := { k.fuses with udr := v } } }).answer .done [])

/-- ENTROPY_HEALTH_FAIL (R264). -/
def execEntropyHealthFail (s : State) : Result :=
  if s.sec.entropyOk then .next (({ s with sec := { s.sec with entropyOk := false } }).report clsDegraded srcSec 0 .noResource noPart 0) else .next s

/-- ENTROPY_HEALTH_RECOVER (R264). -/
def execEntropyHealthRecover (s : State) : Result := .next { s with sec := { s.sec with entropyOk := true } }

/-! ### Life cycle (R276, R277, R282) -/

/-- Exit actions, state bits, DONE and warm reset (R277 steps 5 to 7); into SCRAPPED the wipe follows (R282). -/
def State.changeState (s : State) (target : LcState) (tck : Bool) : State :=
  let was := s.sec.fuses.state
  let k := if target = .scrapped ∨ was = .blank then s.sec else s.sec.zeroizeAll
  let s1 : State := { s with
    sec := { k with fuses := k.fuses.blowState target }
    flash := if was = .deployed ∧ target = .returned then Flash.reset else s.flash }
  let s2 := if target = .scrapped then s1.scrapWipe else s1
  (s2.tckReply tck .done []).warmReset

/-- LC_TRANSITION: by the side-band only inside a secured session and from phase 2 (Table 16.7), or by TCK. -/
def execLcTransition (target : LcState) (token : BitVec 256) (tck secured : Bool) (s : State) : Result :=
  if (if tck then !s.scarabUp else !s.pwr.aon) then .next s
  else if s.scrapped then .next (s.tckReply tck .accessDenied [])
  else if !tck && !s.boot.past 2 then .next (s.reply .deferred [])
  else if !tck && (!secured || decide (s.sec.fuses.state = .blank)) then .next (s.reply .accessDenied [])
  else
    let (k, st) := s.sec.transition target token s.anyPart
    let s1 := { s with sec := k }
    .next (if st = .done then s1.changeState target tck else s1.tckReply tck st [])

/-! ### Debug authorisation (R278, R279) -/

/-- DEBUG_NONCE (R279 step 1). -/
def execDebugNonce (tck : Bool) (s : State) : Result :=
  if (if tck then !s.scarabUp else !s.pwr.aon) then .next s
  else if s.scrapped then .next (s.tckReply tck .accessDenied [])
  else if !tck && !s.boot.past 1 then .next (s.reply .deferred [])
  else if s.sec.entropyOk = false then .next (s.tckReply tck .noResource [])
  else
    let (n, k) := s.sec.draw
    .next (({ s with sec := { k with nonce := some n } }).tckReply tck .done (natBytes n.toNat 32))

/-- Every slot zeroized, the grant register written, and a warm reset. -/
def State.setGrant (s : State) (open_ : Bool) (rights : Nat) : State :=
  ({ s with sec := { s.sec.zeroizeAll with grant := open_, rights := rights } }).warmReset

/-- DEBUG_CERT (R279 steps 2 to 6). -/
def execDebugCert (tck : Bool) (cert : DebugCert) (s : State) : Result :=
  if (if tck then !s.scarabUp else !s.pwr.aon) then .next s
  else if s.scrapped then .next (s.tckReply tck .accessDenied [])
  else if !tck && !s.boot.past 1 then .next (s.reply .deferred [])
  else
    let r := s.sec.certReason cert s.anyPart
    let st : Status := if r = 0 then .done else .accessDenied
    let s1 := ({ s with sec := { s.sec with nonce := none, dbgReason := r, dbgStatus := st } }).tckReply tck st []
    .next (if r = 0 then s1.setGrant true cert.rights else s1)

/-- DEBUG_CLOSE (R279). -/
def execDebugClose (tck : Bool) (s : State) : Result :=
  if (if tck then !s.scarabUp else !s.pwr.aon) then .next s
  else if s.scrapped then .next (s.tckReply tck .accessDenied [])
  else if !tck && !s.boot.past 2 then .next (s.reply .deferred [])
  else .next ((s.tckReply tck .done []).setGrant false 0)

/-- DEBUG_NONCE_EXPIRE (R279): 600 s have passed. -/
def execDebugNonceExpire (s : State) : Result := .next { s with sec := { s.sec with nonce := none } }

/-! ### Attestation and the mailbox (R285, R445) -/

/-- SUBTREE_BUILD_COMPLETE (R285). -/
def execSubtreeBuildComplete (layer : Fin 4) (s : State) : Result :=
  .next (if s.boot.past 1 then { s with sec := { s.sec with ready := setBits s.sec.ready layer 1 1 } } else s)

/-- SEC_MBOX_DB (R445): GO takes the request, unless one is being served. -/
def execSecMboxDb (value : DWord) (request : List Byte) (s : State) : Result :=
  if !s.boot.past 1 || !bit value.toNat 0 then .next s
  else if s.fwm.busy then .next { s with fwm := { s.fwm with dbLost := true } }
  else .next { s with fwm := { s.fwm with busy := true, request := request.take 4096 } }

end Sys2Proof.Machine
end

