-- ==== Sys2Proof/Machine/ExecLink.lean ====
section
/-! DEFINITION. Optical ports (chapter 12): port commands, training, wavelengths, frames, re-key messages, the topology map and bindings. -/

namespace Sys2Proof.Machine

/-! ### Port commands (Table 12.12) -/

/-- A PORT_CMD that waits next on the PF's admin queue and names this action of this port; SWAP names wavelength and direction too. -/
def State.portAsk (s : State) (k action wave dir : Nat) : Option Cmd :=
  (s.nextCmd 0 0 0x31).bind fun c =>
    let v := c.entry.p0
    if c.checked = .done ∧ bits v 0 6 = k ∧ bits v 8 4 = action ∧ (action ≠ 5 ∨ bits v 12 3 = wave ∧ bits v 15 1 = dir) then some c else none

/-- LNK_CMD: the control cluster writes it for the host's PORT_CMD, or of its own accord. The command completes with what the action answers; none leaves it to the end of a training. -/
def State.portCmd (s : State) (k action wave dir : Nat) (f : State → State × Option Status) : State :=
  if !(s.ready && s.clusterUp) then s
  else match s.portAsk k action wave dir with
    | some c => s.hostCmd 0 0 0x31 fun a _ _ => match f a with
      | (b, some st) => ends b st
      | (b, none) => if (b.port k).state.settled then ends b (b.port k).lastStatus else (b.updPort k fun x => { x with asker := some (0, 0, c.entry.seq) }, .running)
    | none => (f s).1

/-- ROLE of a port's map entry. -/
def State.roleOf (s : State) (k : Nat) : Nat := (Store.get MapEntry.unused s.links.map k).role

/-- TRAIN (R319): from OFF, FAILED and the held states; a port whose ROLE is UNUSED stays OFF. -/
def execTrain (k : Fin 36) (s : State) : Result :=
  .next (s.portCmd k 1 0 0 fun a =>
    let st := (a.port k).state
    if a.roleOf k = 0 ∨ st = .up ∨ st = .training ∨ st = .ident ∨ st = .retrain then (a, some (a.port k).lastStatus)
    else (a.movePort k fun x => x.train.anew, none))

/-- DISABLE (R325): to OFF, bound frames discarded. -/
def execDisable (k : Fin 36) (s : State) : Result :=
  .next (s.portCmd k 2 0 0 fun a => (a.movePort k fun x => x.dropTo .off .done, some .done))

/-- RETRAIN (R321, R325): from UP and from VERSION_HELD. -/
def execRetrain (k : Fin 36) (s : State) : Result :=
  .next (s.portCmd k 3 0 0 fun a =>
    if (a.port k).state = .up ∨ (a.port k).state = .versionHeld then (a.retrainPort k, none) else (a, some (a.port k).lastStatus))

/-- ACCEPT_REMAP (R324): the peer found goes into the map, the port goes UP, and LINK streams are rebuilt, at the next boundary when a run is in progress. -/
def execAcceptRemap (k : Fin 36) (s : State) : Result :=
  .next (s.portCmd k 4 0 0 fun a =>
    let x := a.port k
    if x.state ≠ .miswired then (a, some .accessDenied)
    else
      let e := Store.get MapEntry.unused a.links.map k
      let a1 := { a with links := { a.links with map := Store.set .unused a.links.map k { e with peerPort := x.peerPort, peerSerial := x.peerSerial } } }
      let a2 := a1.movePort k fun y => { y with state := .up, lastStatus := .done }
      if x.parts.any fun p => (a.job p).run.isSome then ({ a2 with maint := a2.maint ++ [⟨mntPort, k, true⟩] }, some .deferred)
      else (x.parts.foldl (fun (b : State) p => b.moveLinks p) a2, some .done))

/-! ### Wavelengths (R316, R317) -/

/-- A move of the spare is under way in a direction. -/
def Port.moving (x : Port) (dir : Nat) : Bool := x.move.any fun m => decide (m.dir = dir)

/-- Masks and spare of a direction: 0 transmit, 1 receive. -/
def Port.waves (x : Port) (dir : Nat) : Nat := if dir = 0 then x.txWaves else x.rxWaves
def Port.spare (x : Port) (dir : Nat) : Nat := if dir = 0 then x.txSpare else x.rxSpare

/-- No spare wavelength. -/
abbrev noWave : Nat := 5

/-- Steps 1 and 2: a receiver asks, a transmitter starts the spare. -/
def State.startSwap (s : State) (k dir wave : Nat) : State :=
  let x := s.port k
  if x.state ≠ .up ∨ x.spare dir = noWave ∨ x.moving dir ∨ !bit (x.waves dir) wave then s
  else
    let s1 := s.setPort k { x with move := x.move ++ [⟨dir, wave, false, 0⟩] }
    if dir = 1 then s1.emit [.swapMsg k 0 wave 0] else s1

/-- SWAP (R317). -/
def execSwap (k : Fin 36) (wave : Fin 5) (receive : Bool) (s : State) : Result :=
  .next (s.portCmd k 5 wave (b2n receive) fun a =>
    let st := if (a.port k).spare (b2n receive) = noWave then Status.noResource else .done
    ((a.startSwap k (b2n receive) wave).updPort k fun x => { x with lastStatus := st }, some st))

/-- Symbols of one wavelength in 1 s: 212.5 Gb/s of 10-bit symbols (R315). -/
abbrev symbolsPerSecond : Nat := 21250000000

/-- A wavelength fails in its window (R316). -/
def Links.failing (l : Links) (symbols codewords : Nat) (lost : Bool) : Bool :=
  decide (symbolsPerSecond < symbols * 10 ^ l.swapSer) || decide (l.swapUe ≤ codewords) || lost

/-- A direction loses a wavelength with no spare left: three wavelengths, and then FAILED (R317). -/
def State.loseWave (s : State) (k wave : Nat) : State :=
  let x := s.port k
  let m := setBits x.rxWaves wave 1 0
  if waveCount m < 3 then s.movePort k fun y => { y.dropTo .failed y.lastStatus with rxWaves := m }
  else (s.setPort k { x with rxWaves := m }).report clsDegraded srcLnk k .done noPart wave

/-- WAVELENGTH_WINDOW (R316, R317): the receiver's measure of one active wavelength over 1 s. -/
def execWavelengthWindow (k : Fin 36) (wave : Fin 5) (symbols codewords : Nat) (lost : Bool) (s : State) : Result :=
  let x := s.port k
  if x.state ≠ .up ∨ !bit x.rxWaves wave then .next s
  else
    let s1 := s.setPort k { x with inSecond := 0 }
    let s2 := if symbols = 0 then s1 else s1.report clsCorrected srcLnk k .done noPart wave
    if !s.links.failing symbols codewords lost then .next s2
    else if x.spare 1 = noWave then .next (s2.loseWave k wave)
    else .next (s2.startSwap k 1 wave)

/-- SWAP_REQ arrives (R316 step 2). -/
def execSwapReq (k : Fin 36) (wave : Fin 5) (s : State) : Result := .next (s.startSwap k 0 wave)

/-- SPARE_WAVELENGTH_LOCK (R316 steps 2 and 3): the receiver names a frame 64 ahead. -/
def execSpareWavelengthLock (k : Fin 36) (s : State) : Result :=
  let x := s.port k
  match x.move.find? fun m => decide (m.dir = 1) && !m.locked with
  | none => .next s
  | some m =>
    let at_ := (x.rxLseq + 64) % 16384
    .next ((s.setPort k { x with move := x.move.map fun n => if n = m then { m with locked := true, boundary := at_ } else n }).emit [.swapMsg k 1 m.wave at_])

/-- SWAP_READY arrives (R316 step 3). -/
def execSwapReady (k : Fin 36) (wave : Fin 5) (lseq : Fin 16384) (s : State) : Result :=
  let x := s.port k
  .next (s.setPort k { x with move := x.move.map fun n => if n.dir = 0 ∧ n.wave = wave.val then { n with locked := true, boundary := lseq } else n })

/-- The failing wavelength's share lies on the spare. -/
def Port.takeOver (x : Port) (m : WaveMove) : Port :=
  let w := setBits (setBits (x.waves m.dir) m.wave 1 0) (x.spare m.dir) 1 1
  let y := { x with move := x.move.filter (fun n => decide (n ≠ m)), swaps := satAdd 8 x.swaps 1 }
  if m.dir = 0 then { y with txWaves := w, txSpare := noWave } else { y with rxWaves := w, rxSpare := noWave }

/-- SPARE_TAKEOVER (R316 step 4): at the frame boundary named; under version 1.0 by a retrain. -/
def execSpareTakeover (k : Fin 36) (receive : Bool) (s : State) : Result :=
  let x := s.port k
  match x.move.find? fun m => decide (m.dir = b2n receive) && m.locked with
  | none => .next s
  | some m =>
    let last := if receive then x.rxLseq else x.txLseq
    if x.version ≠ 1 ∧ 8192 ≤ lseqDist m.boundary ((last + 1) % 16384) then .next s
    else
      let s1 := ((s.setPort k (x.takeOver m)).trace 0x0401 noPart 0 [k, m.dir, m.wave]).report clsDegraded srcLnk k .done noPart m.wave
      .next (if x.version = 1 then s1.retrainPort k else s1)

/-! ### Training (R319 to R325) -/

/-- This module's HELLO with a nonce. -/
def State.ownHello (s : State) (k : Nat) (nonce : BitVec 256) : Hello := ⟨helloMagic, s.sec.fuses.serial, k, 7, 0, s.fwm.hdr.version, nonce⟩

/-- PHY_LOCK (R319 steps 1 and 2): into IDENT, or on in RETRAIN; a fresh nonce and HELLO. Without entropy no nonce is drawn. -/
def execPhyLock (k : Fin 36) (s : State) : Result :=
  let x := s.port k
  if (x.state ≠ .training ∧ (x.state ≠ .retrain ∨ x.locked)) ∨ s.sec.entropyOk = false then .next s
  else
    let (n, sec) := s.sec.draw
    let h := s.ownHello k n
    let s1 := { s with sec := sec }.movePort k fun y => { y with state := if y.state = PortState.training then .ident else y.state, locked := true, sent := some h }
    .next (s1.emit [.hello k h.bytes])

/-- HELLO arrives (R319 steps 2 and 3). -/
def execHello (k : Fin 36) (msg : Hello) (s : State) : Result :=
  let x := s.port k
  if !msg.ok then .next s
  else match x.sent, x.got with
    | some own, none =>
      if x.state = .ident ∨ x.state = .retrain then
        let y := { x with got := some msg, peerSerial := msg.serial, peerPort := msg.port, peerVersions := msg.versions, peerFw := msg.fwVersion }
        .next ((s.setPort k y).emit [.proof k (natBytes (proofTag (s.sec.keyOf classSlot) own msg) 32)])
      else .next s
    | _, _ => .next s

/-- The port with a peer whose PROOF holds: steps 5 and 6, the link layer anew unless it is the peer of before. -/
def State.settlePort (s : State) (k : Nat) (h : Hello) : State :=
  let x := s.port k
  let same := decide (x.state = .retrain ∧ x.before = some (h.serial, h.port))
  let s1 := s.movePort k fun y =>
    let z := (if same then y else y.anew).settle s.links.map s.sec.fuses.serial k h
    { z with sent := y.sent, got := y.got }
  if same ∧ (s1.port k).state = .up then s1.emitReplay k else s1

/-- PROOF arrives (R319 steps 4 to 6, R321 to R325). -/
def execProof (k : Fin 36) (tag : BitVec 256) (s : State) : Result :=
  let x := s.port k
  match x.sent, x.got with
  | some own, some h =>
    if x.state ≠ .ident ∧ x.state ≠ .retrain then .next s
    else if tag.toNat = proofTag (s.sec.keyOf classSlot) h own then .next (s.settlePort k h)
    else if x.state = .ident then .next (s.movePort k fun y => { y with state := .idFail, lastStatus := .accessDenied })
    else .next (s.movePort k fun y => y.dropTo .failed .accessDenied)
  | _, _ => .next s

/-- TRAIN_TIMEOUT (R320). -/
def execTrainTimeout (k : Fin 36) (s : State) : Result :=
  let x := s.port k
  if x.state = .training ∨ x.state = .ident then .next (s.movePort k fun y => { y with state := .off, lastStatus := .timeout }) else .next s

/-- LOSS_OF_LOCK (R325). -/
def execLossOfLock (k : Fin 36) (s : State) : Result := if (s.port k).state = .up then .next (s.retrainPort k) else .next s

/-- RETRAIN_WINDOW_EXPIRE (R325): no lock in time. -/
def execRetrainWindowExpire (k : Fin 36) (s : State) : Result :=
  if (s.port k).state = .retrain then .next (s.movePort k fun y => y.dropTo .failed .timeout) else .next s

/-! ### Frames (R327 to R338) -/

/-- FRAME_TRANSMIT (R329, R336): the next frame of a VC; with nothing to send, VC0 sends an IDLE frame. -/
def execFrameTransmit (k : Fin 36) (vc : Fin 8) (s : State) : Result :=
  let x := s.port k
  if !(decide (x.state = .up) || (decide (x.state = .miswired) && decide (vc.val = 0))) || !x.mayServe vc then .next s
  else match s.sendOne k vc with
    | some s1 => .next s1
    | none => if vc.val = 0 then .next (s.sendIdle k) else .next s

/-- DATA_FRAME_RECEIVE (R328, R333): the link layer, the reserved TYPEs (Table 12.6), then Table 12.9. -/
def execDataFrameReceive (k : Fin 36) (frame : List Byte) (fec : Nat) (s : State) : Result :=
  let s0 := s.updPort k fun x => { x with fecUe := satAdd 16 x.fecUe fec }
  let t := (Outer.ofWord (field frame 0 16)).type
  if (s.port k).state ≠ .up ∨ (crcOk frame ∧ (t = 0 ∨ t = 2)) then .next s
  else match s0.linkLayer k frame with
    | (s1, none) => .next s1
    | (s1, some o) => if o.type = 1 then .next (s1.judgeData k o frame) else .next ((s1.updPort k Port.countAuth).owe k o.vc (frameUnits frame.length))

/-- IDLE_FRAME (R328). -/
def execIdleFrame (k : Fin 36) (frame : List Byte) (s : State) : Result :=
  let x := s.port k
  if (x.state ≠ .up ∧ x.state ≠ .miswired) ∨ (crcOk frame ∧ (Outer.ofWord (field frame 0 16)).type ≠ 0) then .next s
  else .next (s.linkLayer k frame).1

/-- CTRL_FRAME (R334): opened by Scarab under the class link key; a tag that fails is counted. -/
def execCtrlFrame (k : Fin 36) (frame : List Byte) (s : State) : Result :=
  let x := s.port k
  if (x.state ≠ .up ∧ x.state ≠ .miswired) ∨ (crcOk frame ∧ (Outer.ofWord (field frame 0 16)).type ≠ 2) then .next s
  else match s.linkLayer k frame with
    | (s1, none) => .next s1
    | (s1, some o) =>
      let nonce := match x.got with
        | some h => h.nonce.toNat
        | none => 0
      let iv := x.peerSerial + nonce <<< 64 + x.ctrlRx <<< 320
      let ok := decide (frame.length = o.frameLen) && decide (Config.gcmTag (s.sec.keyOf classSlot) iv (frame.take 16) (frameCipher frame) = frameTag frame)
      let s2 := (s1.updPort k fun y => { y with ctrlRx := y.ctrlRx + 1 }).owe k o.vc (frameUnits frame.length)
      .next (if ok then s2 else s2.updPort k Port.countAuth)

/-- KEY_READY (R332). -/
def execKeyReady (k : Fin 36) (pkid : Fin 17) (kg : Fin 2) (s : State) : Result :=
  let x := s.port k
  match x.entry pkid with
  | none => .next s
  | some e =>
    if x.state ≠ .up ∨ x.version ≠ 3 ∨ kg.val ≠ 1 - e.kg then .next s
    else .next ((s.setPort k (x.setEntry pkid (some e.peerReady))).rekeyPort k)

/-! ### The map (R323 to R326) -/

/-- A port against a new map: one that is UNUSED is held OFF, one that is UP and no longer matches is MISWIRED. -/
def State.compareMap (s : State) (k : Nat) : State :=
  let x := s.port k
  if s.roleOf k = 0 then (if x.state = .off then s else s.movePort k fun y => y.dropTo .off .done)
  else if x.state = .up ∧ mapMatches s.links.map s.sec.fuses.serial k x.peerSerial x.peerPort = false then s.movePort k fun y => y.dropTo .miswired .miswired
  else s

/-- TOPO_LOAD (R323). -/
def execTopoLoad (fn : Fin 17) (q : Fin 8192) (host : HostData) (s : State) : Result :=
  .next (s.hostCmd fn q 0x30 fun a _ _ => withHost a host fun bs =>
    if !mapOk bs then ends a .versionUnsupported
    else
      let a1 := { a with links := { a.links with map := mapEntries bs } }
      ends ((List.range 36).foldl (fun (b : State) k => b.compareMap k) a1) .done)

/-! ### Bindings (R330, R336, R340) -/

/-- Arbitration changes at once where no bound partition runs, else at their next boundary (R336). -/
def State.arbitrateNow (s : State) (k : Nat) : State :=
  if (s.port k).parts.any fun p => (s.job p).run.isSome then s else s.updPort k Port.arbitrate

/-- LAST_STATUS of a port. -/
def State.notePort (s : State) (k : Nat) (st : Status) : State := s.updPort k fun x => { x with lastStatus := st }

/-- The LINK slot for a peer: the one held, or derived (R330 step 1). -/
def State.bindSlot (s : State) (p serial : Nat) : State × Status × Nat :=
  match s.linkSlot p serial with
  | some i => (s, .done, i)
  | none => s.deriveFor p (s.part p).sessionSlot kindLink 0 (linkContext s.sec.fuses.serial serial)

/-- A new entry, and the CONFIRM frame of 64 zero bytes that leaves under it (R330 steps 2 and 3). -/
def Port.bind (x : Port) (id p slot rank modules mode : Nat) (asker : Nat × Nat × Nat) : Port :=
  let e : PkidEntry := ⟨p, slot, 0, none, false, 0, 0, 0, [], rank, x.peerSerial, modules, mode, false, some asker⟩
  let y := x.setEntry id (some e)
  { y with txQ := y.txQ ++ [⟨0, id, ⟨FrameKind.control.code, true, true, 0, 0, 0, 0, 0⟩, [List.replicate 16 .zero], none⟩] }

/-- PORT_BIND (R330). -/
def execPortBind (fn : Fin 17) (q : Fin 8192) (s : State) : Result :=
  .next (s.hostCmd fn q 0x32 fun a c _ =>
    let p := bits c.entry.p0 0 4
    let k := bits c.entry.p0 4 6
    let id := bits c.entry.p0 10 5
    let x := a.port k
    let y := a.part p
    if 36 ≤ k ∨ id = 0 ∨ 16 < id then ends a .versionUnsupported
    else if !y.live ∨ y.sess = .closing then ends (a.notePort k .partitionGone) .partitionGone
    else if x.state ≠ .up ∨ (x.entry id).isSome ∨ y.sessionSlot = 0 then ends (a.notePort k .accessDenied) .accessDenied
    else
      let (a1, st, slot) := a.bindSlot p x.peerSerial
      if st ≠ .done then ends (a1.notePort k st) st
      else ((a1.updPort k fun z => z.bind id p slot (bits c.entry.p1 0 14) (bits c.entry.p1 16 15) (bits c.entry.p1 32 2) (fn, q, c.entry.seq)).arbitrateNow k, .running))

/-- An entry is cleared, its frames discarded and its slot let go (R330 step 4, R340). -/
def State.unbind (s : State) (k id : Nat) : State :=
  let x := s.port k
  match x.entry id with
  | none => s
  | some e =>
    let y := (x.discard fun i => decide (i = id)).setEntry id none
    let z := { y with inMsgs := y.inMsgs.filter (fun m => decide (m.part ≠ e.part)), held := y.held.filter (fun f => decide (f.part ≠ e.part)) }
    let s1 := (s.setPort k z).freeLink e.part e.slot
    let s2 := match e.next with
      | some (n, _) => if n = 0 then s1 else s1.freeLink e.part n
      | none => s1
    s2.arbitrateNow k

/-- CONFIRM arrives (R330 step 4): authentic, the binding completes DONE; else the entry is cleared. -/
def execConfirm (k : Fin 36) (frame : List Byte) (s : State) : Result :=
  let o := Outer.ofWord (field frame 0 16)
  let x := s.port k
  if x.state ≠ .up ∨ (crcOk frame ∧ (o.type ≠ 1 ∨ o.seq ≠ 0)) then .next s
  else match s.linkLayer k frame with
    | (s1, none) => .next s1
    | (s1, some o) =>
      let s2 := s1.owe k o.vc (frameUnits frame.length)
      match (s2.port k).entry o.pkid with
      | none => .next (s2.updPort k Port.countNoKey)
      | some e =>
        if e.confirmed then .next (s2.updPort k Port.countReplay)
        else
          let i := Inner.ofWord (field (s.frameBody k e.slot o frame) 0 16)
          let ok := s.frameOk k e.slot o frame && decide (i.kind = FrameKind.control.code ∧ o.len = 1)
          let st := if ok then Status.done else .digestMismatch
          let s3 := if ok then s2.updPort k fun y => y.setEntry o.pkid (some { e with confirmed := true, asker := none }) else (s2.updPort k Port.countAuth).unbind k o.pkid
          let s4 := s3.notePort k st
          .next (match e.asker with
            | some w => s4.complete w.1 w.2.1 w.2.2 st 0 0
            | none => s4)

/-- PORT_UNBIND (R340): the entry is cleared; a binding that waits on it completes CANCELLED. -/
def execPortUnbind (fn : Fin 17) (q : Fin 8192) (s : State) : Result :=
  .next (s.hostCmd fn q 0x33 fun a c _ =>
    let p := bits c.entry.p0 0 4
    let k := bits c.entry.p0 4 6
    let id := bits c.entry.p0 10 5
    if 36 ≤ k ∨ id = 0 ∨ 16 < id then ends a .versionUnsupported
    else match (a.port k).entry id with
      | none => ends (a.notePort k .accessDenied) .accessDenied
      | some e =>
        if e.part ≠ p then ends (a.notePort k .accessDenied) .accessDenied
        else
          let a1 := (a.unbind k id).notePort k .done
          ends (match e.asker with
            | some w => a1.complete w.1 w.2.1 w.2.2 .cancelled 0 0
            | none => a1) .done)

end Sys2Proof.Machine
end

