-- ==== Sys2Proof/Machine/ExecMaint.lean ====
section
/-! DEFINITION. Tiles and online maintenance (R373 to R375). -/

namespace Sys2Proof.Machine

/-- A tile that raises TILE (R374): with a run, the job stops; the failure of one that serves no partition is DEGRADED, or MODULE when its field has no spare. -/
def State.tileError (s : State) (t : Nat) : State :=
  let s1 := s.failTile t
  match (s.tile t).part with
  | some p => if (s.tile t).ltile.isSome then s1.jobFault clsTile srcTil t .poison p 0 else s1.report clsDegraded srcTil t .poison p 0
  | none => s1.report clsDegraded srcTil t .poison noPart 0

/-- TILE_UNCORRECTABLE_ERROR (R374, Table 14.2). -/
def execTileUncorrectableError (t : Fin 156) (s : State) : Result :=
  if s.ready && !bit s.res.failed t then .next (s.tileError t) else .next s

/-- TILE_REPLACEMENT (R374): once the run has ended, the failed tile's place goes to the lowest spare of its field; without one the module fails. -/
def execTileReplacement (t : Fin 156) (s : State) : Result :=
  let running : Bool := match (s.tile t).part with
    | some p => (s.job p).run.isSome
    | none => false
  if !bit s.res.failed t || !bit s.res.inService t || running then .next s
  else match s.replaceTile t with
    | some s1 => .next s1
    | none => .next (s.noSpare t)

/-! ### MAINT (Table 14.3) -/

/-- A MAINT command with this request. -/
def State.maintCmd (s : State) (fn q req : Nat) (f : State → Nat → State × Status) : State :=
  match s.nextCmd fn q 0x47 with
  | some c => if bits c.entry.p0 0 4 = req then s.hostCmd fn q 0x47 fun a d _ => (let r := f a (bits d.entry.p0 16 16); ends r.1 r.2) else s
  | none => s

/-- Held for action 4 when a run uses the resource, else at once (R375). -/
def State.heldOr (s : State) (m : Maint) (busy : Bool) (now : State → State × Status) : State × Status :=
  if busy then ({ s with maint := s.maint ++ [m] }, .deferred) else now s

/-- A run uses a tile. -/
def State.tileBusy (s : State) (t : Nat) : Bool := match (s.tile t).part with
  | some p => (s.job p).run.isSome
  | none => false

/-- TILE_TEST (R375): a spare at once; an in-service tile is replaced and tested beside the work. -/
def execTileTest (fn : Fin 17) (q : Fin 8192) (pass : Bool) (s : State) : Result :=
  .next (s.maintCmd fn q mntTileTest fun a t =>
    if 156 ≤ t then (a, .versionUnsupported)
    else if bit a.res.inService t then a.heldOr ⟨mntTileTest, t, pass⟩ (a.tileBusy t) fun b => b.testTile t pass
    else if bit a.res.failed t || pass then (a, .done)
    else (a.failTile t, .done))

/-- TILE_REPLACE (R375). -/
def execTileReplace (fn : Fin 17) (q : Fin 8192) (s : State) : Result :=
  .next (s.maintCmd fn q mntTileReplace fun a t =>
    if 156 ≤ t then (a, .versionUnsupported)
    else if !bit a.res.inService t then (a, .accessDenied)
    else a.heldOr ⟨mntTileReplace, t, true⟩ (a.tileBusy t) fun b => b.swapOut t)

/-- PC_TEST (R254, R375): at once, in the test area; what it finds has no stated effect. -/
def execPcTest (fn : Fin 17) (q : Fin 8192) (_errors : Bool) (s : State) : Result :=
  .next (s.maintCmd fn q 3 fun a c => (a, if 1024 ≤ c then .versionUnsupported else .done))

/-- PC_RETIRE (R255, R375). -/
def execPcRetire (fn : Fin 17) (q : Fin 8192) (s : State) : Result :=
  .next (s.maintCmd fn q 4 fun a c => if 1024 ≤ c then (a, .versionUnsupported) else (let b := a.retirePc c false; (b, b.hbm.lastStatus)))

/-- STACK_RECAL (R254): held while any run is in progress. -/
def execStackRecal (fn : Fin 17) (q : Fin 8192) (s : State) : Result :=
  .next (s.maintCmd fn q mntRecal fun a n =>
    if 16 ≤ n then (a, .versionUnsupported)
    else a.heldOr ⟨mntRecal, n, true⟩ ((List.range 16).any fun p => (a.job p).run.isSome) fun b => (b, .done))

/-- LANE_CAL (R375): an active lane of a port that carries a running partition is held; an idle lane at once. -/
def execLaneCal (fn : Fin 17) (q : Fin 8192) (s : State) : Result :=
  .next (s.maintCmd fn q mntLane fun a k =>
    if 36 ≤ k then (a, .versionUnsupported)
    else a.heldOr ⟨mntLane, k, true⟩ ((a.port k).parts.any fun p => (a.job p).run.isSome) fun b => (b, .done))

/-- SENSOR_CAL (R254, R375): at once. -/
def execSensorCal (fn : Fin 17) (q : Fin 8192) (s : State) : Result := .next (s.maintCmd fn q 7 fun a _ => (a, .done))

end Sys2Proof.Machine
end

