-- ==== Sys2Proof/Machine/ExecPart.lean ====
section
/-! DEFINITION. Partitions, sessions, image load, runs, ingest and release (chapters 2, 11 and 15). -/

namespace Sys2Proof.Machine

/-! ### Creation (R288 to R292) -/

/-- Partitions exist in TEST, DEPLOYED and RETURNED (Table 10.6). -/
def State.partsAllowed (s : State) : Bool := match s.sec.fuses.state with
  | .test | .deployed | .returned => true
  | _ => false

/-- Sessions open in TEST and DEPLOYED (Table 10.6). -/
def State.sessionsAllowed (s : State) : Bool := match s.sec.fuses.state with
  | .test | .deployed => true
  | _ => false

/-- Stream-table blocks that no partition holds. -/
def State.freeBlocks (s : State) : List Nat :=
  let held := (s.liveParts.map fun p => (s.part p).blocks).flatten
  ((List.range 255).map (· * 1024)).filter fun b => !held.contains b

/-- Free slots among 16 to 2,047, quotas already given counted in full. -/
def State.freeSlots (s : State) : Nat :=
  let quotas := (s.liveParts.map fun p => (s.part p).rec_.slots).sum
  let held := (s.liveParts.map fun p => (s.part p).slots).flatten
  let other := (s.sec.slots.filter fun e => decide (16 ≤ e.1) && decide (e.2.state ≠ .free) && !held.contains e.1).length
  2032 - quotas - other

/-- The checks of R289. -/
def State.createStatus (s : State) (bs : List Byte) : Status :=
  let r := PartRecord.ofBytes bs
  let quads := s.liveParts.foldl (fun acc p => acc ||| (s.part p).rec_.quads) 0
  if !s.partsAllowed then .accessDenied
  else if recordMalformed bs then .versionUnsupported
  else if (s.part r.part).live then .accessDenied
  else if quads &&& r.quads ≠ 0 then .noResource
  else if s.freeBlocks.length < r.streamBlocks then .noResource
  else if s.freeSlots < r.slots then .noResource
  else if (s.hbm.gransIn fun g => decide (g.state = .free)).length < r.granules + r.staging then .noResource
  else .done

/-- Step 1 of R292: the partition with its quads, blocks and quota. -/
def State.openPart (s : State) (bs : List Byte) : State :=
  let r := PartRecord.ofBytes bs
  let s1 := { s with
    parts := Store.set .reset s.parts r.part { Part.reset with record := bs, sess := .opened, origin := decide (r.sessionId = 0), blocks := s.freeBlocks.take r.streamBlocks }
    jobs := Store.set .reset s.jobs r.part .reset
    snaps := Store.set .reset s.snaps r.part .reset
    coll := s.coll.setPart r.part .reset
    hif := s.hif.setObj r.part { s.hif.obj r.part with image := [], areas := [] } }
  (s1.updTiles (s1.quadTiles r.part) fun t => { t with part := some r.part, ltile := none, label := 0 }).freshView r.part

/-- Step 2 on the originating module: SESSION_ID, then the session secret. -/
def State.openSession (s : State) (p : Nat) : State × Status :=
  if s.sec.entropyOk = false then (s, .noResource)
  else
    let (v, k) := s.sec.draw
    let s1 := { s with sec := k }.updPart p fun x => { x with record := fillSessionId x.record (v.toNat % 2 ^ 128) }
    let (s2, st, i) := s1.generateFor p kindSession
    (s2.updPart p fun x => { x with sessionSlot := i }, st)

/-- Step 3: the KEM slot and its encapsulation key. -/
def State.openKem (s : State) (p : Nat) : State × Status :=
  let (s1, st, i) := s.generateFor p kindKem
  (s1.updPart p fun x => { x with kemSlot := i, kemKey := if st = .done then kemPublic (BitVec.ofNat 512 (s1.sec.slot i).material) else [] }, st)

/-- Steps 4 and 5: MEM of epoch 0 and CKPT, then the lowest FREE granules carved and staged. -/
def State.openMemory (s : State) (p : Nat) : State × Status :=
  let x := s.part p
  let (s1, st1, m) := s.deriveFor p x.sessionSlot kindMem 0 []
  if st1 ≠ .done then (s1, st1)
  else
    let (s2, st2, c) := s1.deriveFor p x.sessionSlot kindCkpt 0 (s1.ckptContext p)
    if st2 ≠ .done then (s2, st2)
    else
      let s3 := s2.updPart p fun y => { y with memSlot := m, ckptSlot := c }
      let free := s3.hbm.gransIn fun g => decide (g.state = .free)
      if free.length < x.rec_.granules + x.rec_.staging then (s3, .noResource)
      else
        let h1 := (free.take x.rec_.granules).foldl (fun (h : Hbm) g => h.carve p g m false) s3.hbm
        let h2 := ((free.drop x.rec_.granules).take x.rec_.staging).foldl (fun (h : Hbm) g => h.stage p g) h1
        ({ s3 with hbm := h2 }, .done)

/-- LAST_STATUS of SEC_SESS_STATUS (Table 11.7). -/
def State.noteSession (s : State) (p : Nat) (st : Status) : State := s.updPart p fun x => { x with lastStatus := st }

/-- A step of the opening failed: the partition is removed, and the command completes with the status when it is GONE (R292). -/
def State.failOpen (s : State) (p : Nat) (asker : Nat × Nat × Nat) (st : Status) : State := s.removePart p none (some (asker, st))

/-- PART_CREATE (R289, R292); refused while an activation is held (R438). -/
def execPartCreate (fn : Fin 17) (q : Fin 8192) (host : HostData) (s : State) : Result :=
  .next (s.hostCmd fn q 0x20 fun a c _ => withHost a host fun bs =>
    let st := if a.fwm.held then Status.accessDenied else a.createStatus bs
    let p := (PartRecord.ofBytes bs).part
    if st ≠ .done then ends a st
    else
      let a1 := a.openPart bs
      let (a2, st2) := if (a1.part p).origin then a1.openSession p else (a1, Status.done)
      if st2 ≠ .done then (a2.failOpen p (fn, q, c.entry.seq) st2, .running)
      else
        let (a3, st3) := a2.openKem p
        if st3 ≠ .done then (a3.failOpen p (fn, q, c.entry.seq) st3, .running)
        else
          let (a4, st4) := if (a3.part p).origin then a3.openMemory p else (a3, Status.done)
          if st4 ≠ .done then (a4.failOpen p (fn, q, c.entry.seq) st4, .running)
          else ends (a4.noteSession p .done) .done)

/-! ### Removal (R310 to R312) -/

/-- PART_REMOVE: the operator names the partition, a tenant's VF serves it. -/
def execPartRemove (fn : Fin 17) (q : Fin 8192) (s : State) : Result :=
  .next (s.hostCmd fn q 0x21 fun a c _ =>
    let p := if fn.val = 0 then c.entry.p0 % 16 else fnPart fn
    let x := a.part p
    if !x.live then ends a .partitionGone
    else match x.removal with
      | some r => (a.setPart p { x with removal := some { r with askers := r.askers ++ [(fn.val, q.val, c.entry.seq)] } }, .running)
      | none => (a.removePart p (some (fn, q, c.entry.seq)) none, .running))

/-- REMOVAL_DRAIN_END: nothing of the partition is left in a lane or a port (R310 action 3). -/
def execRemovalDrainEnd (p : Fin 16) (s : State) : Result :=
  match (s.part p).removal with
  | some r => if r.step = .drain ∧ s.dmaBusy p = false then .next (s.drained p) else .next s
  | none => .next s

/-! ### Evidence (R294, R453) -/

/-- Bytes of the signed part of an evidence structure (Table 16.8). -/
abbrev evidenceFront : Nat := 0xB8

/-- The signed part for a partition. -/
def State.evidenceFor (s : State) (p : Nat) (nonce index : Nat) : List Byte :=
  let x := s.part p
  let h := s.fwm.hdr
  evidenceBytes s.sec.fuses.state.num s.sec.root s.sec.rights s.sec.fuses.serial s.fwm.digest h.version h.svn s.sec.fuses.floor (BitVec.ofNat 256 nonce) p
    x.configDigest (if x.sess = .opened then Config.shake256 x.kemKey else 0) s.fwm.time index

/-- EVIDENCE: one signature index is spent; the whole structure's digest is kept while the session is OPEN. A request that must wait for a subtree stays unstarted. -/
def execEvidence (fn : Fin 17) (q : Fin 8192) (host : HostData) (s : State) : Result :=
  let waits : Bool := match s.sec.sign with
    | .waits => true
    | _ => false
  if waits && !s.fnGone fn then .next s
  else .next (s.hostCmd fn q 0x22 fun a c _ => withHost a host fun bs =>
    let p := fnPart fn
    let total := evidenceFront + signatureBytes + 4 + a.fwm.cert.length
    if c.entry.p2 < total then (a, .done .noResource total 0)
    else
      let nonce := field bs 0 32
      match a.sign fun i => Config.shake256 (a.evidenceFor p nonce i) with
      | .waits => ends a .deferred
      | .refused b st => ends b st
      | .made b i sig =>
        let e := a.evidenceFor p nonce i ++ sig
        let b1 := b.updPart p fun x => if x.sess = .opened then { x with evidence := ((Config.shake256 e) :: x.evidence.reverse).take 64 |>.reverse } else x
        (b1.emit [.hostWrite fn c.entry.p1 (e ++ natBytes a.fwm.cert.length 4 ++ a.fwm.cert)], .done .done total 0))

/-! ### Session secret and owners (R292, R294, R295) -/

/-- A wrapped session secret that a peer exports to this module: the additional data names the slot and both serials (R272, R273). -/
def State.joinMessage (s : State) (p : Nat) (peer : PeerEvidence) (w : Wrapped) : Wrapped :=
  { w with aad := natBytes kindSession 1 ++ natBytes p 1 ++ natBytes 0 1 ++ natBytes peer.serial 8 ++ natBytes s.sec.fuses.serial 8 }

/-- IMPORT into a new slot of the quota. -/
def State.importFor (s : State) (p kem kind : Nat) (w : Wrapped) : State × Status × Nat :=
  match s.slotFor p with
  | none => (s, .noResource, 0)
  | some i =>
    let (k, st) := s.sec.importSlot kem i kind p 0 w
    if st ≠ .done then (s, st, 0) else (({ s with sec := k }).takeSlot p i, .done, i)

/-- SESSION_JOIN: a member brings the session secret in (R292 step 2) and goes on with steps 4 and 5; in a session that holds one, it is this member's part of a re-key (R295). -/
def execSessionJoin (fn : Fin 17) (q : Fin 8192) (peer : PeerEvidence) (wrapped : Wrapped) (_origin : Nat) (_sessionId : Nat) (s : State) : Result :=
  .next (s.hostCmd fn q 0x23 fun a c _ =>
    let p := fnPart fn
    let x := a.part p
    let k := c.entry.p0 % 64
    let w := a.joinMessage p peer wrapped
    if !a.sessionsAllowed ∨ x.origin ∨ 36 ≤ k ∨ (a.port k).peerSerial ≠ peer.serial then ends a .accessDenied
    else if x.sessionSlot = 0 then
      let (a1, st, i) := a.importFor p x.kemSlot kindSession w
      if st ≠ .done then (a1.failOpen p (fn, q, c.entry.seq) st, .running)
      else
        let (a2, st2) := (a1.updPart p fun y => { y with sessionSlot := i }).openMemory p
        if st2 ≠ .done then (a2.failOpen p (fn, q, c.entry.seq) st2, .running) else ends a2 .done
    else if x.sess ≠ .armed ∧ x.sess ≠ .active then ends a .accessDenied
    else if x.rekey.isSome then ends a .deferred
    else
      let (a1, st, i) := a.importFor p x.kemSlot kindSession w
      if st ≠ .done then ends a1 st
      else
        let (a2, st2) := a1.memberRekey p i false
        ends a2 st2)

/-- The import message of Table "owner import" as IMPORT receives it (R294). -/
def ownerWrapped (bs : List Byte) : Wrapped :=
  let ct := bs.take 1568
  ⟨ct, Config.shake256 (((bs.drop 0x630).take 8) ++ ((bs.drop 0x640).take 32) ++ ((bs.drop 0x638).take 1) ++ ct), (bs.drop 0x620).take 64, (bs.drop 0x660).take 64,
   BitVec.ofNat 128 (field bs 0x6A0 16)⟩

/-- OWNER_IMPORT (R294): the checks, IMPORT, the roster; the last one may arm the session. -/
def State.ownerImport (s : State) (p : Nat) (bs : List Byte) : State × Status :=
  let x := s.part p
  let j := field bs 0x638 1
  if !s.sessionsAllowed ∨ x.sess ≠ .opened ∨ field bs 0x620 16 ≠ x.rec_.sessionId ∨ field bs 0x630 8 ≠ s.sec.fuses.serial ∨ x.rec_.owners ≤ j ∨
     bit x.imported j ∨ !zeroBytes bs 0x639 7 ∨ !x.evidence.contains (BitVec.ofNat 256 (field bs 0x640 32)) then (s, .accessDenied)
  else
    let (s1, st, i) := s.importFor p x.kemSlot kindOwner (ownerWrapped bs)
    if st ≠ .done then (s1, st)
    else if ownerDigest (s1.sec.slot i).material ≠ x.rec_.roster.getD j 0 then (s1.dropSlot p i, .digestMismatch)
    else ((s1.updPart p fun y => { y with imported := setBits y.imported j 1 1, ownerSlots := Store.set 0 y.ownerSlots j i }).tryArm p, .done)

/-- OWNER_IMPORT. -/
def execOwnerImport (fn : Fin 17) (q : Fin 8192) (host : HostData) (s : State) : Result :=
  .next (s.hostCmd fn q 0x24 fun a _ _ => withHost a host fun bs =>
    let (a1, st) := a.ownerImport (fnPart fn) bs
    ends (a1.noteSession (fnPart fn) st) st)

/-- SESSION_REKEY on the originating module (R295); DEFERRED while one is in progress, and run after it. -/
def execSessionRekey (fn : Fin 17) (q : Fin 8192) (s : State) : Result :=
  .next (s.hostCmd fn q 0x25 fun a _ _ =>
    let p := fnPart fn
    let x := a.part p
    if !x.origin ∨ (x.sess ≠ .armed ∧ x.sess ≠ .active) then ends a .accessDenied
    else match x.rekey with
      | some r => ends (a.setPart p { x with rekey := some { r with again := true } }) .deferred
      | none =>
        let (a1, st) := a.beginRekey p
        ends a1 st)

/-! ### Image load (R40 to R45, R296, R414) -/

/-- Approvals of a load block (R296, R414). -/
def loadApprovals (bs : List Byte) (rules owners : Nat) : List Approval :=
  (List.range owners).map fun i =>
    let b := (bs.drop (64 + 32 * rules + 48 * i)).take 48
    ⟨field b 0 1, BitVec.ofNat 256 (field b 16 32)⟩

/-- Step 3 of R40 (R296). -/
def State.approve (s : State) (p : Nat) (h : ImageHeader) (blk : List Byte) : Status :=
  let x := s.part p
  let rules := field blk 0xA 2
  let owners := x.rec_.owners
  let pol := blk.take (64 + 32 * rules)
  if x.sess ≠ .armed ∧ x.sess ≠ .active then .accessDenied
  else if blk.length ≠ 64 + 32 * rules + 48 * owners then .versionUnsupported
  else if (Policy.ofBytes pol).digest ≠ h.digest then .digestMismatch
  else if !policyOk pol owners h.vaSize then .versionUnsupported
  else approvalsStatus (fun j => approvalTag (approvalKey (s.sec.slot (Store.get 0 x.ownerSlots j)).material) h.digest (Config.shake256 pol) x.rec_.sessionId)
    owners (loadApprovals blk rules owners)

/-- Nothing that a tile's image places reaches its queue area (R182, R40 step 5). -/
def ImageBody.queuesClear (b : ImageBody) (l : Nat) (d : LTileDesc) : Bool :=
  let qb := b.queueBase l
  decide (4 * d.program.length ≤ qb) && d.resident.all (fun r => decide (r.off + r.len ≤ qb)) && d.consts.all (fun c => decide (c.1 + 4 * c.2.length ≤ qb)) &&
  d.descs.all (fun c => decide (c.1 + 4 * c.2.length ≤ qb)) && d.patches.all fun t => decide (t.wordOff + 8 ≤ qb)

/-- Steps 1 and 2: the header, and the digest over the whole image with its own field zero. -/
def State.readImage (s : State) (p : Nat) (maps : List MapRun) (va : Nat) : State × Status × ImageHeader :=
  let b := s.vaRead (.sysChan p) p maps va 256
  let h := ImageHeader.ofBytes (twordBytes b.words)
  if b.status ≠ .done then (b.s, b.status, h)
  else if h.magic ≠ imageMagic then (b.s, .accessDenied, h)
  else if h.major ≠ 1 ∨ h.minor ≠ 0 then (b.s, .versionUnsupported, h)
  else if (rangeMems maps va h.size).isNone then (b.s, .accessDenied, h)
  else
    let w := b.s.vaRead (.sysChan p) p maps va ((h.size + 3) / 4 * 4)
    let bs := (twordBytes w.words).take h.size
    if w.status ≠ .done then (w.s, w.status, h)
    else if w.words.any TWord.poison then (w.s, .poison, h)
    else if Config.shake256 (bs.take 0x20 ++ List.replicate 32 0 ++ bs.drop 0x40) ≠ h.digest then (w.s, .digestMismatch, h)
    else (w.s, .done, h)

/-- Steps 4 and 5 on the image's segments; the placement when they pass. -/
def State.checkImage (s : State) (p : Nat) (space : List MapRun) (h : ImageHeader) (body : ImageBody) : Status × List Nat :=
  let ranks := (s.coll.part p).ranks
  let mapped := fun a => (findPage space a).isSome
  let env := fun (queues : Bool) => (⟨body, h.vaSize, mapped, body.tiles queues, fun g => s.colEnv p g h.vaSize space⟩ : LoadEnv)
  let x := s.part p
  if !(env false).ok h ranks then (.versionUnsupported, [])
  else if (x.rec_.granules + x.rec_.staging) * 2 ^ 30 < h.vaSize ∨ 1024 * x.blocks.length < body.entries ∨
    (List.range h.ltiles).any (fun l => decide (spaBase < body.ringSpace l)) then (.noResource, [])
  else match s.placement p body with
    | none => (.noResource, [])
    | some place =>
      let clear := (List.range h.ltiles).all fun l => match body.ltiles[l]? with
        | some d => body.queuesClear l d
        | none => false
      if !clear || !(env true).ok h ranks then (.versionUnsupported, []) else (.done, place)

/-- Step 6 and the placing of the image; none when the binding fails, and then nothing is placed. -/
def State.placeImage (s : State) (p va : Nat) (space : List MapRun) (h : ImageHeader) (body : ImageBody) (place : List Nat) (pol : Policy) : Option State :=
  match State.bindStreams { s with streams := s.streams.release p } p place body with
  | none => none
  | some s1 =>
    let j := s1.job p
    let im : Image := ⟨va, h.digest, h.vaSize, if h.watchdog = 0 then 10000 else h.watchdog, body⟩
    let s2 := s1.setJob p { j with
      image := some im, place := place, space := space, step := { StepState.reset with lsExp := lossAtLoad j.lossPolicy }
      lossInForce := j.lossPolicy, posted := [], delivered := [], fresh := true }
    let s3 := s2.updTiles (s2.quadTiles p) fun t => { t with
      ltile := none, units := [], resident := [], progBytes := 0, queueBase := spaBase, stage := t.stage.toIdle }
    let s4 := (List.range place.length).foldl (fun (a : State) l => match body.ltiles[l]?, place[l]? with
      | some d, some t => (a.loadTile p l t).updTile t fun x => { x with label := x.label ||| BitVec.ofNat 32 (a.regionLabel p d) }
      | _, _ => a) s3
    let s5 := s4.updPart p fun x => { x with sess := .active, policy := some pol }
    let s6 := { s5 with hif := (s5.hif.setObj p { s5.hif.obj p with image := mapMems space }).sweep p }
    some (s6.sample p ((List.range 6).map fun r => (1, r)))

/-- IMAGE_LOAD (R40): the first failing step decides, and the partition keeps the image it held. -/
def State.imageLoad (s : State) (p ctx fn va : Nat) (blk : List Byte) (body : ImageBody) : State × Status :=
  let maps := s.ctxMaps fn ctx
  if (s.job p).run.isSome then (s, .noResource)
  else
    let (s1, st1, h) := s.readImage p maps va
    if st1 ≠ .done then (s1, st1)
    else
      let st2 := s1.approve p h blk
      if st2 ≠ .done then (s1, st2)
      else
        let space := mapsBelow maps (h.vaSize / 2097152)
        let (st3, place) := s1.checkImage p space h body
        if st3 ≠ .done then (s1, st3)
        else match s1.placeImage p va space h body place (Policy.ofBytes (blk.take (64 + 32 * field blk 0xA 2))) with
          | none => (s1, .noResource)
          | some s2 => (s2, .done)

/-- IMAGE_LOAD. -/
def execImageLoad (fn : Fin 17) (q : Fin 8192) (host : HostData) (body : ImageBody) (s : State) : Result :=
  .next (s.hostCmd fn q 0x26 fun a c ctx => withHost a host fun blk =>
    let (a1, st) := a.imageLoad (fnPart fn) ctx fn c.entry.p0 blk body
    ends (a1.noteSession (fnPart fn) st) st)

/-! ### Runs (R60, R415) -/

/-- RUN: accepted, it stands before its first release. -/
def execRun (fn : Fin 17) (q : Fin 8192) (s : State) : Result :=
  .next (s.hostCmd fn q 0x27 fun a c _ =>
    let p := fnPart fn
    let j := a.job p
    if j.image.isNone ∨ j.restorePending then ends a .accessDenied
    else if j.run.isSome then ends a .noResource
    else if c.entry.p0 = 0 then ends a .versionUnsupported
    else
      let r : Run := ⟨(fn, q, c.entry.seq), c.entry.p0, bit c.entry.p1 0, 0, .release, none, 0xFFFF, 0, 0, false⟩
      ((a.setJob p { j with run := some r }).follow, .running))

/-! ### Ingest and release (R297 to R299, R305) -/

/-- Next 64 B boundary. -/
def up64 (n : Nat) : Nat := (n + 63) / 64 * 64

/-- One record of an ingest at a staging address (R298): the next record's address when it is accepted. -/
def State.ingestOne (s : State) (p : Nat) (maps : List MapRun) (va : Nat) : State × Status × Nat :=
  let b := s.vaRead (.sysChan p) p maps va 64
  let h := OwnerHeader.ofBytes (twordBytes b.words)
  if !s.vaStaging p maps va then (s, .accessDenied, va)
  else if b.status ≠ .done then (b.s, b.status, va)
  else if 1048576 < h.length then (b.s, .accessDenied, va)
  else
    let w := b.s.vaRead (.sysChan p) p maps va (64 + h.length / 4 * 4 + 16)
    if w.status ≠ .done then (w.s, w.status, va)
    else match w.s.openOwner p maps (twordBytes w.words) with
      | (.done, o, pay) =>
        let s1 := ((w.s.labelRange p maps o.va o.length o.label).vaWrite (.sysChan p) p maps o.va (cleanWords pay))
        if s1.status = .done then (s1.s.acceptOwner p o, .done, up64 (va + 80 + h.length)) else (s1.s, s1.status, va)
      | (st, _, _) => (w.s, st, va)

/-- Records one after another; records accepted, and the status that ended them. -/
def State.ingestMany : Nat → State → Nat → List MapRun → Nat → State × Status × Nat
  | 0, s, _, _, _ => (s, .done, 0)
  | n + 1, s, p, maps, va =>
    let (s1, st, next) := s.ingestOne p maps va
    if st ≠ .done then (s1, st, 0)
    else
      let (s2, st2, k) := State.ingestMany n s1 p maps next
      (s2, st2, k + 1)

/-- INGEST. -/
def execIngest (fn : Fin 17) (q : Fin 8192) (s : State) : Result :=
  .next (s.hostCmd fn q 0x28 fun a c ctx =>
    let p := fnPart fn
    let x := a.part p
    if x.sess ≠ .armed ∧ x.sess ≠ .active then ends a .accessDenied
    else
      let (a1, st, n) := a.ingestMany c.entry.p1 p (a.cmdMaps fn ctx c) c.entry.p0
      (a1, .done st n 0))

/-- One release record of up to 1 MiB in a form: its bytes (R299, R304). -/
def State.releaseRecord (s : State) (p form recipient nonce i : Nat) (maps : List MapRun) (va n : Nat) : State × Status × List Byte :=
  if !s.mayRelease p maps form recipient va n then (s, .accessDenied, [])
  else
    let b := s.vaRead (.sysChan p) p maps va n
    let label := b.s.labelOf p maps va n
    if b.status ≠ .done then (b.s, b.status, [])
    else if form = 2 then b.s.sealOwner p recipient va label (twordBytes b.words)
    else
      let slot := (s.part p).ckptSlot
      let st := s.sec.useSlot slot p [kindCkpt]
      if st ≠ .done then (b.s, st, [])
      else (b.s, .done, sealRecord (b.s.sec.keyOf slot) ⟨snapState, b.s.sessionId p, b.s.sec.fuses.serial, (b.s.snap p).epoch, nonce, i, n⟩ (twordBytes b.words))

/-- Records of 1 MiB from a source into staging; records written, and the status that ended them. -/
def State.releaseMany : Nat → State → Nat → Nat → Nat → Nat → Nat → List MapRun → Nat → Nat → State × Status × Nat
  | 0, s, _, _, _, _, _, _, _, _ => (s, .done, 0)
  | n + 1, s, p, form, recipient, nonce, i, maps, src, dst =>
    let (s1, st, bs) := s.releaseRecord p form recipient nonce i maps src 1048576
    if st ≠ .done then (s1, st, 0)
    else
      let b := s1.vaWrite (.sysChan p) p maps dst (cleanWords bs)
      if b.status ≠ .done then (b.s, b.status, 0)
      else
        let (s2, st2, k) := State.releaseMany n b.s p form recipient nonce (i + 1) maps (src + 1048576) (up64 (dst + bs.length))
        (s2, st2, k + 1)

/-- A release (R305): allowed as a whole before any byte moves, and only into staging. -/
def State.release (s : State) (p : Nat) (maps : List MapRun) (src dst n form recipient : Nat) : State × Status × Nat :=
  let span := pageSpan dst (n + n / 1048576 * 128)
  if (s.part p).sess ≠ .active then (s, .accessDenied, 0)
  else if form = 0 ∨ 2 < form ∨ n = 0 ∨ n % 2097152 ≠ 0 then (s, .versionUnsupported, 0)
  else if !s.mayRelease p maps form recipient src n then (s, .accessDenied, 0)
  else if (List.range span.2).any (fun i => !s.vaStaging p maps ((span.1 + i) * 2097152)) then (s, .accessDenied, 0)
  else if form = 1 && !s.sec.entropyOk then (s, .noResource, 0)
  else
    let (nonce, s1) := if form = 1 then s.drawNonce else (0, s)
    s1.releaseMany (n / 1048576) p form recipient nonce 0 maps src dst

/-- RELEASE. -/
def execRelease (fn : Fin 17) (q : Fin 8192) (s : State) : Result :=
  .next (s.hostCmd fn q 0x29 fun a c ctx =>
    let (a1, st, k) := a.release (fnPart fn) (a.cmdMaps fn ctx c) c.entry.p0 c.entry.p1 (bits c.entry.p2 0 48) (bits c.entry.p2 48 8) (bits c.entry.p2 56 8)
    (a1.noteSession (fnPart fn) st, .done st k 0))

end Sys2Proof.Machine
end

