-- ==== Sys2Proof/Machine/ExecPower.lean ====
section
/-! DEFINITION. Meanings of the start-up, power and clock commands (chapters 1 and 17). -/

namespace Sys2Proof.Machine

/-- AON_RAIL_GOOD (R33, R461, R467): the AON clock and Mantis start; a reversed input recorded earlier is reported. -/
def execAonRailGood (s : State) : Result :=
  if s.pwr.aon then .next s
  else
    let p := (s.pwr.startClk 1).startClk 15
    let s1 := { s with boot := ⟨some 0, false, none⟩
                       pwr := { p.setRail 0 ⟨.good, 800, 0, 0, 0⟩ with aon := true, state := .standby, level := s.pwr.askedLevel, reversed := false } }
    .next (if s.pwr.reversed then { s1.report clsCorrected srcPwr 0 .done noPart 0x0D with pwr := { s1.pwr with lastCause := 0x0D } } else s1)

/-- PWR_REQ_RISE (R467): a power-on request, once phase 0 is complete. -/
def execPwrReqRise (s : State) : Result :=
  let s1 := { s with pwr := { s.pwr with pwrReq := true } }
  .next (if s.pwr.pwrReq then s else if s.aonUp then s1.powerOn.1 else s1)

/-- PWR_REQ_FALL (R467): a power-off request. -/
def execPwrReqFall (s : State) : Result :=
  let s1 := { s with pwr := { s.pwr with pwrReq := false } }
  .next (if !s.pwr.pwrReq then s else if s.aonUp then s1.powerOff else s1)

/-- POWER_ON (R451, R467). -/
def execPowerOn (s : State) : Result :=
  if !s.pwr.aon then .next s
  else if !s.aonUp then .next (s.reply .deferred [])
  else if s.scrapped then .next (s.reply .accessDenied [])
  else
    let (s1, st) := s.powerOn
    .next (s1.reply st [])

/-- POWER_OFF (R451, R467). -/
def execPowerOff (s : State) : Result :=
  if !s.pwr.aon then .next s
  else if !s.aonUp then .next (s.reply .deferred [])
  else if s.scrapped then .next (s.reply .accessDenied [])
  else .next (s.powerOff.reply .done [])

/-- RAIL_GOOD (R463): the rail is good and the rails of the next position start. -/
def execRailGood (rail : Fin 13) (mv da : Nat) (s : State) : Result :=
  if (s.pwr.rail rail).state ≠ .ramping then .next s
  else
    let p := s.pwr.setRail rail { s.pwr.rail rail with state := .good, mv := mv % 65536, da := da % 65536 }
    let s1 := { s with pwr := p.startNext s.scrapped }
    .next (if s1.pwr.good && !s.pwr.good then s1.emit [.pin pinGood true] else s1)

/-- PHASE_COMPLETE (R33, R35, R36): the work of the present phase ends; phase 1 needs every main rail good, in SCRAPPED those that start. -/
def execPhaseComplete (work : PhaseWork) (s : State) : Result :=
  if s.boot.complete ∨ s.boot.failed.isSome then .next s
  else match s.boot.phase with
    | none => .next s
    | some n =>
      match work.cause with
      | some c => .next (s.failPhase c)
      | none =>
        if n = 0 then
          let s1 := s.passPhase
          .next (if s1.pwr.pwrReq then s1.powerOn.1 else s1)
        else if n = 1 then
          if s.pwr.good ∨ s.scrapped then .next (s.endPhase1 work.slots) else .next s
        else if n = 3 then .next (s.endPhase3 work.pcs)
        else if n = 4 then .next (s.endPhase4 work.tiles)
        else .next s.passPhase

/-- CONTROL_CLUSTER_RELEASE (R33): phase 2 begins after phase 1. -/
def execControlClusterRelease (s : State) : Result :=
  .next (if s.boot = ⟨some 1, true, none⟩ then { s with boot := ⟨some 2, false, none⟩ } else s)

/-- PHASE_3_START (R33, R261): HBMC, HBMPHY and CRYPTO start, and the memory protection begins at its reset values. -/
def execPhase3Start (s : State) : Result :=
  .next (if s.boot = ⟨some 2, true, none⟩ then { s with boot := ⟨some 3, false, none⟩, pwr := s.pwr.startClks (phaseClocks 3), hbm := .reset, pageLabels := [] } else s)

/-- PHASE_4_START (R33): MESH and the core clocks start. -/
def execPhase4Start (s : State) : Result :=
  .next (if s.boot = ⟨some 3, true, none⟩ then { s with boot := ⟨some 4, false, none⟩, pwr := s.pwr.startClks (phaseClocks 4) } else s)

/-- Domains that a phase has started, which an access restarts (R32, R469). -/
def State.mayWake (s : State) (n : Nat) : Bool :=
  if n = 15 then s.pwr.aon
  else decide (s.pwr.state ≠ .standby) && (List.range 5).any fun ph => (phaseClocks ph).contains n && (match s.boot.phase with
    | some b => decide (ph ≤ b)
    | none => false)

/-- CLOCK_WAKE_COMPLETE (R32, R469): a stopped domain runs again; domains are numbered from 1. -/
def execClockWakeComplete (clk : Fin 17) (s : State) : Result :=
  let n := clk.val + 1
  if s.mayWake n && (!s.pwr.runs n || (decide (7 ≤ n ∧ n ≤ 9) && decide (s.pwr.selfRefresh ≠ 0))) then
    let p := s.pwr.startClk n
    let p1 := if 3 ≤ n ∧ n ≤ 5 then { p with coreStop := Store.set 0 p.coreStop (n - 3) 0 }
      else if n = 7 ∨ n = 8 ∨ n = 9 then { p.startClks (phaseClocks 3) with selfRefresh := 0 } else p
    .next { s with pwr := p1 }
  else .next s

/-- CORE_GATE_TIMER (R468, R469). -/
def execCoreGateTimer (fld : Fin 3) (s : State) : Result :=
  .next (if s.pwr.gateUs ≠ 0 && s.pwr.runs (3 + fld) && s.fieldIdle fld then s.stopCore fld 1 else s)

/-- CORE_PLL_OFF_TIMER (R468, R469). -/
def execCorePllOffTimer (fld : Fin 3) (s : State) : Result :=
  .next (if s.pwr.pllMs ≠ 0 && s.boot.past 3 && decide (Store.get 0 s.pwr.coreStop fld ≠ 2) && s.fieldIdle fld then s.stopCore fld 2 else s)

/-- HBM_SELF_REFRESH_TIMER (R468): the stack enters self-refresh; its three domains stop when no stack needs them. -/
def execHbmSelfRefreshTimer (stack : Fin 16) (s : State) : Result :=
  if s.pwr.srUs ≠ 0 && s.boot.past 3 && !bit s.pwr.selfRefresh stack then
    let p := { s.pwr with selfRefresh := setBits s.pwr.selfRefresh stack 1 1 }
    .next { s with pwr := if p.selfRefresh = 65535 then ((p.stopClk 7).stopClk 8).stopClk 9 else p }
  else .next s

/-- MGMT_IDLE_TIMER (R468): only in STANDBY. -/
def execMgmtIdleTimer (s : State) : Result :=
  .next (if s.pwr.aon && decide (s.pwr.state = .standby) then { s with pwr := s.pwr.stopClk 15 } else s)

/-- CKPTFLASH_IDLE_TIMER (R468). -/
def execCkptflashIdleTimer (s : State) : Result := .next { s with pwr := s.pwr.stopClk 17 }

/-- PLL_LOCK_LOSS (R471): a running domain with a PLL, or REF, stops; MODULE with SOURCE CLK and the domain number, level 4. -/
def execPllLockLoss (clk : Fin 17) (s : State) : Result :=
  let n := clk.val + 1
  let pll := decide (n = 2 ∨ (3 ≤ n ∧ n ≤ 10) ∨ n = 13 ∨ n = 14 ∨ n = 16 ∨ n = 17)
  if pll && s.pwr.runs n then
    .next (({ s with pwr := { s.pwr.stopClk n with lastLoss := n } }).forceDown 0x0F n srcClk false)
  else .next s

/-- AON_CRYSTAL_FAIL (R471): reported once, class CORRECTED. -/
def execAonCrystalFail (s : State) : Result :=
  if !s.pwr.aon ∨ s.pwr.crystalFailed then .next s
  else .next ({ s with pwr := { s.pwr with crystalFailed := true, lastLoss := 1, lastCause := 0x0F } }.report clsCorrected srcClk 1 .done noPart 0x0F)

/-- REVERSED_POLARITY (R461): nothing runs; the flag in the AON island is set. -/
def execReversedPolarity (s : State) : Result :=
  let s1 := s.coldLoss
  .next { s1 with pwr := { s1.pwr with reversed := true } }

/-- INPUT_OVERVOLTAGE (R461): the main path opens, level 4 with cause 0x07. -/
def execInputOvervoltage (s : State) : Result := .next (if s.pwr.aon then s.askLevel 7 4 0 true else s)

/-- INPUT_OVERCURRENT (R460, R461): the eFuse opens the main path, level 4 with cause 0x08. -/
def execInputOvercurrent (s : State) : Result := .next (if s.pwr.aon then s.forceDown 8 0 srcPwr true else s)

/-- INPUT_UNDERVOLTAGE (R461): level 4 with cause 0x06. -/
def execInputUndervoltage (s : State) : Result := .next (if s.pwr.aon then s.askLevel 6 4 0 true else s)

/-- RAIL_FAULT (R464): the regulator shuts the rail, a third fault within the hour locks it, level 4 follows; without VAON nothing runs. -/
def execRailFault (rail : Fin 13) (cause expired : Nat) (s : State) : Result :=
  let st := (s.pwr.rail rail).state
  if (st = .good ∨ st = .ramping) ∧ (cause = 10 ∨ cause = 11 ∨ cause = 12) then
    if rail.val = 0 then .next s.coldLoss
    else
      let s1 := { s with pwr := s.pwr.railFault rail cause expired }
      .next (if cause = 12 then s1.askLevel 12 4 rail true else s1.forceDown cause rail srcPwr true)
  else .next s

/-- EMERGENCY_TRIGGER (R474): a trigger's reading reaches thresholds of Table 17.6. -/
def execEmergencyTrigger (cause : Fin 13) (reading : Nat) (s : State) : Result :=
  if !s.pwr.aon then .next s
  else
    let p := if cause.val = 6 ∨ cause.val = 7 then { s.pwr with inCv := reading % 65536 }
      else if cause.val = 8 then { s.pwr with inCa := reading % 65536 } else s.pwr
    .next (({ s with pwr := p }).askLevel cause (levelOf cause reading 0) 0 false)

/-- EMERGENCY_LEVEL_FALL (R474). -/
def execEmergencyLevelFall (readings : List (Nat × Nat)) (s : State) : Result :=
  .next (if s.pwr.aon then ({ s with pwr := s.pwr.fall readings }).levelOuts s.pwr.level else s)

/-- HARDWARE_THERMAL_TRIP (R476). -/
def execHardwareThermalTrip (s : State) : Result :=
  if s.pwr.aon ∧ s.pwr.tripArmed then .next (({ s with pwr := { s.pwr with tripArmed := false } }).forceDown 0x0E 0 srcPwr true)
  else .next s

/-- LEAK_N_ASSERT (R474): level 4 at once. -/
def execLeakNAssert (s : State) : Result :=
  if s.pwr.aon then .next (s.askLevel 5 4 0 false) else .next { s with pwr := { s.pwr with asked := Store.set 0 s.pwr.asked 5 4 } }

/-- PWR_BRAKE_N_ASSERT (R474): level 2 while asserted. -/
def execPwrBrakeNAssert (s : State) : Result :=
  if s.pwr.aon then .next (s.askLevel 9 2 0 false) else .next { s with pwr := { s.pwr with asked := Store.set 0 s.pwr.asked 9 2 } }

/-- LEAK_N_DEASSERT (R474): the trigger asks for nothing; the level falls only as R474 lets it. -/
def execLeakNDeassert (s : State) : Result := .next { s with pwr := { s.pwr with asked := Store.set 0 s.pwr.asked 5 0 } }

/-- PWR_BRAKE_N_DEASSERT (R474). -/
def execPwrBrakeNDeassert (s : State) : Result := .next { s with pwr := { s.pwr with asked := Store.set 0 s.pwr.asked 9 0 } }

/-- CAP_CONTROL_SAMPLE (R472): every 20 µs while the main rails are up. -/
def execCapControlSample (projected : Nat) (s : State) : Result :=
  .next (if s.pwr.aon && decide (s.pwr.state ≠ .standby) then { s with pwr := s.pwr.sample (projected % 65536) } else s)

/-- PLDM completion code for invalid data. -/
abbrev pldmInvalidData : Byte := 0x02

/-- SET_PWR_CAP (R472): a legal value is the new cap; any other is refused and the cap keeps its value. -/
def execSetPwrCap (watts : BitVec 16) (s : State) : Result :=
  if !s.aonUp then .next s
  else if s.scrapped then .next (s.reply .accessDenied [])
  else if capLegal watts.toNat then .next (({ s with pwr := { s.pwr with cap := watts.toNat } }).reply .done [0])
  else .next ((s.reply .done [pldmInvalidData]).refusal 1 0x02)

/-- MODULE_REMOVAL (R479): the module loses its state with its input. -/
def execModuleRemoval (s : State) : Result := .next s.coldLoss

/-- PCIE_L1_ENTRY (R468): the PCIE domain stops. -/
def execPcieL1Entry (s : State) : Result := .next { s with pwr := s.pwr.stopClk 12 }

/-- THERMAL_TRIP_REARM (R476). -/
def execThermalTripRearm (s : State) : Result := .next { s with pwr := { s.pwr with tripArmed := true } }

/-- PWR_EMERG_READ (R486): PEAK is returned and cleared. -/
def execPwrEmergRead (s : State) : Result :=
  if !s.pwr.aon then .next s
  else .next ({ s with pwr := { s.pwr with peak := 0 } }.emit [.readData s.pwr.emergWord])

end Sys2Proof.Machine
end

