-- ==== Sys2Proof/Machine/ExecQueue.lean ====
section
/-! DEFINITION. Queues and streams (chapter 7): QSEND, QRECV, locks, credits, landings, completions, flushes and entry errors. -/

namespace Sys2Proof.Machine

/-- A QSEND is dispatched (R185). -/
def execQsend (t : Fin 156) (s : State) : Result := .next (s.dispatch t recQsend unitQout)

/-- A QRECV is dispatched (R189). -/
def execQrecv (t : Fin 156) (s : State) : Result := .next (s.dispatch t recQrecv unitQin)

/-- The i-th lock request on the mesh arrives at its consumer; the first in line takes a free lock (R185 step 2, R186). -/
def execLockRequest (i : Nat) (s : State) : Result :=
  match s.streams.asking[i]? with
  | none => .next s
  | some r => .next { s with streams := ({ s.streams with asking := removeAt s.streams.asking i, waiting := s.streams.waiting ++ [r] }).grant r.entry }

/-- A grant reaches a tile's QSEND: it holds the lock and injects. -/
def State.grantTile (s : State) (e t credits : Nat) : State :=
  let x := s.tile t
  match x.ep.tx with
  | none => { s with streams := (s.streams.lockLeft e 0).grant e }
  | some tx =>
    if tx.entry = e ∧ tx.locked = false then
      (s.setTile t { x with ep := { x.ep with tx := some { tx with locked := true, asked := false, credits := credits } } }).inject tx.packets t
    else { s with streams := (s.streams.lockLeft e 0).grant e }

/-- A grant reaches a port engine. -/
def State.grantPort (s : State) (e k credits : Nat) : State :=
  let x := s.port k
  let q := s.streams.entry e
  match x.inMsgs.find? fun m => decide (m.part = q.part ∧ m.stream = q.stream ∧ m.level = q.level) && !m.locked with
  | none => { s with streams := (s.streams.lockLeft e 0).grant e }
  | some m => (s.setPort k { x with inMsgs := updMsg m (some { m with locked := true, credits := credits }) x.inMsgs }).landAll k

/-- The i-th grant on its way reaches its producer (R185 steps 2 and 3). -/
def execLockGrant (i : Nat) (s : State) : Result :=
  match s.streams.grants[i]? with
  | none => .next s
  | some (e, p, n) =>
    let s1 := { s with streams := { s.streams with grants := removeAt s.streams.grants i } }
    .next (if p < 156 then s1.grantTile e p n else s1.grantPort e (p - 156) n)

/-- What a consumer does once a packet has landed: a tile's QRECV chooses or copies, a port engine cuts frames. -/
def State.afterLanding (s : State) (i : Nat) : State :=
  let e := s.streams.entry i
  let s1 := { s with streams := s.streams.grant i }
  if e.consumer < 156 then (s1.chooseIn e.consumer).copyIn e.held e.consumer else s1.cutAll i

/-- The oldest packet on its way to a level queue lands: header and CRC are checked (R184), it enters the ring or is discarded under a flush (R185, R193). -/
def execPacketLanding (entry : Fin 262144) (landing : Landing) (s : State) : Result :=
  let i := entry.val
  match s.streams.flights.find? fun f => decide (f.entry = i) with
  | none => .next s
  | some f =>
    let c := (s.streams.entry i).consumer
    let part := (s.streams.entry i).part
    let onTile := fun (a : State) (g : Endpoint → Endpoint) => if c < 156 then a.updTile c fun x => { x with ep := g x.ep } else a
    let s1 := { s with streams := { s.streams with flights := s.streams.flights.erase f } }
    let s2 := onTile s1 fun e => { e with rxPkts := wrap64 e.rxPkts 1 }
    if landing.header = 2 then
      .next ((onTile s2 fun e => { e with hdrFatal := true }).entryError i)
    else
      let s3 := if landing.header = 1 then
          (onTile s2 fun e => { e with hdrFixed := satAdd 8 e.hdrFixed 1 }).report clsCorrected srcQue (if c < 156 then c else 0) .done part i
        else s2
      if s3.streams.dropping.contains i then
        .next ({ onTile s3 (fun e => e.addDrop 1) with streams := (s3.streams.discardLanding i f.producer).grant i })
      else
        let (p, bad) := landed f.packet landing
        let s4 := if bad then onTile s3 (fun e => e.addParity 16) else s3
        let q := if bad then s4.streams.updEntry i fun e => { e with parityCnt := satAdd 8 e.parityCnt 16 } else s4.streams
        .next (({ s4 with streams := q.push i p }).afterLanding i)

/-- One credit reaches a producer endpoint, which injects another packet (R185). -/
def execCreditReturn (t : Fin 192) (s : State) : Result :=
  match s.streams.credits.find? fun c => decide (c.1 % 192 = t.val) with
  | none => .next s
  | some c =>
    let e := c.1 / 192
    let s1 := { s with streams := { s.streams with credits := Store.upd 0 s.streams.credits c.1 (· - 1) } }
    if t.val < 156 then
      match (s.tile t).ep.tx with
      | none => .next s1
      | some tx =>
        if tx.entry = e ∧ tx.locked = true then
          .next ((s1.updTile t fun x => { x with ep := { x.ep with tx := some { tx with credits := tx.credits + 1 } } }).inject tx.packets t)
        else .next s1
    else
      let q := s.streams.entry e
      let k := t.val - 156
      match (s.port k).inMsgs.find? fun m => decide (m.part = q.part ∧ m.stream = q.stream ∧ m.level = q.level) && m.locked with
      | none => .next s1
      | some m => .next ((s1.updPort k fun x => { x with inMsgs := updMsg m (some { m with credits := m.credits + 1 }) x.inMsgs }).landAll k)

/-- A QSEND completes once its last packet is injected, or with the status its check gave (R187). -/
def execQsendComplete (t : Fin 156) (s : State) : Result :=
  let x := s.tile t
  match x.ep.tx with
  | some tx =>
    if tx.sent = tx.packets then .next ((s.setTile t { x with ep := { x.ep with tx := none } }).completeUnit t unitQout (some .done)) else .next s
  | none => match (x.unit unitQout).cur with
    | f :: _ => if f.status ≠ .done then .next (s.completeUnit t unitQout none) else .next s
    | [] => .next s

/-- A QRECV completes once the last packet of its message is copied, or with the status its check gave (R189). -/
def execQrecvComplete (t : Fin 156) (s : State) : Result :=
  let x := s.tile t
  match x.ep.rx with
  | some rx =>
    if rx.chosen.isSome ∧ rx.copied = rx.packets then .next ((s.setTile t { x with ep := { x.ep with rx := none } }).completeUnit t unitQin (some .done)) else .next s
  | none => match (x.unit unitQin).cur with
    | f :: _ => if f.status ≠ .done then .next (s.completeUnit t unitQin none) else .next s
    | [] => .next s

/-- The i-th flush notice reaches the lock holder: its QSEND completes CANCELLED, and the lock waits only for the packets already on their way (R193). -/
def execFlushNotice (i : Nat) (s : State) : Result :=
  match s.streams.notices[i]? with
  | none => .next s
  | some (e, p) =>
    let s1 := { s with streams := { s.streams with notices := removeAt s.streams.notices i } }
    let q := s.streams.entry e
    if !(s.streams.dropping.contains e && q.lockValid && decide (q.lockOwner = p)) then .next s1
    else
    let left := (s.streams.flights.filter fun f => decide (f.entry = e)).length
    let settle := fun (a : State) => { a with streams := (a.streams.lockLeft e left).grant e }
    if p < 156 then
      match (s.tile p).ep.tx with
      | some tx => if tx.entry = e ∧ tx.locked = true then .next ((settle s1).endSend p .cancelled) else .next (settle s1)
      | none => .next (settle s1)
    else
      let k := p - 156
      .next (settle (s1.updPort k fun x => { x with
        inMsgs := x.inMsgs.filter fun m => !decide (m.part = q.part ∧ m.stream = q.stream ∧ m.level = q.level ∧ m.locked = true) }))

/-- A commanded flush acts on its level queue (R193). -/
def execLevelQueueFlush (entry : Fin 262144) (s : State) : Result :=
  if s.streams.due.contains entry.val then
    .next (({ s with streams := { s.streams with due := s.streams.due.filter fun i => decide (i ≠ entry.val) } }).flushQueue entry)
  else .next s

/-- QUE_FLUSH with SCOPE 0b00 (Table 7.9). -/
def execFlushEntry (entry : Fin 262144) (s : State) : Result :=
  if s.clusterUp then .next (s.askFlush (s.streams.entry entry).part 0 entry) else .next s

/-- QUE_FLUSH with SCOPE 0b01. -/
def execFlushStream (entry : Fin 262144) (s : State) : Result :=
  if s.clusterUp then .next (s.askFlush (s.streams.entry entry).part 1 entry) else .next s

/-- QUE_FLUSH with SCOPE 0b10. -/
def execFlushPartition (p : Fin 16) (s : State) : Result :=
  if s.clusterUp then .next (s.askFlush p 2 0) else .next s

/-- An uncorrectable error in a stream-table entry (R180). -/
def execStreamEntryError (entry : Fin 262144) (s : State) : Result := .next (s.entryError entry)

end Sys2Proof.Machine
end

