-- ==== Sys2Proof/Machine/ExecRead.lean ====
section
/-! DEFINITION. Meanings: register reads that have an effect of their own (R10, R12), register writes, and the BAR4 staging window (R403). -/

namespace Sys2Proof.Machine

/-! ### Reads by the control cluster (R10, R12): the value of before, then the RC fields cleared -/

/-- A read by the control cluster: the value leaves, and the state after it stands. -/
def State.ctrlRead (s : State) (v : Nat) (after : State) : State := if s.clusterUp then after.emit [.readData v] else s

/-- QUE_ST_DATA0_READ (R197): both halves of the selected entry are sampled. -/
def execQueStData0Read (s : State) : Result :=
  let w := (s.streams.entry s.streams.sel).word
  .next (s.ctrlRead (bits w 0 64) { s with streams := { s.streams with data0 := bits w 0 64, data1 := bits w 64 64 } })

/-- QUE_EP_ERR_READ (Table 7.7). -/
def execQueEpErrRead (t : Fin 156) (s : State) : Result :=
  .next (s.ctrlRead (s.tile t).ep.errWord (s.updTile t fun x => { x with ep := { x.ep with flushDrop := 0, parityCnt := 0, hdrFixed := 0 } }))

/-- QUE_ST_ERR_READ (Table 7.9). -/
def execQueStErrRead (s : State) : Result := .next (s.ctrlRead s.streams.errWord { s with streams := { s.streams with corrected := 0 } })

/-- MPR_ECC (Table 9.12). -/
def Hbm.eccWord (h : Hbm) : Nat := h.ce + h.ue <<< 32 + b2n h.treeFail <<< 48 + h.treeFailPc <<< 49

/-- MPR_ECC_READ. -/
def execMprEccRead (s : State) : Result := .next (s.ctrlRead s.hbm.eccWord { s with hbm := { s.hbm with ue := 0, ce := 0 } })

/-- MPR_ERR_READ. -/
def execMprErrRead (s : State) : Result := .next (s.ctrlRead s.hbm.blocked { s with hbm := { s.hbm with blocked := 0 } })

/-- MPR_PERR_READ. -/
def execMprPerrRead (p : Fin 16) (s : State) : Result :=
  .next (s.ctrlRead (s.hbm.part p).errWord { s with hbm := s.hbm.updPart p fun x => { x with tagFail := 0, poisonRead := 0, errRevoked := 0 } })

/-- LNK_ERR_READ (Table 12.10). -/
def execLnkErrRead (k : Fin 36) (s : State) : Result :=
  .next (s.ctrlRead (s.port k).errWord (s.updPort k fun x => { x with retries := 0, authFail := 0, dropNoKey := 0, dropTx := 0 }))

/-- LNK_ERR2_READ (Table 12.10). -/
def execLnkErr2Read (k : Fin 36) (s : State) : Result :=
  .next (s.ctrlRead (s.port k).err2Word (s.updPort k fun x => { x with replayCnt := 0, fecUe := 0, swaps := 0, retrains := 0 }))

/-- COL_INTEG_READ (Table 13.9). -/
def execColIntegRead (p : Fin 16) (s : State) : Result :=
  .next (s.ctrlRead (s.coll.part p).integWord (s.updColl p fun c => { c with crcFail := 0, hdrFail := 0, lostUnits := 0 }))

/-- A fault ring with LOST and MAX_CLASS cleared. -/
def FaultRing.read (r : FaultRing) : FaultRing := { r with lost := 0, maxClass := 0 }

/-- RES_FAULT_STATUS_READ (Table 14.8): of the ring that is shown. -/
def execResFaultStatusRead (s : State) : Result :=
  let r := s.res
  let after := if s.ringReady then { r with ring := r.ring.read } else { r with early := r.early.read }
  .next (s.ctrlRead (r.shown s.ringReady).statusWord { s with res := after })

/-- RES_FAULT_DATA0_READ: all four parts of the selected entry are sampled. -/
def execResFaultData0Read (s : State) : Result :=
  let b := s.res.selected s.ringReady
  .next (s.ctrlRead (field b 0 8) { s with res := { s.res with sampled := b } })

/-- RES_SNAP_STATUS_READ (Table 14.9). -/
def execResSnapStatusRead (p : Fin 16) (s : State) : Result :=
  .next (s.ctrlRead (s.snap p).statusWord (s.updSnap p fun x => { x with skipped := 0 }))

/-- FWM_STATUS_READ (Table 16.9); Mantis reads it too. -/
def execFwmStatusRead (s : State) : Result :=
  .next (if s.pwr.aon then ({ s with fwm := { s.fwm with wqDrop := 0 } }).emit [.readData (s.fwm.statusWord s.sec.fuses.floor)] else s)

/-- FWM_TIME_STATUS_READ (Table 16.9). -/
def execFwmTimeStatusRead (s : State) : Result :=
  .next (if s.pwr.aon then ({ s with fwm := { s.fwm with ppsBad := 0 } }).emit [.readData s.fwm.timeStatusWord] else s)

/-! ### Register writes (R10, R14) -/

/-- A field's new value, or its old one when the new one is reserved (R14). -/
def orKeep (ok : Bool) (new old : Nat) : Nat := if ok then new else old

/-- MPR_WEEVIL_CFG, MPR_REMAP_CFG and MPR_SCRUB_CFG written (Tables 9.11, 9.12). -/
def Hbm.weevilWritten (h : Hbm) (v : Nat) : Hbm :=
  let ok := fun (n : Nat) => decide (1 ≤ n ∧ n ≤ 100)
  { h with rate := orKeep (ok (bits v 0 7)) (bits v 0 7) h.rate, fillRate := orKeep (ok (bits v 8 7)) (bits v 8 7) h.fillRate }
def Hbm.remapWritten (h : Hbm) (v : Nat) : Hbm := { h with reserve := orKeep (decide (bits v 0 4 ≤ 8)) (bits v 0 4) h.reserve }
def Hbm.scrubWritten (h : Hbm) (v : Nat) : Hbm :=
  let nz := fun (n : Nat) => decide (n ≠ 0)
  { h with period := orKeep (nz (bits v 0 16)) (bits v 0 16) h.period, retireCe := orKeep (nz (bits v 16 16)) (bits v 16 16) h.retireCe
           retireUe := orKeep (nz (bits v 32 4)) (bits v 32 4) h.retireUe }

/-- LNK_VC_WEIGHT written: a weight of 0 is reserved (Table 12.10). -/
def weightsWritten (old v : Nat) : Nat :=
  (List.range 7).foldl (fun (acc : Nat) i => if bits v (8 * (i + 1)) 8 = 0 then acc else setBits acc (8 * i) 8 (bits v (8 * (i + 1)) 8)) old

/-- LNK_GCFG written (Table 12.12). -/
def Links.gcfgWritten (l : Links) (v : Nat) : Links :=
  let nz := fun (lo n old : Nat) => orKeep (decide (bits v lo n ≠ 0)) (bits v lo n) old
  { l with
    trainTimeout := nz 0 16 l.trainTimeout, retrainWindow := nz 16 16 l.retrainWindow, retryLimit := nz 32 4 l.retryLimit
    retrainLimit := nz 36 4 l.retrainLimit, swapUe := nz 40 8 l.swapUe
    swapSer := orKeep (decide (3 ≤ bits v 48 4 ∧ bits v 48 4 ≤ 9)) (bits v 48 4) l.swapSer }

/-- A register of the control cluster's space or of Scarab's written. -/
def State.regWrite (s : State) (reg : RegName) (v : Nat) : State :=
  match reg with
  | .trDone t => s.updTile t fun x => { x with vec := { x.vec with trErrMode := w1c x.vec.trErrMode v 17 } }
  | .vecSig t => s.updTile t fun x => { x with vec := { x.vec with trSig := v } }
  | .dmaRetry t => s.updTile t fun x => { x with dma := { x.dma with retry := bits v 0 3 } }
  | .dmaSysRetry n => s.updSys n fun x => { x with chan := { x.chan with retry := bits v 0 3 } }
  | .dmaSysTok n => s.updSys n fun x => { x with toks := v }
  | .dmaSysProgram n i => s.updSys n fun x => { x with program := Store.setMany .zero x.program (2 * i) ((natWords v 2).map fun w => ⟨w, false⟩) }
  | .queStSel => { s with streams := { s.streams with sel := bits v 0 18 } }
  | .queStErr => { s with streams := { s.streams with fatal := w1c s.streams.fatal v 18 } }
  | .queEpErr t => s.updTile t fun x => { x with ep := { x.ep with hdrFatal := w1c x.ep.hdrFatal v 0 } }
  | .mprWeevilCfg => { s with hbm := s.hbm.weevilWritten v }
  | .mprRemapCfg => { s with hbm := s.hbm.remapWritten v }
  | .mprScrub => { s with hbm := s.hbm.scrubWritten v }
  | .mprGranSel => { s with hbm := { s.hbm with granSel := bits v 0 10 } }
  | .mprEcc => { s with hbm := { s.hbm with treeFail := w1c s.hbm.treeFail v 48 } }
  | .secSlotSel => { s with sec := { s.sec with slotSel := bits v 0 11 } }
  | .secSlotErr => { s with sec := { s.sec with slotFail := w1c s.sec.slotFail v 11 } }
  | .secMboxSt => { s with fwm := { s.fwm with mboxDone := w1c s.fwm.mboxDone v 1, dbLost := w1c s.fwm.dbLost v 2 } }
  | .lnkVcWeight k => s.updPort k fun x => { x with weights := weightsWritten x.weights v }
  | .lnkGcfg => { s with links := s.links.gcfgWritten v }
  | .colPstatus p => s.updColl p fun c => { c with flatSeen := w1c c.flatSeen v 4 }
  | .resFaultSel => { s with res := { s.res with sel := bits v 0 8 } }
  | .resSnapCfg p => s.windowWrite p 0x18 v
  | .tilLossPolicy p => s.windowWrite p 0x00 v
  | .colGfmtPolicy p => s.windowWrite p 0x08 v
  | .dmaPartCfg p => s.windowWrite p 0x10 v
  | .pwrRailSel => { s with pwr := { s.pwr with railSel := orKeep (decide (bits v 0 4 ≤ 12)) (bits v 0 4) s.pwr.railSel } }
  | .clkIdleCfg => { s with pwr := { s.pwr with gateUs := bits v 0 16, pllMs := bits v 16 16, srUs := bits v 32 16 } }
  | .fwmTraceEn => { s with fwm := { s.fwm with traceEn := bits v 0 8 } }
  | .fwmTimeCfg => { s with fwm := s.fwm.setTimeCfg v }
  | .bar0 _ _ => s
  | .readOnly _ => s

/-- REGISTER_WRITE (R10): a BAR0 write joins the queue (R443); PWR_RAIL_SEL is in AON; the control cluster writes the others. -/
def execRegisterWrite (reg : RegName) (value : DWord) (s : State) : Result :=
  match reg with
  | .bar0 fn off =>
    .next (if s.boot.past 2 && !(s.hif.fn fn).tdiError && decide (off.val % 8 = 0) then { s with fwm := s.fwm.queueWrite ⟨fn, off, value.toNat⟩ } else s)
  | .pwrRailSel => .next (if s.pwr.aon then s.regWrite .pwrRailSel value.toNat else s)
  | r => .next (if s.clusterUp then s.regWrite r value.toNat else s)

/-! ### The staging window (R403) -/

/-- Physical address behind a BAR4 offset of a function. -/
def State.bar4Addr (s : State) (fn off : Nat) : Option Nat :=
  let p := if fn = 0 then off / 2 ^ 40 else fnPart fn
  let o := if fn = 0 then off % 2 ^ 40 else off
  if !(s.part p).live then none else ((s.pool p true)[o / 2 ^ 30]?).map fun g => g * 2 ^ 30 + o % 2 ^ 30

/-- Every byte of a request lies in the window. -/
def State.bar4Mapped (s : State) (fn off n : Nat) : Bool :=
  if n = 0 then (s.bar4Addr fn off).isSome
  else (List.range (linesOf off n)).all fun i => (s.bar4Addr fn (off / 64 * 64 + 64 * i)).isSome

/-- Bytes of the lines that a range touches. -/
def State.bar4Lines (s : State) (fn off n : Nat) : State × List Byte :=
  (List.range (linesOf off n)).foldl (fun (a : State × List Byte) i =>
    match a.1.bar4Addr fn (off / 64 * 64 + 64 * i) with
    | none => a
    | some d =>
      let r := a.1.hbmRead .host 0 d true .clean
      (r.1, a.2 ++ twordBytes (if r.2.1 = .done then r.2.2 else poisonWords))) (s, [])

/-- Lines written back, 64 bytes each. -/
def State.bar4Put (s : State) (fn line : Nat) (bs : List Byte) : State :=
  (List.range (bs.length / 64)).foldl (fun (a : State) i =>
    match a.bar4Addr fn (line + 64 * i) with
    | none => a
    | some d => match a.hbmWrite .host 0 d true ((cleanWords ((bs.drop (64 * i)).take 64)).map some) .clean with
      | some r => r.1
      | none => a) s

/-- BAR4_ACCESS: a read returns staging plaintext, a write stores it; outside the partition's granules, and from a TDI in ERROR (R399), Unsupported Request. -/
def execBar4Access (fn : Fin 17) (offset : BitVec 44) (data : Option (List Byte)) (len : Nat) (s : State) : Result :=
  let off := offset.toNat
  let n := match data with
    | some b => b.length
    | none => len
  if (s.hif.fn fn).tdiError || !s.bar4Mapped fn off n then .next (s.emit [.unsupported])
  else
    let r := s.bar4Lines fn off n
    match data with
    | none => .next (r.1.emit [.barData ((r.2.drop (off % 64)).take n)])
    | some b => .next (r.1.bar4Put fn (off / 64 * 64) (r.2.take (off % 64) ++ b ++ r.2.drop (off % 64 + n)))

end Sys2Proof.Machine
end

