-- ==== Sys2Proof/Machine/ExecReset.lean ====
section
/-! DEFINITION. Meanings of the resets and of the messages on the PCIe side (chapters 10 and 15). -/

namespace Sys2Proof.Machine

/-- COLD_RESET (R277): the AON rail is lost. -/
def execColdReset (s : State) : Result := .next s.coldLoss

/-- WARM_RESET (R277): start-up again from phase 1; in STANDBY and before phase 1 there is nothing to run again. -/
def execWarmReset (s : State) : Result := .next (if s.pwr.state = .standby then s else s.warmReset)

/-- CONVENTIONAL_RESET (R399). -/
def execConventionalReset (s : State) : Result := .next (if s.boot.past 1 then s.warmReset else s)

/-- PF_FLR (R399). -/
def execPfFlr (s : State) : Result :=
  if !s.boot.past 2 then .next s
  else
    let s1 := (List.range 17).foldl (fun (a : State) f => (a.killFn f).resetFn f) s
    .next { s1 with hif := { s1.hif with vfEnable := false } }

/-- VF_FLR (R399): the partition window belongs to the partition and stands. -/
def execVfFlr (vf : Fin 16) (s : State) : Result :=
  .next (if s.boot.past 2 then (s.killFn (vf + 1)).resetFn (vf + 1) else s)

/-- TDI_ERROR (R399). -/
def execTdiError (vf : Fin 16) (s : State) : Result :=
  if !s.boot.past 2 then .next s
  else
    let s1 := (s.killFn (vf + 1)).resetFn (vf + 1)
    .next { s1 with hif := s1.hif.setFn (vf + 1) { s1.hif.fn (vf + 1) with tdiError := true } }

/-- STOP_INTERFACE (R399). -/
def execStopInterface (vf : Fin 16) (s : State) : Result :=
  .next { s with hif := s.hif.setFn (vf + 1) { s.hif.fn (vf + 1) with tdiError := false } }

/-- DOE_MESSAGE (R400, R452): SPDM goes to the responder that Mantis shares; IDE_KM and TDISP are answered as their standards say; any other type is dropped. -/
def execDoeMessage (kind : DoeKind) (req : SpdmReq) (data : List Byte) (s : State) : Result :=
  if !s.boot.past 2 then .next s
  else match kind with
  | .spdm => match s.spdm req with
    | some (s1, b) => .next (s1.emit [.doe b])
    | none => .next s
  | .ideKm => .next (s.emit [.doe data])
  | .tdisp => .next (s.emit [.doe data])
  | .other => .next s

/-- ATS_INVALIDATION (R401): the module holds no translation across a command, so the completion is all. -/
def execAtsInvalidation (fn : Fin 17) (tag : Nat) (s : State) : Result := .next (s.emit [.atsDone fn tag])

end Sys2Proof.Machine
end

