-- ==== Sys2Proof/Machine/ExecStep.lean ====
section
/-! DEFINITION. Steps (chapters 2, 6 and 14): STEP_END, the end of a faulted run, the watchdog, the fence, held maintenance and release. SNAPSHOT stands with the snapshots. -/

namespace Sys2Proof.Machine

/-- Every earlier record of a tile is complete: its units are idle, its DMA writes have arrived, its packets have landed (R60, R187). -/
def State.tileDone (s : State) (t : Nat) : Bool := (s.tile t).quiet && !s.streams.flights.any fun f => decide (f.producer = t)

/-- STEP_END: the tile enters AT_STEP_END, and the fence exchange starts when it was the last (R60, R61, R156). -/
def execStepEnd (t : Fin 156) (s : State) : Result :=
  if s.tileDone t then
    match s.take t recStepEnd with
    | none => .next s
    | some (s1, i) =>
      let s2 := s1.updTile t fun x => { x.signalOf i with stage := { x.stage with state := .atStepEnd } }
      match (s.tile t).part with
      | some p => .next (s2.fenceTry p)
      | none => .next s2
  else .next s

/-- A stopped run ends once nothing issued is in progress (R63 steps 3 and 4). -/
def execRunFaultEnd (p : Fin 16) (s : State) : Result :=
  match (s.job p).run with
  | none => .next s
  | some r =>
    if r.phase = .faulting ∧ (s.tilesOf p).all fun t => (s.tile t).quiet then .next (s.faultEnd p true) else .next s

/-- The oldest record issued on a tile and not completed: its unit and index; the dispatcher and the record at which it stands when there is none (R64). -/
def Tile.oldest (t : Tile) : Nat × Nat :=
  let all := (t.units.map fun e => (e.2.cur.map InFlight.issued ++ e.2.queue).map fun i => (e.1, i)).flatten
  match all.foldl (fun (b : Option (Nat × Issued)) x => match b with
    | none => some x
    | some y => if x.2.ord < y.2.ord then some x else b) none with
  | some x => (x.1, x.2.idx)
  | none => (0, t.disp.pc)

/-- The step watchdog expires before the fence resolves (R64). -/
def execStepWatchdogExpire (p : Fin 16) (s : State) : Result :=
  match (s.job p).run with
  | none => .next s
  | some r =>
    if r.phase ≠ .step then .next s
    else
      let late := (s.tilesOf p).filterMap fun t => if (s.tile t).stage.state = .atStepEnd then none else some (t, (s.tile t).oldest)
      if late.isEmpty then .next (s.stopRun p .timeout)
      else .next (late.foldl (fun (a : State) x => a.stageFault x.1 .timeout x.2.2 x.2.1) s)

/-- The step fence resolves (R157). -/
def execStepFenceResolve (p : Fin 16) (s : State) : Result :=
  match (s.job p).run with
  | none => .next s
  | some r =>
    if s.fenceReached p then
      match (if s.multi p then (s.coll.part p).fence.result else some (s.fenceOwn p false)) with
      | some w => .next (s.resolve p r w)
      | none => .next s
    else .next s

/-- Action 4: the requests held for the partition run; a waiting recalibration goes on holding the release (R37, R254, R375). -/
def execDeferredMaintenanceRun (p : Fin 16) (s : State) : Result :=
  let go : Bool := match (s.job p).run with
    | none => true
    | some r => decide (r.phase = .maintenance)
  if go then
    let mine := s.maint.filter (s.concerns p)
    let s1 := { s with maint := s.maint.filter fun m => !s.concerns p m }
    let s2 := mine.foldl (fun (a : State) m => a.runMaint m) s1
    .next (if s2.recalWaits then s2 else if (s.job p).run.isSome then s2.toRelease p else s2)
  else .next s

/-- Action 5: every tile of the partition is released (R60). -/
def execStepRelease (p : Fin 16) (s : State) : Result :=
  match (s.job p).run with
  | none => .next s
  | some r => if r.phase = .release then .next (s.releaseStep p) else .next s

end Sys2Proof.Machine
end

