-- ==== Sys2Proof/Machine/ExecTile.lean ====
section
/-! DEFINITION. Meanings: the dispatcher's own records and the matrix engine (chapters 2 and 4). -/

namespace Sys2Proof.Machine

/-- NOP completes on dispatch (R46, Table 2.7). -/
def execNop (t : Fin 156) (s : State) : Result :=
  match s.take t recNop with
  | none => .next s
  | some (s1, i) => .next (s1.updTile t fun x => x.signalOf i)

/-- LOOP opens a counted loop over the records that follow (R52). -/
def execLoop (t : Fin 156) (s : State) : Result :=
  let x := s.tile t
  let (r, i) := x.standing
  if s.dispatching t && decide (r.op = recLoop) && x.tokenOk r then
    let y := x.takeToken r
    .next (s.setTile t ({ y with disp := y.disp.openLoop (r.frame y.disp.pc) }.signalOf i))
  else .next s

/-- MXE: the record goes to the matrix engine (R106). -/
def execMxe (t : Fin 156) (s : State) : Result := .next (s.dispatch t recMxe unitMxe)

/-- The matrix engine completes its record (R110). -/
def execMxeComplete (t : Fin 156) (s : State) : Result := .next (s.completeUnit t unitMxe none)

end Sys2Proof.Machine
end

