-- ==== Sys2Proof/Machine/ExecTileReg.lean ====
section
/-! DEFINITION. Meanings: tile-register instructions written to VEC_TR_CMD by the control cluster (R142, R143). -/

namespace Sys2Proof.Machine

/-- The engine is in TILE mode (Table 5.8). -/
def Tile.inTileMode (t : Tile) : Bool := decide (t.vec.mode = 1) && !t.vec.clearing

/-- Run a tile-register instruction of a given TOP; one that is to be discarded belongs to TILE_INSTRUCTION_DISCARD. -/
def State.tileOp (s : State) (t : Nat) (word : DWord) (top : Nat) : State :=
  let x := s.tile t
  let i := TrInstr.ofBits word.toNat
  if s.clusterUp && x.inTileMode && decide (i.top = top) && decide (i.check = .done) then s.setTile t (trRun x i) else s

/-- TLOAD (Table 5.7). -/
def execTload (t : Fin 156) (word : DWord) (s : State) : Result := .next (s.tileOp t word 0x1)

/-- TSTORE (Table 5.7). -/
def execTstore (t : Fin 156) (word : DWord) (s : State) : Result := .next (s.tileOp t word 0x2)

/-- TFILL (Table 5.7). -/
def execTfill (t : Fin 156) (word : DWord) (s : State) : Result := .next (s.tileOp t word 0x3)

/-- TTRANS (Table 5.7). -/
def execTtrans (t : Fin 156) (word : DWord) (s : State) : Result := .next (s.tileOp t word 0x4)

/-- TADD (Table 5.7). -/
def execTadd (t : Fin 156) (word : DWord) (s : State) : Result := .next (s.tileOp t word 0x10)

/-- TSUB (Table 5.7). -/
def execTsub (t : Fin 156) (word : DWord) (s : State) : Result := .next (s.tileOp t word 0x11)

/-- TMUL (Table 5.7). -/
def execTmul (t : Fin 156) (word : DWord) (s : State) : Result := .next (s.tileOp t word 0x12)

/-- TFMA (Table 5.7). -/
def execTfma (t : Fin 156) (word : DWord) (s : State) : Result := .next (s.tileOp t word 0x13)

/-- TMAX (Table 5.7). -/
def execTmax (t : Fin 156) (word : DWord) (s : State) : Result := .next (s.tileOp t word 0x14)

/-- TMIN (Table 5.7). -/
def execTmin (t : Fin 156) (word : DWord) (s : State) : Result := .next (s.tileOp t word 0x15)

/-- TEXP (Table 5.7). -/
def execTexp (t : Fin 156) (word : DWord) (s : State) : Result := .next (s.tileOp t word 0x20)

/-- TLOG (Table 5.7). -/
def execTlog (t : Fin 156) (word : DWord) (s : State) : Result := .next (s.tileOp t word 0x21)

/-- TRSQRT (Table 5.7). -/
def execTrsqrt (t : Fin 156) (word : DWord) (s : State) : Result := .next (s.tileOp t word 0x22)

/-- TRECIP (Table 5.7). -/
def execTrecip (t : Fin 156) (word : DWord) (s : State) : Result := .next (s.tileOp t word 0x23)

/-- TMMA (Table 5.7). -/
def execTmma (t : Fin 156) (word : DWord) (s : State) : Result := .next (s.tileOp t word 0x30)

/-- TCMP (Table 5.7). -/
def execTcmp (t : Fin 156) (word : DWord) (s : State) : Result := .next (s.tileOp t word 0x31)

/-- TSIG (Table 5.7). -/
def execTsig (t : Fin 156) (word : DWord) (s : State) : Result := .next (s.tileOp t word 0x32)

/-- TEND (Table 5.7): DONE_CNT rises and the control cluster is interrupted. -/
def execTend (t : Fin 156) (word : DWord) (s : State) : Result :=
  let x := s.tile t
  let i := TrInstr.ofBits word.toNat
  if s.clusterUp && x.inTileMode && decide (i.top = 0xFF) && decide (i.check = .done) then
    .next ((s.setTile t (trRun x i)).emit [.sideband sbTend .done [BitVec.ofNat 8 t]])
  else .next s

/-- An instruction that is discarded (R143): outside TILE mode it sets ERR_MODE, in it LAST_STATUS. -/
def execTileInstructionDiscard (t : Fin 156) (word : DWord) (s : State) : Result :=
  let x := s.tile t
  let i := TrInstr.ofBits word.toNat
  if !s.clusterUp then .next s
  else if !x.inTileMode then .next (s.setTile t { x with vec := { x.vec with trErrMode := true } })
  else if i.check ≠ .done then .next (s.setTile t { x with vec := { x.vec with trLast := i.check } })
  else .next s

end Sys2Proof.Machine
end

