-- ==== Sys2Proof/Machine/ExecVec.lean ====
section
/-! DEFINITION. Meanings: the vector engine in stream mode (chapter 5). Each command dispatches the vector record at which a tile stands when its descriptor holds the command's operation. -/

namespace Sys2Proof.Machine

/-- OP of the descriptor that the standing record names. -/
def Tile.standingOp (t : Tile) : Nat := bits (t.mem.word (bits t.standing.2.a 0 22 / 4)).bits.toNat 0 8

/-- The VEC is in stream mode (R118, R141). -/
def Tile.streaming (t : Tile) : Bool := decide (t.vec.mode = 0) && !t.vec.clearing

/-- Dispatch a vector record of an operation; a reserved OP, which a program can write into its descriptor during a step, is issued all the same and fails its checks (R130). -/
def State.dispatchVec (s : State) (t : Nat) (o : VecOp) : State :=
  let x := s.tile t
  if x.streaming && (decide (x.standingOp = o.code) || (VecOp.ofCode x.standingOp).isNone) then s.dispatch t recVec unitVec else s

/-- COPY (R124). -/
def execCopy (t : Fin 156) (s : State) : Result := .next (s.dispatchVec t .copy)

/-- NEG (R124). -/
def execNeg (t : Fin 156) (s : State) : Result := .next (s.dispatchVec t .neg)

/-- ABS (R124). -/
def execAbs (t : Fin 156) (s : State) : Result := .next (s.dispatchVec t .abs)

/-- SCALE (R124). -/
def execScale (t : Fin 156) (s : State) : Result := .next (s.dispatchVec t .scale)

/-- RELU (R124). -/
def execRelu (t : Fin 156) (s : State) : Result := .next (s.dispatchVec t .relu)

/-- ADD (R124). -/
def execAdd (t : Fin 156) (s : State) : Result := .next (s.dispatchVec t .add)

/-- SUB (R124). -/
def execSub (t : Fin 156) (s : State) : Result := .next (s.dispatchVec t .sub)

/-- MUL (R124). -/
def execMul (t : Fin 156) (s : State) : Result := .next (s.dispatchVec t .mul)

/-- MAX (R124). -/
def execMax (t : Fin 156) (s : State) : Result := .next (s.dispatchVec t .max)

/-- MIN (R124). -/
def execMin (t : Fin 156) (s : State) : Result := .next (s.dispatchVec t .min)

/-- AXPBY (R124). -/
def execAxpby (t : Fin 156) (s : State) : Result := .next (s.dispatchVec t .axpby)

/-- FMA (R124). -/
def execFma (t : Fin 156) (s : State) : Result := .next (s.dispatchVec t .fma)

/-- EXP (R124). -/
def execExp (t : Fin 156) (s : State) : Result := .next (s.dispatchVec t .exp)

/-- LOG (R124). -/
def execLog (t : Fin 156) (s : State) : Result := .next (s.dispatchVec t .log)

/-- RSQRT (R124). -/
def execRsqrt (t : Fin 156) (s : State) : Result := .next (s.dispatchVec t .rsqrt)

/-- RECIP (R124). -/
def execRecip (t : Fin 156) (s : State) : Result := .next (s.dispatchVec t .recip)

/-- SQRT (R124). -/
def execSqrt (t : Fin 156) (s : State) : Result := .next (s.dispatchVec t .sqrt)

/-- DIV (R124). -/
def execDiv (t : Fin 156) (s : State) : Result := .next (s.dispatchVec t .div)

/-- GELU (R125). -/
def execGelu (t : Fin 156) (s : State) : Result := .next (s.dispatchVec t .gelu)

/-- SILU (R125). -/
def execSilu (t : Fin 156) (s : State) : Result := .next (s.dispatchVec t .silu)

/-- RSUM (R127). -/
def execRsum (t : Fin 156) (s : State) : Result := .next (s.dispatchVec t .rsum)

/-- RSUMSQ (R127). -/
def execRsumsq (t : Fin 156) (s : State) : Result := .next (s.dispatchVec t .rsumsq)

/-- RMAX (R127). -/
def execRmax (t : Fin 156) (s : State) : Result := .next (s.dispatchVec t .rmax)

/-- RMIN (R127). -/
def execRmin (t : Fin 156) (s : State) : Result := .next (s.dispatchVec t .rmin)

/-- RAMAX (R127). -/
def execRamax (t : Fin 156) (s : State) : Result := .next (s.dispatchVec t .ramax)

/-- CSUM (R127). -/
def execCsum (t : Fin 156) (s : State) : Result := .next (s.dispatchVec t .csum)

/-- SOFTMAX (R138). -/
def execSoftmax (t : Fin 156) (s : State) : Result := .next (s.dispatchVec t .softmax)

/-- SOFTMAX_BWD (R140). -/
def execSoftmaxBwd (t : Fin 156) (s : State) : Result := .next (s.dispatchVec t .softmaxBwd)

/-- LNORM (R128). -/
def execLnorm (t : Fin 156) (s : State) : Result := .next (s.dispatchVec t .lnorm)

/-- RMSNORM (R128). -/
def execRmsnorm (t : Fin 156) (s : State) : Result := .next (s.dispatchVec t .rmsnorm)

/-- LNORM_BWD (R128). -/
def execLnormBwd (t : Fin 156) (s : State) : Result := .next (s.dispatchVec t .lnormBwd)

/-- RMSNORM_BWD (R128). -/
def execRmsnormBwd (t : Fin 156) (s : State) : Result := .next (s.dispatchVec t .rmsnormBwd)

/-- MENC1 (R129). -/
def execMenc1 (t : Fin 156) (s : State) : Result := .next (s.dispatchVec t .menc1)

/-- MDEC1 (R129). -/
def execMdec1 (t : Fin 156) (s : State) : Result := .next (s.dispatchVec t .mdec1)

/-- MENC2 (R129). -/
def execMenc2 (t : Fin 156) (s : State) : Result := .next (s.dispatchVec t .menc2)

/-- MDEC2 (R129). -/
def execMdec2 (t : Fin 156) (s : State) : Result := .next (s.dispatchVec t .mdec2)

/-- OPTIM (R172). -/
def execOptim (t : Fin 156) (s : State) : Result := .next (s.dispatchVec t .optim)

/-- GSTAT (R165). -/
def execGstat (t : Fin 156) (s : State) : Result := .next (s.dispatchVec t .gstat)

/-- The vector engine completes its record (R133). -/
def execVecComplete (t : Fin 156) (s : State) : Result := .next (s.completeUnit t unitVec none)

/-- A mode change may begin (R141): into TILE mode from IDLE on a tile that is IDLE or FENCED; out of it at any time but while CLEARING. -/
def Tile.modeOk (t : Tile) : Bool :=
  !t.vec.clearing && (decide (t.vec.mode = 1) || (decide (t.vecState = 0) && decide (t.stage.state = .idle ∨ t.stage.state = .fenced)))

/-- A write of VEC_MODE (R141, Table 5.10). -/
def execVecModeWrite (t : Fin 156) (value : DWord) (s : State) : Result :=
  let x := s.tile t
  let v := value.toNat
  let x1 := { x with vec := { x.vec with modeRefused := w1c x.vec.modeRefused v 2 } }
  let m := bits v 0 2
  if !s.clusterUp then .next s
  else if 1 < m ∨ (m = x.vec.mode ∧ !x.vec.clearing) then .next (s.setTile t x1)
  else if x.modeOk then .next (s.setTile t { x1 with vec := { x1.vec with clearing := true } })
  else .next (s.setTile t { x1 with vec := { x1.vec with modeRefused := true } })

/-- CLEARING ends and the new mode is in force (R141); a bound tile back in STREAM mode gets its program, constants and resident regions again (R43). -/
def execVecClearComplete (t : Fin 156) (s : State) : Result :=
  let x := s.tile t
  if !x.vec.clearing then .next s
  else
    let y := x.clearForMode
    let s1 := s.setTile t { y with vec := { y.vec with clearing := false, mode := 1 - x.vec.mode } }
    match x.part, x.ltile with
    | some p, some l => if x.vec.mode = 1 ∧ x.stage.state ≠ .fenced then .next (s1.loadTile p l t) else .next s1
    | _, _ => .next s1

end Sys2Proof.Machine
end

