-- ==== Sys2Proof/Machine/Dispatch.lean ====
section
/-! DEFINITION. One arm for each command: a direct call of its meaning, or a refusal by name. -/

namespace Sys2Proof.Machine

/-- The effect of a command on everything but the queue. -/
def exec (i : Instr) (s : State) : Host.Outcome State Fault Refusal :=
  match i with
  | .aonRailGood => Sys2Proof.Machine.execAonRailGood s
  | .pwrReqRise => Sys2Proof.Machine.execPwrReqRise s
  | .pwrReqFall => Sys2Proof.Machine.execPwrReqFall s
  | .powerOn => Sys2Proof.Machine.execPowerOn s
  | .powerOff => Sys2Proof.Machine.execPowerOff s
  | .railGood rail mv da => Sys2Proof.Machine.execRailGood rail mv da s
  | .phaseComplete work => Sys2Proof.Machine.execPhaseComplete work s
  | .controlClusterRelease => Sys2Proof.Machine.execControlClusterRelease s
  | .phase3Start => Sys2Proof.Machine.execPhase3Start s
  | .phase4Start => Sys2Proof.Machine.execPhase4Start s
  | .clockWakeComplete clk => Sys2Proof.Machine.execClockWakeComplete clk s
  | .coreGateTimer fld => Sys2Proof.Machine.execCoreGateTimer fld s
  | .corePllOffTimer fld => Sys2Proof.Machine.execCorePllOffTimer fld s
  | .hbmSelfRefreshTimer stack => Sys2Proof.Machine.execHbmSelfRefreshTimer stack s
  | .mgmtIdleTimer => Sys2Proof.Machine.execMgmtIdleTimer s
  | .ckptflashIdleTimer => Sys2Proof.Machine.execCkptflashIdleTimer s
  | .pllLockLoss clk => Sys2Proof.Machine.execPllLockLoss clk s
  | .aonCrystalFail => Sys2Proof.Machine.execAonCrystalFail s
  | .reversedPolarity => Sys2Proof.Machine.execReversedPolarity s
  | .inputOvervoltage => Sys2Proof.Machine.execInputOvervoltage s
  | .inputOvercurrent => Sys2Proof.Machine.execInputOvercurrent s
  | .inputUndervoltage => Sys2Proof.Machine.execInputUndervoltage s
  | .railFault rail cause expired => Sys2Proof.Machine.execRailFault rail cause expired s
  | .emergencyTrigger cause reading => Sys2Proof.Machine.execEmergencyTrigger cause reading s
  | .emergencyLevelFall readings => Sys2Proof.Machine.execEmergencyLevelFall readings s
  | .hardwareThermalTrip => Sys2Proof.Machine.execHardwareThermalTrip s
  | .leakNAssert => Sys2Proof.Machine.execLeakNAssert s
  | .pwrBrakeNAssert => Sys2Proof.Machine.execPwrBrakeNAssert s
  | .capControlSample projected => Sys2Proof.Machine.execCapControlSample projected s
  | .setPwrCap watts => Sys2Proof.Machine.execSetPwrCap watts s
  | .moduleRemoval => Sys2Proof.Machine.execModuleRemoval s
  | .coldReset => Sys2Proof.Machine.execColdReset s
  | .warmReset => Sys2Proof.Machine.execWarmReset s
  | .conventionalReset => Sys2Proof.Machine.execConventionalReset s
  | .pfFlr => Sys2Proof.Machine.execPfFlr s
  | .vfFlr vf => Sys2Proof.Machine.execVfFlr vf s
  | .tdiError vf => Sys2Proof.Machine.execTdiError vf s
  | .stopInterface vf => Sys2Proof.Machine.execStopInterface vf s
  | .doeMessage kind req data => Sys2Proof.Machine.execDoeMessage kind req data s
  | .atsInvalidation fn tag => Sys2Proof.Machine.execAtsInvalidation fn tag s
  | .nop t => Sys2Proof.Machine.execNop t s
  | .loop t => Sys2Proof.Machine.execLoop t s
  | .mxe t => Sys2Proof.Machine.execMxe t s
  | .mxeComplete t => Sys2Proof.Machine.execMxeComplete t s
  | .copy t => Sys2Proof.Machine.execCopy t s
  | .neg t => Sys2Proof.Machine.execNeg t s
  | .abs t => Sys2Proof.Machine.execAbs t s
  | .scale t => Sys2Proof.Machine.execScale t s
  | .relu t => Sys2Proof.Machine.execRelu t s
  | .add t => Sys2Proof.Machine.execAdd t s
  | .sub t => Sys2Proof.Machine.execSub t s
  | .mul t => Sys2Proof.Machine.execMul t s
  | .max t => Sys2Proof.Machine.execMax t s
  | .min t => Sys2Proof.Machine.execMin t s
  | .axpby t => Sys2Proof.Machine.execAxpby t s
  | .fma t => Sys2Proof.Machine.execFma t s
  | .exp t => Sys2Proof.Machine.execExp t s
  | .log t => Sys2Proof.Machine.execLog t s
  | .rsqrt t => Sys2Proof.Machine.execRsqrt t s
  | .recip t => Sys2Proof.Machine.execRecip t s
  | .sqrt t => Sys2Proof.Machine.execSqrt t s
  | .div t => Sys2Proof.Machine.execDiv t s
  | .gelu t => Sys2Proof.Machine.execGelu t s
  | .silu t => Sys2Proof.Machine.execSilu t s
  | .rsum t => Sys2Proof.Machine.execRsum t s
  | .rsumsq t => Sys2Proof.Machine.execRsumsq t s
  | .rmax t => Sys2Proof.Machine.execRmax t s
  | .rmin t => Sys2Proof.Machine.execRmin t s
  | .ramax t => Sys2Proof.Machine.execRamax t s
  | .csum t => Sys2Proof.Machine.execCsum t s
  | .softmax t => Sys2Proof.Machine.execSoftmax t s
  | .softmaxBwd t => Sys2Proof.Machine.execSoftmaxBwd t s
  | .lnorm t => Sys2Proof.Machine.execLnorm t s
  | .rmsnorm t => Sys2Proof.Machine.execRmsnorm t s
  | .lnormBwd t => Sys2Proof.Machine.execLnormBwd t s
  | .rmsnormBwd t => Sys2Proof.Machine.execRmsnormBwd t s
  | .menc1 t => Sys2Proof.Machine.execMenc1 t s
  | .mdec1 t => Sys2Proof.Machine.execMdec1 t s
  | .menc2 t => Sys2Proof.Machine.execMenc2 t s
  | .mdec2 t => Sys2Proof.Machine.execMdec2 t s
  | .optim t => Sys2Proof.Machine.execOptim t s
  | .gstat t => Sys2Proof.Machine.execGstat t s
  | .vecComplete t => Sys2Proof.Machine.execVecComplete t s
  | .vecModeWrite t value => Sys2Proof.Machine.execVecModeWrite t value s
  | .vecClearComplete t => Sys2Proof.Machine.execVecClearComplete t s
  | .tload t word => Sys2Proof.Machine.execTload t word s
  | .tstore t word => Sys2Proof.Machine.execTstore t word s
  | .tfill t word => Sys2Proof.Machine.execTfill t word s
  | .ttrans t word => Sys2Proof.Machine.execTtrans t word s
  | .tadd t word => Sys2Proof.Machine.execTadd t word s
  | .tsub t word => Sys2Proof.Machine.execTsub t word s
  | .tmul t word => Sys2Proof.Machine.execTmul t word s
  | .tfma t word => Sys2Proof.Machine.execTfma t word s
  | .tmax t word => Sys2Proof.Machine.execTmax t word s
  | .tmin t word => Sys2Proof.Machine.execTmin t word s
  | .texp t word => Sys2Proof.Machine.execTexp t word s
  | .tlog t word => Sys2Proof.Machine.execTlog t word s
  | .trsqrt t word => Sys2Proof.Machine.execTrsqrt t word s
  | .trecip t word => Sys2Proof.Machine.execTrecip t word s
  | .tmma t word => Sys2Proof.Machine.execTmma t word s
  | .tcmp t word => Sys2Proof.Machine.execTcmp t word s
  | .tsig t word => Sys2Proof.Machine.execTsig t word s
  | .tend t word => Sys2Proof.Machine.execTend t word s
  | .tileInstructionDiscard t word => Sys2Proof.Machine.execTileInstructionDiscard t word s
  | .dma t => Sys2Proof.Machine.execDma t s
  | .move c => Sys2Proof.Machine.execMove c s
  | .dmaLoop c => Sys2Proof.Machine.execDmaLoop c s
  | .wait c => Sys2Proof.Machine.execWait c s
  | .signal c => Sys2Proof.Machine.execSignal c s
  | .endProgram c => Sys2Proof.Machine.execEndProgram c s
  | .dmaReadReturn c idx fetch => Sys2Proof.Machine.execDmaReadReturn c idx fetch s
  | .dmaWriteComplete c idx fetch => Sys2Proof.Machine.execDmaWriteComplete c idx fetch s
  | .dmaProgramComplete c => Sys2Proof.Machine.execDmaProgramComplete c s
  | .dmaBusError c idx => Sys2Proof.Machine.execDmaBusError c idx s
  | .dmaLineTimeout c idx => Sys2Proof.Machine.execDmaLineTimeout c idx s
  | .dmaRetry c idx => Sys2Proof.Machine.execDmaRetry c idx s
  | .start n pc => Sys2Proof.Machine.execStart n pc s
  | .stop n => Sys2Proof.Machine.execStop n s
  | .dmaSysBindWrite n value => Sys2Proof.Machine.execDmaSysBindWrite n value s
  | .qsend t => Sys2Proof.Machine.execQsend t s
  | .qrecv t => Sys2Proof.Machine.execQrecv t s
  | .lockRequest idx => Sys2Proof.Machine.execLockRequest idx s
  | .lockGrant idx => Sys2Proof.Machine.execLockGrant idx s
  | .packetLanding entry landing => Sys2Proof.Machine.execPacketLanding entry landing s
  | .creditReturn t => Sys2Proof.Machine.execCreditReturn t s
  | .qsendComplete t => Sys2Proof.Machine.execQsendComplete t s
  | .qrecvComplete t => Sys2Proof.Machine.execQrecvComplete t s
  | .flushNotice idx => Sys2Proof.Machine.execFlushNotice idx s
  | .levelQueueFlush entry => Sys2Proof.Machine.execLevelQueueFlush entry s
  | .flushEntry entry => Sys2Proof.Machine.execFlushEntry entry s
  | .flushStream entry => Sys2Proof.Machine.execFlushStream entry s
  | .flushPartition p => Sys2Proof.Machine.execFlushPartition p s
  | .streamEntryError entry => Sys2Proof.Machine.execStreamEntryError entry s
  | .stepEnd t => Sys2Proof.Machine.execStepEnd t s
  | .runFaultEnd p => Sys2Proof.Machine.execRunFaultEnd p s
  | .stepWatchdogExpire p => Sys2Proof.Machine.execStepWatchdogExpire p s
  | .stepFenceResolve p => Sys2Proof.Machine.execStepFenceResolve p s
  | .snapshot p => Sys2Proof.Machine.execSnapshot p s
  | .deferredMaintenanceRun p => Sys2Proof.Machine.execDeferredMaintenanceRun p s
  | .stepRelease p => Sys2Proof.Machine.execStepRelease p s
  | .hbmRead origin key dpa fetch => Sys2Proof.Machine.execHbmRead origin key dpa fetch s
  | .hbmFullWrite origin key dpa data fetch => Sys2Proof.Machine.execHbmFullWrite origin key dpa data fetch s
  | .hbmPartialWrite origin key dpa data fetch => Sys2Proof.Machine.execHbmPartialWrite origin key dpa data fetch s
  | .carve p g slot fw => Sys2Proof.Machine.execCarve p g slot fw s
  | .wipe g => Sys2Proof.Machine.execWipe g s
  | .stage p g => Sys2Proof.Machine.execStage p g s
  | .unstage g => Sys2Proof.Machine.execUnstage g s
  | .rekey p slot => Sys2Proof.Machine.execRekey p slot s
  | .mprSessionRekey p slot => Sys2Proof.Machine.execMprSessionRekey p slot s
  | .mprRevoke p => Sys2Proof.Machine.execMprRevoke p s
  | .retire pc => Sys2Proof.Machine.execRetire pc s
  | .mprTest pc errors => Sys2Proof.Machine.execMprTest pc errors s
  | .weevilPassStart => Sys2Proof.Machine.execWeevilPassStart s
  | .fillPassEnd g => Sys2Proof.Machine.execFillPassEnd g s
  | .wipePassEnd g => Sys2Proof.Machine.execWipePassEnd g s
  | .rekeyPassEnd p => Sys2Proof.Machine.execRekeyPassEnd p s
  | .migratePassEnd pc unreadable => Sys2Proof.Machine.execMigratePassEnd pc unreadable s
  | .scrubLine dpa found => Sys2Proof.Machine.execScrubLine dpa found s
  | .retirementResume => Sys2Proof.Machine.execRetirementResume s
  | .stackRecalRun stack => Sys2Proof.Machine.execStackRecalRun stack s
  | .pcUnresponsive pc => Sys2Proof.Machine.execPcUnresponsive pc s
  | .generate slot kind owner epoch => Sys2Proof.Machine.execGenerate slot kind owner epoch s
  | .derive src dst kind owner epoch context => Sys2Proof.Machine.execDerive src dst kind owner epoch context s
  | .kemKeygen slot => Sys2Proof.Machine.execKemKeygen slot s
  | .importKey kem dst kind owner epoch wrapped => Sys2Proof.Machine.execImportKey kem dst kind owner epoch wrapped s
  | .exportSlot slot peer ownEvidence => Sys2Proof.Machine.execExportSlot slot peer ownEvidence s
  | .slotRevoke slot => Sys2Proof.Machine.execSlotRevoke slot s
  | .zeroize slot => Sys2Proof.Machine.execZeroize slot s
  | .genRoot => Sys2Proof.Machine.execGenRoot s
  | .slotSweep slot => Sys2Proof.Machine.execSlotSweep slot s
  | .entropyHealthFail => Sys2Proof.Machine.execEntropyHealthFail s
  | .lcTransition target token tck secured => Sys2Proof.Machine.execLcTransition target token tck secured s
  | .debugNonce tck => Sys2Proof.Machine.execDebugNonce tck s
  | .debugCert tck cert => Sys2Proof.Machine.execDebugCert tck cert s
  | .debugClose tck => Sys2Proof.Machine.execDebugClose tck s
  | .debugNonceExpire => Sys2Proof.Machine.execDebugNonceExpire s
  | .subtreeBuildComplete layer => Sys2Proof.Machine.execSubtreeBuildComplete layer s
  | .secMboxDb value request => Sys2Proof.Machine.execSecMboxDb value request s
  | .partCreate fn q host => Sys2Proof.Machine.execPartCreate fn q host s
  | .partRemove fn q => Sys2Proof.Machine.execPartRemove fn q s
  | .removalDrainEnd p => Sys2Proof.Machine.execRemovalDrainEnd p s
  | .evidence fn q host => Sys2Proof.Machine.execEvidence fn q host s
  | .sessionJoin fn q peer wrapped origin sessionId => Sys2Proof.Machine.execSessionJoin fn q peer wrapped origin sessionId s
  | .ownerImport fn q host => Sys2Proof.Machine.execOwnerImport fn q host s
  | .sessionRekey fn q => Sys2Proof.Machine.execSessionRekey fn q s
  | .imageLoad fn q host body => Sys2Proof.Machine.execImageLoad fn q host body s
  | .run fn q => Sys2Proof.Machine.execRun fn q s
  | .ingest fn q => Sys2Proof.Machine.execIngest fn q s
  | .release fn q => Sys2Proof.Machine.execRelease fn q s
  | .train k => Sys2Proof.Machine.execTrain k s
  | .disable k => Sys2Proof.Machine.execDisable k s
  | .retrain k => Sys2Proof.Machine.execRetrain k s
  | .acceptRemap k => Sys2Proof.Machine.execAcceptRemap k s
  | .swap k wave receive => Sys2Proof.Machine.execSwap k wave receive s
  | .phyLock k => Sys2Proof.Machine.execPhyLock k s
  | .hello k msg => Sys2Proof.Machine.execHello k msg s
  | .proof k tag => Sys2Proof.Machine.execProof k tag s
  | .trainTimeout k => Sys2Proof.Machine.execTrainTimeout k s
  | .lossOfLock k => Sys2Proof.Machine.execLossOfLock k s
  | .retrainWindowExpire k => Sys2Proof.Machine.execRetrainWindowExpire k s
  | .wavelengthWindow k wave symbols codewords lost => Sys2Proof.Machine.execWavelengthWindow k wave symbols codewords lost s
  | .swapReq k wave => Sys2Proof.Machine.execSwapReq k wave s
  | .swapReady k wave lseq => Sys2Proof.Machine.execSwapReady k wave lseq s
  | .spareTakeover k receive => Sys2Proof.Machine.execSpareTakeover k receive s
  | .frameTransmit k vc => Sys2Proof.Machine.execFrameTransmit k vc s
  | .dataFrameReceive k frame fec => Sys2Proof.Machine.execDataFrameReceive k frame fec s
  | .idleFrame k frame => Sys2Proof.Machine.execIdleFrame k frame s
  | .ctrlFrame k frame => Sys2Proof.Machine.execCtrlFrame k frame s
  | .keyReady k pkid kg => Sys2Proof.Machine.execKeyReady k pkid kg s
  | .confirm k frame => Sys2Proof.Machine.execConfirm k frame s
  | .topoLoad fn q host => Sys2Proof.Machine.execTopoLoad fn q host s
  | .portBind fn q => Sys2Proof.Machine.execPortBind fn q s
  | .portUnbind fn q => Sys2Proof.Machine.execPortUnbind fn q s
  | .col t => Sys2Proof.Machine.execCol t s
  | .allReduce p group seq cp origin chunk => Sys2Proof.Machine.execAllReduce p group seq cp origin chunk s
  | .reduceScatter p group seq cp origin chunk => Sys2Proof.Machine.execReduceScatter p group seq cp origin chunk s
  | .allGather p group seq cp origin chunk => Sys2Proof.Machine.execAllGather p group seq cp origin chunk s
  | .broadcast p group seq cp origin chunk => Sys2Proof.Machine.execBroadcast p group seq cp origin chunk s
  | .allToAll p group seq cp origin chunk => Sys2Proof.Machine.execAllToAll p group seq cp origin chunk s
  | .barrier p group seq cp => Sys2Proof.Machine.execBarrier p group seq cp s
  | .chunkOpenReceive p => Sys2Proof.Machine.execChunkOpenReceive p s
  | .chunkCloseReceive p => Sys2Proof.Machine.execChunkCloseReceive p s
  | .abort p group seq cp status rank digest susRank susLidx susDigest => Sys2Proof.Machine.execAbort p group seq cp status rank digest susRank susLidx susDigest s
  | .censusHeader p group seq cp rank digest lidx => Sys2Proof.Machine.execCensusHeader p group seq cp rank digest lidx s
  | .censusResult p group seq cp major rank lidx count => Sys2Proof.Machine.execCensusResult p group seq cp major rank lidx count s
  | .censusTimeout p group seq cp => Sys2Proof.Machine.execCensusTimeout p group seq cp s
  | .fenceHeaderReceive p rank word => Sys2Proof.Machine.execFenceHeaderReceive p rank word s
  | .colRecordComplete t => Sys2Proof.Machine.execColRecordComplete t s
  | .ctrlColl fn q host => Sys2Proof.Machine.execCtrlColl fn q host s
  | .ranksLoad fn q host => Sys2Proof.Machine.execRanksLoad fn q host s
  | .groupsLoad fn q host => Sys2Proof.Machine.execGroupsLoad fn q host s
  | .tileReplacement t => Sys2Proof.Machine.execTileReplacement t s
  | .tileTest fn q pass => Sys2Proof.Machine.execTileTest fn q pass s
  | .tileReplace fn q => Sys2Proof.Machine.execTileReplace fn q s
  | .pcTest fn q errors => Sys2Proof.Machine.execPcTest fn q errors s
  | .pcRetire fn q => Sys2Proof.Machine.execPcRetire fn q s
  | .stackRecal fn q => Sys2Proof.Machine.execStackRecal fn q s
  | .laneCal fn q => Sys2Proof.Machine.execLaneCal fn q s
  | .sensorCal fn q => Sys2Proof.Machine.execSensorCal fn q s
  | .snapshotRequest p => Sys2Proof.Machine.execSnapshotRequest p s
  | .mirrorFillCheck p => Sys2Proof.Machine.execMirrorFillCheck p s
  | .flashDrainComplete p => Sys2Proof.Machine.execFlashDrainComplete p s
  | .snapConfig fn q => Sys2Proof.Machine.execSnapConfig fn q s
  | .snapHold fn q => Sys2Proof.Machine.execSnapHold fn q s
  | .census fn q => Sys2Proof.Machine.execCensus fn q s
  | .fill fn q => Sys2Proof.Machine.execFill fn q s
  | .fillCheck fn q => Sys2Proof.Machine.execFillCheck fn q s
  | .restore fn q host => Sys2Proof.Machine.execRestore fn q host s
  | .flashRead fn q host => Sys2Proof.Machine.execFlashRead fn q host s
  | .hifEnable fn => Sys2Proof.Machine.execHifEnable fn s
  | .hifDisable fn => Sys2Proof.Machine.execHifDisable fn s
  | .sqTailDoorbell fn q tail entries => Sys2Proof.Machine.execSqTailDoorbell fn q tail entries s
  | .cqHeadDoorbell fn q head => Sys2Proof.Machine.execCqHeadDoorbell fn q head s
  | .cqInterruptTimer fn q => Sys2Proof.Machine.execCqInterruptTimer fn q s
  | .fenceWaitSatisfied fn q => Sys2Proof.Machine.execFenceWaitSatisfied fn q s
  | .ctxCreate fn q => Sys2Proof.Machine.execCtxCreate fn q s
  | .ctxDestroy fn q => Sys2Proof.Machine.execCtxDestroy fn q s
  | .ctxKill fn q => Sys2Proof.Machine.execCtxKill fn q s
  | .sqCreate fn q => Sys2Proof.Machine.execSqCreate fn q s
  | .sqDestroy fn q => Sys2Proof.Machine.execSqDestroy fn q s
  | .cqCreate fn q => Sys2Proof.Machine.execCqCreate fn q s
  | .cqDestroy fn q => Sys2Proof.Machine.execCqDestroy fn q s
  | .memAlloc fn q => Sys2Proof.Machine.execMemAlloc fn q s
  | .memFree fn q => Sys2Proof.Machine.execMemFree fn q s
  | .memMap fn q => Sys2Proof.Machine.execMemMap fn q s
  | .memUnmap fn q => Sys2Proof.Machine.execMemUnmap fn q s
  | .memExport fn q => Sys2Proof.Machine.execMemExport fn q s
  | .memImport fn q => Sys2Proof.Machine.execMemImport fn q s
  | .fenceCreate fn q => Sys2Proof.Machine.execFenceCreate fn q s
  | .fenceDestroy fn q => Sys2Proof.Machine.execFenceDestroy fn q s
  | .fenceExport fn q => Sys2Proof.Machine.execFenceExport fn q s
  | .fenceImport fn q => Sys2Proof.Machine.execFenceImport fn q s
  | .hostNop fn q => Sys2Proof.Machine.execHostNop fn q s
  | .stageCopy fn q host => Sys2Proof.Machine.execStageCopy fn q host s
  | .query fn q host => Sys2Proof.Machine.execQuery fn q host s
  | .hostReservedOpcode fn q => Sys2Proof.Machine.execHostReservedOpcode fn q s
  | .fwInfo fn q => Sys2Proof.Machine.execFwInfo fn q s
  | .fwWrite fn q host => Sys2Proof.Machine.execFwWrite fn q host s
  | .fwVerify fn q => Sys2Proof.Machine.execFwVerify fn q s
  | .nextReset fn q => Sys2Proof.Machine.execNextReset fn q s
  | .now fn q => Sys2Proof.Machine.execNow fn q s
  | .cancel fn q => Sys2Proof.Machine.execCancel fn q s
  | .fwCommit fn q stuck => Sys2Proof.Machine.execFwCommit fn q stuck s
  | .logRead fn q => Sys2Proof.Machine.execLogRead fn q s
  | .traceCfg fn q => Sys2Proof.Machine.execTraceCfg fn q s
  | .timeCfg fn q => Sys2Proof.Machine.execTimeCfg fn q s
  | .timeSet fn q => Sys2Proof.Machine.execTimeSet fn q s
  | .timeRead fn q => Sys2Proof.Machine.execTimeRead fn q s
  | .coreWatchdogExpire core => Sys2Proof.Machine.execCoreWatchdogExpire core s
  | .heartbeatLost => Sys2Proof.Machine.execHeartbeatLost s
  | .bar0WriteApply => Sys2Proof.Machine.execBar0WriteApply s
  | .traceRateSummary point => Sys2Proof.Machine.execTraceRateSummary point s
  | .coarsenBoundary utils => Sys2Proof.Machine.execCoarsenBoundary utils s
  | .mctpControl cmd data => Sys2Proof.Machine.execMctpControl cmd data s
  | .pldmSensorRead type_ sensor reading => Sys2Proof.Machine.execPldmSensorRead type_ sensor reading s
  | .spdmRequest secured req => Sys2Proof.Machine.execSpdmRequest secured req s
  | .faultRead => Sys2Proof.Machine.execFaultRead s
  | .pldmLogRead seq count => Sys2Proof.Machine.execPldmLogRead seq count s
  | .inventory => Sys2Proof.Machine.execInventory s
  | .setdasa => Sys2Proof.Machine.execSetdasa s
  | .entdaa addr => Sys2Proof.Machine.execEntdaa addr s
  | .fwUpdateComponent offset data => Sys2Proof.Machine.execFwUpdateComponent offset data s
  | .activateFirmware => Sys2Proof.Machine.execActivateFirmware s
  | .ptpSync k origin correction => Sys2Proof.Machine.execPtpSync k origin correction s
  | .ptpDelayReq k data => Sys2Proof.Machine.execPtpDelayReq k data s
  | .ptpDelayResp k received => Sys2Proof.Machine.execPtpDelayResp k received s
  | .ptpAnnounce k set domain => Sys2Proof.Machine.execPtpAnnounce k set domain s
  | .announceTimeout => Sys2Proof.Machine.execAnnounceTimeout s
  | .holdoverExpire => Sys2Proof.Machine.execHoldoverExpire s
  | .ppsPulse width => Sys2Proof.Machine.execPpsPulse width s
  | .ppsMiss => Sys2Proof.Machine.execPpsMiss s
  | .queStData0Read => Sys2Proof.Machine.execQueStData0Read s
  | .queEpErrRead t => Sys2Proof.Machine.execQueEpErrRead t s
  | .queStErrRead => Sys2Proof.Machine.execQueStErrRead s
  | .mprEccRead => Sys2Proof.Machine.execMprEccRead s
  | .mprErrRead => Sys2Proof.Machine.execMprErrRead s
  | .mprPerrRead p => Sys2Proof.Machine.execMprPerrRead p s
  | .lnkErrRead k => Sys2Proof.Machine.execLnkErrRead k s
  | .lnkErr2Read k => Sys2Proof.Machine.execLnkErr2Read k s
  | .colIntegRead p => Sys2Proof.Machine.execColIntegRead p s
  | .resFaultStatusRead => Sys2Proof.Machine.execResFaultStatusRead s
  | .resFaultData0Read => Sys2Proof.Machine.execResFaultData0Read s
  | .resSnapStatusRead p => Sys2Proof.Machine.execResSnapStatusRead p s
  | .fwmStatusRead => Sys2Proof.Machine.execFwmStatusRead s
  | .fwmTimeStatusRead => Sys2Proof.Machine.execFwmTimeStatusRead s
  | .pwrEmergRead => Sys2Proof.Machine.execPwrEmergRead s
  | .registerWrite reg value => Sys2Proof.Machine.execRegisterWrite reg value s
  | .bar4Access fn offset data len => Sys2Proof.Machine.execBar4Access fn offset data len s
  | .syncInterval announce => Sys2Proof.Machine.execSyncInterval announce s
  | .tileUncorrectableError t => Sys2Proof.Machine.execTileUncorrectableError t s
  | .clusterStateError => Sys2Proof.Machine.execClusterStateError s
  | .pwrBrakeNDeassert => Sys2Proof.Machine.execPwrBrakeNDeassert s
  | .leakNDeassert => Sys2Proof.Machine.execLeakNDeassert s
  | .pcieL1Entry => Sys2Proof.Machine.execPcieL1Entry s
  | .spareWavelengthLock k => Sys2Proof.Machine.execSpareWavelengthLock k s
  | .thermalTripRearm => Sys2Proof.Machine.execThermalTripRearm s
  | .entropyHealthRecover => Sys2Proof.Machine.execEntropyHealthRecover s

end Sys2Proof.Machine
end

