-- ==== Sys2Proof/Safety.lean ====
section
/-! DEFINITION. What a safe state is, and the terms in which the claims speak: an answer that is a next state, a tile at a record, a host command ready to start. -/

namespace Sys2Proof

open Machine

/-- The power cap is one that may be written (R472). -/
abbrev CapOk (s : State) : Prop := capLegal s.pwr.cap = true

/-- The command answers a next state of which P holds. -/
def Answers (o : Host.Outcome State Fault Refusal) (P : State → Prop) : Prop := ∃ u, o = .next u ∧ P u

/-- Tile t dispatches, and stands at record r, issued as i, whose token holds enough (R49). -/
abbrev AtRecord (s : State) (t op : Nat) (i : Issued) : Prop :=
  s.dispatching t = true ∧ (s.tile t).standing.1.op = op ∧ (s.tile t).tokenOk (s.tile t).standing.1 = true ∧ i = (s.tile t).standing.2

/-- Tile t past the record at which it stands: WVAL taken, the dispatcher advanced (R49, R52). -/
def pastRecord (x : Tile) : Tile :=
  { x.takeToken x.standing.1 with disp := (x.takeToken x.standing.1).disp.advance }

/-- Unit n of a tile holds no record. -/
abbrev UnitFree (x : Tile) (n : Nat) : Prop := (x.unit n).cur = [] ∧ (x.unit n).queue = []

/-- Record f alone is in unit n, and the unit reads empty once it has left (in a canonical table of units the second part follows). -/
abbrev Alone (x : Tile) (n : Nat) (f : InFlight) : Prop := x.unit n = ⟨[f], []⟩ ∧ (x.setUnit n .idle).unit n = .idle

/-- Record f is in unit n of tile t. -/
abbrev InUnit (s : State) (t n : Nat) (f : InFlight) : Prop := f ∈ ((s.tile t).unit n).cur

/-- Channel c runs and stands at an instruction i of OP op that no rule of Table 8.8 refuses. -/
abbrev AtInstr (s : State) (c op : Nat) (i : DmaInstr) : Prop :=
  (s.chan c).phase = .running ∧ (s.dmaInstr c).2 = i ∧ i.op = op ∧ (s.chan c).pc < 4096 ∧ (s.chan c).base + 8 * (s.chan c).pc + 8 ≤ progLimit c ∧
    (s.dmaInstr c).1.any TWord.poison = false ∧ i.bad = false ∧ (isSys c && i.sysBad) = false

/-- A host command ready to start (R411): the next of queue q of function fn, issued from context ctx, that its checks at fetch have passed and whose partition stands (R417). -/
abbrev HostReady (s : State) (fn q op ctx : Nat) (c : Cmd) : Prop :=
  s.nextCmd fn q op = some c ∧ ((s.hif.fn fn).sq q).map Sq.ctx = some ctx ∧ c.checked = .done ∧ (s.fnGone fn = false ∨ op = 0x50 ∨ op = 0x21)

/-- The state with that command marked started. -/
def started (s : State) (fn q : Nat) (c : Cmd) : State :=
  { s with hif := s.hif.setFn fn ((s.hif.fn fn).setSq q (((s.hif.fn fn).sq q).map fun x => x.start c.entry.seq)) }

/-- The command's completion with a status and its results (R409). -/
def completes (s : State) (fn q : Nat) (c : Cmd) (st : Status) (r0 r1 : Nat) : State := s.complete fn q c.entry.seq st r0 r1

end Sys2Proof
end

