-- ==== Sys2Proof/Certificates/Slice0/Obligations.lean ====
section
/-! DEFINITION. The statements for the provers. -/

namespace Sys2Proof

open Machine

/-- The vector rows: each constructor with the operation it dispatches (Table 5.4). -/
def vecRows : List ((Fin 156 → Instr) × VecOp) :=
  [(.copy, .copy), (.neg, .neg), (.abs, .abs), (.scale, .scale), (.relu, .relu), (.add, .add), (.sub, .sub), (.mul, .mul), (.max, .max), (.min, .min)] ++
  [(.axpby, .axpby), (.fma, .fma), (.exp, .exp), (.log, .log), (.rsqrt, .rsqrt), (.recip, .recip), (.sqrt, .sqrt), (.div, .div), (.gelu, .gelu), (.silu, .silu)] ++
  [(.rsum, .rsum), (.rsumsq, .rsumsq), (.rmax, .rmax), (.rmin, .rmin), (.ramax, .ramax), (.csum, .csum), (.softmax, .softmax), (.softmaxBwd, .softmaxBwd)] ++
  [(.lnorm, .lnorm), (.rmsnorm, .rmsnorm), (.lnormBwd, .lnormBwd), (.rmsnormBwd, .rmsnormBwd), (.menc1, .menc1), (.mdec1, .mdec1)] ++
  [(.menc2, .menc2), (.mdec2, .mdec2), (.optim, .optim), (.gstat, .gstat)]

/-- The tile-register rows that leave only their tile changed: each constructor with its TOP (Table 5.7). -/
def tileRegRows : List ((Fin 156 → DWord → Instr) × Nat) :=
  [(.tload, 0x1), (.tstore, 0x2), (.tfill, 0x3), (.ttrans, 0x4), (.tadd, 0x10), (.tsub, 0x11), (.tmul, 0x12), (.tfma, 0x13), (.tmax, 0x14), (.tmin, 0x15)] ++
  [(.texp, 0x20), (.tlog, 0x21), (.trsqrt, 0x22), (.trecip, 0x23), (.tmma, 0x30), (.tcmp, 0x31), (.tsig, 0x32)]

/-- The rows that move a chunk on: each constructor with its OP (Table 13.2). -/
def colRows : List ((Fin 16 → Fin 1024 → Nat → Bool → Nat → Nat → Instr) × Nat) :=
  [(.allReduce, 1), (.reduceScatter, 2), (.allGather, 3), (.broadcast, 4), (.allToAll, 5)]

/-- Records that start on a tile: their commands. -/
def startRows : List (Fin 156 → Instr) := [.nop, .loop, .mxe, .dma, .qsend, .qrecv] ++ vecRows.map Prod.fst

/-- The commands that end a record of a tile's engines and queue units. -/
def endRows : List (Fin 156 → Instr) := [.mxeComplete, .vecComplete, .qsendComplete, .qrecvComplete]

/-- Host commands that change the host interface alone, by function and queue. -/
def HostOnly (fn : Fin 17) (q : Fin 8192) (c : Instr) : Prop :=
  c ∈ [.ctxCreate fn q, .ctxDestroy fn q, .sqCreate fn q, .sqDestroy fn q, .cqCreate fn q, .cqDestroy fn q, .memFree fn q, .memMap fn q, .memUnmap fn q, .memImport fn q] ++
    [.fenceCreate fn q, .fenceDestroy fn q, .fenceImport fn q, .hostNop fn q, .hostReservedOpcode fn q, .cqInterruptTimer fn q, .fenceWaitSatisfied fn q]

/-- The invariant: the power cap is one that may be written (R472), and the memory keeps its canonical form. -/
abbrev Ok (s : State) : Prop := CapOk s ∧ Memory.wf s.hbm = true

end Sys2Proof

open Sys2Proof Sys2Proof.Machine

/-- NOP and LOOP (R46, R49, R52): dispatched, the dispatcher stands past the record or in the loop's body, WVAL is taken, the signal raised, and nothing else changes. -/
def Obligations.NopAndLoopComplete : Prop := ∀ (t : Fin 156) (s : State) (i : Issued),
  (AtRecord s t recNop i → exec (.nop t) s = .next (s.setTile t ((pastRecord (s.tile t)).signalOf i))) ∧
  (AtRecord s t recLoop i → let y := (s.tile t).takeToken (s.tile t).standing.1
    exec (.loop t) s = .next (s.setTile t ({ y with disp := y.disp.openLoop ((s.tile t).standing.1.frame y.disp.pc) }.signalOf i)))

/-- MXE and DMA records (R46, R106, R199): on a free unit the record starts at once, the matrix engine's result is in the tile, and the DMA program is fetched. -/
def Obligations.MxeAndDmaRecordsStart : Prop := ∀ (t : Fin 156) (s : State) (i : Issued),
  (AtRecord s t recMxe i → UnitFree (s.tile t) unitMxe → let r := runMxe (pastRecord (s.tile t)) (bits i.a 0 22) s.draws
    Answers (exec (.mxe t) s) fun u => (u.tile t).mem = r.mem ∧ (u.tile t).mxe = (s.tile t).mxe.afterRun r ∧ (u.tile t).disp = (pastRecord (s.tile t)).disp ∧
      InUnit u t unitMxe ⟨i, r.status, r.cycles, r.banks⟩ ∧ u.draws = s.draws + 1) ∧
  (AtRecord s t recDma i → UnitFree (s.tile t) unitDma →
    Answers (exec (.dma t) s) fun u => (u.tile t).dma = (s.tile t).dma.start (bits i.a 0 22) 0 (s.tile t).mem.spaStep ∧
      InUnit u t unitDma ⟨i, .done, 0, 0⟩ ∧ (u.tile t).disp = (pastRecord (s.tile t)).disp ∧ (u.tile t).mem = (s.tile t).mem)

/-- Every vector row (R46, R130, R133): on a free engine in stream mode the record whose descriptor holds the row's operation runs; memory, registers and the latch are as the operation leaves them. VEC_MODE, CLEARING and the discard of tile-register instructions (R141, R143): an accepted write starts CLEARING, its end puts the new mode in force with the memories cleared, and an instruction outside TILE mode sets ERR_MODE alone. -/
def Obligations.VectorRecordsAndModes : Prop :=
  (∀ e ∈ vecRows, ∀ (t : Fin 156) (s : State) (i : Issued),
    AtRecord s t recVec i → (s.tile t).streaming = true → (s.tile t).standingOp = e.2.code → UnitFree (s.tile t) unitVec →
      let r := runVec (pastRecord (s.tile t)) (bits i.a 0 22)
      Answers (exec (e.1 t) s) fun u => (u.tile t).mem = r.mem ∧ (u.tile t).vec = (s.tile t).vec.afterRun r ∧ (u.tile t).nonfin = ((s.tile t).nonfin || r.nonfin) ∧
        (u.tile t).disp = (pastRecord (s.tile t)).disp ∧ InUnit u t unitVec ⟨i, r.status, r.cycles, r.op⟩ ∧ u.hbm = s.hbm ∧ u.streams = s.streams) ∧
  (∀ (t : Fin 156) (v : DWord) (s : State), let x := s.tile t
    (s.clusterUp = true → bits v.toNat 0 2 ≤ 1 → bits v.toNat 0 2 ≠ x.vec.mode → x.modeOk = true →
      exec (.vecModeWrite t v) s = .next (s.setTile t { x with vec := { x.vec with clearing := true, modeRefused := x.vec.modeRefused && !bit v.toNat 2 } })) ∧
    (x.vec.clearing = true → x.part = none →
      exec (.vecClearComplete t) s = .next (s.setTile t { x with mem := .cleared, vec := { x.vec with tg := [], clearing := false, mode := 1 - x.vec.mode } })) ∧
    (s.clusterUp = true → x.inTileMode = false → exec (.tileInstructionDiscard t v) s = .next (s.setTile t { x with vec := { x.vec with trErrMode := true } })))

/-- MXE_COMPLETE and VEC_COMPLETE (R49, R110, R133): a record that ends DONE leaves its unit, LAST_STATUS is DONE, its signal raises its token by 1, and an empty queue starts nothing. -/
def Obligations.EngineRecordsComplete : Prop := ∀ (t : Fin 156) (s : State) (f : InFlight), (s.tile t).stage.state = .running → f.status = .done →
  (Alone (s.tile t) unitMxe f →
    Answers (exec (.mxeComplete t) s) fun u => (u.tile t).mxe = { (s.tile t).mxe with lastStatus := .done } ∧
      (u.tile t).disp = ((s.tile t).signalOf f.issued).disp ∧ (u.tile t).mem = (s.tile t).mem ∧ u.jobs = s.jobs) ∧
  (Alone (s.tile t) unitVec f →
    Answers (exec (.vecComplete t) s) fun u => (u.tile t).vec = { (s.tile t).vec with lastStatus := .done, lastOp := f.tag } ∧
      (u.tile t).disp = ((s.tile t).signalOf f.issued).disp ∧ (u.tile t).mem = (s.tile t).mem ∧ u.jobs = s.jobs)

/-- Every tile-register row (R142, Table 5.7): in TILE mode, an instruction that passes its check acts on its own tile alone; TEND also counts and interrupts the control cluster. -/
def Obligations.TileRegisterInstructionsRun : Prop := ∀ (t : Fin 156) (v : DWord) (s : State), s.clusterUp = true → (s.tile t).inTileMode = true → (TrInstr.ofBits v.toNat).check = .done →
  (∀ e ∈ tileRegRows, (TrInstr.ofBits v.toNat).top = e.2 → exec (e.1 t v) s = .next (s.setTile t (trRun (s.tile t) (TrInstr.ofBits v.toNat)))) ∧
  ((TrInstr.ofBits v.toNat).top = 0xFF → Answers (exec (.tend t v) s) fun u =>
    u.tiles = Store.set .reset s.tiles t { s.tile t with vec := { (s.tile t).vec with trLast := .done, trDone := ((s.tile t).vec.trDone + 1) % 65536 } } ∧
    u.out = .sideband sbTend .done [BitVec.ofNat 8 t] :: s.out)

/-- What TSTORE, TFILL, TTRANS and TCMP leave (Table 5.7): TSTORE stores 1,024 words at its offset and changes no register; TFILL, TTRANS and TCMP write register TD and no memory; no other register changes. -/
def Obligations.TileRegisterResults : Prop := ∀ (x : Tile) (i : TrInstr), i.td < 16 →
  (i.top = 0x2 → (trRun x i).vec.tg = x.vec.tg ∧ ∀ w, w < i.addr.2.1 / 4 ∨ i.addr.2.1 / 4 + 1024 ≤ w →
    Store.get .zero ((trRun x i).mem.loc i.addr.1) w = Store.get .zero (x.mem.loc i.addr.1) w) ∧
  (i.top = 0x3 ∨ i.top = 0x4 ∨ i.top = 0x31 → (trRun x i).mem = x.mem ∧ ∀ r e, r ≠ i.td → e < 1024 → (trRun x i).vec.tgWord r e = x.vec.tgWord r e) ∧
  (i.top = 0x4 → (trRun x i).vec.tg = Store.setMany .zero x.vec.tg (1024 * i.td) ((List.range 1024).map fun e => x.vec.tgWord i.ta (32 * (e % 32) + e / 32)))

/-- QSEND and QRECV (R51, R185, R189): a good buffer on a BOUND level queue asks for the lock; a receive whose queues are empty waits with nothing chosen. QSEND and QRECV complete (R187, R189): once the last packet is injected, or copied, the record leaves its unit DONE with its signal. -/
def Obligations.QueueRecordsStartAndComplete : Prop :=
  (∀ (t : Fin 156) (s : State) (i : Issued) (p : Nat), (s.tile t).part = some p →
    (∀ e, AtRecord s t recQsend i → UnitFree (s.tile t) unitQout → s.streams.find p (bits i.a 0 16) (bits i.a 16 3) = some e → (s.streams.entry e).state = .bound →
      ((s.tile t).checkBuf (bits i.b 0 22) false).2 = .done → let d := ((s.tile t).checkBuf (bits i.b 0 22) false).1
      Answers (exec (.qsend t) s) fun u => (u.tile t).ep = { (s.tile t).ep with tx := some ⟨e, d.off, d.len / 64, 0, 0, false, true⟩ } ∧
        u.streams = { s.streams with asking := s.streams.asking ++ [⟨e, t, d.len / 64, (s.tile t).label.toNat⟩] } ∧ InUnit u t unitQout ⟨i, .done, 0, e⟩) ∧
    (AtRecord s t recQrecv i → UnitFree (s.tile t) unitQin → s.streams.broken p (bits i.a 0 16) = false → s.streams.choose p (bits i.a 0 16) = none →
      ((s.tile t).checkBuf (bits i.b 0 22) true).2 = .done → let d := ((s.tile t).checkBuf (bits i.b 0 22) true).1
      Answers (exec (.qrecv t) s) fun u => (u.tile t).ep = { (s.tile t).ep with rx := some ⟨bits i.a 0 16, d.off, d.len, none, 0, 0⟩ } ∧
        u.streams = s.streams ∧ InUnit u t unitQin ⟨i, .done, 0, 0⟩)) ∧
  (∀ (t : Fin 156) (s : State) (f : InFlight), (s.tile t).stage.state = .running →
    (∀ tx, (s.tile t).ep.tx = some tx → tx.sent = tx.packets → Alone (s.tile t) unitQout f →
      Answers (exec (.qsendComplete t) s) fun u => (u.tile t).ep = { (s.tile t).ep with tx := none, txLast := .done } ∧ (u.tile t).disp = ((s.tile t).signalOf f.issued).disp ∧ u.streams = s.streams) ∧
    (∀ rx, (s.tile t).ep.rx = some rx → rx.chosen.isSome = true → rx.copied = rx.packets → Alone (s.tile t) unitQin f →
      Answers (exec (.qrecvComplete t) s) fun u => (u.tile t).ep = { (s.tile t).ep with rx := none, rxLast := .done } ∧ (u.tile t).disp = ((s.tile t).signalOf f.issued).disp ∧ u.streams = s.streams))

/-- Locks and credits (R185, R186): a request that finds the lock free takes it and is granted the free slots; a grant makes the sender lock and inject a packet for each credit it uses; a credit to a sender with nothing left to send is kept. PACKET_LANDING (R184, R185, R188): a clean packet on its way to a level queue that nothing reads or awaits enters the ring at TAIL, and the lock counts it. -/
def Obligations.LocksCreditsAndPackets : Prop :=
  (∀ (s : State) (i : Nat),
    (∀ r, s.streams.asking[i]? = some r → (s.streams.entry r.entry).lockValid = false → (s.streams.entry r.entry).state = .bound →
      s.streams.dropping.contains r.entry = false → s.streams.waiting = [] →
      Answers (exec (.lockRequest i) s) fun u => u.streams.entry r.entry = { s.streams.entry r.entry with lockOwner := r.producer, lockValid := true, lockRemain := r.packets } ∧
        u.streams.grants = s.streams.grants ++ [(r.entry, r.producer, (s.streams.entry r.entry).freeSlots)] ∧ u.streams.waiting = [] ∧ u.tiles = s.tiles) ∧
    (∀ e t n tx, s.streams.grants[i]? = some (e, t, n) → t < 156 → (s.tile t).ep.tx = some tx → tx.entry = e → tx.locked = false →
      Answers (exec (.lockGrant i) s) fun u => u.streams.grants = removeAt s.streams.grants i ∧
        ∃ y, (u.tile t).ep.tx = some y ∧ y.entry = e ∧ y.locked = true ∧ y.asked = false ∧ y.packets = tx.packets ∧ y.sent + y.credits = tx.sent + n) ∧
    (∀ (t : Fin 192) c tx, t.val < 156 → s.streams.credits.find? (fun c => decide (c.1 % 192 = t.val)) = some c → (s.tile t).ep.tx = some tx → tx.entry = c.1 / 192 →
      tx.locked = true → tx.sent = tx.packets →
      Answers (exec (.creditReturn t) s) fun u => (u.tile t).ep = { (s.tile t).ep with tx := some { tx with credits := tx.credits + 1 } } ∧
        u.streams = { s.streams with credits := Store.upd 0 s.streams.credits c.1 (· - 1) })) ∧
  (∀ (entry : Fin 262144) (s : State) (f : Flight) (e : SEntry),
    s.streams.flights.find? (fun f => decide (f.entry = entry.val)) = some f → s.streams.entry entry = e → e.state = .bound → e.consumer < 156 → e.head = e.tail → e.lockValid = true → 1 < e.lockRemain → (s.tile e.consumer).stage.state = .running →
    s.streams.dropping.contains entry.val = false → (s.tile e.consumer).ep.rx = none → f.packet.words.length = 16 → e.ringSize < 8 → f.packet ≠ .none → e.tail < 2 * e.slots →
      Answers (exec (.packetLanding entry .clean) s) fun u => u.streams.head entry = some f.packet ∧ (u.streams.entry entry).tail = (e.tail + 1) % (2 * e.slots) ∧
        (u.streams.entry entry).lockRemain = e.lockRemain - 1 ∧ u.streams.flights = s.streams.flights.erase f ∧ (u.tile e.consumer).ep.rxPkts = wrap64 (s.tile e.consumer).ep.rxPkts 1)

/-- Flushes and entry errors (R62, R180, R193): QUE_FLUSH outside a run names its level queues at once and in a run is DEFERRED; a flush that acts empties its ring with HEAD = TAIL and MSG_CNT 0; a notice to a tile that holds the lock ends its QSEND; an uncorrectable entry goes to ERROR and sets FATAL. -/
def Obligations.FlushesAndEntryErrors : Prop := ∀ (entry : Fin 262144) (p : Fin 16) (s : State), let e := s.streams.entry entry
  (s.clusterUp = true → (s.job e.part).run = none →
    exec (.flushEntry entry) s = .next { s with streams := { s.streams with due := s.streams.due ++ s.streams.named e.part 0 entry } } ∧
    exec (.flushStream entry) s = .next { s with streams := { s.streams with due := s.streams.due ++ s.streams.named e.part 1 entry } }) ∧
  (s.clusterUp = true → (s.job p).run = none → exec (.flushPartition p) s = .next { s with streams := { s.streams with due := s.streams.due ++ s.streams.named p 2 0 } }) ∧
  (s.streams.due.contains entry.val = true → e.state = .bound → e.lockValid = false → e.consumer < 156 → (s.tile e.consumer).ep.rx = none →
    Answers (exec (.levelQueueFlush entry) s) fun u => (u.streams.entry entry).head = e.tail ∧ (u.streams.entry entry).tail = e.tail ∧ (u.streams.entry entry).msgCnt = 0 ∧ u.streams.head entry = none) ∧
  (∀ i t, s.streams.notices[i]? = some (entry.val, t) → t < 156 → (s.tile t).ep.tx = none → s.streams.dropping.contains entry.val = true → e.lockValid = true → e.lockOwner = t →
    s.streams.flights = [] → e.state = .bound →
    Answers (exec (.flushNotice i) s) fun u => u.streams.notices = removeAt s.streams.notices i ∧ u.streams.dropping = s.streams.dropping.filter (fun x => decide (x ≠ entry.val)) ∧ u.tiles = s.tiles) ∧
  (e.state = .bound → Answers (exec (.streamEntryError entry) s) fun u => (u.streams.entry entry).state = .error ∧ u.streams.fatal = true ∧ u.streams.fatalIndex = entry.val)

/-- STEP_END, the end of a faulted run and the watchdog (R60, R63, R64): the tile enters AT_STEP_END past its record; a stopped run whose units are empty ends with outcome FAULT; every tile not at its step end takes a stage fault TIMEOUT and is HALTED. The fence, the release and the snapshot of a step (R60, R157, R159, R379): a clean fence of one module commits and the step number rises by 1; release stands every tile at record 0, RUNNING with no fault; a snapshot that is captured is COMPLETE at the step's number. -/
def Obligations.StepsEndAndBegin : Prop :=
  (∀ (t : Fin 156) (p : Fin 16) (s : State) (i : Issued) (r : Run),
    (AtRecord s t recStepEnd i → s.tileDone t = true →
      Answers (exec (.stepEnd t) s) fun u => (u.tile t).stage = { (s.tile t).stage with state := .atStepEnd } ∧ (u.tile t).disp = ((pastRecord (s.tile t)).signalOf i).disp ∧ u.hbm = s.hbm) ∧
    ((s.job p).run = some r → r.phase = .faulting → ((s.tilesOf p).all fun t => (s.tile t).quiet) = true →
      Answers (exec (.runFaultEnd p) s) fun u => (u.job p).run = none ∧ (u.job p).step = { (s.job p).step with lastOutcome := 4 }) ∧
    ((s.job p).run = some r → r.phase = .step → t.val ∈ s.tilesOf p → (s.tile t).part = some p.val → (s.tile t).stage.state = .running → (s.tile t).stage.fault = .done →
      Answers (exec (.stepWatchdogExpire p) s) fun u => (u.tile t).stage.state = .halted ∧ (u.tile t).stage.fault = .timeout ∧ (u.tile t).stage.faultUnit = (s.tile t).oldest.1 ∧
        (u.tile t).stage.faultRec = (s.tile t).oldest.2)) ∧
  (∀ (p : Fin 16) (s : State) (r : Run), (s.job p).run = some r →
    (s.fenceReached p = true → s.multi p = false → bits (s.fenceOwn p false) 0 4 = 0 →
      Answers (exec (.stepFenceResolve p) s) fun u => (u.job p).step.stepNum = ((s.job p).step.stepNum + 1) % 2 ^ 64 ∧ (u.job p).step.lastOutcome = outCommitted) ∧
    (∀ im, r.phase = .release → (s.job p).image = some im →
      Answers (exec (.stepRelease p) s) fun u => (u.job p).run = some { r with phase := .step } ∧ ∀ (l t : Nat) (d : LTileDesc), (s.job p).place[l]? = some t → im.body.ltiles[l]? = some d →
        (u.tile t).stage.state = .running ∧ (u.tile t).stage.fault = .done ∧ (u.tile t).disp.pc = 0 ∧ (u.tile t).nonfin = false) ∧
    (∀ a st, r.phase = .snapshot → s.linksQuiet p = true → s.capture p = (a, st) →
      exec (.snapshot p) s = .next (if st = .done then ((a.startCopies p).rekeySnapped p).afterSnapshot p else a.afterSnapshot p) ∧
      (st = .done → (a.snap p).area = .complete ∧ (a.snap p).epoch = (s.job p).step.stepNum)))

/-- MOVE (R203, R206, R208): a MOVE that Table 8.8 lets pass puts its line requests behind those in progress, counts its lines, and stands past itself, waiting when BAR = 1. Line requests of a channel (R206, R209, R213): a read of a local memory returns its words; a write to the scratchpad lands; a bus error or a line timeout with retries left makes the request wait for its re-issue, and the re-issue counts. -/
def Obligations.DmaMovesAndLineRequests : Prop :=
  (∀ (c : Fin 204) (s : State) (i : DmaInstr) (sd dd : AddrDesc) (ss ds : Space), AtInstr s c dmaMove i →
    i.srcDesc + 32 ≤ progLimit c → i.dstDesc + 32 ≤ progLimit c → sd = .ofBits (wordsNat ((s.progWords c i.srcDesc 8).map TWord.bits)) →
    dd = .ofBits (wordsNat ((s.progWords c i.dstDesc 8).map TWord.bits)) → Space.ofCode sd.space = some ss → Space.ofCode dd.space = some ds →
    ((s.progWords c i.srcDesc 8).any TWord.poison || (s.progWords c i.dstDesc 8).any TWord.poison) = false →
    let x := s.chan c
    let a := sd.addr (loopIter x.loops 0) (loopIter x.loops 1) (loopIter x.loops 2) (sd.stepTerm x.step)
    let b := dd.addr (loopIter x.loops 0) (loopIter x.loops 1) (loopIter x.loops 2) (dd.stepTerm x.step)
    moveStatus (s.chanEnv c) sd dd a b i.len = .done → s.sideStaging c ss a.toNat ≠ some true → s.sideStaging c ds b.toNat ≠ some true →
      Answers (exec (.move c) s) fun u => (u.chan c).reqs = x.reqs ++ moveRequests x (s.chanRec c) ⟨ss, sd.ltile, a.toNat, sd.xform, sd.ksel⟩ ⟨ds, dd.ltile, b.toNat, dd.xform, dd.ksel⟩ i.len s.draws ∧
        (u.chan c).pc = x.advance.pc ∧ (u.chan c).loops = x.advance.loops ∧ (u.chan c).phase = (if i.bar then .waitArrival else .running) ∧
        (u.chan c).rdLines = wrap64 x.rdLines (linesOf a.toNat i.len) ∧ u.hbm = s.hbm) ∧
  (∀ (c : Fin 204) (s : State) (i : Nat) (r : LineReq) (f : Fetch), (s.chan c).reqs[i]? = some r →
    (mayRead (s.chan c).reqs i = true → r.src.xform = 0 → r.src.space = .localSp → r.dst.space ≠ .localSp → r.dst.space ≠ .localStash →
      exec (.dmaReadReturn c i f) s = .next (s.setChan c { s.chan c with reqs := setAt (s.chan c).reqs i { r with data := some (s.progWords c r.src.addr r.words) } })) ∧
    (∀ ws, mayWrite (s.chan c).reqs i = true → r.data = some ws → r.dst.xform = 0 → r.dst.space = .localSp → r.ov = none → c.val < 156 → (s.chan c).phase = .running →
      Answers (exec (.dmaWriteComplete c i f) s) fun u => (u.tile c).mem.sp = Store.setMany .zero (s.tile c).mem.sp (r.dst.addr / 4) ws ∧
        (u.chan c).wrLines = wrap64 (s.chan c).wrLines (linesOf r.dst.addr (4 * ws.length)) ∧ u.hbm = s.hbm) ∧
    (r.again = false → r.retries < (s.chan c).retry → let u := s.setChan c { s.chan c with reqs := setAt (s.chan c).reqs i { r with again := true } }
      exec (.dmaBusError c i) s = .next u ∧ exec (.dmaLineTimeout c i) s = .next u) ∧
    (r.again = true → Answers (exec (.dmaRetry c i) s) fun u => (u.chan c).reqs = setAt (s.chan c).reqs i { r with again := false, retries := r.retries + 1 } ∧
      (u.chan c).retries = wrap64 (s.chan c).retries 1))

/-- LOOP, WAIT, SIGNAL and END of a DMA program (R204, R209, R210): a loop opens; a WAIT whose token holds VAL takes it; a SIGNAL after its MOVEs raises its token; END drains. -/
def Obligations.DmaControlInstructions : Prop := ∀ (c : Fin 204) (s : State) (i : DmaInstr), let x := s.chan c
  (AtInstr s c dmaLoop i → loopOk x.pc i x.loops = true →
    exec (.dmaLoop c) s = .next (s.setChan c { x with pc := x.pc + 1, loops := ⟨i.level, x.pc + 1, x.pc + 1 + i.body, 0, i.count⟩ :: x.loops })) ∧
  (AtInstr s c dmaWait i → i.val ≤ s.chanTok c i.tok → c.val < 156 →
    exec (.wait c) s = .next ((s.updTile c fun t => { t with disp := { t.disp with tokens := Store.upd 0 t.disp.tokens i.tok (· - i.val) } }).setChan c x.advance)) ∧
  (AtInstr s c dmaWait i → s.chanTok c i.tok < i.val → exec (.wait c) s = .next (s.setChan c { x with phase := .waitToken })) ∧
  (AtInstr s c dmaSignal i → drained x.reqs (s.chanRec c) = true → c.val < 156 → exec (.signal c) s = .next ((s.updTile c fun t => t.raiseToken i.tok i.amt).setChan c x.advance)) ∧
  (AtInstr s c dmaEnd i → exec (.endProgram c) s = .next (s.setChan c { x with phase := .draining, ending := some .done }))

/-- DMA programs end and system channels are commanded (R199, R209, R215, R219): completion leaves the channel IDLE with its status; START, STOP and a write of DMA_SYS_BIND act on an idle or running channel as Tables 8.10 and 8.13 say. -/
def Obligations.DmaProgramsAndSystemChannels : Prop := ∀ (n : Fin 48) (pc : Fin 4096) (v : DWord) (c : Fin 204) (s : State), let y := s.sysChan n
  (∀ st, c.val = 156 + n.val → y.chan.ending = some st → y.chan.phase = .draining → allArrived y.chan.reqs 0 = true →
    exec (.dmaProgramComplete c) s = .next (s.setSys n { y with chan := { y.chan with phase := .idle, ending := none, lastStatus := st } })) ∧
  (s.clusterUp = true → y.chan.phase = .idle → y.fw = false →
    exec (.start n pc) s = .next (s.setSys n { y with chan := { y.chan with phase := .running, pc := pc, base := 0, loops := [], step := (s.job y.part).step.stepNum, ending := none } })) ∧
  (s.clusterUp = true → y.chan.phase = .running → exec (.stop n) s = .next (s.setSys n { y with chan := { y.chan with phase := .halted, ending := some .cancelled } })) ∧
  (s.clusterUp = true → y.chan.phase = .idle → bit v.toNat 4 = true →
    exec (.dmaSysBindWrite n v) s = .next (s.setSys n { y with refused := y.refused && !bit v.toNat 5, fw := true, part := bits v.toNat 0 4, keys := [] })) ∧
  (s.clusterUp = true → y.chan.phase ≠ .idle → exec (.dmaSysBindWrite n v) s = .next (s.setSys n { y with refused := true }))

/-- DEFERRED_MAINTENANCE_RUN and STACK_RECAL_RUN (R37 action 4, R254, R375): the held request of a partition at its boundary is done and the release follows; a recalibration with no run in progress is done. -/
def Obligations.HeldMaintenanceRuns : Prop := ∀ (p : Fin 16) (k : Fin 16) (s : State) (r : Run) (m : Maint),
  ((s.job p).run = some r → r.phase = .maintenance → r.ending = none → r.cancelled = false → r.left ≠ 0 → s.maint = [m] → m.kind = mntLane → s.concerns p m = true →
    exec (.deferredMaintenanceRun p) s = .next ({ s with maint := [] }.setJob p { s.job p with run := some { r with phase := .release } })) ∧
  ((∀ q, q < 16 → (s.job q).run = none) → s.maint.any (fun m => decide (m.kind = mntRecal ∧ m.unit = k.val)) = true →
    exec (.stackRecalRun k) s = .next { s with maint := s.maint.filter fun m => !decide (m.kind = mntRecal ∧ m.unit = k.val) })

/-- HBM_READ (R240, Table 9.7): a read that the lane's checks let through, of a line that is neither poisoned nor fenced nor on a lost pseudo-channel, gives the line's words with tags clear and changes nothing. -/
def Obligations.HbmReadGivesTheLine : Prop := ∀ (o : Origin) (key : Fin 2048) (dpa : BitVec 40) (s : State) (pc slot : Nat), s.ringReady = true →
  s.hbm.checkReq s.laneKeys o key dpa.toNat o.viaBar = .done → s.hbm.placeOf dpa.toNat = some (pc, slot) → s.hbm.dead.contains pc = false → s.hbm.fenced pc slot = false →
  (s.hbm.lineAt dpa.toNat).poison = false → (s.hbm.lineAt dpa.toNat).words.length = 16 →
    exec (.hbmRead o key dpa .clean) s = .next (s.emit [.line .done ((s.hbm.lineAt dpa.toNat).words.map fun w => ⟨w, false⟩)])

/-- A refused request (R228, R229): a read or a write that a check refuses answers the check's status, gives no data and leaves every line, counter and version as it was. -/
def Obligations.RefusedLineRequestsLeaveMemory : Prop := ∀ (o : Origin) (key : Fin 2048) (dpa : BitVec 40) (data : List TWord) (f : Fetch) (s : State) (st : Status), s.ringReady = true → data.length = 16 →
  s.hbm.checkReq s.laneKeys o key dpa.toNat o.viaBar = st → st ≠ .done →
    (Answers (exec (.hbmRead o key dpa f) s) fun u => u.out = .line st [] :: s.out ∧ u.hbm.lines = s.hbm.lines ∧ u.hbm.ctrs = s.hbm.ctrs ∧ u.hbm.versions = s.hbm.versions ∧ u.tiles = s.tiles) ∧
    Answers (exec (.hbmFullWrite o key dpa data f) s) fun u => u.out = .line st [] :: s.out ∧ u.hbm.lines = s.hbm.lines ∧ u.hbm.ctrs = s.hbm.ctrs ∧ u.hbm.versions = s.hbm.versions

/-- HBM_FULL_WRITE and HBM_PARTIAL_WRITE (R241, R242) of protected memory: the enabled words replace the line's, P is 1 when one of them is poison-tagged, and every other line reads as before. -/
def Obligations.HbmWritesReplaceOneLine : Prop := ∀ (o : Origin) (key : Fin 2048) (dpa : BitVec 40) (s : State) (pc slot : Nat), s.ringReady = true → Memory.wf s.hbm = true →
  s.hbm.checkReq s.laneKeys o key dpa.toNat o.viaBar = .done → s.hbm.placeOf dpa.toNat = some (pc, slot) → s.hbm.dead.contains pc = false → s.hbm.fenced pc slot = false →
  s.hbm.writeNeed dpa.toNat = .go → (s.hbm.gran (granOf dpa.toNat)).state ≠ .staging →
    let others := fun (u : State) => ∀ a, (pageOf a ≠ pageOf dpa.toNat ∨ lineOf a ≠ lineOf dpa.toNat) → u.hbm.lineAt a = s.hbm.lineAt a
    (∀ data : List TWord, data.length = 16 → Answers (exec (.hbmFullWrite o key dpa data .clean) s) fun u =>
      u.hbm.lineAt dpa.toNat = ⟨data.map TWord.bits, data.any TWord.poison⟩ ∧ others u ∧ u.out = .line .done [] :: s.out ∧ u.tiles = s.tiles) ∧
    (∀ data : List (Option TWord), data.length = 16 → data.any Option.isSome = true → (s.hbm.lineAt dpa.toNat).poison = false → (s.hbm.lineAt dpa.toNat).words.length = 16 →
      Answers (exec (.hbmPartialWrite o key dpa data .clean) s) fun u =>
        u.hbm.lineAt dpa.toNat = ⟨mergeWords (s.hbm.lineAt dpa.toNat).words data, data.any fun w => (w.map TWord.poison).getD false⟩ ∧ others u ∧ u.out = .line .done [] :: s.out)

/-- Table 9.13: each granule command, accepted, names the granule's next state and puts its pass behind those that wait; RETIRE withdraws a granule and its MIGRATE waits. -/
def Obligations.GranuleCommands : Prop := ∀ (p : Fin 16) (g : Fin 1024) (slot : Fin 2048) (s : State), s.clusterUp = true → s.ringReady = true → g.val < 1013 →
  ((s.hbm.gran g).state = .free → Answers (exec (.carve p g slot false) s) fun u => u.hbm.gran g = ⟨.filling, p, .prot⟩ ∧ u.hbm.waiting = s.hbm.waiting ++ [⟨.fill, p, g, 0, 0⟩] ∧ u.hbm.lastStatus = .done ∧ u.hbm.lines = s.hbm.lines) ∧
  ((s.hbm.gran g).state = .free → Answers (exec (.stage p g) s) fun u => u.hbm.gran g = ⟨.filling, p, .staging⟩ ∧ u.hbm.waiting = s.hbm.waiting ++ [⟨.fill, p, g, 0, 0⟩] ∧ u.hbm.lastStatus = .done) ∧
  ((s.hbm.gran g).state = .staging → Answers (exec (.unstage g) s) fun u => u.hbm.gran g = ⟨.filling, (s.hbm.gran g).owner, .free⟩ ∧ u.hbm.waiting = s.hbm.waiting ++ [⟨.fill, (s.hbm.gran g).owner, g, 0, 0⟩]) ∧
  ((s.hbm.gran g).state = .prot → Answers (exec (.wipe g) s) fun u => u.hbm.gran g = ⟨.wiping, (s.hbm.gran g).owner, .free⟩ ∧ u.hbm.waiting = s.hbm.waiting ++ [⟨.wipe, (s.hbm.gran g).owner, g, 0, 0⟩]) ∧
  (∀ (pc : Fin 1024), s.hbm.isRetired pc = false → s.hbm.retiredCount < 32 → s.hbm.stackRetired (pc % 16) < 8 → s.hbm.retireGran = some g.val →
    Answers (exec (.retire pc) s) fun u => u.hbm.retiring = s.hbm.retiring ++ [(pc.val, g.val)] ∧ (u.hbm.gran g).state = .withdrawn ∧ u.hbm.waiting = s.hbm.waiting ++ [⟨.migrate, 0, pc, 0, 0⟩]) ∧
  (∀ (pc : Fin 1024) (b : Bool), exec (.mprTest pc b) s = .next { s with hbm := { s.hbm with lastStatus := .done } })

/-- REKEY, SESSION_REKEY and REVOKE (Table 9.13, R246, R250): the pass waits with its slot; a partition whose EPOCH is 255 is EXHAUSTED instead; a revoked partition has no valid key. -/
def Obligations.PartitionKeyCommands : Prop := ∀ (p : Fin 16) (slot : Fin 2048) (s : State), s.clusterUp = true → s.ringReady = true →
  ((s.hbm.part p).epoch < 255 → Answers (exec (.rekey p slot) s) fun u => u.hbm.waiting = s.hbm.waiting ++ [⟨.rekey, p, 0, slot, 0⟩] ∧ u.hbm.lastStatus = .done) ∧
  ((s.hbm.part p).epoch = 255 → Answers (exec (.rekey p slot) s) fun u => u.hbm.waiting = s.hbm.waiting ∧ (u.hbm.part p).exhausted = true ∧ u.hbm.lastStatus = .counterExhausted) ∧
  (Answers (exec (.mprSessionRekey p slot) s) fun u => u.hbm.waiting = s.hbm.waiting ++ [⟨.sessionRekey, p, 0, slot, 0⟩] ∧ u.hbm.lastStatus = .done) ∧
  Answers (exec (.mprRevoke p) s) fun u => (u.hbm.part p).revoked = true ∧ (u.hbm.part p).curValid = false ∧ (u.hbm.part p).nextValid = false ∧ u.hbm.lines = s.hbm.lines ∧ u.hbm.grans = s.hbm.grans

/-- Weevil's passes end (R247 to R250, R258): a waiting pass takes a context; after a FILL the granule has its next state and reads zero throughout; after a WIPE it reads zero; after a re-key CUR_SLOT is NEXT_SLOT and EPOCH has risen; after a MIGRATE the pseudo-channel is retired. The scrubber, held retirements and a pseudo-channel that stops responding (R252, R255, R258): a corrected line counts in CE; a held retirement takes the granule that is FREE now; a lost pseudo-channel is retired at once. -/
def Obligations.PassesAndRetirementsEnd : Prop :=
  (∀ (s : State) (i : Nat) (x : Pass) (g : Fin 1024) (p : Fin 16) (pc : Fin 1024),
    (∀ rest, s.hbm.waiting = x :: rest → s.hbm.mayStart x = true → s.hbm.freeCtx = some i → Answers (exec .weevilPassStart s) fun u => u.hbm.waiting = rest ∧ Store.get none u.hbm.passes i = some x) ∧
    (s.hbm.findPass (fun x => decide (x.kind = .fill) && decide (x.index = g)) = some (i, x) → (s.hbm.gran g).next = .prot → g.val < 1013 →
      Answers (exec (.fillPassEnd g) s) fun u => u.hbm.gran g = ⟨.prot, (s.hbm.gran g).owner, .prot⟩ ∧ ∀ a, granOf a = g.val → u.hbm.lineAt a = .zero) ∧
    (s.hbm.findPass (fun x => decide (x.kind = .wipe) && decide (x.index = g)) = some (i, x) → (s.hbm.part (s.hbm.gran g).owner).revoked = false →
      Answers (exec (.wipePassEnd g) s) fun u => u.hbm.grans = Store.set .free s.hbm.grans g .free ∧ ∀ a, granOf a = g.val → u.hbm.lineAt a = .zero) ∧
    (s.hbm.findPass (fun x => decide (x.part = p.val) && decide (x.kind = .rekey ∨ x.kind = .sessionRekey)) = some (i, x) → x.kind = .rekey →
      Answers (exec (.rekeyPassEnd p) s) fun u => (u.hbm.part p).curSlot = (s.hbm.part p).nextSlot ∧ (u.hbm.part p).curValid = true ∧ (u.hbm.part p).nextValid = false ∧ (u.hbm.part p).epoch = (s.hbm.part p).epoch + 1) ∧
    (∀ e, s.hbm.findPass (fun x => decide (x.kind = .migrate) && decide (x.index = pc)) = some (i, x) → s.hbm.retiring.find? (fun e => decide (e.1 = pc.val)) = some e →
      Answers (exec (.migratePassEnd pc []) s) fun u => u.hbm.retired = s.hbm.retired ++ [e] ∧ u.hbm.lines = s.hbm.lines)) ∧
  (∀ (dpa : BitVec 40) (pc : Fin 1024) (w : Nat) (s : State), s.ringReady = true →
    (∀ c slot, s.hbm.placeOf (dpa.toNat / 64 * 64) = some (c, slot) → Answers (exec (.scrubLine dpa .corrected) s) fun u => u.hbm.ce = satAdd 32 s.hbm.ce 1 ∧ u.hbm.ue = s.hbm.ue) ∧
    (∀ c rest, s.hbm.held = (c, false) :: rest → s.hbm.retireGran = some w → Answers (exec .retirementResume s) fun u => u.hbm.held = rest ∧ u.hbm.retiring = s.hbm.retiring ++ [(c, w)]) ∧
    (s.hbm.isRetired pc = false → s.hbm.retiredCount < 32 → s.hbm.stackRetired (pc % 16) < 8 → s.hbm.retireGran = some w →
      Answers (exec (.pcUnresponsive pc) s) fun u => u.hbm.retired = s.hbm.retired ++ [(pc.val, w)] ∧ u.hbm.dead.contains pc.val = false))

/-- Slot commands (R268, R271, Table 10.5): GENERATE, DERIVE and IMPORT leave a LOADED slot of the kind, owner and epoch asked for, KEM_KEYGEN and EXPORT answer their bodies, REVOKE and ZEROIZE act on the slot, and each is answered. -/
def Obligations.SlotCommandsComplete : Prop := ∀ (src slot : Fin 2048) (kind : Fin 16) (owner : Fin 32) (epoch : Fin 256) (ctx : List Byte) (w : Wrapped) (peer : PeerEvidence) (ev : BitVec 256) (s : State), s.clusterUp = true →
  let replied := fun (u : State) (body : List Byte) => u.fwm.reply = mboxReply s.fwm.request .done body ∧ u.fwm.busy = false
  (16 ≤ slot.val → kindReserved kind = false → (s.sec.slot slot).state = .free → s.sec.entropyOk = true → Answers (exec (.generate slot kind owner epoch) s) fun u =>
    (u.sec.slot slot).state = .loaded ∧ (u.sec.slot slot).kind = kind ∧ (u.sec.slot slot).owner = owner ∧ (u.sec.slot slot).epoch = (if kind.val = kindMem then epoch.val else 0) ∧ replied u []) ∧
  (∀ k st, s.sec.derive src slot kind owner epoch ctx = (k, st) → exec (.derive src slot kind owner epoch ctx) s = .next ((s.filled k owner slot st).answer st []) ∧
    (st = .done → k.slot slot = ⟨kind, .loaded, owner, if kind.val = kindMem then epoch.val else 0, s.sec.deriveMaterial src kind owner epoch ctx⟩)) ∧
  (∀ k st, s.sec.importSlot src slot kind owner epoch w = (k, st) → exec (.importKey src slot kind owner epoch w) s = .next ((s.filled k owner slot st).answer st []) ∧
    (st = .done → (k.slot slot).state = .loaded ∧ (k.slot slot).kind = kind ∧ (k.slot slot).owner = owner)) ∧
  ((s.sec.slot slot).state = .loaded → (s.sec.slot slot).kind = kindKem → Answers (exec (.kemKeygen slot) s) fun u =>
    replied u (kemPublic (BitVec.ofNat 512 (s.sec.slot slot).material)) ∧ u.sec = s.sec) ∧
  (∀ k st x, s.sec.exportSlot slot peer s.fwm.digest ev = (k, st, x) → let body := (x.map Wrapped.message).getD []
    exec (.exportSlot slot peer ev) s = .next ((({ s with sec := k }).emit [.exported st body]).answer st body) ∧ k.slots = s.sec.slots ∧ (st = .done ↔ x.isSome = true)) ∧
  ((s.sec.slot slot).state = .loaded → Answers (exec (.slotRevoke slot) s) fun u => u.sec.slot slot = { s.sec.slot slot with state := .revoked } ∧ replied u []) ∧
  (4 ≤ slot.val → (s.sec.slot slot).state ≠ .failed → Answers (exec (.zeroize slot) s) fun u => u.sec.slots = Store.set .free s.sec.slots slot .free ∧ replied u [])

/-- The mailbox, roots, entropy and slot checks (R263, R264, R270, R285, R445): a request is taken and BUSY; GEN_ROOT in MANUFACTURE blows UDR with a fresh draw; the health test's outcome stands; a swept slot fails and is counted; a finished subtree is ready. Debug authorisation and the life cycle (R276 to R279): a nonce is drawn and stands until used or expired; a certificate that passes opens its rights, closing ends them, a transition blows its fuses, and each of these resets the module warm to phase 1. -/
def Obligations.ScarabAndDebugEventsAct : Prop :=
  (∀ (slot : Fin 2048) (layer : Fin 4) (v : DWord) (req : List Byte) (s : State),
    (s.boot.past 1 = true → bit v.toNat 0 = true → s.fwm.busy = false → exec (.secMboxDb v req) s = .next { s with fwm := { s.fwm with busy := true, request := req.take 4096 } }) ∧
    (s.scarabUp = true → s.sec.fuses.state = .manufacture → s.sec.fuses.udr = 0 → s.sec.entropyOk = true →
      Answers (exec .genRoot s) fun u => u.sec = { s.sec with draws := s.sec.draws + 1, fuses := { s.sec.fuses with udr := Config.entropy s.sec.draws } } ∧ u.fwm.reply = mboxReply s.fwm.request .done []) ∧
    (s.sec.entropyOk = true → Answers (exec .entropyHealthFail s) fun u => u.sec = { s.sec with entropyOk := false } ∧ u.hbm = s.hbm) ∧
    (exec .entropyHealthRecover s = .next { s with sec := { s.sec with entropyOk := true } }) ∧
    (s.boot.past 1 = true → 16 ≤ slot.val → (s.sec.slot slot).state ≠ .failed → Answers (exec (.slotSweep slot) s) fun u =>
      u.sec.slot slot = { s.sec.slot slot with state := .failed, material := 0 } ∧ u.sec.slotFail = true ∧ u.sec.lastFailed = slot ∧ u.sec.failedCnt = s.sec.failedCnt + 1) ∧
    (s.boot.past 1 = true → exec (.subtreeBuildComplete layer) s = .next { s with sec := { s.sec with ready := setBits s.sec.ready layer 1 1 } })) ∧
  (∀ (tck : Bool) (cert : DebugCert) (target : LcState) (token : BitVec 256) (s : State), s.scrapped = false →
    (s.scarabUp = true → s.sec.entropyOk = true → Answers (exec (.debugNonce true) s) fun u => u.sec = { s.sec with draws := s.sec.draws + 1, nonce := some (Config.entropy s.sec.draws) } ∧
      u.out = .exported .done (natBytes (Config.entropy s.sec.draws).toNat 32) :: s.out) ∧
    (exec .debugNonceExpire s = .next { s with sec := { s.sec with nonce := none } }) ∧
    (s.scarabUp = true → let r := s.sec.certReason cert s.anyPart
      Answers (exec (.debugCert true cert) s) fun u => (r = 0 → u.sec.grant = true ∧ u.sec.rights = cert.rights ∧ u.boot.phase = some 1) ∧
        (r ≠ 0 → u.sec = { s.sec with nonce := none, dbgReason := r, dbgStatus := .accessDenied } ∧ u.boot = s.boot)) ∧
    (s.scarabUp = true → Answers (exec (.debugClose true) s) fun u => u.sec.grant = false ∧ u.sec.rights = 0 ∧ u.boot.phase = some 1) ∧
    (∀ k st, s.scarabUp = true → s.sec.transition target token s.anyPart = (k, st) →
      exec (.lcTransition target token true tck) s = .next (if st = .done then ({ s with sec := k }).changeState target true else ({ s with sec := k }).emit [.exported st []]) ∧
      (st = .done → k = s.sec ∧ (target ≠ .scrapped → let u := s.changeState target true
        u.sec.fuses = s.sec.fuses.blowState target ∧ u.sec.slots = [] ∧ u.boot.phase = some 1))))

/-- PART_CREATE of a joining member, PART_REMOVE and the end of a removal's drain (R289, R292, R310): the partition is OPENED with its record; it becomes CLOSING with its keys revoked; its slots are zeroized when its lanes and ports are empty. -/
def Obligations.PartitionsOpenAndClose : Prop := ∀ (fn : Fin 17) (q : Fin 8192) (ctx : Nat) (c : Cmd) (bs : List Byte) (p : Fin 16) (s : State), let a := started s fn q c
  (HostReady s fn q 0x20 ctx c → s.fwm.held = false → a.createStatus bs = .done → (PartRecord.ofBytes bs).part = p.val → (PartRecord.ofBytes bs).sessionId ≠ 0 → ((a.openPart bs).openKem p).2 = .done →
    Answers (exec (.partCreate fn q (some bs)) s) fun u => (u.part p).sess = .opened ∧ (u.part p).record = bs ∧ (u.part p).origin = false ∧ (u.part p).lastStatus = .done) ∧
  (HostReady s fn q 0x21 ctx c → p.val = (if fn.val = 0 then c.entry.p0 % 16 else fnPart fn) → (s.part p).live = true → (s.part p).removal = none →
    Answers (exec (.partRemove fn q) s) fun u => (u.part p).sess = .closing ∧ (u.part p).rekey = none ∧ (u.hbm.part p).revoked = true ∧ (u.hbm.part p).curValid = false) ∧
  (∀ r, (s.part p).removal = some r → r.step = .drain → s.dmaBusy p = false →
    Answers (exec (.removalDrainEnd p) s) fun u => u.sec = (s.part p).slots.foldl (fun k i => k.zeroize i) s.sec)

/-- EVIDENCE, SESSION_JOIN, OWNER_IMPORT and SESSION_REKEY (R292, R294, R295, R453): the signed structure and the certificates go to the host; the session secret comes in and the memory is carved; the owner is marked imported; the re-key begins. -/
def Obligations.SessionCommandsComplete : Prop := ∀ (fn : Fin 17) (q : Fin 8192) (ctx : Nat) (c : Cmd) (bs : List Byte) (peer : PeerEvidence) (w : Wrapped) (o sid : Nat) (s : State), let a := started s fn q c
  let p := fnPart fn
  (∀ b i sig, HostReady s fn q 0x22 ctx c → evidenceFront + signatureBytes + 4 + s.fwm.cert.length ≤ c.entry.p2 → (s.part p).sess ≠ .opened →
    a.sign (fun i => Config.shake256 (a.evidenceFor p (field bs 0 32) i)) = .made b i sig →
    exec (.evidence fn q (some bs)) s = .next (completes ((b.setPart p (b.part p)).emit [.hostWrite fn c.entry.p1 (a.evidenceFor p (field bs 0 32) i ++ sig ++ natBytes s.fwm.cert.length 4 ++ s.fwm.cert)]) fn q c .done
      (evidenceFront + signatureBytes + 4 + s.fwm.cert.length) 0)) ∧
  (∀ a1 st i, HostReady s fn q 0x23 ctx c → s.sessionsAllowed = true → (s.part p).origin = false → c.entry.p0 % 64 < 36 → (s.port (c.entry.p0 % 64)).peerSerial = peer.serial → (s.part p).sessionSlot = 0 →
    a.importFor p (s.part p).kemSlot kindSession (a.joinMessage p peer w) = (a1, st, i) →
    (st ≠ .done → exec (.sessionJoin fn q peer w o sid) s = .next (a1.failOpen p (fn, q, c.entry.seq) st)) ∧
    ∀ a2, st = .done → (a1.updPart p fun y => { y with sessionSlot := i }).openMemory p = (a2, .done) → exec (.sessionJoin fn q peer w o sid) s = .next (completes a2 fn q c .done 0 0)) ∧
  (∀ a1 st, HostReady s fn q 0x24 ctx c → a.ownerImport p bs = (a1, st) → exec (.ownerImport fn q (some bs)) s = .next (completes (a1.noteSession p st) fn q c st 0 0) ∧
    (st = .done → bit (a1.part p).imported (field bs 0x638 1) = true)) ∧
  (∀ a1 st, HostReady s fn q 0x25 ctx c → (s.part p).origin = true → (s.part p).sess = .active → (s.part p).rekey = none → a.beginRekey p = (a1, st) →
    exec (.sessionRekey fn q) s = .next (completes a1 fn q c st 0 0))

/-- IMAGE_LOAD, RUN, INGEST and RELEASE (R40, R298, R305, R415): each answers the status of what it did; an image that loads makes the session ACTIVE; a RUN stands before its release for P0 steps; an ingest that ends DONE has accepted all P1 records, and a release that ends DONE has written one record for each MiB. -/
def Obligations.ImageRunIngestAndRelease : Prop := ∀ (fn : Fin 17) (q : Fin 8192) (ctx : Nat) (c : Cmd) (blk : List Byte) (body : ImageBody) (s : State), let a := started s fn q c
  let p := fnPart fn
  (∀ a1 st, HostReady s fn q 0x26 ctx c → a.imageLoad p ctx fn c.entry.p0 blk body = (a1, st) →
    exec (.imageLoad fn q (some blk) body) s = .next (completes (a1.noteSession p st) fn q c st 0 0) ∧
    (st = .done → (a1.part p).sess = .active ∧ (a1.job p).image.isSome = true ∧ (a1.job p).step.stepNum = 0 ∧ (a1.job p).run = none)) ∧
  (HostReady s fn q 0x27 ctx c → (s.job p).image.isSome = true → (s.job p).restorePending = false → (s.job p).run = none → c.entry.p0 ≠ 0 →
    Answers (exec (.run fn q) s) fun u => (u.job p).run = some ⟨(fn, q, c.entry.seq), c.entry.p0, bit c.entry.p1 0, 0, .release, none, 0xFFFF, 0, 0, false⟩ ∧ u.out = s.out) ∧
  (∀ a1 st n, HostReady s fn q 0x28 ctx c → (s.part p).sess = .armed ∨ (s.part p).sess = .active → a.ingestMany c.entry.p1 p (a.cmdMaps fn ctx c) c.entry.p0 = (a1, st, n) →
    exec (.ingest fn q) s = .next (completes a1 fn q c st n 0) ∧ (st = .done → n = c.entry.p1)) ∧
  (∀ a1 st k, HostReady s fn q 0x29 ctx c → a.release p (a.cmdMaps fn ctx c) c.entry.p0 c.entry.p1 (bits c.entry.p2 0 48) (bits c.entry.p2 48 8) (bits c.entry.p2 56 8) = (a1, st, k) →
    exec (.release fn q) s = .next (completes (a1.noteSession p st) fn q c st k 0) ∧ (st = .done → k = bits c.entry.p2 0 48 / 1048576))

/-- The start-up events (R33, R35, R36, R433): the AON rail starts phase 0; a phase whose work ends is complete; a failed one stops start-up HALTED and is reported; phase 1 runs the slot that verifies, or fails with no firmware, phase 3 marks the granules, phase 4 leaves every tile reset and the module READY; each next phase starts with its clocks. -/
def Obligations.StartUpPhasesComplete : Prop := ∀ (s : State) (work : PhaseWork) (n : Nat),
  (s.pwr.aon = false → s.pwr.reversed = false → Answers (exec .aonRailGood s) fun u => u.boot = ⟨some 0, false, none⟩ ∧ u.pwr.aon = true ∧ u.pwr.state = .standby ∧
    (u.pwr.rail 0).state = .good ∧ u.pwr.running = ((s.pwr.startClk 1).startClk 15).running) ∧
  (s.boot = ⟨some n, false, none⟩ → (n = 0 ∧ s.pwr.pwrReq = false) ∨ n = 2 → work.cause = none →
    Answers (exec (.phaseComplete work) s) fun u => u.boot = ⟨some n, true, none⟩ ∧ u.pwr = s.pwr ∧ u.hbm = s.hbm ∧ u.sec = s.sec) ∧
  (∀ c, s.boot = ⟨some n, false, none⟩ → work.cause = some c → Answers (exec (.phaseComplete work) s) fun u => u.boot = ⟨some n, false, some c⟩ ∧ u.pwr = { s.pwr with state := .halted } ∧
    ∃ o, u.out = .sideband sbStart .noResource [BitVec.ofNat 8 n, BitVec.ofNat 8 c] :: o) ∧
  (s.boot = ⟨some 1, false, none⟩ → s.pwr.good = true → s.scrapped = false → work = ⟨[], [], [], none⟩ → let c := (s.fwm.choose (s.sec.phase1 []).fuses (bit (s.sec.phase1 []).rights 4)).2
    Answers (exec (.phaseComplete work) s) fun u => u.sec = s.sec.phase1 [] ∧ u.flash = s.flash.startUp ∧ u.fwm.running = c.run ∧
      u.boot = (if c.run.isSome then ⟨some 1, true, none⟩ else ⟨some 1, false, some causeFwNone⟩)) ∧
  (s.boot = ⟨some 3, false, none⟩ → work = ⟨[], [], [], none⟩ → Answers (exec (.phaseComplete work) s) fun u => u.boot = ⟨some 3, true, none⟩ ∧ u.hbm = s.hbm.markPhase3 ∧ u.tiles = s.tiles) ∧
  (s.boot = ⟨some 4, false, none⟩ → work = ⟨[], [], [], none⟩ → Answers (exec (.phaseComplete work) s) fun u => u.boot = ⟨some 4, true, none⟩ ∧ u.tiles = [] ∧ u.streams = .reset ∧ u.sys = [] ∧
    u.links = .reset ∧ u.coll = .reset ∧ u.pwr = { s.pwr with state := .ready }) ∧
  (s.boot = ⟨some 1, true, none⟩ → exec .controlClusterRelease s = .next { s with boot := ⟨some 2, false, none⟩ }) ∧
  (s.boot = ⟨some 2, true, none⟩ → exec .phase3Start s = .next { s with boot := ⟨some 3, false, none⟩, pwr := s.pwr.startClks [7, 8, 9], hbm := .reset, pageLabels := [] }) ∧
  (s.boot = ⟨some 3, true, none⟩ → exec .phase4Start s = .next { s with boot := ⟨some 4, false, none⟩, pwr := s.pwr.startClks [3, 4, 5, 6] })

/-- Power requests, rails and the loss of the input (R461, R463, R464, R467, R475, R479): power-on starts phase 1; power-off ends in STANDBY at level 4 with cause 0x10; a rail becomes good; a faulted rail counts and shuts the module down; without VAON nothing runs, and fuses and both flashes stand. Resets and messages on the PCIe side (R277, R399, R400, R401): a warm reset runs start-up again from phase 1 with the debug grant and the AON state standing; a function's reset puts its registers at their reset values; other messages are answered. -/
def Obligations.PowerAndResetRequestsAct : Prop :=
  (∀ (s : State) (rail : Fin 13) (mv da cause expired : Nat),
    let on := fun (u : State) => u.pwr.state = .starting ∧ u.boot = ⟨some 1, false, none⟩
    let off := fun (u : State) (c : Nat) => u.pwr.state = .standby ∧ u.boot = ⟨some 0, true, none⟩ ∧ u.pwr.level = 4 ∧ u.pwr.lastCause = c ∧ u.hbm = .reset ∧ u.tiles = []
    let dead := fun (u : State) => u.boot = .reset ∧ u.pwr.aon = false ∧ u.hbm = .reset ∧ u.tiles = [] ∧ u.parts = [] ∧ u.sec.fuses = s.sec.fuses ∧ u.flash = s.flash ∧ u.fwm.slotA = s.fwm.slotA ∧ u.fwm.slotB = s.fwm.slotB
    (s.aonUp = true → s.pwr.locked = false → s.pwr.state = .standby → s.pwr.askedLevel < 4 →
      (s.pwr.pwrReq = false → Answers (exec .pwrReqRise s) fun u => on u ∧ u.pwr.pwrReq = true) ∧
      (s.pwr.aon = true → s.scrapped = false → Answers (exec .powerOn s) fun u => on u ∧ ∃ o, u.out = .sideband sbReply .done [] :: o)) ∧
    (s.aonUp = true → s.pwr.state ≠ .standby → (s.pwr.pwrReq = true → Answers (exec .pwrReqFall s) fun u => off u 0x10 ∧ u.pwr.pwrReq = false) ∧
      (s.pwr.aon = true → s.scrapped = false → Answers (exec .powerOff s) fun u => off u 0x10 ∧ ∃ o, u.out = .sideband sbReply .done [] :: o)) ∧
    ((s.pwr.rail rail).state = .ramping → Answers (exec (.railGood rail mv da) s) fun u => (u.pwr.rail rail).state = .good ∧ (u.pwr.rail rail).mv = mv % 65536 ∧ (u.pwr.rail rail).da = da % 65536 ∧ u.boot = s.boot) ∧
    (rail.val ≠ 0 → (s.pwr.rail rail).state = .good → (cause = 10 ∨ cause = 11) → s.pwr.state ≠ .standby →
      Answers (exec (.railFault rail cause expired) s) fun u => off u cause ∧ u.pwr.mainOpen = true ∧ (u.pwr.rail rail).cause = cause ∧
        (u.pwr.rail rail).faults = satAdd 8 ((s.pwr.rail rail).faults - expired) 1) ∧
    Answers (exec .moduleRemoval s) dead ∧ Answers (exec .coldReset s) dead ∧ Answers (exec .reversedPolarity s) fun (u : State) => dead u ∧ u.pwr.reversed = true) ∧
  (∀ (s : State) (vf : Fin 16) (fn : Fin 17) (tag : Nat) (req : SpdmReq) (data : List Byte),
    let warm := fun (u : State) => u.boot = ⟨some 1, false, none⟩ ∧ u.pwr.state = .starting ∧ u.parts = [] ∧ u.tiles = [] ∧ u.sec.slots = [] ∧ u.sec.grant = s.sec.grant ∧ u.sec.rights = s.sec.rights ∧
      u.sec.fuses = s.sec.fuses ∧ u.pwr.cap = s.pwr.cap ∧ u.flash = s.flash
    (s.pwr.state ≠ .standby → Answers (exec .warmReset s) warm) ∧ (s.boot.past 1 = true → Answers (exec .conventionalReset s) warm) ∧
    (s.boot.past 2 = true →
      (let k := s.killFn (vf.val + 1);
        Answers (exec (.vfFlr vf) s) fun u => u.hif = k.hif.setFn (vf.val + 1) (k.hif.fn (vf.val + 1)).resetRegs ∧ u.hbm = s.hbm ∧ u.tiles = s.tiles ∧ u.parts = s.parts) ∧
      (Answers (exec (.tdiError vf) s) fun u => (u.hif.fn (vf.val + 1)).tdiError = true ∧ u.hbm = s.hbm ∧ u.tiles = s.tiles ∧ u.parts = s.parts) ∧
      (let k := (List.range 17).foldl (fun (a : State) f => (a.killFn f).resetFn f) s;
        Answers (exec .pfFlr s) fun u => u.hif = { k.hif with vfEnable := false } ∧ u.hbm = s.hbm ∧ u.tiles = s.tiles ∧ u.parts = s.parts) ∧
      exec (.doeMessage .ideKm req data) s = .next (s.emit [.doe data]) ∧ exec (.doeMessage .tdisp req data) s = .next (s.emit [.doe data]) ∧
      (∀ u b, s.spdm req = some (u, b) → exec (.doeMessage .spdm req data) s = .next (u.emit [.doe b]))) ∧
    (∀ f : Fn, f.resetRegs = { Fn.reset with ctxs := f.ctxs, sqs := f.sqs, cqs := f.cqs, ctxGen := f.ctxGen, sqGen := f.sqGen, cqGen := f.cqGen, tdiError := f.tdiError }) ∧
    exec (.stopInterface vf) s = .next { s with hif := s.hif.setFn (vf.val + 1) { s.hif.fn (vf.val + 1) with tdiError := false } } ∧
    exec (.atsInvalidation fn tag) s = .next (s.emit [.atsDone fn tag]))

/-- Emergency triggers (R460, R461, R471, R474, R476): those that ask for level 4 end in STANDBY with their cause; a lower one raises the level at once and is shown; the level falls to what is still asked for, and level 4 is latched. -/
def Obligations.EmergencyTriggersAct : Prop := ∀ (s : State) (clk : Fin 17) (cause : Fin 13) (reading l : Nat) (rs : List (Nat × Nat)), s.pwr.aon = true →
  let off := fun (u : State) (c : Nat) => u.pwr.state = .standby ∧ u.boot = ⟨some 0, true, none⟩ ∧ u.pwr.level = 4 ∧ u.pwr.lastCause = c ∧ u.hbm = .reset
  (s.pwr.state ≠ .standby →
    (s.pwr.level < 4 → s.pwr.askedLevel < 4 → (Answers (exec .inputOvervoltage s) fun u => off u 7 ∧ u.pwr.mainOpen = true) ∧ (Answers (exec .inputUndervoltage s) fun u => off u 6 ∧ u.pwr.mainOpen = true) ∧
      Answers (exec .leakNAssert s) fun u => off u 5) ∧
    (Answers (exec .inputOvercurrent s) fun u => off u 8 ∧ u.pwr.mainOpen = true) ∧
    (s.pwr.tripArmed = true → Answers (exec .hardwareThermalTrip s) fun u => off u 0x0E ∧ u.pwr.tripArmed = false ∧ u.pwr.thermtrip = true) ∧
    (clk.val + 1 ∈ [2, 3, 4, 5, 6, 7, 8, 9, 10, 13, 14, 16, 17] → s.pwr.runs (clk.val + 1) = true → Answers (exec (.pllLockLoss clk) s) fun u => off u 0x0F ∧ u.pwr.lastLoss = clk.val + 1)) ∧
  (s.pwr.crystalFailed = false → Answers (exec .aonCrystalFail s) fun u => u.pwr = { s.pwr with crystalFailed := true, lastLoss := 1, lastCause := 0x0F } ∧ u.boot = s.boot ∧ u.hbm = s.hbm) ∧
  (levelOf cause reading 0 = l → l < 4 → s.pwr.level < l → s.pwr.askedLevel ≤ l → Answers (exec (.emergencyTrigger cause reading) s) fun u =>
    u.pwr.level = l ∧ u.pwr.cause = cause ∧ u.pwr.lastCause = cause ∧ u.pwr.state = s.pwr.state ∧ u.boot = s.boot) ∧
  (s.pwr.level < 2 → s.pwr.askedLevel ≤ 2 → Answers (exec .pwrBrakeNAssert s) fun u => u.pwr.level = 2 ∧ u.pwr.cause = 9 ∧ u.pwr.state = s.pwr.state ∧ u.boot = s.boot) ∧
  (s.fwm.held = false → (s.pwr.level < 4 → (s.pwr.relax rs).askedLevel < s.pwr.level → Answers (exec (.emergencyLevelFall rs) s) fun u => u.pwr.level = (s.pwr.relax rs).askedLevel ∧ u.boot = s.boot) ∧
    (s.pwr.level = 4 → Answers (exec (.emergencyLevelFall rs) s) fun u => u.pwr.level = 4 ∧ u.boot = s.boot)) ∧
  exec .leakNDeassert s = .next { s with pwr := { s.pwr with asked := Store.set 0 s.pwr.asked 5 0 } } ∧
  exec .pwrBrakeNDeassert s = .next { s with pwr := { s.pwr with asked := Store.set 0 s.pwr.asked 9 0 } } ∧
  exec .thermalTripRearm s = .next { s with pwr := { s.pwr with tripArmed := true } }

/-- Clock domains and idle timers (R468, R469): an idle field's clock stops or its PLL goes off, an access wakes it; a stack enters self-refresh, and with all sixteen there the three memory domains stop; MGMT, CKPTFLASH and PCIE stop alone. The power cap (R472): SET_PWR_CAP writes a legal value and refuses any other; a sample above the cap lowers d by 1 down to 8; 50 samples in a row below 95% raise it by 1 up to the level's ceiling; any other ends the row. -/
def Obligations.ClocksAndPowerCapAct : Prop :=
  (∀ (s : State) (f : Fin 3) (stack : Fin 16),
    (s.pwr.gateUs ≠ 0 → s.pwr.runs (3 + f.val) = true → s.fieldIdle f = true → Answers (exec (.coreGateTimer f) s) fun u =>
      u.pwr.coreStop = Store.set 0 s.pwr.coreStop f 1 ∧ u.pwr.state = s.pwr.state ∧ u.tiles = s.tiles) ∧
    (s.pwr.pllMs ≠ 0 → s.boot.past 3 = true → Store.get 0 s.pwr.coreStop f ≠ 2 → s.fieldIdle f = true → Answers (exec (.corePllOffTimer f) s) fun u =>
      u.pwr.coreStop = Store.set 0 s.pwr.coreStop f 2 ∧ u.pwr.state = s.pwr.state ∧ u.tiles = s.tiles) ∧
    (∀ clk : Fin 17, clk.val = f.val + 2 → s.mayWake (clk.val + 1) = true → s.pwr.runs (clk.val + 1) = false →
      exec (.clockWakeComplete clk) s = .next { s with pwr := { s.pwr with running := (s.pwr.startClk (clk.val + 1)).running, coreStop := Store.set 0 s.pwr.coreStop f 0 } }) ∧
    (s.pwr.srUs ≠ 0 → s.boot.past 3 = true → bit s.pwr.selfRefresh stack = false →
      let sr := setBits s.pwr.selfRefresh stack 1 1
      (sr ≠ 65535 → exec (.hbmSelfRefreshTimer stack) s = .next { s with pwr := { s.pwr with selfRefresh := sr } }) ∧
      (sr = 65535 → exec (.hbmSelfRefreshTimer stack) s = .next { s with pwr := { s.pwr with selfRefresh := sr, running := (((s.pwr.stopClk 7).stopClk 8).stopClk 9).running } })) ∧
    (s.pwr.aon = true → s.pwr.state = .standby → exec .mgmtIdleTimer s = .next { s with pwr := s.pwr.stopClk 15 }) ∧
    exec .ckptflashIdleTimer s = .next { s with pwr := s.pwr.stopClk 17 } ∧ exec .pcieL1Entry s = .next { s with pwr := s.pwr.stopClk 12 }) ∧
  (∀ (s : State) (w : BitVec 16) (x : Nat),
    (s.aonUp = true → s.scrapped = false →
      (capLegal w.toNat = true → exec (.setPwrCap w) s = .next (({ s with pwr := { s.pwr with cap := w.toNat } }).emit [.sideband sbReply .done [0]])) ∧
      (capLegal w.toNat = false → Answers (exec (.setPwrCap w) s) fun u => u.pwr = s.pwr ∧ u.out = .sideband sbReply .done [pldmInvalidData] :: s.out)) ∧
    (s.pwr.aon = true → s.pwr.state ≠ .standby → x < 65536 →
      (s.pwr.cap < x → exec (.capControlSample x) s = .next { s with pwr := { s.pwr with inW := x, duty := Nat.max 8 (s.pwr.duty - 1), below := 0 } }) ∧
      (x ≤ s.pwr.cap → x * 100 < s.pwr.cap * 95 → s.pwr.below < 49 → exec (.capControlSample x) s = .next { s with pwr := { s.pwr with inW := x, below := s.pwr.below + 1 } }) ∧
      (x ≤ s.pwr.cap → x * 100 < s.pwr.cap * 95 → s.pwr.below = 49 → s.pwr.duty < dutyCeiling s.pwr.level →
        exec (.capControlSample x) s = .next { s with pwr := { s.pwr with inW := x, below := 0, duty := s.pwr.duty + 1 } }) ∧
      (x ≤ s.pwr.cap → s.pwr.cap * 95 ≤ x * 100 → exec (.capControlSample x) s = .next { s with pwr := { s.pwr with inW := x, below := 0 } })) ∧
    (s.pwr.aon = true → exec .pwrEmergRead s = .next (({ s with pwr := { s.pwr with peak := 0 } }).emit [.readData s.pwr.emergWord])))

/-- LNK_CMD (R316, R317, R319, R323 to R325): TRAIN leaves OFF, DISABLE and RETRAIN leave UP, ACCEPT_REMAP takes the peer found into the map, SWAP asks for the spare; TOPO_LOAD puts a well formed map in force. Here the control cluster writes the command of its own accord, or the host's TOPO_LOAD is ready. -/
def Obligations.PortCommandsAct : Prop := ∀ (k : Fin 36) (wave : Fin 5) (rx : Bool) (fn : Fin 17) (q : Fin 8192) (ctx : Nat) (c : Cmd) (bs : List Byte) (s : State), let x := s.port k
  (s.ready = true → s.clusterUp = true →
    (s.portAsk k 1 0 0 = none → s.roleOf k ≠ 0 → x.state = .off → Answers (exec (.train k) s) fun u => u.port k = x.train.anew ∧ u.streams = s.streams ∧ u.sec = s.sec) ∧
    (s.portAsk k 2 0 0 = none → x.state = .up → x.version ≠ 0 → Answers (exec (.disable k) s) fun u => (u.port k).state = .off ∧ (u.port k).before = none) ∧
    (s.portAsk k 3 0 0 = none → x.state = .up → Answers (exec (.retrain k) s) fun u => (u.port k).state = (if s.links.retrainLimit < x.inSecond + 1 then .failed else .retrain) ∧ (u.port k).retrains = satAdd 8 x.retrains 1) ∧
    (s.portAsk k 4 0 0 = none → x.state = .miswired → x.parts.all (fun p => (s.job p).run.isNone) = true → Answers (exec (.acceptRemap k) s) fun u => (u.port k).state = .up ∧
      u.links.map = Store.set .unused s.links.map k { Store.get MapEntry.unused s.links.map k with peerPort := x.peerPort, peerSerial := x.peerSerial }) ∧
    (s.portAsk k 5 wave (b2n rx) = none → x.state = .up → x.spare (b2n rx) ≠ noWave → x.moving (b2n rx) = false → bit (x.waves (b2n rx)) wave = true → Answers (exec (.swap k wave rx) s) fun u =>
      u.port k = { x with move := x.move ++ [⟨b2n rx, wave, false, 0⟩], lastStatus := .done } ∧ u.out = (if rx then [.swapMsg k 0 wave 0] else []) ++ s.out)) ∧
  (HostReady s fn q 0x30 ctx c → mapOk bs = true → Answers (exec (.topoLoad fn q (some bs)) s) fun u => u.links.map = mapEntries bs ∧ ((∀ n, (s.port n).state = .off) → u.links.ports = s.links.ports))

/-- Training (R319 to R325): the lock sends HELLO with a fresh nonce; a HELLO is answered with the PROOF over both; a PROOF that holds settles the port by version and map, one that fails leaves ID_FAIL; time-outs end OFF or FAILED, a loss of lock in RETRAIN. Wavelengths (R316, R317): a clean window clears the second's count; a failing one asks for the spare; the spare's lock names a frame 64 ahead; the take-over puts the failing wavelength's share on the spare and counts the swap. -/
def Obligations.PortsTrainAndMoveWavelengths : Prop :=
  (∀ (k : Fin 36) (own h : Hello) (tag : BitVec 256) (s : State), let x := s.port k
    (x.state = .training → s.sec.entropyOk = true → let n := s.sec.draw.1
      Answers (exec (.phyLock k) s) fun u => u.port k = { x with state := .ident, locked := true, sent := some (s.ownHello k n) } ∧ u.sec = s.sec.draw.2 ∧ u.out = .hello k (s.ownHello k n).bytes :: s.out) ∧
    (h.ok = true → x.sent = some own → x.got = none → x.state = .ident → exec (.hello k h) s =
      .next ((s.setPort k { x with got := some h, peerSerial := h.serial, peerPort := h.port, peerVersions := h.versions, peerFw := h.fwVersion }).emit
        [.proof k (natBytes (proofTag (s.sec.keyOf classSlot) own h) 32)])) ∧
    (x.sent = some own → x.got = some h → x.state = .ident →
      (tag.toNat = proofTag (s.sec.keyOf classSlot) h own →
        (pickVersion 7 h.versions = 0 → Answers (exec (.proof k tag) s) fun u => (u.port k).state = .versionHeld ∧ (u.port k).lastStatus = .versionUnsupported) ∧
        (pickVersion 7 h.versions ≠ 0 → mapMatches s.links.map s.sec.fuses.serial k h.serial h.port = false → Answers (exec (.proof k tag) s) fun u => (u.port k).state = .miswired ∧ (u.port k).lastStatus = .miswired) ∧
        (pickVersion 7 h.versions ≠ 0 → mapMatches s.links.map s.sec.fuses.serial k h.serial h.port = true → Answers (exec (.proof k tag) s) fun u =>
          (u.port k).state = .up ∧ (u.port k).lastStatus = .done ∧ (u.port k).version = pickVersion 7 h.versions ∧ (u.port k).peerSerial = h.serial)) ∧
      (tag.toNat ≠ proofTag (s.sec.keyOf classSlot) h own → Answers (exec (.proof k tag) s) fun u => (u.port k).state = .idFail ∧ (u.port k).lastStatus = .accessDenied)) ∧
    (x.state = .training ∨ x.state = .ident → Answers (exec (.trainTimeout k) s) fun u => (u.port k).state = .off ∧ (u.port k).lastStatus = .timeout) ∧
    (x.state = .up → Answers (exec (.lossOfLock k) s) fun u => (u.port k).state = (if s.links.retrainLimit < x.inSecond + 1 then .failed else .retrain)) ∧
    (x.state = .retrain → Answers (exec (.retrainWindowExpire k) s) fun u => (u.port k).state = .failed ∧ (u.port k).lastStatus = .timeout)) ∧
  (∀ (k : Fin 36) (wave : Fin 5) (lseq : Fin 16384) (rx : Bool) (n cw : Nat) (m : WaveMove) (s : State), let x := s.port k
    (x.state = .up → bit x.rxWaves wave = true →
      (s.links.failing 0 cw false = false → exec (.wavelengthWindow k wave 0 cw false) s = .next (s.setPort k { x with inSecond := 0 })) ∧
      (x.spare 1 ≠ noWave → x.moving 1 = false → Answers (exec (.wavelengthWindow k wave n cw true) s) fun u =>
        u.port k = { x with inSecond := 0, move := x.move ++ [⟨1, wave, false, 0⟩] } ∧ ∃ o, u.out = .swapMsg k 0 wave 0 :: o)) ∧
    (x.state = .up → x.txSpare ≠ noWave → x.moving 0 = false → bit x.txWaves wave = true → exec (.swapReq k wave) s = .next (s.setPort k { x with move := x.move ++ [⟨0, wave, false, 0⟩] })) ∧
    (x.move = [m] → m.dir = 1 → m.locked = false → exec (.spareWavelengthLock k) s =
      .next ((s.setPort k { x with move := [{ m with locked := true, boundary := (x.rxLseq + 64) % 16384 }] }).emit [.swapMsg k 1 m.wave ((x.rxLseq + 64) % 16384)])) ∧
    (x.move = [m] → m.dir = 0 → m.wave = wave.val → exec (.swapReady k wave lseq) s = .next (s.setPort k { x with move := [{ m with locked := true, boundary := lseq }] })) ∧
    (x.move = [m] → m.dir = b2n rx → m.locked = true → x.version ≠ 1 → lseqDist m.boundary (((if rx then x.rxLseq else x.txLseq) + 1) % 16384) < 8192 →
      Answers (exec (.spareTakeover k rx) s) fun u => u.port k = x.takeOver m ∧ (u.port k).move = [] ∧ (u.port k).swaps = satAdd 8 x.swaps 1 ∧
        (rx = false → (u.port k).txWaves = setBits (setBits x.txWaves m.wave 1 0) x.txSpare 1 1 ∧ (u.port k).txSpare = noWave ∧ (u.port k).rxWaves = x.rxWaves)))

/-- Frames (R327 to R334): a unit with room leaves sealed and is kept for replay; with nothing to send VC0 sends IDLE; a frame with a bad CRC is dropped with a NAK; DATA, IDLE and control frames that pass the link layer are judged, heard or counted; a KEY_READY marks its entry. Bindings (R330, R340): PORT_BIND makes the entry and queues its CONFIRM; the peer's CONFIRM completes it DONE; PORT_UNBIND clears the entry and completes. -/
def Obligations.FramesAndBindings : Prop :=
  (∀ (k : Fin 36) (vc : Fin 8) (frame bs : List Byte) (fec : Nat) (v : OutUnit) (rest : List OutUnit) (y : Port) (pkid : Fin 17) (kg : Fin 2) (e : PkidEntry) (o : Outer) (h : Hello) (s : State),
    let x := s.port k
    let z := s.updPort k fun x => { x with fecUe := satAdd 16 x.fecUe fec }
    let type := (Outer.ofWord (field frame 0 16)).type
    x.state = .up →
    (x.mayServe vc = true → takeUnit (fun u => decide (u.vc = vc.val) && !x.holds u.pkid) x.txQ = some (v, rest) → v.ring = none → (s.setPort k { x with txQ := rest }).sealUnit k v = some (bs, y) →
      frameUnits bs.length ≤ x.credits vc → x.replayed + bs.length ≤ replayBytes → Answers (exec (.frameTransmit k vc) s) fun u => u.out = .fibre k bs :: s.out ∧
        (u.port k).replay = y.replay ++ [⟨y.txLseq, v.pkid, bs, 1⟩] ∧ (u.port k).txQ = y.txQ ∧ u.streams = s.streams) ∧
    (∀ u, x.mayServe vc = true → s.sendOne k vc = some u → exec (.frameTransmit k vc) s = .next u) ∧
    (x.txQ = [] → exec (.frameTransmit k 0) s = .next (s.sendIdle k)) ∧
    (crcOk frame = false → exec (.dataFrameReceive k frame fec) s = .next (z.updPort k fun x => { x with nak := true }) ∧ exec (.idleFrame k frame) s = .next (s.updPort k fun x => { x with nak := true })) ∧
    (∀ u, crcOk frame = true → type = 1 → z.linkLayer k frame = (u, some o) → o.type = 1 → exec (.dataFrameReceive k frame fec) s = .next (u.judgeData k o frame)) ∧
    (∀ u, crcOk frame = true → type = 1 → z.linkLayer k frame = (u, none) → exec (.dataFrameReceive k frame fec) s = .next u) ∧
    (∀ w, crcOk frame = true → type = 0 → s.linkLayer k frame = w → exec (.idleFrame k frame) s = .next w.1) ∧
    (∀ u, crcOk frame = true → type = 2 → s.linkLayer k frame = (u, some o) → frame.length ≠ o.frameLen → exec (.ctrlFrame k frame) s =
      .next (((u.updPort k fun y => { y with ctrlRx := y.ctrlRx + 1 }).owe k o.vc (frameUnits frame.length)).updPort k Port.countAuth)) ∧
    (∀ u, crcOk frame = true → type = 2 → s.linkLayer k frame = (u, some o) → frame.length = o.frameLen → x.got = some h →
      let passes := Config.gcmTag (s.sec.keyOf classSlot) (x.peerSerial + h.nonce.toNat <<< 64 + x.ctrlRx <<< 320) (frame.take 16) (frameCipher frame) = frameTag frame
      let w := (u.updPort k fun y => { y with ctrlRx := y.ctrlRx + 1 }).owe k o.vc (frameUnits frame.length)
      exec (.ctrlFrame k frame) s = .next (if passes then w else w.updPort k Port.countAuth)) ∧
    (x.entry pkid = some e → x.version = 3 → kg.val = 1 - e.kg → exec (.keyReady k pkid kg) s = .next ((s.setPort k (x.setEntry pkid (some e.peerReady))).rekeyPort k))) ∧
  (∀ (fn : Fin 17) (q : Fin 8192) (ctx : Nat) (c : Cmd) (k : Fin 36) (id : Nat) (e : PkidEntry) (frame : List Byte) (o : Outer) (s : State), let a := started s fn q c
    let p := bits c.entry.p0 0 4
    (HostReady s fn q 0x32 ctx c → bits c.entry.p0 4 6 = k.val → bits c.entry.p0 10 5 = id → 1 ≤ id → id ≤ 16 → (s.part p).live = true → (s.part p).sess ≠ .closing → (s.part p).sessionSlot ≠ 0 → (s.port k).state = .up →
      (s.port k).entry id = none → ∀ b slot, a.bindSlot p (s.port k).peerSerial = (b, .done, slot) →
      Answers (exec (.portBind fn q) s) fun u => (u.port k).entry id = some ⟨p, slot, 0, none, false, 0, 0, 0, [], bits c.entry.p1 0 14, (s.port k).peerSerial, bits c.entry.p1 16 15, bits c.entry.p1 32 2, false, some (fn.val, q.val, c.entry.seq)⟩ ∧
        (u.port k).txQ = (s.port k).txQ ++ [⟨0, id, ⟨FrameKind.control.code, true, true, 0, 0, 0, 0, 0⟩, [List.replicate 16 .zero], none⟩] ∧ u.sec = b.sec) ∧
    (∀ b w, (s.port k).state = .up → crcOk frame = true → (Outer.ofWord (field frame 0 16)).type = 1 → (Outer.ofWord (field frame 0 16)).seq = 0 → s.linkLayer k frame = (b, some o) →
      ((b.owe k o.vc (frameUnits frame.length)).port k).entry o.pkid = some e → e.confirmed = false → e.asker = some w →
      let a1 := b.owe k o.vc (frameUnits frame.length)
      let good := s.frameOk k e.slot o frame = true ∧ (Inner.ofWord (field (s.frameBody k e.slot o frame) 0 16)).kind = FrameKind.control.code ∧ o.len = 1
      (good → exec (.confirm k frame) s = .next (((a1.updPort k fun y => y.setEntry o.pkid (some { e with confirmed := true, asker := none })).notePort k .done).complete w.1 w.2.1 w.2.2 .done 0 0)) ∧
      (¬ good → exec (.confirm k frame) s = .next ((((a1.updPort k Port.countAuth).unbind k o.pkid).notePort k .digestMismatch).complete w.1 w.2.1 w.2.2 .digestMismatch 0 0))) ∧
    (HostReady s fn q 0x33 ctx c → bits c.entry.p0 4 6 = k.val → bits c.entry.p0 10 5 = id → 1 ≤ id → id ≤ 16 → (s.port k).entry id = some e → e.part = p → e.asker = none →
      exec (.portUnbind fn q) s = .next (completes ((a.unbind k id).notePort k .done) fn q c .done 0 0)))

/-- COL, its completion, CTRL_COLL and the tables (R344 to R347, R351, R352): a record that passes its check makes its contributor's instance with the next SEQ; a record whose instance is whole leaves DONE with its signal; a control-plane call makes its instance; RANKS_LOAD and GROUPS_LOAD put their tables in force, the latter at the boundary during a run. -/
def Obligations.CollectivesAreEntered : Prop := ∀ (t : Fin 156) (fn : Fin 17) (q : Fin 8192) (ctx : Nat) (cmd : Cmd) (bs : List Byte) (s : State) (i : Issued) (p : Nat) (g : Group),
  let c := s.coll.part p
  (AtRecord s t recCol i → (s.tile t).part = some p → (s.tile t).unit unitCol = ⟨[], []⟩ →
    let y := (pastRecord (s.tile t)).setUnit unitCol ⟨[], [i]⟩
    let ws := y.mem.spWords (bits i.a 0 22) 16
    let v := wordsNat (ws.map TWord.bits)
    let d := ColDesc.ofBits v
    let k := 256 * d.group + d.lidx
    let seq := Store.get 0 c.seqs k
    ws.any TWord.poison = false → d.check y (s.colEnv p d.group (match (s.job p).image with | some im => im.vaSize | none => 0) (s.job p).space) = .done →
    c.group d.group = some g → c.inst d.group seq false = none → s.coll.inFlight < 256 → c.faultRx = false →
    Answers (exec (.col t) s) fun u => (u.tile t).unit unitCol = ⟨[⟨i, .done, 1, d.lidx + 256 * colKey d.group seq⟩], []⟩ ∧ (u.coll.part p).seqs = Store.set 0 c.seqs k (seq + 1) ∧
      (u.coll.part p).insts = c.insts ++ [{ Inst.start d.group seq false with stats := neutralStats d.glid, entered := [⟨d.lidx, t, i.idx, v, instDigest v g.digest seq false⟩] }]) ∧
  (∀ f, (s.tile t).stage.state = .running → (s.tile t).part = some p → 0 < c.ranks → Alone (s.tile t) unitCol f → (∀ n, ((s.tile n).unit unitCol).queue = []) → s.colStatus p f = some .done →
    Answers (exec (.colRecordComplete t) s) fun u => (u.tile t).disp = ((s.tile t).signalOf f.issued).disp ∧ (u.tile t).unit unitCol = .idle ∧ (u.coll.part p).lastStatus = .done) ∧
  (fnPart fn = p →
    (let x := CpCall.ofEntry cmd.entry fn q;
      let group := bits cmd.entry.p0 8 10;
      let seq := Store.get 0 c.cpSeqs group;
      HostReady s fn q 0x36 ctx cmd → (x.op = opBarrier ∧ x.len = 0 ∧ x.root = 0) ∨ (x.op = opAllGather ∧ 0 < x.len ∧ x.len ≤ 1048576 ∧ x.root = 0) ∨ (x.op = opBroadcast ∧ 0 < x.len ∧ x.len ≤ 1048576) →
      c.groupAs group true = some g → x.root < g.ranks.length → (c.insts.filter Inst.cp).length < 4 → c.inst group seq true = none → Answers (exec (.ctrlColl fn q (some bs)) s) fun u =>
        (u.coll.part p).cpSeqs = Store.set 0 c.cpSeqs group (seq + 1) ∧ (u.coll.part p).insts = c.insts ++ [{ Inst.start group seq true with
          entered := [⟨0, 0, 0, x.word group, instDigest (x.word group) g.digest seq true⟩], ctrl := some x, bytes := bs.take x.len }]) ∧
    (let n := bits cmd.entry.p1 0 15;
      let self := bits cmd.entry.p1 16 15;
      HostReady s fn q 0x34 ctx cmd → self < n → n ≤ 16384 → (∀ r, r < n → zeroBytes bs (16 * r + 10) 6 = true) → Answers (exec (.ranksLoad fn q (some bs)) s) fun u =>
        (u.coll.part p).ranks = n ∧ (u.coll.part p).self = self ∧ ∀ r, r < n → (u.coll.part p).serial r = field bs (16 * r) 8 ∧ (u.coll.part p).pod r = field bs (16 * r + 8) 2) ∧
    (∀ gs, HostReady s fn q 0x35 ctx cmd → groupTable (bs.take cmd.entry.p1) c.ranks c.self = some gs →
      ((s.job p).run = none → exec (.groupsLoad fn q (some bs)) s = .next (completes ((started s fn q cmd).updColl p fun z => { z with groups := gs, pendingGroups := none }) fn q cmd .done 0 0)) ∧
      ((s.job p).run.isSome = true → exec (.groupsLoad fn q (some bs)) s = .next (completes ((started s fn q cmd).updColl p fun z => { z with pendingGroups := some gs }) fn q cmd .deferred 0 0))))

/-- ALL_REDUCE, REDUCE_SCATTER, ALL_GATHER, BROADCAST, ALL_TO_ALL and BARRIER (R354, R355, R364): a chunk in its turn moves on by one step, its sends leave on UP ports, its result is delivered; a BARRIER's instance is settled. Chunks arrive (R356, R357, R363): an opening part of an entered instance makes the chunk wait for its payload; a closing part whose CRC holds gives the chunk to its instance; one whose CRC fails counts and taints the epoch. -/
def Obligations.ChunksMoveOnAndArrive : Prop :=
  (∀ (p : Fin 16) (group : Fin 1024) (seq : Nat) (cp : Bool) (origin chunk : Nat) (i : Inst) (g : Group) (d : ColDesc) (s : State), let c := s.coll.part p
    s.inst p group seq cp = some i → c.groupAs group cp = some g → i.desc = some d →
    (∀ e ∈ colRows, d.op = e.2 → i.open_ g = true → d.hasChunk g origin chunk = true → i.inTurn origin chunk = true → ∀ a own fl m,
      (if (i.chunk origin chunk).stage = 0 then s.ownChunk p i d g origin chunk else (s, Status.done, (i.chunk origin chunk).data, (0 : Flags))) = (a, .done, own, fl) →
      i.stepChunk d (c.geo g) g c.self origin chunk own = some m → (m.sends.all fun x => !(s.portsTo p x.rank true).isEmpty) = true →
      let b := m.sends.foldl (fun (a : State) x => a.sendChunk p i d g x) a
      (m.write = none → exec (e.1 p group seq cp origin chunk) s =
        .next (({ b with coll := b.coll.raiseFlags (d.wire g origin chunk % 3) (fl ||| m.flags ||| 0) }).settleInst p m.inst d g)) ∧
      (∀ data b3 fl3, m.write = some data → b.landChunk p i d g data = (b3, .done, fl3) → exec (e.1 p group seq cp origin chunk) s =
        .next (({ b3 with coll := b3.coll.raiseFlags (d.wire g origin chunk % 3) (fl ||| m.flags ||| fl3) }).settleInst p { m.inst with stats := combineStats m.inst.stats data.stats } d g))) ∧
    (d.op = opBarrier → exec (.barrier p group seq cp) s = .next (s.settleInst p i d g))) ∧
  (∀ (p : Fin 16) (f : ColFrame) (x : Incoming) (i : Inst) (s : State), let c := s.coll.part p
    let h := ChunkHeader.ofBytes f.bytes
    (c.frames = [f] → c.canOpen f = true → f.lost = false → headerOk f.bytes = true → h.op ≠ 0xF3 → c.enteredInst h = some i → i.own = some h.digest → h.units ≠ 0 →
      Answers (exec (.chunkOpenReceive p) s) fun u => (u.coll.part p).incoming = c.incoming ++ [⟨f.port, f.ext, h, f.bytes.take 56, true, []⟩] ∧ (u.coll.part p).frames = [] ∧ u.tiles = s.tiles) ∧
    (c.absorb = c → c.canClose = some (x, f) → x.ok = true →
      (field f.bytes 56 8 = crc64 (x.front ++ (x.units.map twordBytes).flatten) →
        exec (.chunkCloseReceive p) s = .next (((s.updColl p CollPart.absorb).updColl p fun y => { y with frames := y.frames.erase f, incoming := y.incoming.erase x }).acceptChunk p x)) ∧
      (field f.bytes 56 8 ≠ crc64 (x.front ++ (x.units.map twordBytes).flatten) → x.header.cp = false → 0 < c.ranks → Answers (exec (.chunkCloseReceive p) s) fun u =>
        (u.coll.part p).crcFail = satAdd 16 c.crcFail 1 ∧ (u.coll.part p).taint = true)))

/-- Aborts, the census and the fence headers (R359 to R361, R364): an ABORT naming CANCELLED and the present step marks every later collective; one naming DESC_MISMATCH begins the count; the lowest rank gathers answers; the result ends the instance with its record in COL_ERR; a child's fence word is combined, the parent's is the result. -/
def Obligations.AbortsCensusAndFences : Prop := ∀ (p : Fin 16) (group : Fin 1024) (seq rank digest sr sl sd lidx major count word : Nat) (cp : Bool) (g : Group) (i : Inst) (m : Mismatch) (s : State), let c := s.coll.part p
  (∀ r, (s.job p).run = some r → r.phase = .step → (s.job p).step.stepNum = seq → Answers (exec (.abort p group seq cp .cancelled rank digest sr sl sd) s) fun u => (u.coll.part p).faultRx = true) ∧
  (c.groupAs group cp = some g → c.inst group seq cp = none → 0 < g.loc → Answers (exec (.abort p group seq cp .descMismatch rank digest sr sl sd) s) fun u =>
    (u.coll.part p).insts = c.insts ++ [{ Inst.start group seq cp with mismatch := some ⟨0, sr, sl, sd, false, []⟩ }] ∧ u.tiles = s.tiles) ∧
  (c.groupAs group cp = some g → g.ranks.headD 0 = c.self → rank ∈ g.ranks → c.inst group seq cp = some i → i.mismatch = some m → (∃ r ∈ g.ranks, r ≠ rank ∧ ∀ x ∈ m.census, x.1 ≠ r) →
    Answers (exec (.censusHeader p group seq cp rank digest lidx) s) fun u =>
      (u.coll.part p).insts = (c.setInst { i with mismatch := some { m with census := m.census.filter (fun x => decide (x.1 ≠ rank)) ++ [(rank, digest, lidx)] } }).insts ∧ u.out = s.out) ∧
  (c.inst group seq cp = some i → Answers (exec (.censusResult p group seq cp major rank lidx count) s) fun u => let v := u.coll.part p
    v.aborted = (c.aborted || !cp) ∧ v.errSeq = seq % 65536 ∧ v.errGroup = group ∧ v.errRank = rank ∧ v.errLidx = lidx ∧ v.errCount = Nat.min count 0x3FFF ∧ v.majority = major) ∧
  (c.groupAs group cp = some g → c.inst group seq cp = some i → i.mismatch = some m → m.censusSent = false → i.own.isSome = true → g.ranks.headD 0 ≠ c.self →
    let dg := if cp then i.own.getD 0 else i.localMajor
    exec (.censusTimeout p group seq cp) s = .next ((s.putInst p { i with mismatch := some { m with own := dg, censusSent := true } }).emit
      [.census (g.ranks.headD 0) group seq cp c.self dg (if m.suspectRank = c.self then m.suspectLidx else 0xFF)])) ∧
  ((treeChildren c.pod c.all c.self).contains rank = true → s.fenceReached p = false → Answers (exec (.fenceHeaderReceive p rank word) s) fun u =>
    (u.coll.part p).fence.up = c.fence.up.filter (fun u => decide (u.1 ≠ rank)) ++ [(rank, word)] ∧ u.links = s.links) ∧
  ((treeChildren c.pod c.all c.self).contains rank = false → treeParent c.pod c.all c.self = some rank → c.fence.result = none → Answers (exec (.fenceHeaderReceive p rank word) s) fun u =>
    (u.coll.part p).fence.result = some word ∧ u.tiles = s.tiles)

/-- Tiles and online maintenance (R254, R255, R373 to R375): an uncorrectable error fences its tile; the lowest spare of its field takes its place, and its logical tile when it has one; each MAINT request acts at once, or is held DEFERRED while a run uses what it names. -/
def Obligations.TilesAndMaintenance : Prop := ∀ (t : Fin 156) (fn : Fin 17) (q : Fin 8192) (ctx : Nat) (c : Cmd) (pass : Bool) (s : State), let a := started s fn q c
  let n := bits c.entry.p0 16 16
  let req := bits c.entry.p0 0 4
  (s.ready = true → bit s.res.failed t = false → Answers (exec (.tileUncorrectableError t) s) fun u => (u.tile t).stage.state = .fenced ∧ u.res.failed = setBits s.res.failed t 1 1) ∧
  (bit s.res.failed t = true → bit s.res.inService t = true →
    (∀ w, s.res.spare (t.val / 52) = some w → (s.tile t).part = none → exec (.tileReplacement t) s = .next { s with res := s.res.swapTile t w }) ∧
    (∀ w p l, s.res.spare (t.val / 52) = some w → (s.tile t).part = some p → (s.job p).run = none → (s.job p).ltileOf t = some l → Answers (exec (.tileReplacement t) s) fun u =>
      u.res.inService = (s.res.swapTile t w).inService ∧ (u.job p).place = setAt (s.job p).place l w) ∧
    (s.res.spare (t.val / 52) = none → (s.tile t).part = none → exec (.tileReplacement t) s = .next (s.noSpare t))) ∧
  (HostReady s fn q 0x47 ctx c →
    (req = 1 → n < 156 →
      (bit s.res.inService n = true → s.tileBusy n = false → exec (.tileTest fn q pass) s = .next (completes (a.testTile n pass).1 fn q c (a.testTile n pass).2 0 0)) ∧
      (bit s.res.inService n = true → s.tileBusy n = true → exec (.tileTest fn q pass) s = .next (completes { a with maint := a.maint ++ [⟨1, n, pass⟩] } fn q c .deferred 0 0)) ∧
      (bit s.res.inService n = false → bit s.res.failed n = false → exec (.tileTest fn q false) s = .next (completes (a.failTile n) fn q c .done 0 0))) ∧
    (req = 2 → n < 156 → bit s.res.inService n = true →
      (s.tileBusy n = false → exec (.tileReplace fn q) s = .next (completes (a.swapOut n).1 fn q c (a.swapOut n).2 0 0)) ∧
      (s.tileBusy n = true → exec (.tileReplace fn q) s = .next (completes { a with maint := a.maint ++ [⟨2, n, true⟩] } fn q c .deferred 0 0))) ∧
    (req = 3 → n < 1024 → exec (.pcTest fn q pass) s = .next (completes a fn q c .done 0 0)) ∧
    (req = 4 → n < 1024 → exec (.pcRetire fn q) s = .next (completes (a.retirePc n false) fn q c (a.retirePc n false).hbm.lastStatus 0 0)) ∧
    (req = 5 → n < 16 → (∀ p, p < 16 → (s.job p).run = none) → exec (.stackRecal fn q) s = .next (completes a fn q c .done 0 0)) ∧
    (req = 5 → n < 16 → (∃ p, p < 16 ∧ (s.job p).run.isSome = true) → exec (.stackRecal fn q) s = .next (completes { a with maint := a.maint ++ [⟨5, n, true⟩] } fn q c .deferred 0 0)) ∧
    (req = 6 → n < 36 → (∀ p ∈ (s.port n).parts, (s.job p).run = none) → exec (.laneCal fn q) s = .next (completes a fn q c .done 0 0)) ∧
    (req = 7 → exec (.sensorCal fn q) s = .next (completes a fn q c .done 0 0)))

/-- Snapshot areas, requests and holds, the census and the flash (R377, R378, R384 to R386, R388): SNAP_CONFIG leaves both areas EMPTY at the ranges named; a hold and a request are noted; a copy that has arrived ends; the drain puts its directory entry; the census writes its entries and answers their count; FLASH_READ writes a snapshot into staging. -/
def Obligations.SnapshotCommandsComplete : Prop := ∀ (p : Fin 16) (fn : Fin 17) (q : Fin 8192) (ctx : Nat) (c : Cmd) (bs : List Byte) (l : Layout) (s : State), let a := started s fn q c
  let n := fnPart fn
  (∀ p : Fin 16, (s.part p).live = true → exec (.snapshotRequest p) s = .next (s.updSnap p fun x => { x with reqPending := true })) ∧
  (∀ u, s.endFill p true = some u → exec (.mirrorFillCheck p) s = .next u) ∧ (∀ u, s.endFill p true = none → s.endFill p false = some u → exec (.mirrorFillCheck p) s = .next u) ∧
  (∀ x a1 recs base f, (s.snap p).flashSt = .active → s.layoutOf p = some l → (s.snap p).localCopy = some x → s.areaRecords p false (snapCount l) = (a1, .done, recs) →
    a1.flash.room a1.flash.snaps.length (recs.map List.length).sum = some (base, f) → Answers (exec (.flashDrainComplete p) s) fun u =>
      u.flash.snaps = f.snaps ++ [⟨x.session, x.serial, x.epoch, x.root, base, recordSpans base recs, true, x.stale⟩] ∧ u.flash.words = (f.put base recs.flatten).words ∧ u.snaps = (a1.updSnap p fun y => { y with flashSt := .done }).snaps) ∧
  (HostReady s fn q 0x40 ctx c → s.layoutOf n = some l → (s.snap n).free = true → c.entry.p0 % 64 = 0 → c.entry.p2 % 64 = 0 → a.allStaging n (a.cmdMaps fn ctx c) c.entry.p0 c.entry.p1 = true →
    (c.entry.p2 = 0 ∨ a.allStaging n (a.cmdMaps fn ctx c) c.entry.p2 c.entry.p1 = true) → (l.snap.any fun r => overlaps r.1 r.2 c.entry.p0 c.entry.p1) = false →
    (a.areaNeed n l ≤ c.entry.p1 → Answers (exec (.snapConfig fn q) s) fun u => (u.snap n).area = .empty ∧ (u.snap n).localArea = some (c.entry.p0, c.entry.p1) ∧
      (u.snap n).mirrorArea = (if c.entry.p2 = 0 then none else some (c.entry.p2, c.entry.p1)) ∧ (u.snap n).localCopy = none) ∧
    (c.entry.p1 < a.areaNeed n l → exec (.snapConfig fn q) s = .next (completes a fn q c .noResource (a.areaNeed n l) 0))) ∧
  (HostReady s fn q 0x41 ctx c → (s.snap n).localArea.isSome = true → exec (.snapHold fn q) s = .next (completes (a.updSnap n fun x => { x with hold := bit c.entry.p0 0 }) fn q c .done 0 0)) ∧
  (HostReady s fn q 0x42 ctx c → let es := (a.census n).take c.entry.p1
    exec (.census fn q) s = .next (completes (a.emit (if es.isEmpty then [] else [.hostWrite fn c.entry.p0 es.flatten])) fn q c .done es.length 0)) ∧
  (∀ x, HostReady s fn q 0x46 ctx c → s.flash.find (s.sessionId n) (field bs 8 8) (field bs 0x10 8) = some x → field bs 0 1 = 3 → BitVec.ofNat 256 (field bs 0x18 32) = x.root →
    let data := (x.read s.flash).flatten
    a.allStaging n (a.cmdMaps fn ctx c) c.entry.p1 data.length = true → let b := a.vaWrite (.sysChan n) n (a.cmdMaps fn ctx c) c.entry.p1 (cleanWords data)
    exec (.flashRead fn q (some bs)) s = .next (completes b.s fn q c b.status (if b.status = .done then data.length else 0) 0))

/-- FILL, FILL_CHECK and RESTORE (R392, R393): a fill from flash or of what the host wrote is checked whole; a fill from the mirror leaves over the fibre and runs on; a restore of the copy held that ends DONE leaves the saved step state with copy 0 live and a run allowed again. -/
def Obligations.FillsAndRestoresComplete : Prop := ∀ (fn : Fin 17) (q : Fin 8192) (ctx : Nat) (c : Cmd) (bs : List Byte) (l : Layout) (s : State), let a := started s fn q c
  let p := fnPart fn
  (∀ x, HostReady s fn q 0x43 ctx c → bits c.entry.p0 0 2 = 1 → s.flash.find (s.sessionId p) c.entry.p1 c.entry.p2 = some x → (s.snap p).free = true → (s.snap p).localArea.isSome = true →
    let r := a.fillWith p c.entry.p1 c.entry.p2 true (x.read s.flash)
    exec (.fill fn q) s = .next (completes r.1 fn q c r.2 0 0) ∧ (r.2 = .done → (r.1.snap p).area = .complete ∧ (r.1.snap p).epoch = c.entry.p2)) ∧
  (∀ b, HostReady s fn q 0x43 ctx c → bits c.entry.p0 0 2 = 0 → a.fillOut p c.entry.p1 c.entry.p2 (bits c.entry.p0 16 16) (fn, q, c.entry.seq) = (b, .running) → exec (.fill fn q) s = .next b) ∧
  (∀ a1 recs, HostReady s fn q 0x44 ctx c → s.layoutOf p = some l → (s.snap p).free = true → (s.snap p).localArea.isSome = true → a.areaRecords p false (snapCount l) = (a1, .done, recs) →
    let r := a1.fillWith p c.entry.p1 c.entry.p2 false recs
    exec (.fillCheck fn q) s = .next (completes r.1 fn q c r.2 0 0)) ∧
  (∀ x, HostReady s fn q 0x45 ctx c → (s.part p).sess = .active → (s.job p).run = none → (s.snap p).area = .complete → (s.snap p).localCopy = some x → x.serial = c.entry.p1 → x.epoch = c.entry.p2 →
    x.root = BitVec.ofNat 256 (field bs 0 32) →
    let r := a.restoreFrom p c.entry.p1 c.entry.p2 x.root
    exec (.restore fn q (some bs)) s = .next (completes (r.1.updSnap p fun y => { y with lastStatus := r.2 }) fn q c r.2 0 0) ∧
      (r.2 = .done → (r.1.job p).restorePending = false ∧ (r.1.job p).step.live = 0 ∧ (r.1.snap p).area = .complete))

/-- Functions, doorbells, interrupts and fence waits (R404, R405, R407, R410 to R412, R419, R425): ENABLE starts the admin queues or refuses the version; a tail doorbell fetches its entries in ring order, each accepted SEQ once; a head doorbell releases slots; an index out of range sets DB_ERR; the timer raises the vector; a reached fence lets its waits start. -/
def Obligations.FunctionsAndDoorbells : Prop := ∀ (fn : Fin 17) (q : Fin 8192) (n : BitVec 32) (es : List (List Byte)) (s : State), let f := s.hif.fn fn
  (s.clusterUp = true → f.enable = false → f.tdiError = false → (f.drvMajor = 1 → f.bare = true → Answers (exec (.hifEnable fn) s) fun u => let g := u.hif.fn fn
      g.enable = true ∧ g.ready = true ∧ g.enStatus = .done ∧ g.actMajor = 1 ∧ g.actMinor = Nat.min 1 f.drvMinor ∧ g.ctx 0 = some .fresh ∧ g.sq 0 = some ⟨0, 0, f.asqBase, f.asqLog2, 0, 0, [], [], none⟩ ∧
      g.cq 0 = some ⟨0, f.acqBase, f.acqLog2, f.avector, 1, 0, true, 0, 0, [], 0⟩) ∧
    (f.drvMajor ≠ 1 → Answers (exec (.hifEnable fn) s) fun u => (u.hif.fn fn).enStatus = .versionUnsupported ∧ (u.hif.fn fn).ready = false)) ∧
  (s.clusterUp = true → f.enable = true → let k := s.killFn fn
    exec (.hifDisable fn) s = .next { k with hif := k.hif.setFn fn { k.hif.fn fn with enable := false, ready := false, actMajor := 0, actMinor := 0, startDue := false } }) ∧
  (∀ x d, s.clusterUp = true → f.tdiError = false → f.sq q = some x → f.ctx x.ctx = some d → d.dying = false →
    (2 ^ x.log2 ≤ n.toNat → Answers (exec (.sqTailDoorbell fn q n es) s) fun u => (u.hif.fn fn).dbErr = true ∧ u.out = s.out) ∧
    (n.toNat < 2 ^ x.log2 → es.length = (n.toNat + 2 ^ x.log2 - x.head) % 2 ^ x.log2 → exec (.sqTailDoorbell fn q n es) s =
      .next (es.foldl (fun (a : State) e => a.settleHif (a.hif.fetch fn q (a.fnGone fn) (.ofBytes e))) s)) ∧
    (∀ e : SubEntry, ((x.window.find? fun w => decide (w.1 = e.seq)) = none) → (x.maxSeq < e.seq ∨ x.window = []) → s.hif.fetch fn q (s.fnGone fn) e =
      (s.hif.setFn fn (f.setSq q (some { x with head := (x.head + 1) % 2 ^ x.log2, maxSeq := e.seq, window := ((e.seq, none) :: x.window).take 1024, cmds := x.cmds ++ [⟨e, (s.hif.check fn x.ctx (s.fnGone fn) e).1, (s.hif.check fn x.ctx (s.fnGone fn) e).2, !e.waitEn, false, s.hif.rangeMaps fn x.ctx e⟩] })), []))) ∧
  (∀ x d, s.clusterUp = true → f.tdiError = false → f.cq q = some x → f.ctx x.ctx = some d → d.dying = false →
    (2 ^ x.log2 ≤ n.toNat → Answers (exec (.cqHeadDoorbell fn q n) s) fun u => (u.hif.fn fn).dbErr = true ∧ u.out = s.out) ∧
    (n.toNat < 2 ^ x.log2 → x.waiting = [] → exec (.cqHeadDoorbell fn q n) s = .next { s with hif := s.hif.setFn fn (f.setCq q (some { x with hostHead := n.toNat, used := x.used - (n.toNat + 2 ^ x.log2 - x.hostHead) % 2 ^ x.log2 })) })) ∧
  (∀ x, f.cq q = some x → x.since ≠ 0 → x.vector < fnVectors fn → Answers (exec (.cqInterruptTimer fn q) s) fun u => u.out = .irq fn x.vector :: s.out ∧ (u.hif.fn fn).cq q = some { x with since := 0 }) ∧
  (∀ x, f.sq q = some x → exec (.fenceWaitSatisfied fn q) s =
    .next { s with hif := s.hif.setFn fn (f.setSq q (some { x with cmds := x.cmds.map fun c => if s.hif.reached fn c then { c with ready := true } else c })) })

/-- Contexts and queues (R413, R418, R423, R425): a create takes the lowest free index and answers its handle; a destroy or kill is noted on what its handle names and ends with its last command. -/
def Obligations.ContextsAndQueuesComplete : Prop := ∀ (fn : Fin 17) (q : Fin 8192) (ctx i : Nat) (c : Cmd) (s : State), let a := started s fn q c
  let f := a.hif.fn fn
  let put := fun (g : Fn) => { a with hif := a.hif.setFn fn g }
  let h := bits c.entry.p0 0 32
  let n := bits c.entry.p2 0 4
  (HostReady s fn q 0x01 ctx c → f.ctxs.length < a.ctxLimit fn → lowestFree f.ctxs 1 (a.ctxLimit fn) = some i →
    exec (.ctxCreate fn q) s = .next (completes (put (f.setCtx i (some .fresh))) fn q c .done (handleOf 1 (Store.get 0 f.ctxGen i) i) 0)) ∧
  (∀ x, f.ctxHandle h = some (i, x) → i ≠ 0 →
    (HostReady s fn q 0x02 ctx c → exec (.ctxDestroy fn q) s = .next ((put (f.setCtx i (some { x with destroyers := x.destroyers ++ [c.entry.seq] }))).settleFn fn)) ∧
    (HostReady s fn q 0x03 ctx c → let k := a.cancelRun fn i
      exec (.ctxKill fn q) s = .next (({ k with hif := k.hif.beginKill fn i (some c.entry.seq) }).settleFn fn))) ∧
  (∀ x k y j, HostReady s fn q 0x04 ctx c → c.entry.p1 % 4096 = 0 → 4 ≤ n → n ≤ 12 → f.ctxHandle h = some (i, x) → f.cqHandle (bits c.entry.p0 32 32) = some (k, y) → x.dying = false → y.ctx = i →
    (f.sqs.filter fun z => match z.2 with | some w => decide (w.ctx = i) | none => false).length < 8 → lowestFree f.sqs 1 (fnQueues fn) = some j →
    exec (.sqCreate fn q) s = .next (completes (put (f.setSq j (some ⟨i, k, c.entry.p1, n, 0, 0, [], [], none⟩))) fn q c .done (handleOf 2 (Store.get 0 f.sqGen j) j) j)) ∧
  (∀ x, HostReady s fn q 0x05 ctx c → f.sqHandle h = some (i, x) → i ≠ 0 → x.destroyer = none → exec (.sqDestroy fn q) s = .next ((put (f.setSq i (some { x with destroyer := some c.entry.seq }))).settleFn fn)) ∧
  (∀ x j, HostReady s fn q 0x06 ctx c → 4 ≤ n → n ≤ 12 → (bits c.entry.p2 16 16 < fnVectors fn ∨ bits c.entry.p2 16 16 = 0xFFFF) → f.ctxHandle h = some (i, x) → x.dying = false →
    (f.cqs.filter fun z => match z.2 with | some w => decide (w.ctx = i) | none => false).length < 8 → lowestFree f.cqs 1 (fnQueues fn) = some j →
    exec (.cqCreate fn q) s = .next (completes (put (f.setCq j (some ⟨i, c.entry.p1, n, bits c.entry.p2 16 16, bits c.entry.p2 32 16, 0, true, 0, 0, [], 0⟩))) fn q c .done (handleOf 3 (Store.get 0 f.cqGen j) j) j)) ∧
  (∀ x, HostReady s fn q 0x07 ctx c → f.cqHandle h = some (i, x) → i ≠ 0 → (f.sqs.any fun z => match z.2 with | some w => decide (w.cq = i) | none => false) = false →
    exec (.cqDestroy fn q) s = .next (completes (put { f with cqs := Store.set none f.cqs i none, cqGen := Store.upd 0 f.cqGen i fun v => (v + 1) % 256 }) fn q c .done 0 0))

/-- Memory objects and fences (R418 to R422): an allocation takes the lowest free run and index; a free drops the context's mappings at once; maps and unmaps change the context alone; tokens are drawn once and imported with their tag; a fence is made, dropped, exported and imported. -/
def Obligations.ObjectsAndFencesComplete : Prop := ∀ (fn : Fin 17) (q : Fin 8192) (ctx i : Nat) (c : Cmd) (s : State), let a := started s fn q c
  let o := a.hif.obj (objSpace fn)
  let e := c.entry
  let h := bits e.p0 0 32
  (∀ b, fn.val ≠ 0 → HostReady s fn q 0x08 ctx c → 1 ≤ e.p0 → e.p0 ≤ 524288 → o.freeRun (bit e.p1 0) e.p0 (512 * (a.pool (fnPart fn) (bit e.p1 0)).length) = some b → lowestFree o.mems 0 (2 ^ 20) = some i →
    let m : MemObj := ⟨bit e.p1 0, b, e.p0, none, false⟩
    o.wornPages m = [] → exec (.memAlloc fn q) s = .next (completes ((a.updObjs fn fun y => { y with mems := Store.set none y.mems i (some m), worn := o.fresh m }).updCtx fn ctx fun x => { x with mems := x.mems ++ [i] })
      fn q c .done (handleOf 4 (Store.get 0 o.memGen i) i) (if bit e.p1 0 then b * 2097152 else 0))) ∧
  (a.hif.heldMem fn ctx h = some i →
    (HostReady s fn q 0x09 ctx c → let b := a.updCtx fn ctx fun x => { x with mems := x.mems.filter (fun (m : Nat) => decide (m ≠ i)), maps := x.maps.filter fun r => decide (r.mem ≠ i) }
      (b.zombieNow fn i = false → exec (.memFree fn q) s = .next (completes b fn q c .done 0 0)) ∧
      (b.zombieNow fn i = true → exec (.memFree fn q) s = .next (completes (b.updObjs fn fun y => { y with mems := Store.set none y.mems i ((Store.get none y.mems i).map fun m => { m with zombie := true }) }) fn q c .done 0 0))) ∧
    (∀ m, HostReady s fn q 0x0A ctx c → e.p1 % 2097152 = 0 → Store.get none o.mems i = some m → bits e.p2 0 32 + bits e.p2 32 32 ≤ m.pages → e.p1 / 2097152 + bits e.p2 32 32 ≤ 2 ^ 27 → 0 < bits e.p2 32 32 →
      ((a.ctxMaps fn ctx).any fun r => overlaps (e.p1 / 2097152) (bits e.p2 32 32) r.va r.pages) = false →
      exec (.memMap fn q) s = .next (completes (a.updCtx fn ctx fun x => { x with maps := x.maps ++ [⟨e.p1 / 2097152, bits e.p2 32 32, i, bits e.p2 0 32⟩] }) fn q c .done 0 0)) ∧
    (∀ m t, HostReady s fn q 0x0C ctx c → Store.get none o.mems i = some m → m.tag = some t → exec (.memExport fn q) s = .next (completes a fn q c .done (h + t <<< 32) 0))) ∧
  (HostReady s fn q 0x0B ctx c → e.p1 % 2097152 = 0 → (rangeMems (a.ctxMaps fn ctx) e.p1 (bits e.p2 32 32 * 2097152)).isSome = true →
    exec (.memUnmap fn q) s = .next (completes (a.updCtx fn ctx fun x => { x with maps := cutMaps x.maps (e.p1 / 2097152) (bits e.p2 32 32) }) fn q c .done 0 0)) ∧
  (∀ m x, HostReady s fn q 0x0D ctx c → i = handleIndex h → Store.get none o.mems i = some m → handleKind h = 4 → Store.get 0 o.memGen i = handleGen h → m.zombie = false → m.tag = some (bits e.p0 32 32) →
    (a.hif.fn fn).ctx ctx = some x → x.mems.contains i = false → exec (.memImport fn q) s = .next (completes (a.updCtx fn ctx fun x => { x with mems := x.mems ++ [i] }) fn q c .done h 0)) ∧
  (HostReady s fn q 0x0E ctx c → e.p0 < 2 ^ 63 → e.p1 % 8 = 0 → (bits e.p2 0 16 < fnVectors fn ∨ bits e.p2 0 16 = 0xFFFF) → lowestFree o.fences 0 (2 ^ 20) = some i →
    exec (.fenceCreate fn q) s = .next (completes ((a.updObjs fn fun y => { y with fences := Store.set none y.fences i (some ⟨e.p0, false, fn, e.p1, bits e.p2 0 16, none⟩) }).updCtx fn ctx fun x => { x with fences := x.fences ++ [i] })
      fn q c .done (handleOf 5 (Store.get 0 o.fenceGen i) i) 0)) ∧
  (a.hif.heldFence fn ctx h = some i →
    (HostReady s fn q 0x0F ctx c → exec (.fenceDestroy fn q) s = .next (completes (a.updCtx fn ctx fun x => { x with fences := x.fences.filter (fun (m : Nat) => decide (m ≠ i)) }) fn q c .done 0 0)) ∧
    (∀ m, HostReady s fn q 0x10 ctx c → Store.get none o.fences i = some m → m.tag = none → let t := s.sec.draw.1.toNat % 2 ^ 32
      exec (.fenceExport fn q) s = .next (completes (({ a with sec := s.sec.draw.2 }).updObjs fn fun y => { y with fences := Store.set none y.fences i (some { m with tag := some t }) }) fn q c .done (h + t <<< 32) 0))) ∧
  (∀ m x, HostReady s fn q 0x11 ctx c → i = handleIndex h → Store.get none o.fences i = some m → handleKind h = 5 → Store.get 0 o.fenceGen i = handleGen h → m.tag = some (bits e.p0 32 32) →
    (a.hif.fn fn).ctx ctx = some x → x.fences.contains i = false → exec (.fenceImport fn q) s = .next (completes (a.updCtx fn ctx fun x => { x with fences := x.fences ++ [i] }) fn q c .done h 0))

/-- NOP, STAGE_COPY, QUERY and reserved entries (R411, R413, R427): NOP completes DONE with no effect of its own; a copy in writes staging, a copy out the host; a query answers 16 bytes for each selector; an entry found reserved at its fetch completes VERSION_UNSUPPORTED. -/
def Obligations.CopiesQueriesAndReservedEntries : Prop := ∀ (fn : Fin 17) (q : Fin 8192) (ctx : Nat) (c : Cmd) (bs : List Byte) (s : State), let a := started s fn q c
  let p := fnPart fn
  let maps := a.cmdMaps fn ctx c
  let n := bits c.entry.p2 0 48
  (HostReady s fn q 0x12 ctx c → exec (.hostNop fn q) s = .next (completes a fn q c .done 0 0)) ∧
  (HostReady s fn q 0x13 ctx c → n % 64 = 0 → c.entry.p1 % 64 = 0 → a.allStaging p maps c.entry.p1 n = true →
    (bit c.entry.p2 63 = false → let r := a.vaWrite (.sysChan p) p maps c.entry.p1 (cleanWords (bs ++ List.replicate (n - bs.length) 0) |>.take (n / 4))
      exec (.stageCopy fn q (some bs)) s = .next (completes r.s fn q c r.status 0 0)) ∧
    (bit c.entry.p2 63 = true → let r := a.vaRead (.sysChan p) p maps c.entry.p1 n
      r.status = .done → 0 < n → exec (.stageCopy fn q (some bs)) s = .next (completes (r.s.emit [.hostWrite fn c.entry.p0 (twordBytes r.words)]) fn q c .done 0 0))) ∧
  (HostReady s fn q 0x50 ctx c → 1 ≤ c.entry.p2 → c.entry.p2 ≤ 4096 → Answers (exec (.query fn q (some bs)) s) fun u => ∃ rs,
    rs.length = 16 * c.entry.p2 ∧ u = completes (a.emit [.hostWrite fn c.entry.p1 rs]) fn q c .done 0 0) ∧
  (∀ x, s.clusterUp = true → (s.hif.fn fn).sq q = some x → x.next = some c → c.checked = .versionUnsupported → exec (.hostReservedOpcode fn q) s = .next (completes a fn q c .versionUnsupported 0 0))

/-- A completion leaves (R405, R409, R410, R412, R419): a command that ends leaves its queue, its window keeps the completion, and the entry of Table 15.7 goes to the next free slot of the completion queue with its PHASE, and an interrupt when enough have been posted; a fence only rises, and every rise writes its mirror. -/
def Obligations.CompletionsArePosted : Prop := ∀ (h : Hif) (fn q : Nat) (x : Sq) (c : Cmd) (d : Ctx) (y : Cq) (st : Status) (r0 r1 p i v : Nat) (f : Fence),
  ((h.fn fn).sq q = some x → x.cmds = [c] → c.entry.sigEn = false → (h.fn fn).ctx x.ctx = some d → d.dying = false → (h.fn fn).cq x.cq = some y → y.waiting = [] → y.used < 2 ^ y.log2 →
    (h.finish fn q c.entry.seq st r0 r1).2 = .hostWrite fn (y.base + 32 * y.tail) ((Completion.mk c.entry.cmdId st false x.head c.entry.seq r0 r1).bytes y.phase) ::
        (if Nat.max 1 y.coalesce ≤ y.since + 1 ∧ y.vector < fnVectors fn then [.irq fn y.vector] else []) ∧
    ((h.finish fn q c.entry.seq st r0 r1).1.fn fn).sq q = some { x with cmds := [], window := x.window.map fun w => if w.1 = c.entry.seq then (c.entry.seq, some ⟨c.entry.cmdId, st, false, x.head, c.entry.seq, r0, r1⟩) else w }) ∧
  (Store.get none (h.obj p).fences i = some f →
    (f.abandoned = false → f.value < v → Store.get none ((h.signal p i v).1.obj p).fences i = some { f with value := v } ∧ (h.signal p i v).2 = fenceOuts { f with value := v }) ∧
    (f.abandoned = true ∨ v ≤ f.value → h.signal p i v = (h, [])))

/-- Firmware commands (R430 to R438): each acts on the inactive slot or the boot control block, answers its results, and is traced; NOW that meets no partition and a level of NORMAL ends in a warm reset; a commit raises the floor of a production image first. The log, tracing and time by command (R447, R448, R456, R458): LOG_READ writes whole entries and answers their count and the SEQ after them; TRACE_CFG and TIME_CFG write their registers; TIME_SET sets the counter on a grandmaster; TIME_READ answers it. -/
def Obligations.FirmwareLogAndTimeCommandsComplete : Prop :=
  (∀ (fn : Fin 17) (q : Fin 8192) (ctx : Nat) (c : Cmd) (bs : List Byte) (b stuck : Bool) (s : State), let a := started s fn q c
    let fw := fun (u : State) (op : Nat) (st : Status) (r0 r1 : Nat) => completes (u.trace 0x0100 noPart 0 [op, st.code]) fn q c st r0 r1
    let set := fun (f : Fwm) => { a with fwm := f }
    let off := c.entry.p1
    let n := c.entry.p2
    let image := s.fwm.image s.fwm.inactive
    (HostReady s fn q 0x60 ctx c → exec (.fwInfo fn q) s = .next (completes (a.emit [.hostWrite fn c.entry.p0 (s.fwm.info s.sec.fuses.floor)]) fn q c .done 0 0)) ∧
    (HostReady s fn q 0x61 ctx c → off % 4096 = 0 → n % 4096 = 0 → n ≤ 16777216 →
      (off + n ≤ fwSlotBytes → exec (.fwWrite fn q (some bs)) s = .next (fw (set (s.fwm.program off ((bs ++ List.replicate (n - bs.length) 0).take n))) 0x61 .done 0 0)) ∧
      (fwSlotBytes < off + n → exec (.fwWrite fn q (some bs)) s = .next (fw a 0x61 .accessDenied 0 0))) ∧
    (HostReady s fn q 0x62 ctx c → let st := (verifyImage s.sec.fuses s.fwTest image).2
      exec (.fwVerify fn q) s = .next (if st = .done then fw (set { s.fwm with verified := true }) 0x62 .done (FwHeader.ofBytes image).version (FwHeader.ofBytes image).svn else fw a 0x62 st 0 0)) ∧
    (HostReady s fn q 0x63 ctx c →
      (c.entry.p0 = 0 → s.fwm.verified = true → exec (.nextReset fn q) s = .next (fw (set (s.fwm.arm s.fwm.held)) 0x63 .done 0 0)) ∧
      (c.entry.p0 = 0 → s.fwm.verified = false → exec (.nextReset fn q) s = .next (fw a 0x63 .accessDenied 0 0)) ∧
      (c.entry.p0 = 1 → s.fwm.verified = true → s.anyPart = false → s.pwr.level = 0 → exec (.now fn q) s = .next ((fw (set (s.fwm.arm false)) 0x63 .done 0 0).warmReset)) ∧
      (c.entry.p0 = 1 → s.fwm.verified = true → s.anyPart = false → s.pwr.level ≠ 0 → exec (.now fn q) s = .next (fw (set (s.fwm.arm true)) 0x63 .deferred 0 0)) ∧
      (c.entry.p0 = 2 → s.fwm.bcb.pending.isSome = true → exec (.cancel fn q) s = .next (fw (set { s.fwm.setBcb s.fwm.bcb.active none 0 with held := false }) 0x63 .done 0 0))) ∧
    (HostReady s fn q 0x64 ctx c → s.fwm.running = some b → s.fwm.bcb.pending = some b →
      let rises := s.fwm.hdr.keysel = 0 ∧ s.sec.fuses.floor < s.fwm.hdr.svn ∧ (s.sec.fuses.state = .manufacture ∨ s.sec.fuses.state = .deployed)
      (¬ rises → exec (.fwCommit fn q stuck) s = .next (fw (set (s.fwm.setBcb b none 0)) 0x64 .done 0 0)) ∧
      (rises → let u := ({ a with sec := { s.sec with fuses := raiseFloor s.sec.fuses s.fwm.hdr.svn } }).trace 0x0101 noPart 0 [s.fwm.hdr.svn]
        exec (.fwCommit fn q false) s = .next (fw { u with fwm := u.fwm.setBcb b none 0 } 0x64 .done 0 0)))) ∧
  (∀ (fn : Fin 17) (q : Fin 8192) (ctx : Nat) (c : Cmd) (s : State), let a := started s fn q c
    (HostReady s fn q 0x65 ctx c → 1 ≤ c.entry.p2 → c.entry.p2 ≤ 65536 → let r := a.logBytes c.entry.p1 c.entry.p2
      exec (.logRead fn q) s = .next (completes (a.emit (if r.2.1 = 0 then [] else [.hostWrite fn c.entry.p0 r.1])) fn q c .done r.2.1 r.2.2) ∧ r.1.length = 64 * r.2.1 ∧ r.2.1 ≤ c.entry.p2) ∧
    (HostReady s fn q 0x66 ctx c → exec (.traceCfg fn q) s = .next (completes { a with fwm := { s.fwm with traceEn := bits c.entry.p0 0 8 } } fn q c .done 0 0)) ∧
    (HostReady s fn q 0x67 ctx c → bits c.entry.p0 16 8 ≠ 0 → Answers (exec (.timeCfg fn q) s) fun u => u.fwm.domain = bits c.entry.p0 0 7 ∧ u.fwm.ptpEn = bit c.entry.p0 7 ∧ u.fwm.gm = bit c.entry.p0 8 ∧
      u.fwm.lossS = bits c.entry.p0 16 8 ∧ u.fwm.time = s.fwm.time) ∧
    (HostReady s fn q 0x68 ctx c → s.fwm.gm = true → s.fwm.source ≠ 1 → Answers (exec (.timeSet fn q) s) fun u => u.fwm.time = c.entry.p0 % 2 ^ 64 ∧ u.fwm.slew = 0 ∧ u.fwm.timeSet = true ∧ u.fwm.source = 4) ∧
    (HostReady s fn q 0x69 ctx c → exec (.timeRead fn q) s = .next (completes a fn q c .done s.fwm.time s.fwm.timeStatusWord)))

/-- A boot control block that is written is in force (R432): its GEN exceeds both copies', its fields are those written, and one copy stands untouched. -/
def Obligations.BootControlBlockInForce : Prop := ∀ (f : Fwm) (active : Bool) (pending : Option Bool) (tries : Nat), let g := f.setBcb active pending tries
  g.bcb.active = active ∧ g.bcb.pending = pending ∧ g.bcb.tries = tries ∧ g.bcb.valid = true ∧ (f.bcb0.valid = true → f.bcb0.gen < g.bcb.gen) ∧ (f.bcb1.valid = true → f.bcb1.gen < g.bcb.gen) ∧
  (g.bcb0 = f.bcb0 ∨ g.bcb1 = f.bcb1) ∧ g.slotA = f.slotA ∧ g.slotB = f.slotB ∧ g.running = f.running

/-- The control cluster (R308, R440, R441, R443, R447): a watchdog, a lost heartbeat or a state error is one counted restart that stops every run; the oldest BAR0 write is applied to its function's registers; a second's summary is logged; a millisecond boundary is taken once. -/
def Obligations.ControlClusterEvents : Prop := ∀ (core : Fin 8) (point : Fin 4096) (utils : List (Nat × Nat × Nat)) (w : BarWrite) (rest : List BarWrite) (s : State),
  let restarted := fun (u : State) (cause : Nat) => u.fwm.restarts = satAdd 8 s.fwm.restarts 1 ∧ u.fwm.lastCause = cause ∧ ∀ p r, p < 16 → (u.job p).run = some r → r.phase = .faulting
  let f := s.hif.fn w.fn
  let v := w.value
  (s.clusterUp = true → (Answers (exec (.coreWatchdogExpire core) s) fun u => restarted u 1) ∧ (Answers (exec .heartbeatLost s) fun u => restarted u 2) ∧ Answers (exec .clusterStateError s) fun u => restarted u 3) ∧
  (s.clusterUp = true → s.fwm.writes = w :: rest →
    (w.offset = 0x10 → Answers (exec .bar0WriteApply s) fun u => u.fwm.writes = rest ∧ u.hif = s.hif.setFn w.fn { f with drvMajor := bits v 8 8, drvMinor := bits v 0 8 }) ∧
    (w.offset = 0x20 → Answers (exec .bar0WriteApply s) fun u => u.fwm.writes = rest ∧ u.hif = s.hif.setFn w.fn { f with dbErr := f.dbErr && !bit v 2 }) ∧
    (w.offset = 0x30 → Answers (exec .bar0WriteApply s) fun u => u.fwm.writes = rest ∧ u.hif = s.hif.setFn w.fn { f with asqBase := v / 4096 * 4096 }) ∧
    (w.offset = 0x38 → Answers (exec .bar0WriteApply s) fun u => u.fwm.writes = rest ∧ u.hif = s.hif.setFn w.fn { f with acqBase := v / 4096 * 4096 })) ∧
  (let r := Store.get PointRate.none s.fwm.rates point; r.second < s.fwm.time / 1000000000 → r.dropped ≠ 0 → s.ringReady = true → Answers (exec (.traceRateSummary point) s) fun u =>
    u.fwm.log.head? = some ⟨(r.second + 1) * 1000000000, s.fwm.nextSeq % 2 ^ 32, 0x0FFF, noPart, r.sev, [point.val, r.dropped]⟩ ∧ u.fwm.nextSeq = s.fwm.nextSeq + 1) ∧
  (s.fwm.boundary < s.fwm.time / 1000000 → Answers (exec (.coarsenBoundary utils) s) fun u => u.fwm = { s.fwm with boundary := s.fwm.time / 1000000 } ∧ u.tiles = s.tiles ∧ u.out = s.out)

/-- Mantis (R34, R368, R448 to R454): endpoint and address assignments are kept and answered; sensors, faults, the log and the inventory are read; SPDM is answered by its responder; in update mode a component goes into slot A, and a slot A that verifies is activated by a warm reset. -/
def Obligations.MantisAnswers : Prop := ∀ (data : List Byte) (sensor reading count off : Nat) (sec : Bool) (req : SpdmReq) (seq : BitVec 32) (addr : Fin 128) (s : State),
  s.pwr.aon = true → s.aonUp = true → s.scrapped = false →
  let said := fun (u : State) (d : List Byte) => u.emit [.sideband sbReply .done d]
  exec (.mctpControl 1 data) s = .next (said { s with fwm := { s.fwm with eid := (data.getD 1 0).toNat } } [0, 0, BitVec.ofNat 8 (data.getD 1 0).toNat, 0]) ∧
  exec (.mctpControl 2 data) s = .next (said s [0, BitVec.ofNat 8 s.fwm.eid, 0, 0]) ∧
  exec (.pldmSensorRead 2 sensor reading) s = .next (said s (0 :: natBytes sensor 2 ++ natBytes (reading / 100) 4)) ∧
  exec (.pldmSensorRead 4 sensor reading) s = .next (said s (0 :: natBytes s.sec.fuses.serial 8)) ∧
  (∀ u b, s.spdm req = some (u, b) → exec (.spdmRequest sec req) s = .next (said u b)) ∧
  exec .faultRead s = .next (said s ((s.res.aonModule ++ (s.res.shown s.ringReady).entries).map FaultEntry.bytes).flatten) ∧
  (s.boot.past 2 = true → exec (.pldmLogRead seq count) s = .next (said s (s.logBytes seq.toNat count).1)) ∧
  exec .inventory s = .next (said s (natBytes s.sec.fuses.serial 8 ++ natBytes s.sec.fuses.state.num 1 ++ natBytes s.fwm.hdr.version 4 ++ natBytes s.sec.fuses.floor 1)) ∧
  exec .setdasa s = .next (({ s with fwm := { s.fwm with i3cAddr := 0x4A } }).emit [.i3c 0x4A]) ∧ exec (.entdaa addr) s = .next (({ s with fwm := { s.fwm with i3cAddr := addr } }).emit [.i3c addr]) ∧
  (s.updateMode = true → off + data.length ≤ fwSlotBytes → exec (.fwUpdateComponent off data) s =
    .next (said { s with fwm := { s.fwm with slotA := Store.setMany erasedByte s.fwm.slotA off data, verified := s.fwm.verified && s.fwm.inactive } } [0])) ∧
  (s.updateMode = true → let st := (verifyImage s.sec.fuses s.fwTest (s.fwm.image false)).2
    exec .activateFirmware s = .next (if st = .done then (said s []).warmReset else s.reply st []))

/-- Time over the network and the pulse input (R455 to R458): a Sync from the best master makes it the source and removes its offset; delays are measured and answered; Announces choose; time-outs hold over, then free-run; a pulse that is short or far off is counted, a good one aligns. -/
def Obligations.TimeFollowsItsSource : Prop := ∀ (k : Fin 36) (origin corr received width : Nat) (data : List Byte) (cs : ClockSet) (dom : Fin 128) (an : Bool) (t1 t2 : Nat) (s : State), let f := s.fwm
  (s.ptpPort k = true → f.best = some k.val → let o : Int := (f.time : Int) - ((origin + corr : Nat) : Int) - f.meanDelay
    Answers (exec (.ptpSync k origin corr) s) fun u => u.fwm.source = 1 ∧ u.fwm.port = k ∧ u.fwm.offset = sat32 o ∧ u.fwm.lastSync = some (k.val, origin + corr, f.time) ∧
      u.fwm.slew = (if 1000000 < o.natAbs then 0 else o)) ∧
  (s.ptpPort k = true → f.best ≠ some k.val → exec (.ptpDelayReq k data) s = .next (s.emit [.ptp k 9 (natBytes f.time 8 ++ data)])) ∧
  (s.ptpPort k = true → f.best = some k.val → f.lastSync = some (k.val, t1, t2) → exec (.ptpDelayResp k received) s =
    .next { s with fwm := { f with meanDelay := (((t2 : Int) - (t1 : Int)) + ((received : Int) - ((Store.get 0 f.delayReq k : Nat) : Int))) / 2 } }) ∧
  (s.ptpPort k = true → dom.val = f.domain → let ms := Store.set none f.masters k (some cs)
    Answers (exec (.ptpAnnounce k cs dom) s) fun u => u.fwm.masters = ms ∧ u.fwm.best = bestMaster (f.ownSet s.sec.fuses.serial).key ms ∧ u.fwm.time = f.time) ∧
  (f.source = 1 → Answers (exec .announceTimeout s) fun u => u.fwm.source = 2 ∧ u.fwm.masters = [] ∧ u.fwm.best = none ∧ u.fwm.time = f.time) ∧
  (f.source = 2 → f.lastPps = none → Answers (exec .holdoverExpire s) fun u => u.fwm.source = 0 ∧ u.fwm.locked = false ∧ u.fwm.time = f.time) ∧
  (s.pwr.runs clkTime = true →
    (width < 100 ∨ 100000 < f.ppsOffset.natAbs → exec (.ppsPulse width) s = .next { s with fwm := { f with ppsBad := satAdd 16 f.ppsBad 1 } }) ∧
    (100 ≤ width → f.ppsOffset.natAbs ≤ 100000 → f.source ≠ 1 → f.source ≠ 2 → Answers (exec (.ppsPulse width) s) fun u => u.fwm.source = 3 ∧ u.fwm.lastPps = some f.mono ∧ u.fwm.slew = f.ppsOffset)) ∧
  (f.source = 3 → Answers (exec .ppsMiss s) fun u => u.fwm.source = 0 ∧ u.fwm.locked = false ∧ u.fwm.lastPps = none) ∧
  Answers (exec (.syncInterval an) s) fun u => u.hif = s.hif ∧ u.fwm.time = f.time ∧ ∀ k, k < 32 → s.ptpPort k = true → f.best ≠ some k → .ptp k 8 (natBytes f.time 8) ∈ u.out

/-- Reads with an effect (R10, R12, R183, R197, R368): the value of before leaves, and then the fields that a read clears are 0, or the parts to be read next are sampled; nothing else of their unit changes. -/
def Obligations.ReadsClearTheirFields : Prop := ∀ (t : Fin 156) (k : Fin 36) (p : Fin 16) (s : State), s.clusterUp = true →
  let read := fun (u : State) (v : Nat) => Host.Outcome.next (φ := Fault) (ρ := Refusal) (u.emit [.readData v])
  let w := (s.streams.entry s.streams.sel).word
  let b := s.res.selected s.ringReady
  exec .queStData0Read s = read { s with streams := { s.streams with data0 := bits w 0 64, data1 := bits w 64 64 } } (bits w 0 64) ∧
  exec (.queEpErrRead t) s = read (s.setTile t { s.tile t with ep := { (s.tile t).ep with flushDrop := 0, parityCnt := 0, hdrFixed := 0 } }) (s.tile t).ep.errWord ∧
  exec .queStErrRead s = read { s with streams := { s.streams with corrected := 0 } } s.streams.errWord ∧
  exec .mprEccRead s = read { s with hbm := { s.hbm with ue := 0, ce := 0 } } s.hbm.eccWord ∧
  exec .mprErrRead s = read { s with hbm := { s.hbm with blocked := 0 } } s.hbm.blocked ∧
  exec (.mprPerrRead p) s = read { s with hbm := s.hbm.updPart p fun x => { x with tagFail := 0, poisonRead := 0, errRevoked := 0 } } (s.hbm.part p).errWord ∧
  exec (.lnkErrRead k) s = read (s.setPort k { s.port k with retries := 0, authFail := 0, dropNoKey := 0, dropTx := 0 }) (s.port k).errWord ∧
  exec (.lnkErr2Read k) s = read (s.setPort k { s.port k with replayCnt := 0, fecUe := 0, swaps := 0, retrains := 0 }) (s.port k).err2Word ∧
  exec (.colIntegRead p) s = read { s with coll := s.coll.updPart p fun c => { c with crcFail := 0, hdrFail := 0, lostUnits := 0 } } (s.coll.part p).integWord ∧
  (s.ringReady = true → exec .resFaultStatusRead s = read { s with res := { s.res with ring := { s.res.ring with lost := 0, maxClass := 0 } } } s.res.ring.statusWord) ∧
  exec .resFaultData0Read s = read { s with res := { s.res with sampled := b } } (field b 0 8) ∧
  exec (.resSnapStatusRead p) s = read (s.setSnap p { s.snap p with skipped := 0 }) (s.snap p).statusWord ∧
  (s.pwr.aon = true → exec .fwmStatusRead s = read { s with fwm := { s.fwm with wqDrop := 0 } } (s.fwm.statusWord s.sec.fuses.floor) ∧
    exec .fwmTimeStatusRead s = read { s with fwm := { s.fwm with ppsBad := 0 } } s.fwm.timeStatusWord)

/-- Register writes and the staging window (R10, R14, R399, R403, R443): a field given a reserved value keeps its own; a read-only register ignores a write; a BAR0 write waits for the firmware; a 64 B access of a mapped line reads or writes its plaintext, and one outside the window is an Unsupported Request. -/
def Obligations.RegisterWritesAndTheStagingWindow : Prop := ∀ (t : Fin 156) (v : DWord) (fn : Fin 17) (off : Fin 16777216) (b : Fin 16) (o : BitVec 44) (bs : List Byte) (n : Nat) (s : State), let x := v.toNat
  (s.clusterUp = true →
    exec (.registerWrite (.vecSig t) v) s = .next (s.updTile t fun y => { y with vec := { y.vec with trSig := x } }) ∧
    exec (.registerWrite (.dmaRetry t) v) s = .next (s.updTile t fun y => { y with dma := { y.dma with retry := bits x 0 3 } }) ∧
    (Answers (exec (.registerWrite .mprWeevilCfg v) s) fun u => u.hbm.rate = (if 1 ≤ bits x 0 7 ∧ bits x 0 7 ≤ 100 then bits x 0 7 else s.hbm.rate) ∧
      u.hbm.fillRate = (if 1 ≤ bits x 8 7 ∧ bits x 8 7 ≤ 100 then bits x 8 7 else s.hbm.fillRate) ∧ u.hbm.lines = s.hbm.lines) ∧
    exec (.registerWrite .clkIdleCfg v) s = .next { s with pwr := { s.pwr with gateUs := bits x 0 16, pllMs := bits x 16 16, srUs := bits x 32 16 } } ∧
    exec (.registerWrite (.readOnly b) v) s = .next s) ∧
  (s.boot.past 2 = true → (s.hif.fn fn).tdiError = false → off.val % 8 = 0 → s.fwm.writes.length < 4096 → exec (.registerWrite (.bar0 fn off) v) s = .next { s with fwm := { s.fwm with writes := s.fwm.writes ++ [⟨fn, off, x⟩] } }) ∧
  (s.pwr.aon = true → Answers (exec (.registerWrite .pwrRailSel v) s) fun u => u.pwr.railSel = (if bits x 0 4 ≤ 12 then bits x 0 4 else s.pwr.railSel) ∧ u.pwr.cap = s.pwr.cap) ∧
  ((s.hif.fn fn).tdiError = true ∨ s.bar4Mapped fn o.toNat n = false → exec (.bar4Access fn o none n) s = .next (s.emit [.unsupported])) ∧
  (∀ d u ws, (s.hif.fn fn).tdiError = false → o.toNat % 64 = 0 → s.bar4Addr fn o.toNat = some d → s.hbmRead .host 0 d true .clean = (u, .done, ws) → ws.length = 16 →
    exec (.bar4Access fn o none 64) s = .next (u.emit [.barData (twordBytes ws)]) ∧
    (∀ w st, bs.length = 64 → u.bar4Addr fn o.toNat = some d → u.hbmWrite .host 0 d true ((cleanWords bs).map some) .clean = some (w, st) → exec (.bar4Access fn o (some bs) n) s = .next w))

/-- A step takes one command (the row's form of a step): the command at the front runs with the queue's rest in place; with nothing waiting the machine idles (notes/assumptions, the model's choice: one nanosecond of the TIME domain). -/
def Obligations.StepTakesTheFrontCommand : Prop := ∀ (c : Instr) (rest : List Instr) (s : State),
  step { s with pending := c :: rest } = exec c { s with pending := rest } ∧ step { s with pending := [] } = .next ({ s with pending := [] } : State).idle

/-- What reset leaves, where the spec gives the value (Tables 9.11, 9.12, 12.12, 16.9, 16.10, 17.8): PWR_CAP 4,200 W, Weevil's rates, RESERVE, the scrub limits, the port limits, the trace classes, LOSS_S; nothing is powered, no command waits, and the invariant holds. -/
def Obligations.ResetHoldsTheStatedValues : Prop := let s := State.reset
  Ok s ∧ s.pending = [] ∧ s.boot.phase = none ∧ s.pwr.aon = false ∧ s.pwr.cap = 4200 ∧ s.pwr.level = 0 ∧ s.hbm.rate = 5 ∧ s.hbm.fillRate = 25 ∧ s.hbm.reserve = 2 ∧ s.hbm.retireUe = 4 ∧ s.hbm.retireCe = 1024 ∧
  s.hbm.period = 24 ∧ s.hbm.lines = [] ∧ s.links.swapSer = 5 ∧ s.links.swapUe = 16 ∧ s.links.retrainLimit = 3 ∧ s.links.retryLimit = 8 ∧ s.links.retrainWindow = 100 ∧ s.links.trainTimeout = 10000 ∧ s.fwm.traceEn = 0x7F ∧
  s.fwm.lossS = 3 ∧ s.fwm.ptpEn = true ∧ s.fwm.gm = false ∧ s.pwr.gateUs = 100 ∧ s.pwr.pllMs = 100 ∧ s.pwr.srUs = 1000 ∧ ∀ p : Fin 16, (s.job p).retryCfg = 3

/-- The invariant is kept by every step: whatever command stands at the front, after a step the power cap is one that may be written (R472) and the memory keeps its canonical form. -/
def Obligations.EveryStepKeepsTheInvariant : Prop := ∀ (s u : State), Ok s → step s = .next u → Ok u

/-- A step takes exactly one command from the queue, and no command puts one in it, whatever it does to the rest of the machine, a cold reset included. -/
def Obligations.EveryStepTakesOneCommand : Prop := ∀ (s u : State), step s = .next u → u.pending = s.pending.tail

/-- Nothing but SET_PWR_CAP, which Mantis takes, writes the power cap (R472): every other command leaves it, or loses the AON domain and with it the cap, which then has its reset value. -/
def Obligations.OnlyMantisWritesTheCap : Prop := ∀ (c : Instr) (s u : State), exec c s = .next u →
  u.pwr.cap = s.pwr.cap ∨ (∃ w, c = .setPwrCap w ∧ capLegal w.toNat = true ∧ u.pwr.cap = w.toNat) ∨ (u.pwr.cap = 4200 ∧ u.boot.phase = none)

/-- No step ever unblows a bit of ANTI_ROLLBACK, so the rollback floor never falls (R434, R436). -/
def Obligations.RollbackFloorNeverFalls : Prop := ∀ (s u : State), step s = .next u →
  (∀ i, i < 64 → bit s.sec.fuses.antiRollback i = true → bit u.sec.fuses.antiRollback i = true) ∧ s.sec.fuses.floor ≤ u.sec.fuses.floor

/-- A production image passes the rollback check only from the floor to 63; a test image is not checked against the floor and never raises it (R435). -/
def Obligations.RollbackFloorJudgesProductionImages : Prop := ∀ (fz : Fuses) (fwTest : Bool) (image : List Byte), let h := FwHeader.ofBytes image
  let r := verifyImage fz fwTest image
  (h.keysel = 0 → (r.1 = 0 ∨ r.1 = 6) → (r.2 = .done ↔ fz.floor ≤ h.svn ∧ h.svn ≤ 63) ∧ (h.svn < fz.floor → r = (6, .accessDenied)) ∧ (fz.floor ≤ h.svn → 63 < h.svn → r = (6, .counterExhausted))) ∧
  (h.keysel = 0 → r.2 = .done → fz.floor ≤ h.svn ∧ h.svn ≤ 63) ∧
  (h.keysel = 1 → r.1 ≠ 6 ∧ ∀ floor, verifyImage { fz with antiRollback := floor } fwTest image = r) ∧
  (∀ (fn : Fin 17) (q : Fin 8192) (stuck : Bool) (s u : State), s.fwm.hdr.keysel ≠ 0 → exec (.fwCommit fn q stuck) s = .next u → u.sec.fuses = s.sec.fuses)

/-- Every read-write field whose encoding table marks values reserved keeps its value when one of them is written (R14). -/
def Obligations.ReservedValuesAreIgnored : Prop := ∀ (t : Fin 156) (p : Fin 16) (k : Fin 36) (fn : Fin 17) (v : DWord) (watts : BitVec 16) (rest : List BarWrite) (s : State), s.clusterUp = true →
  let x := v.toNat
  let write := fun (r : RegName) => exec (.registerWrite r v) s
  let written : State := { s with fwm := { s.fwm with writes := rest } }
  let out := fun (n lo hi : Nat) => n < lo ∨ hi < n
  let loss := fun (w : Nat) => (bits x 32 4 = 0 → bits w 32 4 = bits (s.job p).lossPolicy 32 4) ∧ (bits x 0 2 = 3 → bits w 0 2 = bits (s.job p).lossPolicy 0 2)
  let gfmt := fun (w : Nat) => bits x 0 2 = 3 → bits w 0 2 = bits (s.job p).gfmtPolicy 0 2
  let f := s.hif.fn fn
  (1 < bits x 0 2 → ∃ m, exec (.vecModeWrite t v) s = .next (s.setTile t { s.tile t with vec := { (s.tile t).vec with modeRefused := m } })) ∧
  (∃ w, write (.tilLossPolicy p) = .next (s.updJob p fun j => { j with lossPolicy := w }) ∧ loss w) ∧ (∃ w, write (.colGfmtPolicy p) = .next (s.updJob p fun j => { j with gfmtPolicy := w }) ∧ gfmt w) ∧
  (s.fwm.writes = ⟨p.val + 1, 0x1000, x⟩ :: rest → (s.part p).live = true → ∃ w, exec .bar0WriteApply s = .next (written.updJob p fun j => { j with lossPolicy := w }) ∧ loss w) ∧
  (s.fwm.writes = ⟨p.val + 1, 0x1008, x⟩ :: rest → (s.part p).live = true → ∃ w, exec .bar0WriteApply s = .next (written.updJob p fun j => { j with gfmtPolicy := w }) ∧ gfmt w) ∧
  (Answers (write .mprWeevilCfg) fun u => (out (bits x 0 7) 1 100 → u.hbm.rate = s.hbm.rate) ∧ (out (bits x 8 7) 1 100 → u.hbm.fillRate = s.hbm.fillRate)) ∧
  (Answers (write .mprRemapCfg) fun u => 8 < bits x 0 4 → u.hbm.reserve = s.hbm.reserve) ∧
  (Answers (write .mprScrub) fun u => (bits x 0 16 = 0 → u.hbm.period = s.hbm.period) ∧ (bits x 16 16 = 0 → u.hbm.retireCe = s.hbm.retireCe) ∧ (bits x 32 4 = 0 → u.hbm.retireUe = s.hbm.retireUe)) ∧
  (∃ w, write (.lnkVcWeight k) = .next (s.updPort k fun y => { y with weights := w }) ∧ ∀ n, 1 ≤ n → n ≤ 7 → bits x (8 * n) 8 = 0 → bits w (8 * (n - 1)) 8 = bits (s.port k).weights (8 * (n - 1)) 8) ∧
  (Answers (write .lnkGcfg) fun u => (out (bits x 48 4) 3 9 → u.links.swapSer = s.links.swapSer) ∧ (bits x 40 8 = 0 → u.links.swapUe = s.links.swapUe) ∧ (bits x 36 4 = 0 → u.links.retrainLimit = s.links.retrainLimit) ∧
    (bits x 32 4 = 0 → u.links.retryLimit = s.links.retryLimit) ∧ (bits x 16 16 = 0 → u.links.retrainWindow = s.links.retrainWindow) ∧ (bits x 0 16 = 0 → u.links.trainTimeout = s.links.trainTimeout)) ∧
  (s.fwm.writes = ⟨fn, 0x28, x⟩ :: rest → ∃ a c i, exec .bar0WriteApply s = .next { written with hif := s.hif.setFn fn { f with asqLog2 := a, acqLog2 := c, avector := i } } ∧
    (out (bits x 0 4) 4 12 → a = f.asqLog2) ∧ (out (bits x 8 4) 4 12 → c = f.acqLog2) ∧ (fnVectors fn ≤ bits x 32 16 → bits x 32 16 ≠ 0xFFFF → i = f.avector)) ∧
  (Answers (write .fwmTimeCfg) fun u => bits x 16 8 = 0 → u.fwm.lossS = s.fwm.lossS) ∧
  (Answers (write .pwrRailSel) fun u => 12 < bits x 0 4 → u.pwr.railSel = s.pwr.railSel) ∧
  (capLegal watts.toNat = false → Answers (exec (.setPwrCap watts) s) fun u => u.pwr.cap = s.pwr.cap)

/-- Frame of the records that start on a tile, of their ends and of the tile registers: whatever the command answers next, protected memory, page labels, keys, partitions, snapshots, flash, system channels, the host interface, power and start-up stand; a start leaves every other tile as it was. -/
def Obligations.TileCommandsKeepTheRest : Prop := ∀ (t : Fin 156) (v : DWord) (s u : State),
  let kept := u.hbm = s.hbm ∧ u.pageLabels = s.pageLabels ∧ u.sec = s.sec ∧ u.parts = s.parts ∧ u.snaps = s.snaps ∧ u.flash = s.flash ∧ u.sys = s.sys ∧ u.hif = s.hif ∧ u.pwr = s.pwr ∧ u.boot = s.boot
  (∀ c ∈ startRows, exec (c t) s = .next u → kept ∧ u.links = s.links ∧ u.coll = s.coll ∧ ∀ j, j ≠ t.val → u.tile j = s.tile j) ∧
  (∀ c ∈ endRows, exec (c t) s = .next u → kept) ∧
  (∀ e ∈ tileRegRows, exec (e.1 t v) s = .next u → u = { s with tiles := u.tiles } ∧ ∀ j, j ≠ t.val → u.tile j = s.tile j)

/-- Frame of the host commands on contexts, queues, objects, mappings and fences, of doorbells and of interrupts: whatever they answer next, nothing but the host interface and what leaves the module differs; exporting a token also draws it. -/
def Obligations.HostCommandsKeepTheRest : Prop := ∀ (fn : Fin 17) (q : Fin 8192) (n : BitVec 32) (es : List (List Byte)) (s u : State),
  let only := fun (k : Sec) => u = { s with hif := u.hif, out := u.out, sec := k }
  (∀ c, HostOnly fn q c → exec c s = .next u → only s.sec) ∧ (exec (.sqTailDoorbell fn q n es) s = .next u → only s.sec) ∧ (exec (.cqHeadDoorbell fn q n) s = .next u → only s.sec) ∧
  (exec (.memExport fn q) s = .next u ∨ exec (.fenceExport fn q) s = .next u → only s.sec ∨ only s.sec.draw.2)
end

