-- ==== Sys2Proof/Laws/Store.lean ====
section
/-! SUPPORT. Laws of the sparse tables: what an index reads as after a write, and the canonical form that every table operation keeps. -/

namespace Sys2Proof.Machine

variable {α : Type} [DecidableEq α] {d : α}

/-- A write leaves every other index alone. -/
theorem Store.get_set_ne (m : Store α) {k j : Nat} (v : α) (h : j ≠ k) : Store.get d (Store.set d m k v) j = Store.get d m j := by
  induction m with
  | nil =>
    unfold Store.set
    split <;> simp [Store.get, h]
  | cons e m ih =>
    obtain ⟨i, w⟩ := e
    unfold Store.set
    split
    · split <;> simp [Store.get, h]
    · split
      · rename_i hk
        subst hk
        split <;> simp [Store.get, h]
      · simp [Store.get, ih]

/-- An index reads as what was written to it, when that is not the default. -/
theorem Store.get_set_same (m : Store α) (k : Nat) {v : α} (hv : v ≠ d) : Store.get d (Store.set d m k v) k = v := by
  induction m with
  | nil => simp [Store.set, Store.get, hv]
  | cons e m ih =>
    obtain ⟨i, w⟩ := e
    by_cases h1 : k < i
    · simp [Store.set, h1, hv, Store.get]
    · by_cases h2 : k = i
      · simp [Store.set, h2, hv, Store.get]
      · simp [Store.set, h1, h2, Store.get, ih]

/-- A second write of an index, after one that is not the default, stands alone. -/
theorem Store.set_set (m : Store α) (k : Nat) {a : α} (b : α) (h : a ≠ d) : Store.set d (Store.set d m k a) k b = Store.set d m k b := by
  induction m with
  | nil => simp [Store.set, h]
  | cons e m ih =>
    obtain ⟨i, w⟩ := e
    by_cases h1 : k < i
    · simp [Store.set, h1, h]
    · by_cases h2 : k = i
      · simp [Store.set, h2, h]
      · simp [Store.set, h1, h2, ih]

/-- A table whose indices start above n reads as its default below. -/
theorem Store.get_of_wfFrom {n : Nat} (m : Store α) (h : Store.wfFrom d n m = true) {k : Nat} (hk : k < n) : Store.get d m k = d := by
  induction m generalizing n with
  | nil => rfl
  | cons e m ih =>
    obtain ⟨i, w⟩ := e
    simp [Store.wfFrom] at h
    have : k ≠ i := by omega
    simp [Store.get, this]
    exact ih h.2 (by omega)

theorem Store.wfFrom_mono {n k : Nat} (m : Store α) (h : Store.wfFrom d n m = true) (hk : k ≤ n) : Store.wfFrom d k m = true := by
  cases m with
  | nil => rfl
  | cons e m =>
    obtain ⟨i, w⟩ := e
    simp [Store.wfFrom] at h ⊢
    exact ⟨⟨by omega, h.1.2⟩, h.2⟩

/-- In a canonical table an index reads as what was written to it, whatever that is. -/
theorem Store.get_set_wf (m : Store α) (h : Store.wf d m = true) (k : Nat) (v : α) : Store.get d (Store.set d m k v) k = v := by
  by_cases hv : v = d
  · subst hv
    unfold Store.wf at h
    generalize 0 = n at h
    induction m generalizing n with
    | nil => simp [Store.set, Store.get]
    | cons e m ih =>
      obtain ⟨i, w⟩ := e
      simp [Store.wfFrom] at h
      unfold Store.set
      split
      · rename_i hk
        have hki : k ≠ i := by omega
        simp [Store.get, hki]
        exact Store.get_of_wfFrom m h.2 (by omega)
      · split
        · rename_i hk
          subst hk
          simpa using Store.get_of_wfFrom m h.2 (by omega)
        · rename_i hk
          simp [Store.get, hk]
          exact ih _ h.2
  · exact Store.get_set_same m k hv

/-- A write keeps the canonical form. -/
theorem Store.wfFrom_set {n : Nat} (m : Store α) (h : Store.wfFrom d n m = true) {k : Nat} (hk : n ≤ k) (v : α) :
    Store.wfFrom d n (Store.set d m k v) = true := by
  induction m generalizing n with
  | nil => by_cases hv : v = d <;> simp [Store.set, Store.wfFrom, hv, hk]
  | cons e m ih =>
    obtain ⟨i, w⟩ := e
    have h0 := h
    simp [Store.wfFrom] at h
    unfold Store.set
    split
    · rename_i hlt
      split
      · exact h0
      · rename_i hv
        simp [Store.wfFrom, hk, hv, h.1.2, h.2]
        omega
    · split
      · rename_i hlt he
        subst he
        split
        · exact Store.wfFrom_mono m h.2 (by omega)
        · rename_i hv
          simp [Store.wfFrom, hk, hv, h.2]
      · rename_i hlt hne
        simp [Store.wfFrom, h.1.1, h.1.2]
        exact ih h.2 (by omega)

/-- A write keeps the canonical form. -/
theorem Store.wf_set (m : Store α) (h : Store.wf d m = true) (k : Nat) (v : α) : Store.wf d (Store.set d m k v) = true :=
  Store.wfFrom_set m h (Nat.zero_le k) v

theorem Store.wf_upd (m : Store α) (h : Store.wf d m = true) (k : Nat) (f : α → α) : Store.wf d (Store.upd d m k f) = true :=
  Store.wf_set m h k _

/-- Writing a run of indices keeps the canonical form. -/
theorem Store.wf_setMany (vs : List α) (m : Store α) (h : Store.wf d m = true) (lo : Nat) : Store.wf d (Store.setMany d m lo vs) = true := by
  induction vs generalizing m lo with
  | nil => exact h
  | cons v vs ih => exact ih _ (Store.wf_set m h lo v) _

/-- Dropping entries keeps the canonical form. -/
theorem Store.wfFrom_filter {n : Nat} (m : Store α) (h : Store.wfFrom d n m = true) (f : Nat × α → Bool) : Store.wfFrom d n (m.filter f) = true := by
  induction m generalizing n with
  | nil => rfl
  | cons e m ih =>
    obtain ⟨i, w⟩ := e
    simp [Store.wfFrom] at h
    by_cases hf : f (i, w) = true
    · simp [hf, Store.wfFrom, h.1.1, h.1.2]
      exact ih h.2
    · simp [hf]
      exact Store.wfFrom_mono _ (ih h.2) (by omega)

theorem Store.wf_filter (m : Store α) (h : Store.wf d m = true) (f : Nat × α → Bool) : Store.wf d (m.filter f) = true := Store.wfFrom_filter m h f

theorem Store.wf_clear (m : Store α) (h : Store.wf d m = true) (lo n : Nat) : Store.wf d (Store.clear m lo n) = true := Store.wf_filter m h _

@[simp] theorem Store.wf_nil : Store.wf d ([] : Store α) = true := rfl

omit [DecidableEq α] in
/-- A filtered table reads as before at every index whose entries are kept. -/
theorem Store.get_filter (m : Store α) (f : Nat × α → Bool) {k : Nat} (h : ∀ v, f (k, v) = true) : Store.get d (m.filter f) k = Store.get d m k := by
  induction m with
  | nil => rfl
  | cons e m ih =>
    obtain ⟨i, w⟩ := e
    by_cases hk : k = i
    · subst hk
      simp [h, Store.get]
    · by_cases hf : f (i, w) = true <;> simp [hf, Store.get, hk, ih]

omit [DecidableEq α] in
/-- Outside the cleared range a table reads as before. -/
theorem Store.get_clear_ne (m : Store α) {lo n k : Nat} (h : k < lo ∨ lo + n ≤ k) : Store.get d (Store.clear m lo n) k = Store.get d m k :=
  Store.get_filter m _ (by intro v; simpa using h)

omit [DecidableEq α] in
/-- Within the cleared range it reads as its default. -/
theorem Store.get_clear_in (m : Store α) {lo n k : Nat} (h1 : lo ≤ k) (h2 : k < lo + n) : Store.get d (Store.clear m lo n) k = d := by
  induction m with
  | nil => rfl
  | cons e m ih =>
    obtain ⟨i, w⟩ := e
    unfold Store.clear at ih ⊢
    by_cases hf : (decide (i < lo) || decide (lo + n ≤ i)) = true
    · have hk : k ≠ i := by
        simp at hf
        omega
      simp [hf, Store.get, hk]
      simpa using ih
    · simp [hf]
      simpa using ih

end Sys2Proof.Machine
end

