-- ==== Sys2Proof/Laws/Memory.lean ====
section
/-! SUPPORT. Laws of the memory: a line reads as what was written to it, every other line reads as before, and every memory operation keeps the canonical form. -/

namespace Sys2Proof.Machine

variable {α : Type} [DecidableEq α] {d : α}

/-- What stands in a table after a write: the entry written, when it is not the default, or an entry of before. -/
theorem Store.mem_set {m : Store α} {k : Nat} {v : α} {e : Nat × α} (h : e ∈ Store.set d m k v) : (e = (k, v) ∧ v ≠ d) ∨ e ∈ m := by
  induction m with
  | nil =>
    unfold Store.set at h
    split at h
    · simp at h
    · rename_i hv
      simp at h
      exact .inl ⟨h, hv⟩
  | cons x m ih =>
    obtain ⟨i, w⟩ := x
    unfold Store.set at h
    split at h
    · split at h
      · exact .inr h
      · rename_i hv
        rcases List.mem_cons.1 h with h | h
        · exact .inl ⟨h, hv⟩
        · exact .inr h
    · split at h
      · split at h
        · exact .inr (List.mem_cons_of_mem _ h)
        · rename_i hv
          rcases List.mem_cons.1 h with h | h
          · exact .inl ⟨h, hv⟩
          · exact .inr (List.mem_cons_of_mem _ h)
      · rcases List.mem_cons.1 h with h | h
        · exact .inr (h ▸ List.mem_cons_self)
        · rcases ih h with h | h
          · exact .inl h
          · exact .inr (List.mem_cons_of_mem _ h)

omit [DecidableEq α] in
/-- What an index reads as is listed, unless it is the default. -/
theorem Store.mem_of_get (m : Store α) (k : Nat) : Store.get d m k = d ∨ (k, Store.get d m k) ∈ m := by
  induction m with
  | nil => exact .inl rfl
  | cons x m ih =>
    obtain ⟨i, w⟩ := x
    by_cases h : k = i
    · subst h
      simp [Store.get]
    · simp only [Store.get, h, if_false]
      rcases ih with h | h
      · exact .inl h
      · exact .inr (List.mem_cons_of_mem _ h)

/-- The blank line at an address is that of its page. -/
theorem Hbm.blankIn_pageOf (h : Hbm) (dpa : Nat) : h.blankIn (pageOf dpa) = h.blankLine dpa := by
  have hg : granOf (pageOf dpa * 4096) = granOf dpa := by
    simp only [granOf, pageOf, bits, Nat.shiftRight_eq_div_pow]
    omega
  have hp : bits (pageOf dpa * 4096) 12 18 = bits dpa 12 18 := by
    simp only [pageOf, bits, Nat.shiftRight_eq_div_pow]
    omega
  have hc : ((decodeDpa (pageOf dpa * 4096)).pc, granOf (pageOf dpa * 4096)) = ((decodeDpa dpa).pc, granOf dpa) := by
    simp only [decodeDpa, hg, hp]
  unfold Hbm.blankIn Hbm.blankLine
  rw [hc]

/-- The canonical form depends on the lines and the losses alone. -/
theorem Memory.wf_congr {h k : Hbm} (hl : k.lines = h.lines) (ho : k.lost = h.lost) : Memory.wf k = Memory.wf h := by
  have hb : k.blankIn = h.blankIn := by
    funext a
    unfold Hbm.blankIn Hbm.blankLine
    rw [ho]
  unfold Memory.wf
  rw [hl, hb]

/-- The canonical form, said of the entries. -/
theorem Memory.wf_iff (h : Hbm) : Memory.wf h = true ↔ Store.wf [] h.lines = true ∧
    ∀ e ∈ h.lines, e.1 < 2 ^ 28 ∧ Store.wf none e.2 = true ∧ ∀ l ∈ e.2, l.2 ≠ some (h.blankIn e.1) := by
  simp [Memory.wf, and_assoc]

/-- The reset memory is in canonical form. -/
theorem Memory.wf_reset : Memory.wf .reset = true := rfl

/-- Replacing a line keeps the canonical form. -/
theorem Hbm.setLine_wf {h : Hbm} (hw : Memory.wf h = true) (dpa : Nat) (l : HLine) : Memory.wf (h.setLine dpa l) = true := by
  rw [Memory.wf_iff] at hw ⊢
  refine ⟨Store.wf_set _ hw.1 _ _, ?_⟩
  intro e he
  rcases Store.mem_set he with ⟨rfl, _⟩ | he
  · have hold : Store.wf none (Store.get [] h.lines (pageOf dpa)) = true ∧ ∀ l ∈ Store.get [] h.lines (pageOf dpa), l.2 ≠ some (h.blankIn (pageOf dpa)) := by
      rcases Store.mem_of_get (d := []) h.lines (pageOf dpa) with hd | hd
      · rw [hd]
        simp
      · exact (hw.2 _ hd).2
    refine ⟨by simp only [pageOf, bits]; exact Nat.mod_lt _ (by decide), Store.wf_set _ hold.1 _ _, ?_⟩
    intro x hx
    rcases Store.mem_set hx with ⟨rfl, hv⟩ | hx
    · have hb : (h.setLine dpa l).blankIn (pageOf dpa) = h.blankLine dpa := Hbm.blankIn_pageOf h dpa
      simp only [hb]
      by_cases hl : l = h.blankLine dpa
      · simp [hl] at hv
      · simp [hl]
    · exact hold.2 x hx
  · exact hw.2 e he

/-- The line written reads as what was written. -/
theorem Hbm.lineAt_setLine {h : Hbm} (hw : Memory.wf h = true) (dpa : Nat) (l : HLine) : (h.setLine dpa l).lineAt dpa = l := by
  rw [Memory.wf_iff] at hw
  have hold : Store.wf none (Store.get [] h.lines (pageOf dpa)) = true := by
    rcases Store.mem_of_get (d := []) h.lines (pageOf dpa) with hd | hd
    · rw [hd]
      simp
    · exact (hw.2 _ hd).2.1
  have hb : (h.setLine dpa l).blankLine dpa = h.blankLine dpa := rfl
  simp only [Hbm.lineAt, hb]
  have hp : Store.get [] (h.setLine dpa l).lines (pageOf dpa) =
      Store.set none (Store.get [] h.lines (pageOf dpa)) (lineOf dpa) (if l = h.blankLine dpa then none else some l) :=
    Store.get_set_wf _ hw.1 _ _
  rw [hp, Store.get_set_wf _ hold]
  by_cases hl : l = h.blankLine dpa <;> simp [hl]

/-- Every other line reads as before. -/
theorem Hbm.lineAt_setLine_ne {h : Hbm} (hw : Memory.wf h = true) {dpa a : Nat} (l : HLine) (hne : pageOf a ≠ pageOf dpa ∨ lineOf a ≠ lineOf dpa) :
    (h.setLine dpa l).lineAt a = h.lineAt a := by
  have hb : (h.setLine dpa l).blankLine a = h.blankLine a := rfl
  simp only [Hbm.lineAt, hb]
  by_cases hp : pageOf a = pageOf dpa
  · rw [Memory.wf_iff] at hw
    have hl : lineOf a ≠ lineOf dpa := by
      rcases hne with h1 | h1
      · exact absurd hp h1
      · exact h1
    have he : Store.get [] (h.setLine dpa l).lines (pageOf dpa) =
        Store.set none (Store.get [] h.lines (pageOf dpa)) (lineOf dpa) (if l = h.blankLine dpa then none else some l) :=
      Store.get_set_wf _ hw.1 _ _
    rw [hp, he, Store.get_set_ne _ _ hl]
  · have he : Store.get [] (h.setLine dpa l).lines (pageOf a) = Store.get [] h.lines (pageOf a) := Store.get_set_ne _ _ hp
    rw [he]

theorem Hbm.putLine_wf {h : Hbm} (hw : Memory.wf h = true) (dpa : Nat) (l : HLine) : Memory.wf (h.putLine dpa l) = true := by
  rw [show Memory.wf (h.putLine dpa l) = Memory.wf (h.setLine dpa l) from Memory.wf_congr rfl rfl]
  exact Hbm.setLine_wf hw dpa l

theorem Hbm.lineAt_congr {h k : Hbm} (hl : k.lines = h.lines) (ho : k.lost = h.lost) (a : Nat) : k.lineAt a = h.lineAt a := by
  have hb : k.blankLine a = h.blankLine a := by
    unfold Hbm.blankLine
    rw [ho]
  unfold Hbm.lineAt
  rw [hl, hb]

theorem Hbm.lineAt_putLine {h : Hbm} (hw : Memory.wf h = true) (dpa : Nat) (l : HLine) : (h.putLine dpa l).lineAt dpa = l := by
  rw [show (h.putLine dpa l).lineAt dpa = (h.setLine dpa l).lineAt dpa from Hbm.lineAt_congr rfl rfl dpa]
  exact Hbm.lineAt_setLine hw dpa l

theorem Hbm.lineAt_putLine_ne {h : Hbm} (hw : Memory.wf h = true) {dpa a : Nat} (l : HLine) (hne : pageOf a ≠ pageOf dpa ∨ lineOf a ≠ lineOf dpa) :
    (h.putLine dpa l).lineAt a = h.lineAt a := by
  rw [show (h.putLine dpa l).lineAt a = (h.setLine dpa l).lineAt a from Hbm.lineAt_congr rfl rfl a]
  exact Hbm.lineAt_setLine_ne hw l hne

/-- A pass over a granule keeps the canonical form. -/
theorem Hbm.zeroGran_wf {h : Hbm} (hw : Memory.wf h = true) (g : Nat) : Memory.wf (h.zeroGran g) = true := by
  rw [Memory.wf_iff] at hw ⊢
  refine ⟨Store.wf_clear _ hw.1 _ _, ?_⟩
  intro e he
  have hm := List.mem_filter.1 he
  obtain ⟨h1, h2, h3⟩ := hw.2 e hm.1
  refine ⟨h1, h2, ?_⟩
  have hg : granOf (e.1 * 4096) ≠ g := by
    have hr := hm.2
    simp only [Bool.or_eq_true, decide_eq_true_eq] at hr
    simp only [granOf, bits, Nat.shiftRight_eq_div_pow]
    omega
  have hb : (h.zeroGran g).blankIn e.1 = h.blankIn e.1 := by
    have hc : (h.zeroGran g).lost.contains ((decodeDpa (e.1 * 4096)).pc, granOf (e.1 * 4096)) = h.lost.contains ((decodeDpa (e.1 * 4096)).pc, granOf (e.1 * 4096)) := by
      rw [Bool.eq_iff_iff]
      simp [Hbm.zeroGran, hg]
    unfold Hbm.blankIn Hbm.blankLine
    rw [hc]
  rw [hb]
  exact h3

/-- Losing the lines of a pseudo-channel keeps the canonical form. -/
theorem Hbm.lose_wf {h : Hbm} (hw : Memory.wf h = true) (pairs : List (Nat × Nat)) : Memory.wf (h.lose pairs) = true := by
  rw [Memory.wf_iff] at hw ⊢
  refine ⟨Store.wf_filter _ hw.1 _, ?_⟩
  intro e he
  have hm := List.mem_filter.1 he
  obtain ⟨h1, h2, h3⟩ := hw.2 e hm.1
  refine ⟨h1, h2, ?_⟩
  have hb : (h.lose pairs).blankIn e.1 = h.blankIn e.1 := by
    have hc : (h.lose pairs).lost.contains ((decodeDpa (e.1 * 4096)).pc, granOf (e.1 * 4096)) = h.lost.contains ((decodeDpa (e.1 * 4096)).pc, granOf (e.1 * 4096)) := by
      have hn : ((decodeDpa (e.1 * 4096)).pc, granOf (e.1 * 4096)) ∉ pairs := by simpa using hm.2
      rw [Bool.eq_iff_iff]
      simp [Hbm.lose, hn]
    unfold Hbm.blankIn Hbm.blankLine
    rw [hc]
  rw [hb]
  exact h3

/-! ### Every operation keeps the form -/

theorem Hbm.countTagFail_lines (h : Hbm) (g : Gran) : (h.countTagFail g).lines = h.lines ∧ (h.countTagFail g).lost = h.lost := by
  unfold Hbm.countTagFail
  split <;> exact ⟨rfl, rfl⟩

theorem Hbm.countTagFail_wf {h : Hbm} (hw : Memory.wf h = true) (g : Gran) : Memory.wf (h.countTagFail g) = true := by
  rw [Memory.wf_congr (h.countTagFail_lines g).1 (h.countTagFail_lines g).2]
  exact hw

theorem Hbm.countRefusal_wf {h : Hbm} (hw : Memory.wf h = true) (o : Origin) (dpa : Nat) (b : Bool) (st : Status) : Memory.wf (h.countRefusal o dpa b st) = true := by
  unfold Hbm.countRefusal
  split
  · exact hw
  · split
    · exact hw
    · split
      · exact hw
      · exact hw
  · exact hw

theorem Hbm.convertEarly_wf {h : Hbm} (hw : Memory.wf h = true) (dpa : Nat) : Memory.wf (h.convertEarly dpa) = true := by
  unfold Hbm.convertEarly
  simp only
  split <;> exact hw

/-- A line read leaves the memory in canonical form. -/
theorem Hbm.read_wf {h : Hbm} (hw : Memory.wf h = true) (ks : LaneKeys) (o : Origin) (keyId dpa : Nat) (b : Bool) (f : Fetch) :
    Memory.wf (h.read ks o keyId dpa b f).h = true := by
  unfold Hbm.read
  simp only
  split
  · exact Hbm.countRefusal_wf hw _ _ _ _
  · split
    · exact Hbm.countTagFail_wf hw _
    · split
      · exact Hbm.countTagFail_wf hw _
      · split
        · split <;> exact hw
        · split
          · exact Hbm.countTagFail_wf (h := h.treeFailure _ _ _) hw _
          · split
            · exact Hbm.countTagFail_wf hw _
            · split
              · exact hw
              · show Memory.wf (if _ then _ else _) = true
                split <;> exact hw
              · exact Hbm.countTagFail_wf (Hbm.putLine_wf hw _ _) _

/-- A line write leaves the memory in canonical form. -/
theorem Hbm.write_wf {h : Hbm} (hw : Memory.wf h = true) (ks : LaneKeys) (o : Origin) (keyId dpa : Nat) (b : Bool) (ws : List (Option TWord)) (f : Fetch) :
    Memory.wf (h.write ks o keyId dpa b ws f).h = true := by
  unfold Hbm.write
  simp only
  split
  · exact Hbm.countRefusal_wf hw _ _ _ _
  · split
    · exact hw
    · split
      · exact Hbm.countTagFail_wf hw _
      · split
        · exact Hbm.countTagFail_wf hw _
        · split
          · exact Hbm.setLine_wf hw _ _
          · split
            · exact hw
            · split
              · exact Hbm.countTagFail_wf (h := h.treeFailure _ _ _) hw _
              · split
                · exact Hbm.countTagFail_wf hw _
                · split
                  · exact Hbm.putLine_wf (Hbm.convertEarly_wf hw _) _ _
                  · split
                    · exact Hbm.putLine_wf (Hbm.convertEarly_wf hw _) _ _
                    · exact Hbm.putLine_wf (Hbm.convertEarly_wf hw _) _ _
                    · exact Hbm.countTagFail_wf (Hbm.putLine_wf (Hbm.convertEarly_wf hw _) _ _) _

theorem Hbm.fillEnd_wf {h k : Hbm} (hw : Memory.wf h = true) {g : Nat} (he : h.fillEnd g = some k) : Memory.wf k = true := by
  simp only [Hbm.fillEnd, Option.bind_eq_bind, Option.bind_eq_some_iff] at he
  obtain ⟨⟨i, x⟩, _, he⟩ := he
  cases he
  exact Hbm.zeroGran_wf (h := h.endPass i) hw g

theorem Hbm.wipeEnd_wf {h k : Hbm} (hw : Memory.wf h = true) {g : Nat} (he : h.wipeEnd g = some k) : Memory.wf k = true := by
  simp only [Hbm.wipeEnd, Option.bind_eq_bind, Option.bind_eq_some_iff] at he
  obtain ⟨⟨i, x⟩, _, he⟩ := he
  simp only at he
  split at he <;> cases he <;> exact Hbm.zeroGran_wf (h := h.endPass i) hw g

theorem Hbm.rekeyEnd_wf {h k : Hbm} (hw : Memory.wf h = true) {p n : Nat} {b : Bool} (he : h.rekeyEnd p = some (k, n, b)) : Memory.wf k = true := by
  simp only [Hbm.rekeyEnd, Option.bind_eq_bind, Option.bind_eq_some_iff] at he
  obtain ⟨⟨i, x⟩, _, he⟩ := he
  cases he
  exact hw

theorem Hbm.retireInto_wf {h : Hbm} (hw : Memory.wf h = true) (c w : Nat) (dead : Bool) : Memory.wf (h.retireInto c w dead) = true := by
  unfold Hbm.retireInto
  simp only
  split
  · exact Hbm.lose_wf (h := { h.setGran w ⟨.withdrawn, 0, .withdrawn⟩ with
      lastPc := c, reserveLeft := if (h.gran w).state = .reserve then h.reserveLeft - 1 else h.reserveLeft }) hw _
  · exact hw

theorem Hbm.retire_wf {h : Hbm} (hw : Memory.wf h = true) (c : Nat) (dead : Bool) : Memory.wf (h.retire c dead).1 = true := by
  have h0 : Memory.wf (if dead && !h.dead.contains c then { h with dead := c :: h.dead } else h) = true := by split <;> exact hw
  unfold Hbm.retire
  simp only
  generalize (if dead && !h.dead.contains c then { h with dead := c :: h.dead } else h) = k at h0
  split
  · exact h0
  · split
    · exact h0
    · split
      · exact Hbm.retireInto_wf h0 _ _ _
      · exact h0

theorem Hbm.resume_wf {h k : Hbm} (hw : Memory.wf h = true) (he : h.resume = some k) : Memory.wf k = true := by
  unfold Hbm.resume at he
  split at he
  · cases he
  · split at he
    · cases he
      rename_i rest _ _ _ _
      exact Hbm.retireInto_wf (h := { h with held := rest }) hw _ _ _
    · cases he

theorem Hbm.migrateEnd_wf {h k : Hbm} (hw : Memory.wf h = true) {c : Nat} {us : List Nat} (he : h.migrateEnd c us = some k) : Memory.wf k = true := by
  simp only [Hbm.migrateEnd, Option.bind_eq_bind, Option.bind_eq_some_iff] at he
  obtain ⟨⟨i, x⟩, _, e, _, he⟩ := he
  cases he
  have hf : ∀ (us : List Nat) (a : Hbm), Memory.wf a = true →
      Memory.wf (us.foldl (fun acc dpa => if (decodeDpa dpa).pc = c then acc.setLine dpa .poisoned else acc) a) = true := by
    intro us
    induction us with
    | nil => intro a ha; exact ha
    | cons u us ih =>
      intro a ha
      refine ih _ ?_
      by_cases hu : (decodeDpa u).pc = c
      · simpa [hu] using Hbm.setLine_wf ha _ _
      · simpa [hu] using ha
  exact hf us _ hw

end Sys2Proof.Machine
end

