-- ==== Sys2Proof/Laws/State.lean ====
section
/-! SUPPORT. What each update of the state leaves of every field: one lemma for each field and update, true by rfl. -/

namespace Sys2Proof.Machine

variable (s : State)

/-! ### setTile -/

@[simp] theorem State.setTile_pending (t : Nat) (x : Tile) : (s.setTile t x).pending = s.pending := rfl
@[simp] theorem State.setTile_out (t : Nat) (x : Tile) : (s.setTile t x).out = s.out := rfl
@[simp] theorem State.setTile_draws (t : Nat) (x : Tile) : (s.setTile t x).draws = s.draws := rfl
@[simp] theorem State.setTile_boot (t : Nat) (x : Tile) : (s.setTile t x).boot = s.boot := rfl
@[simp] theorem State.setTile_pwr (t : Nat) (x : Tile) : (s.setTile t x).pwr = s.pwr := rfl
@[simp] theorem State.setTile_tiles (t : Nat) (x : Tile) : (s.setTile t x).tiles = Store.set .reset s.tiles t x := rfl
@[simp] theorem State.setTile_streams (t : Nat) (x : Tile) : (s.setTile t x).streams = s.streams := rfl
@[simp] theorem State.setTile_sys (t : Nat) (x : Tile) : (s.setTile t x).sys = s.sys := rfl
@[simp] theorem State.setTile_hbm (t : Nat) (x : Tile) : (s.setTile t x).hbm = s.hbm := rfl
@[simp] theorem State.setTile_pageLabels (t : Nat) (x : Tile) : (s.setTile t x).pageLabels = s.pageLabels := rfl
@[simp] theorem State.setTile_sec (t : Nat) (x : Tile) : (s.setTile t x).sec = s.sec := rfl
@[simp] theorem State.setTile_parts (t : Nat) (x : Tile) : (s.setTile t x).parts = s.parts := rfl
@[simp] theorem State.setTile_jobs (t : Nat) (x : Tile) : (s.setTile t x).jobs = s.jobs := rfl
@[simp] theorem State.setTile_links (t : Nat) (x : Tile) : (s.setTile t x).links = s.links := rfl
@[simp] theorem State.setTile_coll (t : Nat) (x : Tile) : (s.setTile t x).coll = s.coll := rfl
@[simp] theorem State.setTile_res (t : Nat) (x : Tile) : (s.setTile t x).res = s.res := rfl
@[simp] theorem State.setTile_snaps (t : Nat) (x : Tile) : (s.setTile t x).snaps = s.snaps := rfl
@[simp] theorem State.setTile_flash (t : Nat) (x : Tile) : (s.setTile t x).flash = s.flash := rfl
@[simp] theorem State.setTile_fwm (t : Nat) (x : Tile) : (s.setTile t x).fwm = s.fwm := rfl
@[simp] theorem State.setTile_hif (t : Nat) (x : Tile) : (s.setTile t x).hif = s.hif := rfl
@[simp] theorem State.setTile_maint (t : Nat) (x : Tile) : (s.setTile t x).maint = s.maint := rfl
@[simp] theorem State.setTile_view (t : Nat) (x : Tile) : (s.setTile t x).view = s.view := rfl

/-! ### updTile -/

@[simp] theorem State.updTile_pending (t : Nat) (f : Tile → Tile) : (s.updTile t f).pending = s.pending := rfl
@[simp] theorem State.updTile_out (t : Nat) (f : Tile → Tile) : (s.updTile t f).out = s.out := rfl
@[simp] theorem State.updTile_draws (t : Nat) (f : Tile → Tile) : (s.updTile t f).draws = s.draws := rfl
@[simp] theorem State.updTile_boot (t : Nat) (f : Tile → Tile) : (s.updTile t f).boot = s.boot := rfl
@[simp] theorem State.updTile_pwr (t : Nat) (f : Tile → Tile) : (s.updTile t f).pwr = s.pwr := rfl
@[simp] theorem State.updTile_tiles (t : Nat) (f : Tile → Tile) : (s.updTile t f).tiles = Store.set .reset s.tiles t (f (s.tile t)) := rfl
@[simp] theorem State.updTile_streams (t : Nat) (f : Tile → Tile) : (s.updTile t f).streams = s.streams := rfl
@[simp] theorem State.updTile_sys (t : Nat) (f : Tile → Tile) : (s.updTile t f).sys = s.sys := rfl
@[simp] theorem State.updTile_hbm (t : Nat) (f : Tile → Tile) : (s.updTile t f).hbm = s.hbm := rfl
@[simp] theorem State.updTile_pageLabels (t : Nat) (f : Tile → Tile) : (s.updTile t f).pageLabels = s.pageLabels := rfl
@[simp] theorem State.updTile_sec (t : Nat) (f : Tile → Tile) : (s.updTile t f).sec = s.sec := rfl
@[simp] theorem State.updTile_parts (t : Nat) (f : Tile → Tile) : (s.updTile t f).parts = s.parts := rfl
@[simp] theorem State.updTile_jobs (t : Nat) (f : Tile → Tile) : (s.updTile t f).jobs = s.jobs := rfl
@[simp] theorem State.updTile_links (t : Nat) (f : Tile → Tile) : (s.updTile t f).links = s.links := rfl
@[simp] theorem State.updTile_coll (t : Nat) (f : Tile → Tile) : (s.updTile t f).coll = s.coll := rfl
@[simp] theorem State.updTile_res (t : Nat) (f : Tile → Tile) : (s.updTile t f).res = s.res := rfl
@[simp] theorem State.updTile_snaps (t : Nat) (f : Tile → Tile) : (s.updTile t f).snaps = s.snaps := rfl
@[simp] theorem State.updTile_flash (t : Nat) (f : Tile → Tile) : (s.updTile t f).flash = s.flash := rfl
@[simp] theorem State.updTile_fwm (t : Nat) (f : Tile → Tile) : (s.updTile t f).fwm = s.fwm := rfl
@[simp] theorem State.updTile_hif (t : Nat) (f : Tile → Tile) : (s.updTile t f).hif = s.hif := rfl
@[simp] theorem State.updTile_maint (t : Nat) (f : Tile → Tile) : (s.updTile t f).maint = s.maint := rfl
@[simp] theorem State.updTile_view (t : Nat) (f : Tile → Tile) : (s.updTile t f).view = s.view := rfl

/-! ### setSys -/

@[simp] theorem State.setSys_pending (n : Nat) (x : SysChan) : (s.setSys n x).pending = s.pending := rfl
@[simp] theorem State.setSys_out (n : Nat) (x : SysChan) : (s.setSys n x).out = s.out := rfl
@[simp] theorem State.setSys_draws (n : Nat) (x : SysChan) : (s.setSys n x).draws = s.draws := rfl
@[simp] theorem State.setSys_boot (n : Nat) (x : SysChan) : (s.setSys n x).boot = s.boot := rfl
@[simp] theorem State.setSys_pwr (n : Nat) (x : SysChan) : (s.setSys n x).pwr = s.pwr := rfl
@[simp] theorem State.setSys_tiles (n : Nat) (x : SysChan) : (s.setSys n x).tiles = s.tiles := rfl
@[simp] theorem State.setSys_streams (n : Nat) (x : SysChan) : (s.setSys n x).streams = s.streams := rfl
@[simp] theorem State.setSys_sys (n : Nat) (x : SysChan) : (s.setSys n x).sys = Store.set .reset s.sys n x := rfl
@[simp] theorem State.setSys_hbm (n : Nat) (x : SysChan) : (s.setSys n x).hbm = s.hbm := rfl
@[simp] theorem State.setSys_pageLabels (n : Nat) (x : SysChan) : (s.setSys n x).pageLabels = s.pageLabels := rfl
@[simp] theorem State.setSys_sec (n : Nat) (x : SysChan) : (s.setSys n x).sec = s.sec := rfl
@[simp] theorem State.setSys_parts (n : Nat) (x : SysChan) : (s.setSys n x).parts = s.parts := rfl
@[simp] theorem State.setSys_jobs (n : Nat) (x : SysChan) : (s.setSys n x).jobs = s.jobs := rfl
@[simp] theorem State.setSys_links (n : Nat) (x : SysChan) : (s.setSys n x).links = s.links := rfl
@[simp] theorem State.setSys_coll (n : Nat) (x : SysChan) : (s.setSys n x).coll = s.coll := rfl
@[simp] theorem State.setSys_res (n : Nat) (x : SysChan) : (s.setSys n x).res = s.res := rfl
@[simp] theorem State.setSys_snaps (n : Nat) (x : SysChan) : (s.setSys n x).snaps = s.snaps := rfl
@[simp] theorem State.setSys_flash (n : Nat) (x : SysChan) : (s.setSys n x).flash = s.flash := rfl
@[simp] theorem State.setSys_fwm (n : Nat) (x : SysChan) : (s.setSys n x).fwm = s.fwm := rfl
@[simp] theorem State.setSys_hif (n : Nat) (x : SysChan) : (s.setSys n x).hif = s.hif := rfl
@[simp] theorem State.setSys_maint (n : Nat) (x : SysChan) : (s.setSys n x).maint = s.maint := rfl
@[simp] theorem State.setSys_view (n : Nat) (x : SysChan) : (s.setSys n x).view = s.view := rfl

/-! ### updSys -/

@[simp] theorem State.updSys_pending (n : Nat) (f : SysChan → SysChan) : (s.updSys n f).pending = s.pending := rfl
@[simp] theorem State.updSys_out (n : Nat) (f : SysChan → SysChan) : (s.updSys n f).out = s.out := rfl
@[simp] theorem State.updSys_draws (n : Nat) (f : SysChan → SysChan) : (s.updSys n f).draws = s.draws := rfl
@[simp] theorem State.updSys_boot (n : Nat) (f : SysChan → SysChan) : (s.updSys n f).boot = s.boot := rfl
@[simp] theorem State.updSys_pwr (n : Nat) (f : SysChan → SysChan) : (s.updSys n f).pwr = s.pwr := rfl
@[simp] theorem State.updSys_tiles (n : Nat) (f : SysChan → SysChan) : (s.updSys n f).tiles = s.tiles := rfl
@[simp] theorem State.updSys_streams (n : Nat) (f : SysChan → SysChan) : (s.updSys n f).streams = s.streams := rfl
@[simp] theorem State.updSys_sys (n : Nat) (f : SysChan → SysChan) : (s.updSys n f).sys = Store.set .reset s.sys n (f (s.sysChan n)) := rfl
@[simp] theorem State.updSys_hbm (n : Nat) (f : SysChan → SysChan) : (s.updSys n f).hbm = s.hbm := rfl
@[simp] theorem State.updSys_pageLabels (n : Nat) (f : SysChan → SysChan) : (s.updSys n f).pageLabels = s.pageLabels := rfl
@[simp] theorem State.updSys_sec (n : Nat) (f : SysChan → SysChan) : (s.updSys n f).sec = s.sec := rfl
@[simp] theorem State.updSys_parts (n : Nat) (f : SysChan → SysChan) : (s.updSys n f).parts = s.parts := rfl
@[simp] theorem State.updSys_jobs (n : Nat) (f : SysChan → SysChan) : (s.updSys n f).jobs = s.jobs := rfl
@[simp] theorem State.updSys_links (n : Nat) (f : SysChan → SysChan) : (s.updSys n f).links = s.links := rfl
@[simp] theorem State.updSys_coll (n : Nat) (f : SysChan → SysChan) : (s.updSys n f).coll = s.coll := rfl
@[simp] theorem State.updSys_res (n : Nat) (f : SysChan → SysChan) : (s.updSys n f).res = s.res := rfl
@[simp] theorem State.updSys_snaps (n : Nat) (f : SysChan → SysChan) : (s.updSys n f).snaps = s.snaps := rfl
@[simp] theorem State.updSys_flash (n : Nat) (f : SysChan → SysChan) : (s.updSys n f).flash = s.flash := rfl
@[simp] theorem State.updSys_fwm (n : Nat) (f : SysChan → SysChan) : (s.updSys n f).fwm = s.fwm := rfl
@[simp] theorem State.updSys_hif (n : Nat) (f : SysChan → SysChan) : (s.updSys n f).hif = s.hif := rfl
@[simp] theorem State.updSys_maint (n : Nat) (f : SysChan → SysChan) : (s.updSys n f).maint = s.maint := rfl
@[simp] theorem State.updSys_view (n : Nat) (f : SysChan → SysChan) : (s.updSys n f).view = s.view := rfl

/-! ### setPart -/

@[simp] theorem State.setPart_pending (p : Nat) (x : Part) : (s.setPart p x).pending = s.pending := rfl
@[simp] theorem State.setPart_out (p : Nat) (x : Part) : (s.setPart p x).out = s.out := rfl
@[simp] theorem State.setPart_draws (p : Nat) (x : Part) : (s.setPart p x).draws = s.draws := rfl
@[simp] theorem State.setPart_boot (p : Nat) (x : Part) : (s.setPart p x).boot = s.boot := rfl
@[simp] theorem State.setPart_pwr (p : Nat) (x : Part) : (s.setPart p x).pwr = s.pwr := rfl
@[simp] theorem State.setPart_tiles (p : Nat) (x : Part) : (s.setPart p x).tiles = s.tiles := rfl
@[simp] theorem State.setPart_streams (p : Nat) (x : Part) : (s.setPart p x).streams = s.streams := rfl
@[simp] theorem State.setPart_sys (p : Nat) (x : Part) : (s.setPart p x).sys = s.sys := rfl
@[simp] theorem State.setPart_hbm (p : Nat) (x : Part) : (s.setPart p x).hbm = s.hbm := rfl
@[simp] theorem State.setPart_pageLabels (p : Nat) (x : Part) : (s.setPart p x).pageLabels = s.pageLabels := rfl
@[simp] theorem State.setPart_sec (p : Nat) (x : Part) : (s.setPart p x).sec = s.sec := rfl
@[simp] theorem State.setPart_parts (p : Nat) (x : Part) : (s.setPart p x).parts = Store.set .reset s.parts p x := rfl
@[simp] theorem State.setPart_jobs (p : Nat) (x : Part) : (s.setPart p x).jobs = s.jobs := rfl
@[simp] theorem State.setPart_links (p : Nat) (x : Part) : (s.setPart p x).links = s.links := rfl
@[simp] theorem State.setPart_coll (p : Nat) (x : Part) : (s.setPart p x).coll = s.coll := rfl
@[simp] theorem State.setPart_res (p : Nat) (x : Part) : (s.setPart p x).res = s.res := rfl
@[simp] theorem State.setPart_snaps (p : Nat) (x : Part) : (s.setPart p x).snaps = s.snaps := rfl
@[simp] theorem State.setPart_flash (p : Nat) (x : Part) : (s.setPart p x).flash = s.flash := rfl
@[simp] theorem State.setPart_fwm (p : Nat) (x : Part) : (s.setPart p x).fwm = s.fwm := rfl
@[simp] theorem State.setPart_hif (p : Nat) (x : Part) : (s.setPart p x).hif = s.hif := rfl
@[simp] theorem State.setPart_maint (p : Nat) (x : Part) : (s.setPart p x).maint = s.maint := rfl
@[simp] theorem State.setPart_view (p : Nat) (x : Part) : (s.setPart p x).view = s.view := rfl

/-! ### updPart -/

@[simp] theorem State.updPart_pending (p : Nat) (f : Part → Part) : (s.updPart p f).pending = s.pending := rfl
@[simp] theorem State.updPart_out (p : Nat) (f : Part → Part) : (s.updPart p f).out = s.out := rfl
@[simp] theorem State.updPart_draws (p : Nat) (f : Part → Part) : (s.updPart p f).draws = s.draws := rfl
@[simp] theorem State.updPart_boot (p : Nat) (f : Part → Part) : (s.updPart p f).boot = s.boot := rfl
@[simp] theorem State.updPart_pwr (p : Nat) (f : Part → Part) : (s.updPart p f).pwr = s.pwr := rfl
@[simp] theorem State.updPart_tiles (p : Nat) (f : Part → Part) : (s.updPart p f).tiles = s.tiles := rfl
@[simp] theorem State.updPart_streams (p : Nat) (f : Part → Part) : (s.updPart p f).streams = s.streams := rfl
@[simp] theorem State.updPart_sys (p : Nat) (f : Part → Part) : (s.updPart p f).sys = s.sys := rfl
@[simp] theorem State.updPart_hbm (p : Nat) (f : Part → Part) : (s.updPart p f).hbm = s.hbm := rfl
@[simp] theorem State.updPart_pageLabels (p : Nat) (f : Part → Part) : (s.updPart p f).pageLabels = s.pageLabels := rfl
@[simp] theorem State.updPart_sec (p : Nat) (f : Part → Part) : (s.updPart p f).sec = s.sec := rfl
@[simp] theorem State.updPart_parts (p : Nat) (f : Part → Part) : (s.updPart p f).parts = Store.set .reset s.parts p (f (s.part p)) := rfl
@[simp] theorem State.updPart_jobs (p : Nat) (f : Part → Part) : (s.updPart p f).jobs = s.jobs := rfl
@[simp] theorem State.updPart_links (p : Nat) (f : Part → Part) : (s.updPart p f).links = s.links := rfl
@[simp] theorem State.updPart_coll (p : Nat) (f : Part → Part) : (s.updPart p f).coll = s.coll := rfl
@[simp] theorem State.updPart_res (p : Nat) (f : Part → Part) : (s.updPart p f).res = s.res := rfl
@[simp] theorem State.updPart_snaps (p : Nat) (f : Part → Part) : (s.updPart p f).snaps = s.snaps := rfl
@[simp] theorem State.updPart_flash (p : Nat) (f : Part → Part) : (s.updPart p f).flash = s.flash := rfl
@[simp] theorem State.updPart_fwm (p : Nat) (f : Part → Part) : (s.updPart p f).fwm = s.fwm := rfl
@[simp] theorem State.updPart_hif (p : Nat) (f : Part → Part) : (s.updPart p f).hif = s.hif := rfl
@[simp] theorem State.updPart_maint (p : Nat) (f : Part → Part) : (s.updPart p f).maint = s.maint := rfl
@[simp] theorem State.updPart_view (p : Nat) (f : Part → Part) : (s.updPart p f).view = s.view := rfl

/-! ### setJob -/

@[simp] theorem State.setJob_pending (p : Nat) (x : Job) : (s.setJob p x).pending = s.pending := rfl
@[simp] theorem State.setJob_out (p : Nat) (x : Job) : (s.setJob p x).out = s.out := rfl
@[simp] theorem State.setJob_draws (p : Nat) (x : Job) : (s.setJob p x).draws = s.draws := rfl
@[simp] theorem State.setJob_boot (p : Nat) (x : Job) : (s.setJob p x).boot = s.boot := rfl
@[simp] theorem State.setJob_pwr (p : Nat) (x : Job) : (s.setJob p x).pwr = s.pwr := rfl
@[simp] theorem State.setJob_tiles (p : Nat) (x : Job) : (s.setJob p x).tiles = s.tiles := rfl
@[simp] theorem State.setJob_streams (p : Nat) (x : Job) : (s.setJob p x).streams = s.streams := rfl
@[simp] theorem State.setJob_sys (p : Nat) (x : Job) : (s.setJob p x).sys = s.sys := rfl
@[simp] theorem State.setJob_hbm (p : Nat) (x : Job) : (s.setJob p x).hbm = s.hbm := rfl
@[simp] theorem State.setJob_pageLabels (p : Nat) (x : Job) : (s.setJob p x).pageLabels = s.pageLabels := rfl
@[simp] theorem State.setJob_sec (p : Nat) (x : Job) : (s.setJob p x).sec = s.sec := rfl
@[simp] theorem State.setJob_parts (p : Nat) (x : Job) : (s.setJob p x).parts = s.parts := rfl
@[simp] theorem State.setJob_jobs (p : Nat) (x : Job) : (s.setJob p x).jobs = Store.set .reset s.jobs p x := rfl
@[simp] theorem State.setJob_links (p : Nat) (x : Job) : (s.setJob p x).links = s.links := rfl
@[simp] theorem State.setJob_coll (p : Nat) (x : Job) : (s.setJob p x).coll = s.coll := rfl
@[simp] theorem State.setJob_res (p : Nat) (x : Job) : (s.setJob p x).res = s.res := rfl
@[simp] theorem State.setJob_snaps (p : Nat) (x : Job) : (s.setJob p x).snaps = s.snaps := rfl
@[simp] theorem State.setJob_flash (p : Nat) (x : Job) : (s.setJob p x).flash = s.flash := rfl
@[simp] theorem State.setJob_fwm (p : Nat) (x : Job) : (s.setJob p x).fwm = s.fwm := rfl
@[simp] theorem State.setJob_hif (p : Nat) (x : Job) : (s.setJob p x).hif = s.hif := rfl
@[simp] theorem State.setJob_maint (p : Nat) (x : Job) : (s.setJob p x).maint = s.maint := rfl
@[simp] theorem State.setJob_view (p : Nat) (x : Job) : (s.setJob p x).view = s.view := rfl

/-! ### updJob -/

@[simp] theorem State.updJob_pending (p : Nat) (f : Job → Job) : (s.updJob p f).pending = s.pending := rfl
@[simp] theorem State.updJob_out (p : Nat) (f : Job → Job) : (s.updJob p f).out = s.out := rfl
@[simp] theorem State.updJob_draws (p : Nat) (f : Job → Job) : (s.updJob p f).draws = s.draws := rfl
@[simp] theorem State.updJob_boot (p : Nat) (f : Job → Job) : (s.updJob p f).boot = s.boot := rfl
@[simp] theorem State.updJob_pwr (p : Nat) (f : Job → Job) : (s.updJob p f).pwr = s.pwr := rfl
@[simp] theorem State.updJob_tiles (p : Nat) (f : Job → Job) : (s.updJob p f).tiles = s.tiles := rfl
@[simp] theorem State.updJob_streams (p : Nat) (f : Job → Job) : (s.updJob p f).streams = s.streams := rfl
@[simp] theorem State.updJob_sys (p : Nat) (f : Job → Job) : (s.updJob p f).sys = s.sys := rfl
@[simp] theorem State.updJob_hbm (p : Nat) (f : Job → Job) : (s.updJob p f).hbm = s.hbm := rfl
@[simp] theorem State.updJob_pageLabels (p : Nat) (f : Job → Job) : (s.updJob p f).pageLabels = s.pageLabels := rfl
@[simp] theorem State.updJob_sec (p : Nat) (f : Job → Job) : (s.updJob p f).sec = s.sec := rfl
@[simp] theorem State.updJob_parts (p : Nat) (f : Job → Job) : (s.updJob p f).parts = s.parts := rfl
@[simp] theorem State.updJob_jobs (p : Nat) (f : Job → Job) : (s.updJob p f).jobs = Store.set .reset s.jobs p (f (s.job p)) := rfl
@[simp] theorem State.updJob_links (p : Nat) (f : Job → Job) : (s.updJob p f).links = s.links := rfl
@[simp] theorem State.updJob_coll (p : Nat) (f : Job → Job) : (s.updJob p f).coll = s.coll := rfl
@[simp] theorem State.updJob_res (p : Nat) (f : Job → Job) : (s.updJob p f).res = s.res := rfl
@[simp] theorem State.updJob_snaps (p : Nat) (f : Job → Job) : (s.updJob p f).snaps = s.snaps := rfl
@[simp] theorem State.updJob_flash (p : Nat) (f : Job → Job) : (s.updJob p f).flash = s.flash := rfl
@[simp] theorem State.updJob_fwm (p : Nat) (f : Job → Job) : (s.updJob p f).fwm = s.fwm := rfl
@[simp] theorem State.updJob_hif (p : Nat) (f : Job → Job) : (s.updJob p f).hif = s.hif := rfl
@[simp] theorem State.updJob_maint (p : Nat) (f : Job → Job) : (s.updJob p f).maint = s.maint := rfl
@[simp] theorem State.updJob_view (p : Nat) (f : Job → Job) : (s.updJob p f).view = s.view := rfl

/-! ### setSnap -/

@[simp] theorem State.setSnap_pending (p : Nat) (x : SnapPart) : (s.setSnap p x).pending = s.pending := rfl
@[simp] theorem State.setSnap_out (p : Nat) (x : SnapPart) : (s.setSnap p x).out = s.out := rfl
@[simp] theorem State.setSnap_draws (p : Nat) (x : SnapPart) : (s.setSnap p x).draws = s.draws := rfl
@[simp] theorem State.setSnap_boot (p : Nat) (x : SnapPart) : (s.setSnap p x).boot = s.boot := rfl
@[simp] theorem State.setSnap_pwr (p : Nat) (x : SnapPart) : (s.setSnap p x).pwr = s.pwr := rfl
@[simp] theorem State.setSnap_tiles (p : Nat) (x : SnapPart) : (s.setSnap p x).tiles = s.tiles := rfl
@[simp] theorem State.setSnap_streams (p : Nat) (x : SnapPart) : (s.setSnap p x).streams = s.streams := rfl
@[simp] theorem State.setSnap_sys (p : Nat) (x : SnapPart) : (s.setSnap p x).sys = s.sys := rfl
@[simp] theorem State.setSnap_hbm (p : Nat) (x : SnapPart) : (s.setSnap p x).hbm = s.hbm := rfl
@[simp] theorem State.setSnap_pageLabels (p : Nat) (x : SnapPart) : (s.setSnap p x).pageLabels = s.pageLabels := rfl
@[simp] theorem State.setSnap_sec (p : Nat) (x : SnapPart) : (s.setSnap p x).sec = s.sec := rfl
@[simp] theorem State.setSnap_parts (p : Nat) (x : SnapPart) : (s.setSnap p x).parts = s.parts := rfl
@[simp] theorem State.setSnap_jobs (p : Nat) (x : SnapPart) : (s.setSnap p x).jobs = s.jobs := rfl
@[simp] theorem State.setSnap_links (p : Nat) (x : SnapPart) : (s.setSnap p x).links = s.links := rfl
@[simp] theorem State.setSnap_coll (p : Nat) (x : SnapPart) : (s.setSnap p x).coll = s.coll := rfl
@[simp] theorem State.setSnap_res (p : Nat) (x : SnapPart) : (s.setSnap p x).res = s.res := rfl
@[simp] theorem State.setSnap_snaps (p : Nat) (x : SnapPart) : (s.setSnap p x).snaps = Store.set .reset s.snaps p x := rfl
@[simp] theorem State.setSnap_flash (p : Nat) (x : SnapPart) : (s.setSnap p x).flash = s.flash := rfl
@[simp] theorem State.setSnap_fwm (p : Nat) (x : SnapPart) : (s.setSnap p x).fwm = s.fwm := rfl
@[simp] theorem State.setSnap_hif (p : Nat) (x : SnapPart) : (s.setSnap p x).hif = s.hif := rfl
@[simp] theorem State.setSnap_maint (p : Nat) (x : SnapPart) : (s.setSnap p x).maint = s.maint := rfl
@[simp] theorem State.setSnap_view (p : Nat) (x : SnapPart) : (s.setSnap p x).view = s.view := rfl

/-! ### updSnap -/

@[simp] theorem State.updSnap_pending (p : Nat) (f : SnapPart → SnapPart) : (s.updSnap p f).pending = s.pending := rfl
@[simp] theorem State.updSnap_out (p : Nat) (f : SnapPart → SnapPart) : (s.updSnap p f).out = s.out := rfl
@[simp] theorem State.updSnap_draws (p : Nat) (f : SnapPart → SnapPart) : (s.updSnap p f).draws = s.draws := rfl
@[simp] theorem State.updSnap_boot (p : Nat) (f : SnapPart → SnapPart) : (s.updSnap p f).boot = s.boot := rfl
@[simp] theorem State.updSnap_pwr (p : Nat) (f : SnapPart → SnapPart) : (s.updSnap p f).pwr = s.pwr := rfl
@[simp] theorem State.updSnap_tiles (p : Nat) (f : SnapPart → SnapPart) : (s.updSnap p f).tiles = s.tiles := rfl
@[simp] theorem State.updSnap_streams (p : Nat) (f : SnapPart → SnapPart) : (s.updSnap p f).streams = s.streams := rfl
@[simp] theorem State.updSnap_sys (p : Nat) (f : SnapPart → SnapPart) : (s.updSnap p f).sys = s.sys := rfl
@[simp] theorem State.updSnap_hbm (p : Nat) (f : SnapPart → SnapPart) : (s.updSnap p f).hbm = s.hbm := rfl
@[simp] theorem State.updSnap_pageLabels (p : Nat) (f : SnapPart → SnapPart) : (s.updSnap p f).pageLabels = s.pageLabels := rfl
@[simp] theorem State.updSnap_sec (p : Nat) (f : SnapPart → SnapPart) : (s.updSnap p f).sec = s.sec := rfl
@[simp] theorem State.updSnap_parts (p : Nat) (f : SnapPart → SnapPart) : (s.updSnap p f).parts = s.parts := rfl
@[simp] theorem State.updSnap_jobs (p : Nat) (f : SnapPart → SnapPart) : (s.updSnap p f).jobs = s.jobs := rfl
@[simp] theorem State.updSnap_links (p : Nat) (f : SnapPart → SnapPart) : (s.updSnap p f).links = s.links := rfl
@[simp] theorem State.updSnap_coll (p : Nat) (f : SnapPart → SnapPart) : (s.updSnap p f).coll = s.coll := rfl
@[simp] theorem State.updSnap_res (p : Nat) (f : SnapPart → SnapPart) : (s.updSnap p f).res = s.res := rfl
@[simp] theorem State.updSnap_snaps (p : Nat) (f : SnapPart → SnapPart) : (s.updSnap p f).snaps = Store.set .reset s.snaps p (f (s.snap p)) := rfl
@[simp] theorem State.updSnap_flash (p : Nat) (f : SnapPart → SnapPart) : (s.updSnap p f).flash = s.flash := rfl
@[simp] theorem State.updSnap_fwm (p : Nat) (f : SnapPart → SnapPart) : (s.updSnap p f).fwm = s.fwm := rfl
@[simp] theorem State.updSnap_hif (p : Nat) (f : SnapPart → SnapPart) : (s.updSnap p f).hif = s.hif := rfl
@[simp] theorem State.updSnap_maint (p : Nat) (f : SnapPart → SnapPart) : (s.updSnap p f).maint = s.maint := rfl
@[simp] theorem State.updSnap_view (p : Nat) (f : SnapPart → SnapPart) : (s.updSnap p f).view = s.view := rfl

/-! ### setPort -/

@[simp] theorem State.setPort_pending (k : Nat) (x : Port) : (s.setPort k x).pending = s.pending := rfl
@[simp] theorem State.setPort_out (k : Nat) (x : Port) : (s.setPort k x).out = s.out := rfl
@[simp] theorem State.setPort_draws (k : Nat) (x : Port) : (s.setPort k x).draws = s.draws := rfl
@[simp] theorem State.setPort_boot (k : Nat) (x : Port) : (s.setPort k x).boot = s.boot := rfl
@[simp] theorem State.setPort_pwr (k : Nat) (x : Port) : (s.setPort k x).pwr = s.pwr := rfl
@[simp] theorem State.setPort_tiles (k : Nat) (x : Port) : (s.setPort k x).tiles = s.tiles := rfl
@[simp] theorem State.setPort_streams (k : Nat) (x : Port) : (s.setPort k x).streams = s.streams := rfl
@[simp] theorem State.setPort_sys (k : Nat) (x : Port) : (s.setPort k x).sys = s.sys := rfl
@[simp] theorem State.setPort_hbm (k : Nat) (x : Port) : (s.setPort k x).hbm = s.hbm := rfl
@[simp] theorem State.setPort_pageLabels (k : Nat) (x : Port) : (s.setPort k x).pageLabels = s.pageLabels := rfl
@[simp] theorem State.setPort_sec (k : Nat) (x : Port) : (s.setPort k x).sec = s.sec := rfl
@[simp] theorem State.setPort_parts (k : Nat) (x : Port) : (s.setPort k x).parts = s.parts := rfl
@[simp] theorem State.setPort_jobs (k : Nat) (x : Port) : (s.setPort k x).jobs = s.jobs := rfl
@[simp] theorem State.setPort_links (k : Nat) (x : Port) : (s.setPort k x).links = s.links.setPort k x := rfl
@[simp] theorem State.setPort_coll (k : Nat) (x : Port) : (s.setPort k x).coll = s.coll := rfl
@[simp] theorem State.setPort_res (k : Nat) (x : Port) : (s.setPort k x).res = s.res := rfl
@[simp] theorem State.setPort_snaps (k : Nat) (x : Port) : (s.setPort k x).snaps = s.snaps := rfl
@[simp] theorem State.setPort_flash (k : Nat) (x : Port) : (s.setPort k x).flash = s.flash := rfl
@[simp] theorem State.setPort_fwm (k : Nat) (x : Port) : (s.setPort k x).fwm = s.fwm := rfl
@[simp] theorem State.setPort_hif (k : Nat) (x : Port) : (s.setPort k x).hif = s.hif := rfl
@[simp] theorem State.setPort_maint (k : Nat) (x : Port) : (s.setPort k x).maint = s.maint := rfl
@[simp] theorem State.setPort_view (k : Nat) (x : Port) : (s.setPort k x).view = s.view := rfl

/-! ### updPort -/

@[simp] theorem State.updPort_pending (k : Nat) (f : Port → Port) : (s.updPort k f).pending = s.pending := rfl
@[simp] theorem State.updPort_out (k : Nat) (f : Port → Port) : (s.updPort k f).out = s.out := rfl
@[simp] theorem State.updPort_draws (k : Nat) (f : Port → Port) : (s.updPort k f).draws = s.draws := rfl
@[simp] theorem State.updPort_boot (k : Nat) (f : Port → Port) : (s.updPort k f).boot = s.boot := rfl
@[simp] theorem State.updPort_pwr (k : Nat) (f : Port → Port) : (s.updPort k f).pwr = s.pwr := rfl
@[simp] theorem State.updPort_tiles (k : Nat) (f : Port → Port) : (s.updPort k f).tiles = s.tiles := rfl
@[simp] theorem State.updPort_streams (k : Nat) (f : Port → Port) : (s.updPort k f).streams = s.streams := rfl
@[simp] theorem State.updPort_sys (k : Nat) (f : Port → Port) : (s.updPort k f).sys = s.sys := rfl
@[simp] theorem State.updPort_hbm (k : Nat) (f : Port → Port) : (s.updPort k f).hbm = s.hbm := rfl
@[simp] theorem State.updPort_pageLabels (k : Nat) (f : Port → Port) : (s.updPort k f).pageLabels = s.pageLabels := rfl
@[simp] theorem State.updPort_sec (k : Nat) (f : Port → Port) : (s.updPort k f).sec = s.sec := rfl
@[simp] theorem State.updPort_parts (k : Nat) (f : Port → Port) : (s.updPort k f).parts = s.parts := rfl
@[simp] theorem State.updPort_jobs (k : Nat) (f : Port → Port) : (s.updPort k f).jobs = s.jobs := rfl
@[simp] theorem State.updPort_links (k : Nat) (f : Port → Port) : (s.updPort k f).links = s.links.setPort k (f (s.port k)) := rfl
@[simp] theorem State.updPort_coll (k : Nat) (f : Port → Port) : (s.updPort k f).coll = s.coll := rfl
@[simp] theorem State.updPort_res (k : Nat) (f : Port → Port) : (s.updPort k f).res = s.res := rfl
@[simp] theorem State.updPort_snaps (k : Nat) (f : Port → Port) : (s.updPort k f).snaps = s.snaps := rfl
@[simp] theorem State.updPort_flash (k : Nat) (f : Port → Port) : (s.updPort k f).flash = s.flash := rfl
@[simp] theorem State.updPort_fwm (k : Nat) (f : Port → Port) : (s.updPort k f).fwm = s.fwm := rfl
@[simp] theorem State.updPort_hif (k : Nat) (f : Port → Port) : (s.updPort k f).hif = s.hif := rfl
@[simp] theorem State.updPort_maint (k : Nat) (f : Port → Port) : (s.updPort k f).maint = s.maint := rfl
@[simp] theorem State.updPort_view (k : Nat) (f : Port → Port) : (s.updPort k f).view = s.view := rfl

/-! ### emit -/

@[simp] theorem State.emit_pending (os : List Out) : (s.emit os).pending = s.pending := rfl
@[simp] theorem State.emit_out (os : List Out) : (s.emit os).out = os.reverse ++ s.out := rfl
@[simp] theorem State.emit_draws (os : List Out) : (s.emit os).draws = s.draws := rfl
@[simp] theorem State.emit_boot (os : List Out) : (s.emit os).boot = s.boot := rfl
@[simp] theorem State.emit_pwr (os : List Out) : (s.emit os).pwr = s.pwr := rfl
@[simp] theorem State.emit_tiles (os : List Out) : (s.emit os).tiles = s.tiles := rfl
@[simp] theorem State.emit_streams (os : List Out) : (s.emit os).streams = s.streams := rfl
@[simp] theorem State.emit_sys (os : List Out) : (s.emit os).sys = s.sys := rfl
@[simp] theorem State.emit_hbm (os : List Out) : (s.emit os).hbm = s.hbm := rfl
@[simp] theorem State.emit_pageLabels (os : List Out) : (s.emit os).pageLabels = s.pageLabels := rfl
@[simp] theorem State.emit_sec (os : List Out) : (s.emit os).sec = s.sec := rfl
@[simp] theorem State.emit_parts (os : List Out) : (s.emit os).parts = s.parts := rfl
@[simp] theorem State.emit_jobs (os : List Out) : (s.emit os).jobs = s.jobs := rfl
@[simp] theorem State.emit_links (os : List Out) : (s.emit os).links = s.links := rfl
@[simp] theorem State.emit_coll (os : List Out) : (s.emit os).coll = s.coll := rfl
@[simp] theorem State.emit_res (os : List Out) : (s.emit os).res = s.res := rfl
@[simp] theorem State.emit_snaps (os : List Out) : (s.emit os).snaps = s.snaps := rfl
@[simp] theorem State.emit_flash (os : List Out) : (s.emit os).flash = s.flash := rfl
@[simp] theorem State.emit_fwm (os : List Out) : (s.emit os).fwm = s.fwm := rfl
@[simp] theorem State.emit_hif (os : List Out) : (s.emit os).hif = s.hif := rfl
@[simp] theorem State.emit_maint (os : List Out) : (s.emit os).maint = s.maint := rfl
@[simp] theorem State.emit_view (os : List Out) : (s.emit os).view = s.view := rfl

/-! ### withHif -/

@[simp] theorem State.withHif_pending (h : Hif × List Out) : (s.withHif h).pending = s.pending := rfl
@[simp] theorem State.withHif_out (h : Hif × List Out) : (s.withHif h).out = h.2.reverse ++ s.out := rfl
@[simp] theorem State.withHif_draws (h : Hif × List Out) : (s.withHif h).draws = s.draws := rfl
@[simp] theorem State.withHif_boot (h : Hif × List Out) : (s.withHif h).boot = s.boot := rfl
@[simp] theorem State.withHif_pwr (h : Hif × List Out) : (s.withHif h).pwr = s.pwr := rfl
@[simp] theorem State.withHif_tiles (h : Hif × List Out) : (s.withHif h).tiles = s.tiles := rfl
@[simp] theorem State.withHif_streams (h : Hif × List Out) : (s.withHif h).streams = s.streams := rfl
@[simp] theorem State.withHif_sys (h : Hif × List Out) : (s.withHif h).sys = s.sys := rfl
@[simp] theorem State.withHif_hbm (h : Hif × List Out) : (s.withHif h).hbm = s.hbm := rfl
@[simp] theorem State.withHif_pageLabels (h : Hif × List Out) : (s.withHif h).pageLabels = s.pageLabels := rfl
@[simp] theorem State.withHif_sec (h : Hif × List Out) : (s.withHif h).sec = s.sec := rfl
@[simp] theorem State.withHif_parts (h : Hif × List Out) : (s.withHif h).parts = s.parts := rfl
@[simp] theorem State.withHif_jobs (h : Hif × List Out) : (s.withHif h).jobs = s.jobs := rfl
@[simp] theorem State.withHif_links (h : Hif × List Out) : (s.withHif h).links = s.links := rfl
@[simp] theorem State.withHif_coll (h : Hif × List Out) : (s.withHif h).coll = s.coll := rfl
@[simp] theorem State.withHif_res (h : Hif × List Out) : (s.withHif h).res = s.res := rfl
@[simp] theorem State.withHif_snaps (h : Hif × List Out) : (s.withHif h).snaps = s.snaps := rfl
@[simp] theorem State.withHif_flash (h : Hif × List Out) : (s.withHif h).flash = s.flash := rfl
@[simp] theorem State.withHif_fwm (h : Hif × List Out) : (s.withHif h).fwm = s.fwm := rfl
@[simp] theorem State.withHif_hif (h : Hif × List Out) : (s.withHif h).hif = h.1 := rfl
@[simp] theorem State.withHif_maint (h : Hif × List Out) : (s.withHif h).maint = s.maint := rfl
@[simp] theorem State.withHif_view (h : Hif × List Out) : (s.withHif h).view = s.view := rfl

/-! ### trace -/

@[simp] theorem State.trace_pending (point part sev : Nat) (args : List Nat) : (s.trace point part sev args).pending = s.pending := rfl
@[simp] theorem State.trace_out (point part sev : Nat) (args : List Nat) : (s.trace point part sev args).out = s.out := rfl
@[simp] theorem State.trace_draws (point part sev : Nat) (args : List Nat) : (s.trace point part sev args).draws = s.draws := rfl
@[simp] theorem State.trace_boot (point part sev : Nat) (args : List Nat) : (s.trace point part sev args).boot = s.boot := rfl
@[simp] theorem State.trace_pwr (point part sev : Nat) (args : List Nat) : (s.trace point part sev args).pwr = s.pwr := rfl
@[simp] theorem State.trace_tiles (point part sev : Nat) (args : List Nat) : (s.trace point part sev args).tiles = s.tiles := rfl
@[simp] theorem State.trace_streams (point part sev : Nat) (args : List Nat) : (s.trace point part sev args).streams = s.streams := rfl
@[simp] theorem State.trace_sys (point part sev : Nat) (args : List Nat) : (s.trace point part sev args).sys = s.sys := rfl
@[simp] theorem State.trace_hbm (point part sev : Nat) (args : List Nat) : (s.trace point part sev args).hbm = s.hbm := rfl
@[simp] theorem State.trace_pageLabels (point part sev : Nat) (args : List Nat) : (s.trace point part sev args).pageLabels = s.pageLabels := rfl
@[simp] theorem State.trace_sec (point part sev : Nat) (args : List Nat) : (s.trace point part sev args).sec = s.sec := rfl
@[simp] theorem State.trace_parts (point part sev : Nat) (args : List Nat) : (s.trace point part sev args).parts = s.parts := rfl
@[simp] theorem State.trace_jobs (point part sev : Nat) (args : List Nat) : (s.trace point part sev args).jobs = s.jobs := rfl
@[simp] theorem State.trace_links (point part sev : Nat) (args : List Nat) : (s.trace point part sev args).links = s.links := rfl
@[simp] theorem State.trace_coll (point part sev : Nat) (args : List Nat) : (s.trace point part sev args).coll = s.coll := rfl
@[simp] theorem State.trace_res (point part sev : Nat) (args : List Nat) : (s.trace point part sev args).res = s.res := rfl
@[simp] theorem State.trace_snaps (point part sev : Nat) (args : List Nat) : (s.trace point part sev args).snaps = s.snaps := rfl
@[simp] theorem State.trace_flash (point part sev : Nat) (args : List Nat) : (s.trace point part sev args).flash = s.flash := rfl
@[simp] theorem State.trace_fwm (point part sev : Nat) (args : List Nat) : (s.trace point part sev args).fwm = s.fwm.trace s.ringReady point part sev args := rfl
@[simp] theorem State.trace_hif (point part sev : Nat) (args : List Nat) : (s.trace point part sev args).hif = s.hif := rfl
@[simp] theorem State.trace_maint (point part sev : Nat) (args : List Nat) : (s.trace point part sev args).maint = s.maint := rfl
@[simp] theorem State.trace_view (point part sev : Nat) (args : List Nat) : (s.trace point part sev args).view = s.view := rfl

/-! ### draw -/

@[simp] theorem State.draw_fst : s.draw.1 = s.draws := rfl
@[simp] theorem State.draw_pending : s.draw.2.pending = s.pending := rfl
@[simp] theorem State.draw_out : s.draw.2.out = s.out := rfl
@[simp] theorem State.draw_draws : s.draw.2.draws = s.draws + 1 := rfl
@[simp] theorem State.draw_boot : s.draw.2.boot = s.boot := rfl
@[simp] theorem State.draw_pwr : s.draw.2.pwr = s.pwr := rfl
@[simp] theorem State.draw_tiles : s.draw.2.tiles = s.tiles := rfl
@[simp] theorem State.draw_streams : s.draw.2.streams = s.streams := rfl
@[simp] theorem State.draw_sys : s.draw.2.sys = s.sys := rfl
@[simp] theorem State.draw_hbm : s.draw.2.hbm = s.hbm := rfl
@[simp] theorem State.draw_pageLabels : s.draw.2.pageLabels = s.pageLabels := rfl
@[simp] theorem State.draw_sec : s.draw.2.sec = s.sec := rfl
@[simp] theorem State.draw_parts : s.draw.2.parts = s.parts := rfl
@[simp] theorem State.draw_jobs : s.draw.2.jobs = s.jobs := rfl
@[simp] theorem State.draw_links : s.draw.2.links = s.links := rfl
@[simp] theorem State.draw_coll : s.draw.2.coll = s.coll := rfl
@[simp] theorem State.draw_res : s.draw.2.res = s.res := rfl
@[simp] theorem State.draw_snaps : s.draw.2.snaps = s.snaps := rfl
@[simp] theorem State.draw_flash : s.draw.2.flash = s.flash := rfl
@[simp] theorem State.draw_fwm : s.draw.2.fwm = s.fwm := rfl
@[simp] theorem State.draw_hif : s.draw.2.hif = s.hif := rfl
@[simp] theorem State.draw_maint : s.draw.2.maint = s.maint := rfl
@[simp] theorem State.draw_view : s.draw.2.view = s.view := rfl

end Sys2Proof.Machine
end

