-- ==== Sys2Proof/Laws/Frames.lean ====
section
/-! SUPPORT. What the shared operations leave alone: the queue of commands, power, start-up and the fuses stand, and the memory keeps its canonical form. One lemma for each operation of Machine/Ops.lean. -/

namespace Sys2Proof.Machine

/-- From s to u the queue, power, start-up and fuses stand, and a memory in canonical form stays so. -/
structure Calm (s u : State) : Prop where
  pending : u.pending = s.pending
  pwr : u.pwr = s.pwr
  boot : u.boot = s.boot
  fuses : u.sec.fuses = s.sec.fuses
  mem : Memory.wf s.hbm = true → Memory.wf u.hbm = true

theorem Calm.refl (s : State) : Calm s s := ⟨rfl, rfl, rfl, rfl, id⟩

theorem Calm.trans {s t u : State} (h : Calm s t) (k : Calm t u) : Calm s u :=
  ⟨k.pending.trans h.pending, k.pwr.trans h.pwr, k.boot.trans h.boot, k.fuses.trans h.fuses, fun w => k.mem (h.mem w)⟩

/-- A fold of calm steps is calm. -/
theorem Calm.foldl {α : Type} {f : State → α → State} (hf : ∀ a x, Calm a (f a x)) (xs : List α) (s : State) : Calm s (xs.foldl f s) := by
  induction xs generalizing s with
  | nil => exact .refl s
  | cons x xs ih => exact (hf s x).trans (ih _)

theorem Calm.ite {c : Prop} [Decidable c] {s a b : State} (ha : Calm s a) (hb : Calm s b) : Calm s (if c then a else b) := by
  split
  · exact ha
  · exact hb

theorem State.emit_calm (s : State) (os : List Out) : Calm s (s.emit os) := ⟨rfl, rfl, rfl, rfl, id⟩
theorem State.trace_calm (s : State) (point part sev : Nat) (args : List Nat) : Calm s (s.trace point part sev args) := ⟨rfl, rfl, rfl, rfl, id⟩
theorem State.withHif_calm (s : State) (h : Hif × List Out) : Calm s (s.withHif h) := ⟨rfl, rfl, rfl, rfl, id⟩
theorem State.setTile_calm (s : State) (t : Nat) (x : Tile) : Calm s (s.setTile t x) := ⟨rfl, rfl, rfl, rfl, id⟩
theorem State.updTile_calm (s : State) (t : Nat) (f : Tile → Tile) : Calm s (s.updTile t f) := ⟨rfl, rfl, rfl, rfl, id⟩
theorem State.setPart_calm (s : State) (p : Nat) (x : Part) : Calm s (s.setPart p x) := ⟨rfl, rfl, rfl, rfl, id⟩
theorem State.updPart_calm (s : State) (p : Nat) (f : Part → Part) : Calm s (s.updPart p f) := ⟨rfl, rfl, rfl, rfl, id⟩
theorem State.setJob_calm (s : State) (p : Nat) (x : Job) : Calm s (s.setJob p x) := ⟨rfl, rfl, rfl, rfl, id⟩
theorem State.updJob_calm (s : State) (p : Nat) (f : Job → Job) : Calm s (s.updJob p f) := ⟨rfl, rfl, rfl, rfl, id⟩
theorem State.setSnap_calm (s : State) (p : Nat) (x : SnapPart) : Calm s (s.setSnap p x) := ⟨rfl, rfl, rfl, rfl, id⟩
theorem State.updSnap_calm (s : State) (p : Nat) (f : SnapPart → SnapPart) : Calm s (s.updSnap p f) := ⟨rfl, rfl, rfl, rfl, id⟩
theorem State.setPort_calm (s : State) (k : Nat) (x : Port) : Calm s (s.setPort k x) := ⟨rfl, rfl, rfl, rfl, id⟩
theorem State.updPort_calm (s : State) (k : Nat) (f : Port → Port) : Calm s (s.updPort k f) := ⟨rfl, rfl, rfl, rfl, id⟩
theorem State.setSys_calm (s : State) (n : Nat) (x : SysChan) : Calm s (s.setSys n x) := ⟨rfl, rfl, rfl, rfl, id⟩
theorem State.updSys_calm (s : State) (n : Nat) (f : SysChan → SysChan) : Calm s (s.updSys n f) := ⟨rfl, rfl, rfl, rfl, id⟩

/-- A fault entry leaves the fault record, the log and what leaves the module changed. -/
theorem State.report_calm (s : State) (cls source unit : Nat) (st : Status) (part detail : Nat) : Calm s (s.report cls source unit st part detail) := by
  unfold State.report
  simp only
  split <;> exact ⟨rfl, rfl, rfl, rfl, id⟩

theorem State.updTiles_calm (s : State) (ts : List Nat) (f : Tile → Tile) : Calm s (s.updTiles ts f) := Calm.foldl (fun a t => a.updTile_calm t f) ts s

theorem State.treeReport_calm (s : State) (pc slot level dpa : Nat) : Calm s (s.treeReport pc slot level dpa) := by
  unfold State.treeReport
  simp only
  split
  · exact Calm.foldl (fun a p => a.report_calm _ _ _ _ _ _) _ s
  · split <;> exact State.report_calm _ _ _ _ _ _ _

theorem State.flushQueue_calm (s : State) (i : Nat) : Calm s (s.flushQueue i) := by
  unfold State.flushQueue
  simp only
  split
  · exact ⟨rfl, rfl, rfl, rfl, id⟩
  · split <;> exact ⟨rfl, rfl, rfl, rfl, id⟩

theorem State.flushMany_calm (s : State) (is : List Nat) : Calm s (s.flushMany is) := Calm.foldl (fun a i => a.flushQueue_calm i) is s

theorem State.settleHif_calm (s : State) (h : Hif × List Out) : Calm s (s.settleHif h) := (s.withHif_calm h).trans (State.withHif_calm _ _)

/-- Setting the host interface changes it and what leaves the module, nothing else. -/
theorem State.settleHif_eq (s : State) (h : Hif × List Out) : s.settleHif h = { s with hif := (s.settleHif h).hif, out := (s.settleHif h).out } := by
  unfold State.settleHif
  generalize h.1.dropOrphans h.1.cmdCount = k
  rfl

theorem State.complete_calm (s : State) (fn q seq : Nat) (st : Status) (r0 r1 : Nat) : Calm s (s.complete fn q seq st r0 r1) := s.settleHif_calm _

/-- A completion changes the host interface and what leaves the module, nothing else. -/
theorem State.complete_eq (s : State) (fn q seq : Nat) (st : Status) (r0 r1 : Nat) :
    s.complete fn q seq st r0 r1 = { s with hif := (s.complete fn q seq st r0 r1).hif, out := (s.complete fn q seq st r0 r1).out } := s.settleHif_eq _

/-- The host interface changed, and nothing else. -/
theorem Calm.ofHif (s : State) (h : Hif) : Calm s { s with hif := h } := ⟨rfl, rfl, rfl, rfl, id⟩

/-- How a command that has started is left. -/
def finishCmd (fn q seq : Nat) (r : State × CmdEnd) : State :=
  match r with
  | (s2, .done st r0 r1) => s2.complete fn q seq st r0 r1
  | (s2, .running) => s2

theorem finishCmd_calm {s : State} {r : State × CmdEnd} (fn q seq : Nat) (h : Calm s r.1) : Calm s (finishCmd fn q seq r) := by
  obtain ⟨u, e⟩ := r
  cases e with
  | done st r0 r1 => exact Calm.trans h (u.complete_calm fn q seq st r0 r1)
  | running => exact h

/-- A host command, case by case: none in front, a status from its checks, or what it does. -/
theorem State.hostCmd_cases (s : State) (fn q op : Nat) (f : State → Cmd → Nat → State × CmdEnd) :
    s.hostCmd fn q op f = s ∨ ∃ (c : Cmd) (x : Sq), s.nextCmd fn q op = some c ∧ (s.hif.fn fn).sq q = some x ∧
      let s1 := { s with hif := s.hif.setFn fn ((s.hif.fn fn).setSq q (some (x.start c.entry.seq))) }
      ((∃ st, s.hostCmd fn q op f = s1.complete fn q c.entry.seq st 0 0) ∨ s.hostCmd fn q op f = finishCmd fn q c.entry.seq (f s1 c x.ctx)) := by
  unfold State.hostCmd
  cases hn : s.nextCmd fn q op with
  | none => exact .inl rfl
  | some c =>
    cases hx : (s.hif.fn fn).sq q with
    | none => exact .inl (by simp only [hx])
    | some x =>
      refine .inr ⟨c, x, rfl, rfl, ?_⟩
      simp only [hx]
      split
      · exact .inl ⟨_, rfl⟩
      · split
        · exact .inl ⟨_, rfl⟩
        · exact .inr rfl

/-- A host command is as calm as what it does once it has started. -/
theorem State.hostCmd_calm (s : State) (fn q op : Nat) {f : State → Cmd → Nat → State × CmdEnd} (hf : ∀ a c x, Calm a (f a c x).1) : Calm s (s.hostCmd fn q op f) := by
  rcases s.hostCmd_cases fn q op f with h | ⟨c, x, _, _, ⟨st, h⟩ | h⟩ <;> rw [h]
  · exact .refl s
  · exact (Calm.ofHif s _).trans (State.complete_calm _ _ _ _ _ _ _)
  · exact (Calm.ofHif s _).trans (finishCmd_calm _ _ _ (hf _ _ _))

/-- The stop of a run. -/
theorem State.stopRun_calm (s : State) (p : Nat) (st : Status) : Calm s (s.stopRun p st) := by
  unfold State.stopRun
  simp only
  split
  · exact .refl s
  · split
    · exact .refl s
    · refine Calm.trans ?_ (State.flushMany_calm _ _)
      exact (State.setJob_calm s _ _).trans (Calm.trans (State.updTiles_calm _ _ _) ⟨rfl, rfl, rfl, rfl, id⟩)

theorem State.stageFault_calm (s : State) (t : Nat) (st : Status) (i u : Nat) : Calm s (s.stageFault t st i u) := by
  unfold State.stageFault
  simp only
  split
  · exact .refl s
  · split
    · exact .refl s
    · refine Calm.trans ?_ (State.stopRun_calm _ _ _)
      exact Calm.ite (Calm.trans (State.setTile_calm s _ _) (State.report_calm _ _ _ _ _ _ _)) (.refl s)

theorem State.cancelFill_calm (s : State) (p : Nat) : Calm s (s.cancelFill p) := by
  unfold State.cancelFill
  split
  · exact .refl s
  · exact ((Calm.foldl (fun a k => a.updPort_calm k _) _ s).trans (State.updSnap_calm _ _ _)).trans (State.complete_calm _ _ _ _ _ _ _)

theorem State.jobFault_calm (s : State) (cls source unit : Nat) (st : Status) (p detail : Nat) : Calm s (s.jobFault cls source unit st p detail) :=
  ((s.report_calm _ _ _ _ _ _).trans (State.stopRun_calm _ _ _)).trans (State.cancelFill_calm _ _)

theorem State.stopAll_calm (s : State) (st : Status) : Calm s (s.stopAll st) :=
  Calm.foldl (fun a p => (a.stopRun_calm p st).trans (State.cancelFill_calm _ _)) _ s

theorem State.treeFault_calm (s : State) (pc slot level dpa : Nat) : Calm s (s.treeFault pc slot level dpa) :=
  (s.treeReport_calm _ _ _ _).trans (Calm.foldl (fun a p => a.stopRun_calm p _) _ _)

/-- After a lane's access whose memory is in canonical form. -/
theorem State.afterLane_calm (s : State) (o : LaneOut) (dpa : Nat) (h : Memory.wf s.hbm = true → Memory.wf o.h = true) : Calm s (s.afterLane o dpa) := by
  have h0 : Calm s { s with hbm := o.h } := ⟨rfl, rfl, rfl, rfl, h⟩
  unfold State.afterLane
  simp only
  split
  · exact h0.trans (State.treeFault_calm _ _ _ _ _)
  · exact h0

/-- A line read. -/
theorem State.hbmRead_calm (s : State) (o : Origin) (key dpa : Nat) (b : Bool) (f : Fetch) : Calm s (s.hbmRead o key dpa b f).1 :=
  State.afterLane_calm s _ _ fun hw => Hbm.read_wf hw _ _ _ _ _ _

theorem Sec.derive_fuses (k : Sec) (src i kind owner epoch : Nat) (ctx : List Byte) : (k.derive src i kind owner epoch ctx).1.fuses = k.fuses := by
  unfold Sec.derive
  simp only
  repeat (first | rfl | split)

theorem State.startRekey_calm {s u : State} {p : Nat} (h : s.startRekey p = some u) : Calm s u := by
  unfold State.startRekey at h
  simp only at h
  split at h
  · cases h
  · split at h
    · cases h
    · cases h
      refine ⟨rfl, rfl, rfl, Sec.derive_fuses _ _ _ _ _ _ _, ?_⟩
      intro hw
      show Memory.wf (((s.hbm.rekey p _)).updPart p _) = true
      unfold Hbm.rekey Hbm.loadNext
      split
      · exact hw
      · split <;> exact hw

/-- A line write, where one happens. -/
theorem State.hbmWrite_calm {s u : State} {o : Origin} {key dpa : Nat} {b : Bool} {ws : List (Option TWord)} {f : Fetch} {st : Status}
    (h : s.hbmWrite o key dpa b ws f = some (u, st)) : Calm s u := by
  have hgo : ∀ a : State, Calm a (a.afterLane (a.hbm.write a.laneKeys o key dpa b ws f) dpa) := fun a =>
    State.afterLane_calm a _ _ fun hw => Hbm.write_wf hw _ _ _ _ _ _ _
  unfold State.hbmWrite at h
  simp only at h
  split at h
  · cases h
    exact hgo s
  · split at h
    · cases h
    · split at h
      · rename_i s1 h1
        cases h
        exact (State.startRekey_calm h1).trans (hgo s1)
      · cases h
    · cases h
      exact hgo s

theorem State.vaLine_calm (s : State) (o : Origin) (p : Nat) (space : List MapRun) (va : Nat) : Calm s (s.vaLine o p space va).1 := by
  unfold State.vaLine
  split
  · exact .refl s
  · exact State.hbmRead_calm s _ _ _ _ _

theorem State.readLines_calm (o : Origin) (p : Nat) (space : List MapRun) (k : Nat) (s : State) (va n : Nat) : Calm s (State.readLines o p space k s va n).1 := by
  induction k generalizing s va n with
  | zero => exact .refl s
  | succ k ih => exact (State.vaLine_calm s o p space va).trans (ih _ _ _)

/-- A bulk read. -/
theorem State.vaRead_calm (s : State) (o : Origin) (p : Nat) (space : List MapRun) (va n : Nat) : Calm s (s.vaRead o p space va n).s :=
  State.readLines_calm o p space _ s va _

theorem State.vaPut_calm (s : State) (o : Origin) (p : Nat) (space : List MapRun) (va : Nat) (ws : List TWord) : Calm s (s.vaPut o p space va ws).1 := by
  unfold State.vaPut
  simp only
  split
  · exact .refl s
  · split
    · rename_i r h
      exact State.hbmWrite_calm h
    · exact .refl s

theorem State.writeLines_calm (o : Origin) (p : Nat) (space : List MapRun) (k : Nat) (s : State) (va : Nat) (ws : List TWord) :
    Calm s (State.writeLines o p space k s va ws).1 := by
  induction k generalizing s va ws with
  | zero => exact .refl s
  | succ k ih => exact (State.vaPut_calm s o p space va _).trans (ih _ _ _)

/-- A bulk write. -/
theorem State.vaWrite_calm (s : State) (o : Origin) (p : Nat) (space : List MapRun) (va : Nat) (ws : List TWord) : Calm s (s.vaWrite o p space va ws).s :=
  State.writeLines_calm o p space _ s va ws

theorem State.labelRange_calm (s : State) (p : Nat) (space : List MapRun) (va n label : Nat) : Calm s (s.labelRange p space va n label) := by
  unfold State.labelRange
  split
  · exact .refl s
  · exact ⟨rfl, rfl, rfl, rfl, id⟩

/-- The end of a run. -/
theorem State.endRun_calm (s : State) (p : Nat) (st : Status) : Calm s (s.endRun p st) := by
  unfold State.endRun
  simp only
  split
  · exact .refl s
  · exact (State.setJob_calm s _ _).trans (State.complete_calm _ _ _ _ _ _ _)

end Sys2Proof.Machine
end

