-- ==== Sys2Proof/Laws/Host.lean ====
section
/-! SUPPORT. Laws of the host commands: what a command that is ready does. -/

namespace Sys2Proof.Machine

/-- The state with a command started changes the host interface alone. -/
theorem started_eq (s : State) (fn q : Nat) (c : Cmd) : started s fn q c = { s with hif := (started s fn q c).hif } := rfl

/-- A command that is ready starts, does what its opcode does, and is left completed or running (R411). -/
theorem State.hostCmd_ready {s : State} {fn q op ctx : Nat} {c : Cmd} (f : State → Cmd → Nat → State × CmdEnd) (h : HostReady s fn q op ctx c) :
    s.hostCmd fn q op f = finishCmd fn q c.entry.seq (f (started s fn q c) c ctx) := by
  obtain ⟨h1, hx, h4, h5⟩ := h
  obtain ⟨x, h2, h3⟩ := Option.map_eq_some_iff.1 hx
  have h6 : (s.fnGone fn && decide (op ≠ 0x50 ∧ op ≠ 0x21)) = false := by
    rcases h5 with h | h | h <;> simp [h]
  simp only [State.hostCmd, h1, h2, h4, ne_eq, not_true_eq_false, if_false, h6, Bool.false_eq_true]
  subst h3
  simp only [started, h2, Option.map_some]
  rfl

/-- One that ends at once completes with its status and results. -/
@[simp] theorem finishCmd_done (fn q : Nat) (c : Cmd) (u : State) (st : Status) (r0 r1 : Nat) :
    finishCmd fn q c.entry.seq (u, .done st r0 r1) = completes u fn q c st r0 r1 := rfl

@[simp] theorem finishCmd_running (fn q seq : Nat) (u : State) : finishCmd fn q seq (u, .running) = u := rfl

@[simp] theorem finishCmd_ends (fn q : Nat) (c : Cmd) (u : State) (st : Status) : finishCmd fn q c.entry.seq (ends u st) = completes u fn q c st 0 0 := rfl

end Sys2Proof.Machine
end

