-- ==== Sys2Proof/Laws/Issue.lean ====
section
/-! SUPPORT. Laws of the tiles and of the dispatcher: what a tile and a unit read as after a write, the record taken, and the dispatch of a record to a free unit. -/

namespace Sys2Proof.Machine

/-- A tile reads as what was written to it, when that is not a tile at reset. -/
theorem State.tile_setTile (s : State) (t : Nat) {x : Tile} (h : x ≠ .reset) : (s.setTile t x).tile t = x := Store.get_set_same _ _ h

/-- Other tiles read as before. -/
theorem State.tile_setTile_ne (s : State) {t j : Nat} (x : Tile) (h : j ≠ t) : (s.setTile t x).tile j = s.tile j := Store.get_set_ne _ _ h

/-- The last write of a tile stands. -/
theorem State.setTile_setTile (s : State) (t : Nat) {x : Tile} (y : Tile) (h : x ≠ .reset) : (s.setTile t x).setTile t y = s.setTile t y := by
  simp only [State.setTile, Store.set_set _ _ _ h]

theorem State.updTile_eq (s : State) (t : Nat) (f : Tile → Tile) : s.updTile t f = s.setTile t (f (s.tile t)) := rfl

/-- A tile whose stage runs is not at reset. -/
theorem Tile.ne_reset {x : Tile} (h : x.stage.state = .running) : x ≠ .reset := by
  rintro rfl
  exact absurd h (by decide)

theorem State.running_of_dispatching {s : State} {t : Nat} (h : s.dispatching t = true) : (s.tile t).stage.state = .running := by
  simp only [State.dispatching, Bool.and_eq_true, decide_eq_true_eq] at h
  exact h.1

@[simp] theorem Tile.takeToken_stage (x : Tile) (r : Record) : (x.takeToken r).stage = x.stage := by
  unfold Tile.takeToken
  split <;> rfl

@[simp] theorem Tile.takeToken_units (x : Tile) (r : Record) : (x.takeToken r).units = x.units := by
  unfold Tile.takeToken
  split <;> rfl

@[simp] theorem pastRecord_stage (x : Tile) : (pastRecord x).stage = x.stage := by simp [pastRecord]
@[simp] theorem pastRecord_units (x : Tile) : (pastRecord x).units = x.units := by simp [pastRecord]
@[simp] theorem Tile.setUnit_stage (x : Tile) (n : Nat) (u : UnitState) : (x.setUnit n u).stage = x.stage := rfl

/-- A unit reads as what was written to it, when that is not an idle unit. -/
theorem Tile.unit_setUnit (x : Tile) (n : Nat) {u : UnitState} (h : u ≠ .idle) : (x.setUnit n u).unit n = u := Store.get_set_same _ _ h

/-- The record at which a tile stands is taken (R46, R49). -/
theorem State.take_at {s : State} {t op : Nat} {i : Issued} (h : AtRecord s t op i) : s.take t op = some (s.setTile t (pastRecord (s.tile t)), i) := by
  obtain ⟨h1, h2, h3, h4⟩ := h
  simp [State.take, h1, h2, h3, h4, pastRecord]

/-- A record for a free unit starts at once (R46); of the tile, the table of units alone may have changed its list. -/
theorem State.dispatch_free {s : State} {t op u : Nat} {i : Issued} (h : AtRecord s t op i) (hu : UnitFree (s.tile t) u) :
    ∃ y : Tile, s.dispatch t op u = (s.setTile t y).startUnit t u i ∧ y = { pastRecord (s.tile t) with units := y.units } := by
  have hrun := State.running_of_dispatching h.1
  have hr : pastRecord (s.tile t) ≠ .reset := Tile.ne_reset (by simpa using hrun)
  refine ⟨((pastRecord (s.tile t)).setUnit u ⟨[], [i]⟩).setUnit u ⟨[], []⟩, ?_, rfl⟩
  have hu' : (pastRecord (s.tile t)).unit u = ⟨[], []⟩ := by
    have hp : (pastRecord (s.tile t)).unit u = (s.tile t).unit u := by simp [Tile.unit]
    rw [hp]
    cases hh : (s.tile t).unit u
    simp [UnitFree, hh] at hu
    simp [hu]
  have hr2 : (pastRecord (s.tile t)).setUnit u ⟨[], [i]⟩ ≠ .reset := Tile.ne_reset (by simpa using hrun)
  simp only [State.dispatch, State.take_at h, State.issue, State.tile_setTile _ _ hr, State.setTile_setTile _ _ _ hr]
  simp only [hu', List.nil_append, State.pump, State.tile_setTile _ _ hr2]
  rw [Tile.unit_setUnit _ _ (by simp [UnitState.idle])]
  simp [State.setTile_setTile _ _ _ hr2]

end Sys2Proof.Machine
end

