-- ==== Sys2Proof/WellFormed.lean ====
section
/-! DEFINITION. Shapes of the operand lists that some commands take. -/

namespace Sys2Proof

/-- Operand lists have the lengths their commands need; a command of any other kind is well formed. -/
def Instr.wf : Instr → Bool
  | .hbmFullWrite _ _ _ d _ => decide (d.length = 16)
  | .hbmPartialWrite _ _ _ d _ => decide (d.length = 16)
  | .sqTailDoorbell _ _ _ es => es.all fun e => decide (e.length = 64)
  | .partCreate _ _ (some b) => decide (b.length = 1088)
  | .ownerImport _ _ (some b) => decide (b.length = 1712)
  | .evidence _ _ (some b) => decide (b.length = 32)
  | .restore _ _ (some b) => decide (b.length = 32)
  | .topoLoad _ _ (some b) => decide (b.length = 1152)
  | .flashRead _ _ (some b) => decide (b.length = 64)
  | .bar4Access _ _ (some d) n => decide (d.length = n)
  | _ => true

end Sys2Proof
end

