-- ==== Sys2Proof/Tests/Slice0.lean ====
section
/-! SUPPORT. Tests: small states, ill-formed operand lists, the specification's worked examples, and for every statement with hypotheses a witness that meets them. -/

set_option Elab.async false

namespace Sys2Proof.Tests

open Machine

/-! ### Small states -/

/-- Phase 4 complete, every clock running, nothing else done. -/
def up : State := { State.reset with
  boot := ⟨some 4, true, none⟩
  pwr := { Power.reset with aon := true, state := .ready, running := 2 ^ 17 - 1 } }

/-- Words stored from a byte offset. -/
def words (m : Store TWord) (off : Nat) (ws : List Nat) : Store TWord :=
  Store.setMany .zero m (off / 4) (ws.map fun w => ⟨BitVec.ofNat 32 w, false⟩)

/-- The eight words of a record (Table 2.6): it waits for 2 of T1 and signals T3. -/
def recWords (op a b : Nat) : List Nat :=
  [op + 0x1100 + 0x130000, 2, a % 2 ^ 32, a / 2 ^ 32, b % 2 ^ 32, b / 2 ^ 32, 0, 0]

/-- Tile 5, bound to partition 2 as logical tile 0, at a record, with T1 at 2. -/
def tileAt (op a b : Nat) : Tile := { Tile.reset with
  mem := { TileMem.cleared with sp := words [] 0 (recWords op a b) }
  disp := ⟨0, [], [(1, 2)], 0⟩
  stage := { Stage.reset with state := .running }
  progBytes := 64
  part := some 2
  ltile := some 0 }

/-- A run of partition 2 in its step. -/
def running : Run := ⟨(3, 1, 7), 4, false, 0, .step, none, 0xFFFF, 0, 0, false⟩

/-- A job of partition 2 with that run, its logical tile 0 on tile 5. -/
def stepJob : Job := { Job.reset with place := [5], run := some running }

/-- A machine in a step whose tile 5 is x. -/
def work (x : Tile) : State := { up with tiles := [(5, x)], jobs := [(2, stepJob)] }

/-- A machine in a step whose tile 5 stands at a record. -/
def atRec (op a b : Nat) : State := work (tileAt op a b)

/-- A record in its unit that ends DONE and signals T3. -/
def flight : InFlight := ⟨⟨0, 0x10, 64, 0, true, 3, 0⟩, .done, 12, 5⟩

/-- Tile 5 with that record alone in unit n. -/
def inUnit (n : Nat) : State := work { tileAt 1 0 0 with units := [(n, ⟨[flight], []⟩)] }

/-- Tile 5 at a vector record whose descriptor holds operation op. -/
def atVec (op : Nat) : State :=
  work { tileAt 0x11 1024 0 with mem := { TileMem.cleared with sp := words (words [] 0 (recWords 0x11 1024 0)) 1024 [op, 1] } }

/-- Tile 5 in service with its vector registers as given. -/
def vecTile (mode : Nat) (clearing : Bool) : State := { up with tiles := [(5, { Tile.reset with vec := { Tile.reset.vec with mode := mode, clearing := clearing } })] }

/-- A level queue of stream 9 of partition 2, level 4: tile 5 consumes, 64 slots. -/
def queue : SEntry := { SEntry.free with kind := 0, level := 4, state := .bound, part := 2, consumer := 5, ringBase := 0x3E0, stream := 9 }

/-- A machine in a step with tile 5 as x and entry 4096 as e. -/
def workQ (x : Tile) (e : SEntry) : State := { work x with streams := { Streams.reset with entries := [(4096, e)] } }

/-- Tile 5 at a queue record of stream 9, level 4; its buffer of 128 bytes lies at 8192. -/
def atQueue (op : Nat) : Tile :=
  { tileAt op (9 + 4 * 65536) 1024 with mem := { TileMem.cleared with sp := words (words [] 0 (recWords op (9 + 4 * 65536) 1024)) 1024 [8192, 128, 0, 0] }, queueBase := 0x3E0000 }

/-- A packet of one message, even parity, label 1. -/
def onePacket : Packet := ⟨List.replicate 16 ⟨0, false⟩, 0, true, true, 64, 1⟩

/-- A DMA program's memory: one instruction at byte 64, and from 256 two address descriptors. -/
def dmaMem (lo hi : Nat) : Store TWord :=
  words (words (words [] 64 [lo, hi]) 256 [2 + 65536 * 0x1000, 0, 0, 0, 0, 0, 0, 0]) 320 [65536 * 0x2000, 0, 0, 0, 0, 0, 0, 0]

/-- Tile 5 whose DMA channel runs at that instruction. -/
def atDma (lo hi : Nat) : State :=
  work { tileAt 0x12 64 0 with
    mem := { TileMem.cleared with sp := dmaMem lo hi }, dma := { DmaChan.reset with phase := .running, base := 64 },
    units := [(3, ⟨[flight], []⟩)] }

/-- A request of tile 5's channel from its scratchpad to device memory. -/
def readReq : LineReq := ⟨⟨.localSp, 0, 8192, 0, 0⟩, ⟨.virt, 0, 0, 0, 0⟩, 16, 0, none, false, false, none, 0, 0⟩

/-- A request whose line has come and goes to the scratchpad. -/
def writeReq : LineReq := ⟨⟨.virt, 0, 0, 0, 0⟩, ⟨.localSp, 0, 8192, 0, 0⟩, 16, 0, some (List.replicate 16 ⟨3, false⟩), false, false, none, 0, 0⟩

/-- Tile 5 whose channel has one request. -/
def withReq (r : LineReq) : State := work { tileAt 0x12 64 0 with dma := { DmaChan.reset with phase := .running, reqs := [r] } }

/-- System channel 7 as given. -/
def withSys (c : SysChan) : State := { up with sys := [(7, c)] }

/-- Granule 3 PROTECTED and granule 4 STAGING of partition 2, whose memory key is slot 30; granule 5 RESERVE. -/
def someHbm : Hbm := { Hbm.reset with
  grans := [(3, ⟨.prot, 2, .prot⟩), (4, ⟨.staging, 2, .staging⟩), (5, ⟨.reserve, 0, .reserve⟩)]
  parts := [(2, ⟨30, true, 0, false, 0, false, false, false, [], 0, 0, 0, 0⟩)] }

/-- Slots of partition 2: KEM 28, SESSION 29, MEM 30, CKPT 31. -/
def someSlots : Store Slot := [(28, ⟨6, .loaded, 2, 0, 5⟩), (29, ⟨4, .loaded, 2, 0, 6⟩), (30, ⟨1, .loaded, 2, 0, 7⟩), (31, ⟨5, .loaded, 2, 0, 8⟩)]

/-- The memory h, under partition 2's slots. -/
def withHbm (h : Hbm) : State := { up with hbm := h, sec := { Sec.reset with slots := someSlots } }

/-- A state of granules with one pass in context 0. -/
def passing (g : Nat) (x : Gran) (p : Pass) : State := withHbm { someHbm with grans := Store.set .free someHbm.grans g x, passes := [(0, some p)] }

/-- The record of partition p (Table 11.1): one owner, one block, 16 contexts, 9 slots, quad 0, one granule and one of staging. -/
def partBytes (p sid : Nat) : List Byte :=
  natBytes p 1 ++ natBytes 1 1 ++ natBytes 1 2 ++ natBytes 16 2 ++ natBytes 9 2 ++ natBytes 1 8 ++ natBytes 1 2 ++ natBytes 1 2 ++ natBytes 0 12 ++
    natBytes sid 16 ++ natBytes 0 16 ++ natBytes 77 32 ++ List.replicate 992 0

/-- Partition 2, its session ACTIVE. -/
def somePart : Part := { Part.reset with
  record := partBytes 2 99, sess := .active, kemSlot := 28, sessionSlot := 29, memSlot := 30, ckptSlot := 31, slots := [28, 29, 30, 31], blocks := [4096] }

/-- Objects of partition 2: memory object 0 of 4 pages, memory object 1 of 8 staging pages, fence 0. -/
def someObjs : Objs := { Objs.reset with
  mems := [(0, some ⟨false, 0, 4, some 77, false⟩), (1, some ⟨true, 0, 8, none, false⟩)]
  fences := [(0, some ⟨5, false, 3, 4096, 0xFFFF, none⟩)] }

/-- Context 1 of VF 3: object 0 at page 16, object 1 at page 32. -/
def someCtx : Ctx := { Ctx.fresh with maps := [⟨16, 4, 0, 0⟩, ⟨32, 8, 1, 0⟩], mems := [0, 1], fences := [0] }

/-- A fetched command, its fence wait over. -/
def cmd (op p0 p1 p2 : Nat) : Cmd :=
  ⟨⟨op, false, false, false, 9, 7, 0, 0, 0, 0, p0, p1, p2, false⟩, .done, ⟨[], []⟩, true, false, []⟩

/-- A function with its admin queues, context 1 and queues 1 of it. -/
def someFn (cs0 cs1 : List Cmd) : Fn := { Fn.reset with
  enable := true, ready := true, drvMajor := 1, drvMinor := 1, actMajor := 1, actMinor := 1
  ctxs := [(0, some .fresh), (1, some someCtx)]
  sqs := [(0, some ⟨0, 0, 0, 6, 1, 7, [(7, none)], cs0, none⟩), (1, some ⟨1, 1, 4096, 6, 1, 7, [(7, none)], cs1, none⟩)]
  cqs := [(0, some ⟨0, 8192, 6, 0, 1, 0, true, 0, 0, [], 0⟩), (1, some ⟨1, 12288, 6, 1, 1, 0, true, 0, 0, [], 0⟩)] }

/-- A fused module in the DEPLOYED state whose partition 2 is active, its tiles idle, its memory as someHbm says, with VF 3 as given. -/
def served (x : Fn) : State := { withHbm someHbm with
  hif := { Hif.reset with fns := [(3, x)], objs := [(2, someObjs)] }, parts := [(2, somePart)]
  sec := { Sec.reset with slots := someSlots, fuses := { Fuses.unblown with lc0 := 7, lc1 := 7, serial := 11 } } }

/-- With a command in the queue of context 1. -/
def asked (op p0 p1 p2 : Nat) : State := served (someFn [] [cmd op p0 p1 p2])

/-- With a command in the admin queue. -/
def askedAdmin (op p0 p1 p2 : Nat) : State := served (someFn [cmd op p0 p1 p2] [])

/-- The same module attesting with its production root, partition 2 as x. -/
def attesting (x : Part) (c : Cmd) : State := { served (someFn [c] []) with
  parts := [(2, x)]
  sec := { (served Fn.reset).sec with root := .prod, recProd := ⟨1024, true⟩, reservedTo := 1024 } }

/-- Partition 2 OPENED, its owner not yet imported, evidence of digest 0 given; on a member it has no session secret. -/
def openedPart : Part := { somePart with
  record := (partBytes 2 99).take 64 ++ natBytes 0 32 ++ List.replicate 992 0, sess := .opened, sessionSlot := 0, memSlot := 0, ckptSlot := 0, slots := [28], evidence := [0] }

/-- An owner's import of owner 0 for session 99 of module 11. -/
def importBytes : List Byte := List.replicate 1568 0 ++ natBytes 99 16 ++ natBytes 11 8 ++ List.replicate 120 0

/-- Port 3 as x, its map entry a fabric port to port 5 of module 12. -/
def portState (x : Port) : State := { served (someFn [] []) with
  links := { Links.reset with ports := [(3, x)], map := [(3, ⟨1, 5, 12⟩)] } }

/-- A port in service to port 5 of module 12. -/
def upPort : Port := { Port.reset with state := .up, version := 3, peerPort := 5, peerSerial := 12 }

/-- Two ends' HELLOs: this module's and module 12's. -/
def hello (serial port : Nat) : Hello := ⟨helloMagic, serial, port, 7, 0, 0, 1⟩

/-- A port that has sent its HELLO and got its peer's. -/
def identPort : Port := { Port.reset with state := .ident, locked := true, sent := some (hello 11 3), got := some (hello 12 5), peerSerial := 12, peerPort := 5, peerVersions := 7 }

/-- A frame: header, what it carries, CRC. -/
def frameWith (o : Outer) (inside : List Byte) : List Byte :=
  natBytes o.word 16 ++ inside ++ natBytes (crc64 (natBytes o.word 16 ++ inside)) 8

/-- Entry 1 of a port: partition 2 under LINK slot 32. -/
def someEntry : PkidEntry := ⟨2, 32, 0, none, false, 0, 0, 0, [], 1, 12, 2, 0, true, none⟩

/-- A frame body that waits on port 3, and the port with it waiting. -/
def outUnit : OutUnit := ⟨1, 1, ⟨1, true, true, 4, 9, 0, 1, 0⟩, [List.replicate 16 .zero], none⟩

/-- Port 3 with that body waiting and its LINK slot loaded. -/
def sending : State := { portState { upPort with entries := [(1, some someEntry)], txQ := [outUnit] } with
  sec := { (served Fn.reset).sec with slots := someSlots ++ [(32, ⟨2, .loaded, 2, 0, 9⟩)] } }

/-- That body sealed. -/
def sealed : List Byte × Port := ((sending.setPort 3 { sending.port 3 with txQ := [] }).sealUnit 3 outUnit).getD ([], .reset)

/-- Partition 2 as rank 0 of one rank, or of two in one pod; group 7 holds them all, with one contributor each. -/
def oneRank : CollPart := { CollPart.reset with ranks := 1, table := [(0, (11, 0))], groups := [⟨7, 1, [0], 5⟩] }

/-- Partition 2 as rank 0 of two. -/
def twoRanks : CollPart := { CollPart.reset with ranks := 2, table := [(0, (11, 0)), (1, (12, 0))], groups := [⟨7, 1, [0, 1], 5⟩] }

/-- A machine in a step with tile 5 as x, collective state c, and rank 1 behind port 3. -/
def collState (x : Tile) (c : CollPart) : State := { work x with
  coll := { Coll.reset with parts := [(2, c)] }, links := { Links.reset with ports := [(3, { upPort with entries := [(1, some someEntry)] })] } }

/-- A descriptor of an operation with FP32 elements, group 7, LIDX 0 (Table 13.2): count elements from byte 16,384 to byte 32,768 of the scratchpad. -/
def colBits (op count : Nat) : Nat :=
  if op = 6 then 6 + 7 <<< 32 + 0xFFF <<< 52 else op + 7 <<< 32 + 0xFFF <<< 52 + count <<< 64 + 16384 <<< 144 + 32768 <<< 208

/-- An instance of group 7 that this module has entered. -/
def entered (op count : Nat) : Inst := { Inst.start 7 1 false with entered := [⟨0, 5, 0, colBits op count, 9⟩] }

/-- Tile 5 at a COL record whose descriptor at 1024 is a barrier's. -/
def atCol : Tile := { tileAt 0x30 1024 0 with mem := { TileMem.cleared with sp := words (words [] 0 (recWords 0x30 1024 0)) 1024 [6, 7 + 0xFFF00000] } }

/-- A COL record in its unit, of group 7, SEQ 1. -/
def colFlight : InFlight := ⟨⟨0, 0x30, 1024, 0, true, 3, 0⟩, .done, 1, 256 * (7 + 1024 * 1)⟩

/-- A step of a chunk of an instance: what this module contributes, and what moves. -/
def chunkOwn (s : State) (i : Inst) (g : Group) (origin : Nat) : State × Status × ChunkData × Flags := s.ownChunk 2 i (i.desc.getD (.ofBits 0)) g origin 0

/-- The move that the step makes. -/
def chunkMove (c : CollPart) (i : Inst) (g : Group) (origin : Nat) (own : ChunkData) : Moved :=
  (i.stepChunk (i.desc.getD (.ofBits 0)) (c.geo g) g c.self origin 0 own).getD ⟨i, [], none, 0⟩

/-- What the chunks sent and landed leave. -/
def chunkLand (s : State) (i : Inst) (g : Group) (m : Moved) (data : ChunkData) : State × Status × Flags :=
  (m.sends.foldl (fun (b : State) x => b.sendChunk 2 i (i.desc.getD (.ofBits 0)) g x) s).landChunk 2 i (i.desc.getD (.ofBits 0)) g data

/-- A received VC1 frame whose unit is a header or a closing line. -/
def colFrame (h : ChunkHeader) (line : List Byte) : ColFrame := ⟨3, (h.inner false false).ext, 1, [cleanWords line]⟩

/-- An ALL_GATHER chunk's header from rank 1. -/
def someHeader : ChunkHeader := ⟨3, false, true, false, 1, 0, 7, 1, 1, 0, 9, neutralStats 0xFFF, 0, 0x3F800000, 1⟩

/-- The chunk it opens, its one unit come. -/
def someIncoming : Incoming := ⟨3, (someHeader.inner false false).ext, someHeader, someHeader.opening.take 56, true, [List.replicate 16 .zero]⟩

/-- A closing line with a CRC. -/
def closingLine (crc : Nat) : List Byte := List.replicate 56 0 ++ natBytes crc 8

/-- An image of one logical tile whose layout marks one line of object 0 for snapshots. -/
def someImage : Image := ⟨0, 5, 40 * 2097152, 0, ⟨[⟨0, [], [], [], [], [], []⟩], [], [], ⟨0, [], [(16 * 2097152, 64)], []⟩⟩⟩

/-- Partition 2 with that image, its areas in staging, in a snapshot phase or with no run. -/
def snapState (x : Fn) (r : Option Run) (y : SnapPart) : State := { served x with
  tiles := [(5, { tileAt 1 0 0 with stage := { Stage.reset with state := .idle } })]
  jobs := [(2, { Job.reset with place := [5], image := some someImage, space := [⟨16, 4, 0, 0⟩, ⟨32, 8, 1, 0⟩], run := r })]
  snaps := [(2, y)] }

/-- The local area at object 1. -/
def withArea : SnapPart := { SnapPart.reset with mirror := false, localArea := some (32 * 2097152, 2097152), localMap := [⟨32, 8, 1, 0⟩] }

/-- In the snapshot phase of a run. -/
def inSnap : State := snapState (someFn [] []) (some { running with phase := .snapshot }) withArea

/-- A command of context 1 while partition 2 has an image and no run. -/
def runAsk (c : Cmd) : State := { snapState (someFn [] [c]) none withArea with parts := (served .reset).parts }

/-- An IMAGE_LOAD. -/
def cI : Cmd := cmd 0x26 (16*2097152) 0 0

/-- An UP port and the firmware state f. -/
def clk (f : Fwm) : State := { portState upPort with fwm := f }

/-- An entry that waits for its CONFIRM. -/
def eW : PkidEntry := { someEntry with confirmed := false, asker := some (3, 1, 7) }

/-- The outer header of a CONFIRM. -/
def oC : Outer := ⟨1, 0, 1, 1, false, 0, 1, 0, false, 0, 0, 0⟩

/-- A port that waits for a CONFIRM. -/
def sC0 : State := portState { upPort with entries := [(1, some eW)], got := some (hello 12 5) }

/-- The same, its LINK slot loaded. -/
def sC : State := { sC0 with sec := { (served Fn.reset).sec with slots := someSlots ++ [(32, ⟨2, .loaded, 2, 0, 9⟩)] } }

/-- A MAINT command. -/
def mtC (op n : Nat) : Cmd := cmd 0x47 (op + n * 65536) 0 0

/-- All tiles in service but the failed ones. -/
def resWith (f : Nat) : Resil := { Resil.reset with inService := 2 ^ 48 - 1, failed := f }

/-- The same in a state. -/
def inServ (s : State) : State := { s with res := resWith 0 }

/-- A command of context 1 during a step. -/
def inWork (c : Cmd) : State := { asked 0 0 0 0 with tiles := [(5, tileAt 1 0 0)], jobs := [(2, stepJob)], hif := (asked 0 0 0 0).hif.setFn 3 (someFn [] [c]) }

/-- Tile 5 as x, the maintenance state as r, and no run. -/
def failedTile (r : Resil) (x : Tile) : State := { up with res := r, tiles := [(5, x)], jobs := [(2, { stepJob with run := none })] }

/-- A command of context 1 and the firmware state f. -/
def fwAsk (c : Cmd) (f : Fwm) : State := { served (someFn [] [c]) with fwm := f }

/-- Slot A runs and is pending. -/
def fwRun : Fwm := { Fwm.reset with running := some false, bcb0 := { Fwm.reset.bcb0 with pending := some false, valid := true } }

/-- A header with SVN 3. -/
def hd : List Byte := List.replicate 16 0 ++ [3] ++ List.replicate 3000 0

/-- A command of the physical function, no partition, and the firmware state f. -/
def fwAlone (c : Cmd) (f : Fwm) : State := { served .reset with hif := { Hif.reset with fns := [(0, someFn [] [c])] }, parts := [], fwm := f }

/-- A BAR 0 write of VF 3. -/
def wr (o v : Nat) : BarWrite := ⟨3, o, v⟩

/-- A step of a run and the firmware state f. -/
def inStep (f : Fwm) : State := { work (tileAt 1 0 0) with fwm := f, hif := (asked 0 0 0 0).hif, res := { Resil.reset with inService := 2^48 -1 } }

/-- An announced data set. -/
def cs0 : ClockSet := ⟨1, 6, 1, 1, 1, 5, 1⟩

theorem pair_eta {α β : Type} (x : α × β) : x = (x.1, x.2) := rfl

theorem triple_eta {α β γ : Type} (x : α × β × γ) : x = (x.1, x.2.1, x.2.2) := rfl

theorem pair_of {α β : Type} {x : α × β} {b : β} (h : x.2 = b) : x = (x.1, b) := by cases h; rfl

theorem triple_of {α β γ : Type} {x : α × β × γ} {b : β} (h : x.2.1 = b) : x = (x.1, b, x.2.2) := by cases h; rfl

/-- A copy all of whose records have come into an area that reads as zeros. -/
def landing (m : Bool) : State :=
  let f : FillState := ⟨11, 0, 0, [(0, 2000), (schedIndex, 9000)], List.replicate 128 0⟩
  let y := if m then { withArea with mirrorArea := withArea.localArea, mirrorMap := withArea.localMap, mirrorFill := some f } else { withArea with area := .filling, localFill := some f }
  snapState (someFn [] []) none y

/-- A copy of this module. -/
def kept : Copy := ⟨99, 11, 0, 0, false⟩

/-- The same in flash. -/
def keptFlash : FlashSnap := ⟨99, 11, 0, 0, 0, [], true, false⟩

/-- A command of context 1 with that copy in flash. -/
def withFlash (c : Cmd) : State := { snapState (someFn [] [c]) none withArea with flash := { Flash.reset with snaps := [keptFlash] } }

/-- A FILL from the mirror area, rank 1 behind port 3. -/
def mirrored : State :=
  { snapState (someFn [] [cmd 0x43 65536 11 0]) none { withArea with mirrorArea := withArea.localArea, mirrorMap := withArea.localMap, mirrorCopy := some kept } with
    links := { Links.reset with ports := [(3, { upPort with entries := [(1, some someEntry)] })] } }

theorem fence_bits (n b : Nat) (h : b < 16) : bits (b + n * 16) 0 4 = b := by
  unfold bits; simp [Nat.shiftRight_zero]; omega

theorem tag_nat (k : BitVec 256) (a b : Hello) : (BitVec.ofNat 256 (proofTag k a b)).toNat = proofTag k a b := by
  simp [proofTag]

theorem tag_ne (k : BitVec 256) (a b : Hello) : (BitVec.ofNat 256 (proofTag k a b + 1)).toNat ≠ proofTag k a b := by
  simp [proofTag]; omega

theorem queues_empty (x : Tile) (n m : Nat) (h : (x.unit m).queue = []) : ((Store.get Tile.reset [(5, x)] n).unit m).queue = [] := by
  by_cases hn : 5 = n
  · subst hn; simpa [Store.get] using h
  · have : Store.get Tile.reset [(5, x)] n = .reset := by simp [Store.get, Ne.symm hn]
    rw [this]; rfl

/-- A PORT_BIND of partition 2 on port 3, its LINK slot for the peer held. -/
def bindAsk : State := { portState { upPort with entries := [(2, some someEntry)] } with
  hif := { Hif.reset with fns := [(0, someFn [cmd 0x32 (2 + 3 * 16 + 1 * 1024) 0 0] [])] } }

theorem bytesNat_natBytes (v n : Nat) : bytesNat (natBytes v n) = v % 256 ^ n := by
  induction n generalizing v with
  | zero => simp [natBytes, bytesNat, Nat.mod_one]
  | succ n ih => 
    rw [natBytes, bytesNat, ih, BitVec.toNat_ofNat]
    show v % 256 + 256 * (v / 256 % 256 ^ n) = _
    rw [show 256 ^ (n + 1) = 256 * 256 ^ n from Nat.pow_succ', Nat.mod_mul]

theorem natBytes_length (v n : Nat) : (natBytes v n).length = n := by
  induction n generalizing v with
  | zero => rfl
  | succ n ih => simp [natBytes, ih]

/-- A firmware body. -/
def signedBody : List Byte := List.replicate 4096 3

/-- A public key. -/
def signedKey : List Byte := List.replicate 68 8

/-- The first 32 bytes of a firmware header. -/
def signedHead (keysel svn : Nat) : List Byte := natBytes fwMagic 8 ++ natBytes 1 2 ++ natBytes keysel 1 ++ [0] ++ natBytes 5 4 ++ natBytes svn 1 ++ natBytes 0 7 ++ natBytes 4096 8

/-- An image whose digest is its body's. -/
def signedImage (svn : Nat) : List Byte :=
  signedHead 0 svn ++ natBytes (Config.shake256 signedBody).toNat 32 ++ (signedKey ++ List.replicate 3964 0) ++ signedBody

/-- A DEPLOYED module whose fuses name that key, its floor 4. -/
def signedFuses : Fuses := { Fuses.unblown with lc0 := 7, lc1 := 7, serial := 11, antiRollback := 15, fwAuth := Config.shake256 signedKey }

theorem signed_verifies (h : ∀ k d s, Config.xmssVerify k d s = true) : verifyImage signedFuses false (signedImage 5) = (0, .done) := by
  have h1 : (FwHeader.ofBytes (signedImage 5)).shapeOk = true := by decide +kernel
  have h2 : (FwHeader.ofBytes (signedImage 5)).pub = signedKey := by decide +kernel
  have h3 : (FwHeader.ofBytes (signedImage 5)).keysel = 0 ∧ (FwHeader.ofBytes (signedImage 5)).svn = 5 ∧ keyAccepted signedFuses.state false 0 = true ∧ signedFuses.floor = 4 := by decide +kernel
  have h4 : ((signedImage 5).drop 4096).take (FwHeader.ofBytes (signedImage 5)).bodySize = signedBody := by
    rw [show (FwHeader.ofBytes (signedImage 5)).bodySize = 4096 by decide +kernel, signedImage,
      List.drop_left' (by decide +kernel), List.take_of_length_le (by decide +kernel)]
  have h5 : (FwHeader.ofBytes (signedImage 5)).bodyDigest = Config.shake256 signedBody := by
    have e : ((signedImage 5).drop 0x20).take 32 = natBytes (Config.shake256 signedBody).toNat 32 := by
      rw [signedImage, List.append_assoc, List.append_assoc, List.drop_left' (by decide +kernel), List.take_left' (natBytes_length _ _)]
    show BitVec.ofNat 256 (bytesNat (((signedImage 5).drop 0x20).take 32)) = _
    rw [e, bytesNat_natBytes, show 256 ^ 32 = 2 ^ 256 by decide +kernel, Nat.mod_eq_of_lt (BitVec.isLt _), BitVec.ofNat_toNat, BitVec.setWidth_eq]
  have h6 : signedFuses.fwAuth = Config.shake256 signedKey := rfl
  simp [verifyImage, h1, h2, h3, h4, h5, h6, h, svnStatus]

/-- A module whose start-up found no firmware. -/
def updating : State := { served .reset with boot := ⟨some 2, false, some causeFwNone⟩ }

theorem some_getD {α : Type} {o : Option α} {d : α} (h : o.isSome = true) : o = some (o.getD d) := by cases o <;> simp_all

/-- What a command leaves, reset if it stops. -/
def after (o : Host.Outcome State Fault Refusal) : State := match o with
  | .next u => u
  | _ => .reset

/-! ### Ill-formed operand lists are refused -/

theorem test_wf_line_writes : Instr.wf (.hbmFullWrite .firmware 30 0 [] .clean) = false ∧ Instr.wf (.hbmPartialWrite .firmware 30 0 [] .clean) = false ∧
    Instr.wf (.hbmFullWrite .firmware 30 0 (List.replicate 16 .zero) .clean) = true := by decide

theorem test_wf_submission_entries : Instr.wf (.sqTailDoorbell 3 1 2 [[]]) = false := by decide

theorem test_wf_host_lists : Instr.wf (.partCreate 3 0 (some [])) = false ∧ Instr.wf (.ownerImport 3 0 (some [])) = false ∧ Instr.wf (.evidence 3 0 (some [])) = false ∧
    Instr.wf (.restore 3 1 (some [])) = false ∧ Instr.wf (.topoLoad 0 0 (some [])) = false ∧ Instr.wf (.flashRead 3 1 (some [])) = false ∧ Instr.wf (.bar4Access 3 0 (some []) 4) = false := by decide

theorem test_no_row_has_bits : decodeTableWord 32 0 = none := by decide

/-! ### The specification's worked examples and rules -/

/-- Chapter 9: DPA 0x01_4040_3040 is pseudo-channel 6, slot 1,281, line 1. -/
theorem test_dpa_example : decodeDpa 0x0140403040 = ⟨6, 1281, 1⟩ := by decide +kernel

/-- Chapter 3, first moment: 0.0123, -0.0001 and 1.0e-7 encode with scale 0x70 as 0x7D, 0xC5 and 0x02. -/
theorem test_first_moment_example :
    (encodeBlock1 ([0x3C4985F0, 0xB8D1B717, 0x33D6BF95].map (decodeElem .fp32))).exec.1 = ⟨0x70, [0x7D, 0xC5, 0x02], false⟩ := by decide +kernel

/-- Chapter 3, second moment: 4.0e-6 and 1.0e-9 encode with scale 0x77 as 131 and 2. -/
theorem test_second_moment_example :
    (encodeBlock2 ([0x368637BD, 0x3089705F].map (decodeElem .fp32))).exec.1 = ⟨0x77, [131, 2], false⟩ := by decide +kernel

/-- R93: a block with a non-finite element is scale 0xFF with canonical NaN bytes. -/
theorem test_moment_of_nan : (encodeBlock1 [.nan, .one]).exec.1 = ⟨0xFF, [0x7F, 0x7F], true⟩ := by decide +kernel

/-- Chapter 16: at floor 61, SVN 62 passes and 60 does not; raised to 62 and to 63, the floor ends at 63, where 64 is COUNTER_EXHAUSTED. -/
theorem test_floor_example :
    let fz : Fuses := { Fuses.unblown with antiRollback := 2 ^ 61 - 1 }
    let f63 := raiseFloor (raiseFloor fz 62) 63
    fz.floor = 61 ∧ svnStatus 62 fz.floor = .done ∧ (raiseFloor fz 62).floor = 62 ∧ f63.floor = 63 ∧
      svnStatus 64 f63.floor = .counterExhausted ∧ svnStatus 63 f63.floor = .done ∧ svnStatus 60 f63.floor = .accessDenied := by decide +kernel

/-- Chapter 12: a frame of 32 units is 2,104 B on the fibre. -/
theorem test_frame_length_example : Outer.frameLen ⟨1, 5, 1, 32, false, 0, 1, 0, false, 0, 0, 0⟩ = 2104 := by decide

/-- R49: a NOP that waits for 2 of T1 takes them and raises T3; the dispatcher stands at the next record. -/
theorem test_nop_moves_tokens : let x := (after (exec (.nop 5) (atRec 1 0 0))).tile 5
    x.disp.pc = 1 ∧ Store.get 0 x.disp.tokens 1 = 0 ∧ Store.get 0 x.disp.tokens 3 = 1 := by decide +kernel

/-- Table 5.7: TADD of 1.0 and 2.0 is 3.0. -/
theorem test_tadd : let s := vecTile 1 false
    let x := s.tile 5
    let y := { s with tiles := [(5, { x with vec := { x.vec with tg := [(1024 + 7, ⟨0x3F800000, false⟩), (2048 + 7, ⟨0x40000000, false⟩)] } })] }
    ((((after (exec (.tadd 5 0x21010) y)).tile 5).vec.tgWord 0 7).bits) = 0x40400000 := by decide +kernel

/-- R472: 2,000 W may be written, 2,005 W and 4,210 W may not. -/
theorem test_power_cap : (after (exec (.setPwrCap 2000) up)).pwr.cap = 2000 ∧ (after (exec (.setPwrCap 2005) up)).pwr.cap = 4200 ∧
    (after (exec (.setPwrCap 4210) up)).pwr.cap = 4200 := by decide +kernel

/-- A command waits in the queue and leaves it when it is taken. -/
theorem test_step_takes_front : (after (step { up with pending := [.setPwrCap 2000, .entropyHealthFail] })).pending = [.entropyHealthFail] := by decide +kernel


/-! ### Witnesses: the hypotheses of each statement, met by a small state -/

theorem witness_NopAndLoopComplete :
    (∃ (t : Fin 156) (s : State) (i : Issued), (AtRecord s t recNop i)) ∧
    (∃ (t : Fin 156) (s : State) (i : Issued), (AtRecord s t recLoop i)) :=
  ⟨⟨5, atRec 1 0 0, ((atRec 1 0 0).tile 5).standing.2, by decide +kernel⟩,
   ⟨5, atRec 2 0x10002 0x40, ((atRec 2 0x10002 0x40).tile 5).standing.2, by decide +kernel⟩⟩

theorem witness_MxeAndDmaRecordsStart :
    (∃ (t : Fin 156) (s : State) (i : Issued), (AtRecord s t recMxe i) ∧ (UnitFree (s.tile t) unitMxe)) ∧
    (∃ (t : Fin 156) (s : State) (i : Issued), (AtRecord s t recDma i) ∧ (UnitFree (s.tile t) unitDma)) :=
  ⟨⟨5, atRec 0x10 64 0, ((atRec 0x10 64 0).tile 5).standing.2, by decide +kernel⟩,
   ⟨5, atRec 0x12 64 0, ((atRec 0x12 64 0).tile 5).standing.2, by decide +kernel⟩⟩

theorem witness_VectorRecordsAndModes :
    (∃ (t : Fin 156) (s : State), ((s.tile t).vec.clearing = true) ∧ ((s.tile t).part = none) ∧ (s.clusterUp = true) ∧ ((s.tile t).inTileMode = false)) ∧
    (∃ (t : Fin 156) (v : DWord) (s : State), (s.clusterUp = true) ∧ (bits v.toNat 0 2 ≤ 1) ∧ (bits v.toNat 0 2 ≠ (s.tile t).vec.mode) ∧ ((s.tile t).modeOk = true)) ∧
    (∀ e ∈ vecRows, let s := atVec e.2.code
    AtRecord s 5 recVec (s.tile 5).standing.2 ∧ (s.tile 5).streaming = true ∧ (s.tile 5).standingOp = e.2.code ∧ UnitFree (s.tile 5) unitVec) :=
  ⟨⟨5, vecTile 1 true, by decide +kernel⟩,
   ⟨5, (0x5 : DWord), vecTile 0 false, by decide +kernel⟩,
   by decide +kernel⟩

theorem witness_EngineRecordsComplete :
    (∃ (t : Fin 156) (s : State) (f : InFlight), ((s.tile t).stage.state = StageState.running) ∧ (f.status = Status.done) ∧ (Alone (s.tile t) unitMxe f)) ∧
    (∃ (t : Fin 156) (s : State) (f : InFlight), ((s.tile t).stage.state = StageState.running) ∧ (f.status = Status.done) ∧ (Alone (s.tile t) unitVec f)) :=
  ⟨⟨5, inUnit 1, flight, by decide +kernel⟩,
   ⟨5, inUnit 2, flight, by decide +kernel⟩⟩

theorem witness_TileRegisterInstructionsRun :
    (∃ (t : Fin 156) (v : DWord) (s : State), (s.clusterUp = true) ∧ ((s.tile t).inTileMode = true) ∧ ((TrInstr.ofBits v.toNat).check = Status.done) ∧ ((TrInstr.ofBits v.toNat).top = 255)) ∧
    (∀ e ∈ tileRegRows, let i := TrInstr.ofBits (BitVec.ofNat 64 e.2).toNat
    (vecTile 1 false).clusterUp = true ∧ ((vecTile 1 false).tile 5).inTileMode = true ∧ i.check = .done ∧ i.top = e.2) :=
  ⟨⟨5, (0x00000000000000FF : DWord), vecTile 1 false, by decide +kernel⟩,
   by decide +kernel⟩

theorem witness_TileRegisterResults :
    (∃ (i : TrInstr), (i.td < 16) ∧ (i.top = 3 ∨ i.top = 4 ∨ i.top = 49) ∧ (i.top = 4)) ∧
    (∃ (i : TrInstr), (i.td < 16) ∧ (i.top = 2)) ∧
    (∃ (i : TrInstr) (w : Nat), (i.td < 16) ∧ (i.top = 2) ∧ (w < i.addr.snd.fst / 4 ∨ i.addr.snd.fst / 4 + 1024 ≤ w)) ∧
    (∃ (i : TrInstr) (r : Nat) (e : Nat), (i.td < 16) ∧ (i.top = 3 ∨ i.top = 4 ∨ i.top = 49) ∧ (r ≠ i.td) ∧ (e < 1024)) :=
  ⟨⟨(⟨4, 1, 0, 0, 0, false, 4096⟩ : TrInstr), by decide +kernel⟩,
   ⟨(⟨2, 1, 0, 0, 0, false, 4096⟩ : TrInstr), by decide +kernel⟩,
   ⟨(⟨2, 1, 0, 0, 0, false, 4096⟩ : TrInstr), 1023, by decide +kernel⟩,
   ⟨(⟨4, 1, 0, 0, 0, false, 4096⟩ : TrInstr), 0, 33, by decide +kernel⟩⟩

theorem witness_QueueRecordsStartAndComplete :
    (∃ (t : Fin 156) (s : State) (i : Issued) (p : Nat), ((s.tile t).part = some p) ∧ (AtRecord s t recQrecv i) ∧ (UnitFree (s.tile t) unitQin) ∧ (s.streams.broken p (bits i.a 0 16) = false) ∧ (s.streams.choose p (bits i.a 0 16) = none) ∧ (((s.tile t).checkBuf (bits i.b 0 22) true).snd = Status.done)) ∧
    (∃ (t : Fin 156) (s : State) (i : Issued) (p : Nat) (e : Nat), ((s.tile t).part = some p) ∧ (AtRecord s t recQsend i) ∧ (UnitFree (s.tile t) unitQout) ∧ (s.streams.find p (bits i.a 0 16) (bits i.a 16 3) = some e) ∧ ((s.streams.entry e).state = EntryState.bound) ∧ (((s.tile t).checkBuf (bits i.b 0 22) false).snd = Status.done)) ∧
    (∃ (t : Fin 156) (s : State) (f : InFlight) (rx : RxState), ((s.tile t).stage.state = StageState.running) ∧ ((s.tile t).ep.rx = some rx) ∧ (rx.chosen.isSome = true) ∧ (rx.copied = rx.packets) ∧ (Alone (s.tile t) unitQin f)) ∧
    (∃ (t : Fin 156) (s : State) (f : InFlight) (tx : TxState), ((s.tile t).stage.state = StageState.running) ∧ ((s.tile t).ep.tx = some tx) ∧ (tx.sent = tx.packets) ∧ (Alone (s.tile t) unitQout f)) :=
  ⟨⟨5, workQ (atQueue 0x21) queue, ((workQ (atQueue 0x21) queue).tile 5).standing.2, 2, by decide +kernel⟩,
   ⟨5, workQ (atQueue 0x20) queue, ((workQ (atQueue 0x20) queue).tile 5).standing.2, 2, 4096, by decide +kernel⟩,
   ⟨5, workQ {tileAt 1 0 0 with units := [(5, ⟨[flight], []⟩)], ep := { Tile.reset.ep with rx := some ⟨9, 8192, 128, some 4096, 2, 2⟩ } } queue, flight, (⟨9, 8192, 128, some 4096, 2, 2⟩ : RxState), by decide +kernel⟩,
   ⟨5, workQ {tileAt 1 0 0 with units := [(4, ⟨[flight], []⟩)], ep := { Tile.reset.ep with tx := some ⟨4096, 8192, 2, 2, 0, true, false⟩ } } queue, flight, (⟨4096, 8192, 2, 2, 0, true, false⟩ : TxState), by decide +kernel⟩⟩

theorem witness_LocksCreditsAndPackets :
    (∃ (s : State) (i : Nat) (r : LockReq), (s.streams.asking[i]? = some r) ∧ ((s.streams.entry r.entry).lockValid = false) ∧ ((s.streams.entry r.entry).state = EntryState.bound) ∧ (s.streams.dropping.contains r.entry = false) ∧ (s.streams.waiting = [])) ∧
    (∃ (s : State) (i : Nat) (e : Nat) (t : Nat) (n : Nat) (tx : TxState), (s.streams.grants[i]? = some (e, t, n)) ∧ (t < 156) ∧ ((s.tile t).ep.tx = some tx) ∧ (tx.entry = e) ∧ (tx.locked = false)) ∧
    (∃ (entry : Fin 262144) (s : State) (f : Flight) (e : SEntry), (List.find? (fun f => decide (f.entry = entry.val)) s.streams.flights = some f) ∧ (s.streams.entry entry.val = e) ∧ (e.state = EntryState.bound) ∧ (e.consumer < 156) ∧ (e.head = e.tail) ∧ (e.lockValid = true) ∧ (1 < e.lockRemain) ∧ ((s.tile e.consumer).stage.state = StageState.running) ∧ (s.streams.dropping.contains entry.val = false) ∧ ((s.tile e.consumer).ep.rx = none) ∧ (f.packet.words.length = 16) ∧ (e.ringSize < 8) ∧ (f.packet ≠ Packet.none) ∧ (e.tail < 2 * e.slots)) ∧
    (∃ (s : State) (t : Fin 192) (c : Nat × Nat) (tx : TxState), (t.val < 156) ∧ (List.find? (fun c => decide (c.fst % 192 = t.val)) s.streams.credits = some c) ∧ ((s.tile t).ep.tx = some tx) ∧ (tx.entry = c.fst / 192) ∧ (tx.locked = true) ∧ (tx.sent = tx.packets)) :=
  ⟨⟨{ workQ (tileAt 1 0 0) queue with streams := { Streams.reset with entries := [(4096, queue)], asking := [⟨4096, 6, 2, 1⟩] } }, 0, (⟨4096, 6, 2, 1⟩ : LockReq), by decide +kernel⟩,
   ⟨{ workQ { tileAt 1 0 0 with ep := { Tile.reset.ep with tx := some ⟨4096, 8192, 2, 0, 0, false, true⟩ } } queue with streams := { Streams.reset with entries := [(4096, queue)], grants := [(4096, 5, 64)] } }, 0, 4096, 5, 64, (⟨4096, 8192, 2, 0, 0, false, true⟩ : TxState), by decide +kernel⟩,
   ⟨4096, { workQ (tileAt 1 0 0) queue with streams := { Streams.reset with entries := [(4096, { queue with lockOwner := 6, lockValid := true, lockRemain := 2 })], flights := [⟨4096, 6, onePacket⟩] } }, (⟨4096, 6, onePacket⟩ : Flight), { queue with lockOwner := 6, lockValid := true, lockRemain := 2 }, by decide +kernel⟩,
   ⟨{ workQ { tileAt 1 0 0 with ep := { Tile.reset.ep with tx := some ⟨4096, 8192, 2, 2, 62, true, false⟩ } } queue with streams := { Streams.reset with entries := [(4096, queue)], credits := [(4096 * 192 + 5, 1)] } }, 5, (4096 * 192 + 5, 1), (⟨4096, 8192, 2, 2, 62, true, false⟩ : TxState), by decide +kernel⟩⟩

theorem witness_FlushesAndEntryErrors :
    (∃ (entry : Fin 262144) (p : Fin 16) (s : State), ((s.streams.entry entry.val).state = EntryState.bound) ∧ (s.clusterUp = true) ∧ ((s.job (s.streams.entry entry.val).part).run = none) ∧ ((s.job p).run = none)) ∧
    (∃ (entry : Fin 262144) (s : State), (s.streams.due.contains entry.val = true) ∧ ((s.streams.entry entry.val).state = EntryState.bound) ∧ ((s.streams.entry entry.val).lockValid = false) ∧ ((s.streams.entry entry.val).consumer < 156) ∧ ((s.tile (s.streams.entry entry.val).consumer).ep.rx = none)) ∧
    (∃ (entry : Fin 262144) (s : State) (i : Nat) (t : Nat), (s.streams.notices[i]? = some (entry.val, t)) ∧ (t < 156) ∧ ((s.tile t).ep.tx = none) ∧ (s.streams.dropping.contains entry.val = true) ∧ ((s.streams.entry entry.val).lockValid = true) ∧ ((s.streams.entry entry.val).lockOwner = t) ∧ (s.streams.flights = []) ∧ ((s.streams.entry entry.val).state = EntryState.bound)) :=
  ⟨⟨4096, 3, { up with streams := { Streams.reset with entries := [(4096, queue)] } }, by decide +kernel⟩,
   ⟨4096, { workQ (tileAt 1 0 0) queue with streams := { Streams.reset with entries := [(4096, { queue with head := 1, tail := 3 })], due := [4096] } }, by decide +kernel⟩,
   ⟨4096, { workQ (tileAt 1 0 0) queue with streams := { Streams.reset with entries := [(4096, { queue with lockOwner := 5, lockValid := true, lockRemain := 2 })], dropping := [4096], notices := [(4096, 5)] } }, 0, 5, by decide +kernel⟩⟩

theorem witness_StepsEndAndBegin :
    (∃ (t : Fin 156) (p : Fin 16) (s : State) (i : Issued) (r : Run), (AtRecord s t recStepEnd i) ∧ (s.tileDone t.val = true) ∧ ((s.job p).run = some r) ∧ (r.phase = RunPhase.step) ∧ (t.val ∈ s.tilesOf p.val) ∧ ((s.tile t).part = some p.val) ∧ ((s.tile t).stage.state = StageState.running) ∧ ((s.tile t).stage.fault = Status.done)) ∧
    (∃ (p : Fin 16) (s : State) (r : Run) (a : State) (st : Status), (((s.job p).run = some r) ∧ (r.phase = RunPhase.snapshot) ∧ (s.linksQuiet p.val = true)) ∧ (s.capture p.val = (a, st))) ∧
    (∃ (p : Fin 16) (s : State) (r : Run), ((s.job p).run = some r ∧ s.fenceReached p = true ∧ s.multi p = false) ∧ (bits (s.fenceOwn p false) 0 4 = 0)) ∧
    (∃ (p : Fin 16) (s : State) (r : Run), ((s.job p).run = some r) ∧ (r.phase = RunPhase.faulting) ∧ (((s.tilesOf p).all fun t => (s.tile t).quiet) = true)) :=
  ⟨⟨5, 2, atRec 0x3F 0 0, ((atRec 0x3F 0 0).tile 5).standing.2, running, by decide +kernel⟩,
   ⟨2, inSnap, { running with phase := .snapshot }, _, _, by decide +kernel, pair_eta _⟩,
   ⟨2, work { tileAt 1 0 0 with stage := { Stage.reset with state := .atStepEnd } }, running, by decide +kernel, fence_bits _ 0 (by decide)⟩,
   ⟨2, { work { tileAt 0x3F 0 0 with stage := { Stage.reset with state := .halted } } with jobs := [(2, { stepJob with run := some { running with phase := .faulting } })] }, { running with phase := .faulting }, by decide +kernel⟩⟩

theorem witness_StepsEndAndBegin_2 :
    ∃ (p : Fin 16) (s : State) (r : Run) (im : Image), ((s.job p).run = some r) ∧ (r.phase = RunPhase.release) ∧ ((s.job p).image = some im) :=
  ⟨2, { work { tileAt 1 0 0 with stage := { Stage.reset with state := .atStepEnd } } with jobs := [(2, { stepJob with run := some { running with phase := .release }, image := some ⟨0, 0, 0, 0, ⟨[⟨0, [], [], [], [], [], []⟩], [], [], ⟨0, [], [], []⟩⟩⟩ })] }, { running with phase := .release }, (⟨0, 0, 0, 0, ⟨[⟨0, [], [], [], [], [], []⟩], [], [], ⟨0, [], [], []⟩⟩⟩ : Image), by decide +kernel⟩

theorem witness_DmaMovesAndLineRequests :
    (∃ (c : Fin 204) (s : State) (i : Nat) (r : LineReq), ((s.chan c).reqs[i]? = some r) ∧ (r.again = false) ∧ (r.retries < (s.chan c).retry) ∧ (mayRead (s.chan c).reqs i = true) ∧ (r.src.xform = 0) ∧ (r.src.space = Space.localSp) ∧ (r.dst.space ≠ Space.localSp) ∧ (r.dst.space ≠ Space.localStash)) ∧
    (∃ (c : Fin 204) (s : State) (i : Nat) (r : LineReq), ((s.chan c).reqs[i]? = some r) ∧ (r.again = true)) ∧
    (∃ (c : Fin 204) (s : State) (i : Nat) (r : LineReq) (ws : List TWord), ((s.chan c).reqs[i]? = some r) ∧ (mayWrite (s.chan c).reqs i = true) ∧ (r.data = some ws) ∧ (r.dst.xform = 0) ∧ (r.dst.space = Space.localSp) ∧ (r.ov = none) ∧ (c.val < 156) ∧ ((s.chan c).phase = DmaPhase.running)) ∧
    (∃ (c : Fin 204) (s : State) (i : DmaInstr) (sd : AddrDesc) (dd : AddrDesc) (ss : Space) (ds : Space), (AtInstr s c dmaMove i) ∧ (i.srcDesc + 32 ≤ progLimit c.val) ∧ (i.dstDesc + 32 ≤ progLimit c.val) ∧ (sd = AddrDesc.ofBits (wordsNat (List.map TWord.bits (s.progWords c i.srcDesc 8)))) ∧ (dd = AddrDesc.ofBits (wordsNat (List.map TWord.bits (s.progWords c i.dstDesc 8)))) ∧ (Space.ofCode sd.space = some ss) ∧ (Space.ofCode dd.space = some ds) ∧ (((s.progWords c i.srcDesc 8).any TWord.poison || (s.progWords c i.dstDesc 8).any TWord.poison) = false) ∧ (moveStatus (s.chanEnv c) sd dd (sd.addr (loopIter (s.chan c).loops 0) (loopIter (s.chan c).loops 1) (loopIter (s.chan c).loops 2) (sd.stepTerm (s.chan c).step)) (dd.addr (loopIter (s.chan c).loops 0) (loopIter (s.chan c).loops 1) (loopIter (s.chan c).loops 2) (dd.stepTerm (s.chan c).step)) i.len = Status.done) ∧ (s.sideStaging c ss (sd.addr (loopIter (s.chan c).loops 0) (loopIter (s.chan c).loops 1) (loopIter (s.chan c).loops 2) (sd.stepTerm (s.chan c).step)).toNat ≠ some true) ∧ (s.sideStaging c ds (dd.addr (loopIter (s.chan c).loops 0) (loopIter (s.chan c).loops 1) (loopIter (s.chan c).loops 2) (dd.stepTerm (s.chan c).step)).toNat ≠ some true)) :=
  ⟨⟨5, withReq readReq, (0:Nat), readReq, by decide +kernel⟩,
   ⟨5, withReq { readReq with again := true }, (0:Nat), { readReq with again := true }, by decide +kernel⟩,
   ⟨5, withReq writeReq, (0:Nat), writeReq, List.replicate 16 ⟨3, false⟩, by decide +kernel⟩,
   ⟨5, atDma (1 + 5 * 4096 + 5 * 2 ^ 28) (15 * 4096), ((atDma (1 + 5 * 4096 + 5 * 2 ^ 28) (15 * 4096)).dmaInstr 5).2, .ofBits (wordsNat (((atDma (1 + 5 * 4096 + 5 * 2 ^ 28) (15 * 4096)).progWords 5 (((atDma (1 + 5 * 4096 + 5 * 2 ^ 28) (15 * 4096)).dmaInstr 5).2).srcDesc 8).map TWord.bits)), .ofBits (wordsNat (((atDma (1 + 5 * 4096 + 5 * 2 ^ 28) (15 * 4096)).progWords 5 (((atDma (1 + 5 * 4096 + 5 * 2 ^ 28) (15 * 4096)).dmaInstr 5).2).dstDesc 8).map TWord.bits)), Space.localSp, Space.localSp, by decide +kernel⟩⟩

theorem witness_DmaControlInstructions :
    (∃ (c : Fin 204) (s : State) (i : DmaInstr), (AtInstr s c dmaEnd i)) ∧
    (∃ (c : Fin 204) (s : State) (i : DmaInstr), (AtInstr s c dmaWait i) ∧ (i.val ≤ s.chanTok c i.tok) ∧ (c.val < 156)) ∧
    (∃ (c : Fin 204) (s : State) (i : DmaInstr), (AtInstr s c dmaWait i) ∧ (s.chanTok c i.tok < i.val)) ∧
    (∃ (c : Fin 204) (s : State) (i : DmaInstr), (AtInstr s c dmaSignal i) ∧ (drained (s.chan c).reqs (s.chanRec c) = true) ∧ (c.val < 156)) :=
  ⟨⟨5, atDma 255 0, ((atDma 255 0).dmaInstr 5).2, by decide +kernel⟩,
   ⟨5, atDma (3 + 1 * 256) 2, ((atDma (3 + 1 * 256) 2).dmaInstr 5).2, by decide +kernel⟩,
   ⟨5, atDma (3 + 1 * 256) 3, ((atDma (3 + 1 * 256) 3).dmaInstr 5).2, by decide +kernel⟩,
   ⟨5, atDma (4 + 1 * 256) 3, ((atDma (4 + 1 * 256) 3).dmaInstr 5).2, by decide +kernel⟩⟩

theorem witness_DmaControlInstructions_2 :
    ∃ (c : Fin 204) (s : State) (i : DmaInstr), (AtInstr s c dmaLoop i) ∧ (loopOk (s.chan c).pc i (s.chan c).loops = true) :=
  ⟨5, atDma (2 + 0 * 256 + 3 * 65536) 2, ((atDma (2 + 0 * 256 + 3 * 65536) 2).dmaInstr 5).2, by decide +kernel⟩

theorem witness_DmaProgramsAndSystemChannels :
    (∃ (n : Fin 48) (v : DWord) (s : State), (s.clusterUp = true) ∧ ((s.sysChan n).chan.phase = DmaPhase.idle) ∧ (bit v.toNat 4 = true) ∧ ((s.sysChan n).fw = false)) ∧
    (∃ (n : Fin 48) (s : State), (s.clusterUp = true) ∧ ((s.sysChan n).chan.phase = DmaPhase.running) ∧ ((s.sysChan n).chan.phase ≠ DmaPhase.idle)) ∧
    (∃ (n : Fin 48) (c : Fin 204) (s : State) (st : Status), (c.val = 156 + n.val) ∧ ((s.sysChan n).chan.ending = some st) ∧ ((s.sysChan n).chan.phase = DmaPhase.draining) ∧ (allArrived (s.sysChan n).chan.reqs 0 = true)) :=
  ⟨⟨7, (0x12 : DWord), withSys { SysChan.reset with fw := false, part := 2 }, by decide +kernel⟩,
   ⟨7, withSys { SysChan.reset with fw := false, part := 2, chan := { DmaChan.reset with phase := .running } }, by decide +kernel⟩,
   ⟨7, 163, withSys { SysChan.reset with fw := false, part := 2, chan := { DmaChan.reset with phase := .draining, ending := some .done } }, .done, by decide +kernel⟩⟩

theorem witness_HeldMaintenanceRuns :
    (∃ (k : Fin 16) (s : State), (∀ (q : Nat), q < 16 → (s.job q).run = none) ∧ ((s.maint.any fun m => decide (m.kind = mntRecal ∧ m.unit = k.val)) = true)) ∧
    (∃ (p : Fin 16) (s : State) (r : Run) (m : Maint), ((s.job p).run = some r) ∧ (r.phase = RunPhase.maintenance) ∧ (r.ending = none) ∧ (r.cancelled = false) ∧ (r.left ≠ 0) ∧ (s.maint = [m]) ∧ (m.kind = mntLane) ∧ (s.concerns p m = true)) :=
  ⟨⟨4, { up with maint := [⟨mntRecal, 4, true⟩] }, by decide +kernel⟩,
   ⟨2, { work (tileAt 1 0 0) with jobs := [(2, { stepJob with run := some { running with phase := .maintenance } })], maint := [⟨mntLane, 3, true⟩], links := { Links.reset with ports := [(3, { Port.reset with entries := [(1, some ⟨2, 31, 0, none, false, 0, 0, 0, [], 0, 0, 0, 0, false, none⟩)] })] } }, { running with phase := .maintenance }, (⟨mntLane, 3, true⟩ : Maint), by decide +kernel⟩⟩

theorem witness_HbmReadGivesTheLine :
    ∃ (o : Origin) (key : Fin 2048) (dpa : BitVec 40) (s : State) (pc : Nat) (slot : Nat), (s.ringReady = true) ∧ (s.hbm.checkReq s.laneKeys o key dpa.toNat o.viaBar = Status.done) ∧ (s.hbm.placeOf dpa.toNat = some (pc, slot)) ∧ (s.hbm.dead.contains pc = false) ∧ (s.hbm.fenced pc slot = false) ∧ ((s.hbm.lineAt dpa.toNat).poison = false) ∧ ((s.hbm.lineAt dpa.toNat).words.length = 16) :=
  ⟨.sysChan 2, 30, (0xC0000040 : BitVec 40), withHbm someHbm, (((withHbm someHbm).hbm.placeOf ((0xC0000040 : BitVec 40)).toNat).getD (0,0)).1, (((withHbm someHbm).hbm.placeOf ((0xC0000040 : BitVec 40)).toNat).getD (0,0)).2, by decide +kernel⟩

theorem witness_RefusedLineRequestsLeaveMemory :
    ∃ (o : Origin) (key : Fin 2048) (dpa : BitVec 40) (data : List TWord) (s : State) (st : Status), (s.ringReady = true) ∧ (data.length = 16) ∧ (s.hbm.checkReq s.laneKeys o key dpa.toNat o.viaBar = st) :=
  ⟨.sysChan 3, 30, (0xC0000040 : BitVec 40), List.replicate 16 ⟨5, false⟩, withHbm someHbm, .accessDenied, by decide +kernel⟩

theorem witness_HbmWritesReplaceOneLine :
    (∃ (o : Origin) (key : Fin 2048) (dpa : BitVec 40) (s : State) (pc : Nat) (slot : Nat) (data : List TWord), (s.ringReady = true) ∧ (Memory.wf s.hbm = true) ∧ (s.hbm.checkReq s.laneKeys o key dpa.toNat o.viaBar = Status.done) ∧ (s.hbm.placeOf dpa.toNat = some (pc, slot)) ∧ (s.hbm.dead.contains pc = false) ∧ (s.hbm.fenced pc slot = false) ∧ (s.hbm.writeNeed dpa.toNat = WriteNeed.go) ∧ ((s.hbm.gran (granOf dpa.toNat)).state ≠ GranState.staging) ∧ (data.length = 16)) ∧
    (∃ (o : Origin) (key : Fin 2048) (dpa : BitVec 40) (s : State) (pc : Nat) (slot : Nat) (data : List (Option TWord)), (s.ringReady = true) ∧ (Memory.wf s.hbm = true) ∧ (s.hbm.checkReq s.laneKeys o key dpa.toNat o.viaBar = Status.done) ∧ (s.hbm.placeOf dpa.toNat = some (pc, slot)) ∧ (s.hbm.dead.contains pc = false) ∧ (s.hbm.fenced pc slot = false) ∧ (s.hbm.writeNeed dpa.toNat = WriteNeed.go) ∧ ((s.hbm.gran (granOf dpa.toNat)).state ≠ GranState.staging) ∧ (data.length = 16) ∧ (data.any Option.isSome = true) ∧ ((s.hbm.lineAt dpa.toNat).poison = false) ∧ ((s.hbm.lineAt dpa.toNat).words.length = 16)) :=
  ⟨⟨.sysChan 2, 30, (0xC0000040 : BitVec 40), withHbm someHbm, (((withHbm someHbm).hbm.placeOf ((0xC0000040 : BitVec 40)).toNat).getD (0,0)).1, (((withHbm someHbm).hbm.placeOf ((0xC0000040 : BitVec 40)).toNat).getD (0,0)).2, List.replicate 16 ⟨5, false⟩, by decide +kernel⟩,
   ⟨.sysChan 2, 30, (0xC0000040 : BitVec 40), withHbm someHbm, (((withHbm someHbm).hbm.placeOf ((0xC0000040 : BitVec 40)).toNat).getD (0,0)).1, (((withHbm someHbm).hbm.placeOf ((0xC0000040 : BitVec 40)).toNat).getD (0,0)).2, some ⟨5, false⟩ :: List.replicate 15 none, by decide +kernel⟩⟩

theorem witness_GranuleCommands :
    (∃ (g : Fin 1024) (s : State), (s.clusterUp = true) ∧ (s.ringReady = true) ∧ (g.val < 1013) ∧ ((s.hbm.gran g.val).state = GranState.free)) ∧
    (∃ (g : Fin 1024) (s : State), (s.clusterUp = true) ∧ (s.ringReady = true) ∧ (g.val < 1013) ∧ ((s.hbm.gran g.val).state = GranState.prot)) ∧
    (∃ (g : Fin 1024) (s : State), (s.clusterUp = true) ∧ (s.ringReady = true) ∧ (g.val < 1013) ∧ ((s.hbm.gran g.val).state = GranState.staging)) ∧
    (∃ (g : Fin 1024) (s : State) (pc : Fin 1024), (s.clusterUp = true) ∧ (s.ringReady = true) ∧ (g.val < 1013) ∧ (s.hbm.isRetired pc.val = false) ∧ (s.hbm.retiredCount < 32) ∧ (s.hbm.stackRetired (pc.val % 16) < 8) ∧ (s.hbm.retireGran = some g.val)) :=
  ⟨⟨7, withHbm someHbm, by decide +kernel⟩,
   ⟨3, withHbm someHbm, by decide +kernel⟩,
   ⟨4, withHbm someHbm, by decide +kernel⟩,
   ⟨5, withHbm someHbm, 9, by decide +kernel⟩⟩

theorem witness_GranuleCommands_2 :
    ∃ (g : Fin 1024) (s : State), (s.clusterUp = true) ∧ (s.ringReady = true) ∧ (g.val < 1013) :=
  ⟨3, withHbm someHbm, by decide +kernel⟩

theorem witness_PartitionKeyCommands :
    (∃ (p : Fin 16) (s : State), (s.clusterUp = true) ∧ (s.ringReady = true) ∧ ((s.hbm.part p.val).epoch < 255)) ∧
    (∃ (p : Fin 16) (s : State), (s.clusterUp = true) ∧ (s.ringReady = true) ∧ ((s.hbm.part p.val).epoch = 255)) :=
  ⟨⟨2, withHbm someHbm, by decide +kernel⟩,
   ⟨2, withHbm { someHbm with parts := [(2, { someHbm.part 2 with epoch := 255 })] }, by decide +kernel⟩⟩

theorem witness_PassesAndRetirementsEnd :
    (∃ (pc : Fin 1024) (w : Nat) (s : State), (s.ringReady = true) ∧ (s.hbm.isRetired pc.val = false) ∧ (s.hbm.retiredCount < 32) ∧ (s.hbm.stackRetired (pc.val % 16) < 8) ∧ (s.hbm.retireGran = some w)) ∧
    (∃ (s : State) (i : Nat) (x : Pass) (p : Fin 16), ((s.hbm.findPass fun x => decide (x.part = p.val) && decide (x.kind = PassKind.rekey ∨ x.kind = PassKind.sessionRekey)) = some (i, x)) ∧ (x.kind = PassKind.rekey)) ∧
    (∃ (s : State) (i : Nat) (x : Pass) (g : Fin 1024), ((s.hbm.findPass fun x => decide (x.kind = PassKind.wipe) && decide (x.index = g.val)) = some (i, x)) ∧ ((s.hbm.part (s.hbm.gran g.val).owner).revoked = false)) ∧
    (∃ (s : State) (i : Nat) (x : Pass) (g : Fin 1024), ((s.hbm.findPass fun x => decide (x.kind = PassKind.fill) && decide (x.index = g.val)) = some (i, x)) ∧ ((s.hbm.gran g.val).next = GranState.prot) ∧ (g.val < 1013)) :=
  ⟨⟨9, 5, withHbm someHbm, by decide +kernel⟩,
   ⟨passing 7 .free ⟨.rekey, 2, 0, 40, 0⟩, 0, (⟨.rekey, 2, 0, 40, 0⟩ : Pass), 2, by decide +kernel⟩,
   ⟨passing 7 ⟨.wiping, 2, .free⟩ ⟨.wipe, 2, 7, 0, 0⟩, 0, (⟨.wipe, 2, 7, 0, 0⟩ : Pass), 7, by decide +kernel⟩,
   ⟨passing 7 ⟨.filling, 2, .prot⟩ ⟨.fill, 2, 7, 0, 0⟩, 0, (⟨.fill, 2, 7, 0, 0⟩ : Pass), 7, by decide +kernel⟩⟩

theorem witness_PassesAndRetirementsEnd_2 :
    (∃ (w : Nat) (s : State) (c : Nat) (rest : List (Nat × Bool)), (s.ringReady = true) ∧ (s.hbm.held = (c, false) :: rest) ∧ (s.hbm.retireGran = some w)) ∧
    (∃ (s : State) (i : Nat) (x : Pass) (rest : List Pass), (s.hbm.waiting = x :: rest) ∧ (s.hbm.mayStart x = true) ∧ (s.hbm.freeCtx = some i)) ∧
    (∃ (dpa : BitVec 40) (s : State) (c : Nat) (slot : Nat), (s.ringReady = true) ∧ (s.hbm.placeOf (dpa.toNat / 64 * 64) = some (c, slot))) ∧
    (∃ (s : State) (i : Nat) (x : Pass) (pc : Fin 1024) (e : Nat × Nat), ((s.hbm.findPass fun x => decide (x.kind = PassKind.migrate) && decide (x.index = pc.val)) = some (i, x)) ∧ (List.find? (fun e => decide (e.fst = pc.val)) s.hbm.retiring = some e)) :=
  ⟨⟨5, withHbm { someHbm with held := [(9, false)] }, 9, [], by decide +kernel⟩,
   ⟨withHbm { someHbm with waiting := [⟨.fill, 2, 3, 0, 0⟩] }, 0, (⟨.fill, 2, 3, 0, 0⟩ : Pass), [], by decide +kernel⟩,
   ⟨(0xC0000040 : BitVec 40), withHbm someHbm, (((withHbm someHbm).hbm.placeOf (((0xC0000040 : BitVec 40)).toNat/64*64)).getD (0,0)).1, (((withHbm someHbm).hbm.placeOf (((0xC0000040 : BitVec 40)).toNat/64*64)).getD (0,0)).2, by decide +kernel⟩,
   ⟨{ passing 5 ⟨.withdrawn, 0, .withdrawn⟩ ⟨.migrate, 0, 9, 0, 0⟩ with hbm := { (passing 5 ⟨.withdrawn, 0, .withdrawn⟩ ⟨.migrate, 0, 9, 0, 0⟩).hbm with retiring := [(9, 5)] } }, 0, (⟨.migrate, 0, 9, 0, 0⟩ : Pass), 9, (9, 5), by decide +kernel⟩⟩

theorem witness_SlotCommandsComplete :
    (∃ (slot : Fin 2048) (s : State), (s.clusterUp = true) ∧ ((s.sec.slot slot.val).state = SlotState.loaded) ∧ ((s.sec.slot slot.val).kind = kindKem) ∧ (4 ≤ slot.val) ∧ ((s.sec.slot slot.val).state ≠ SlotState.failed)) ∧
    (∃ (src : Fin 2048) (slot : Fin 2048) (kind : Fin 16) (owner : Fin 32) (epoch : Fin 256) (ctx : List Byte) (s : State) (k : Sec) (st : Status), ((s.clusterUp = true)) ∧ (s.sec.derive src slot kind owner epoch ctx = (k, st))) ∧
    (∃ (src : Fin 2048) (slot : Fin 2048) (kind : Fin 16) (owner : Fin 32) (epoch : Fin 256) (w : Wrapped) (s : State) (k : Sec) (st : Status), ((s.clusterUp = true)) ∧ (s.sec.importSlot src slot kind owner epoch w = (k, st))) ∧
    (∃ (slot : Fin 2048) (kind : Fin 16) (s : State), (s.clusterUp = true) ∧ (16 ≤ slot.val) ∧ (kindReserved kind.val = false) ∧ ((s.sec.slot slot.val).state = SlotState.free) ∧ (s.sec.entropyOk = true)) :=
  ⟨⟨28, served .reset, by decide +kernel⟩,
   ⟨29, 40, 1, 2, 3, [], served .reset, _, _, by decide +kernel, pair_eta _⟩,
   ⟨28, 40, 4, 2, 0, (⟨[], 0, [], [], 0⟩ : Wrapped), served .reset, _, _, by decide +kernel, pair_eta _⟩,
   ⟨40, 1, served .reset, by decide +kernel⟩⟩

theorem witness_ScarabAndDebugEventsAct :
    (∃ (slot : Fin 2048) (v : DWord) (s : State), (s.sec.entropyOk = true) ∧ (s.boot.past 1 = true) ∧ (16 ≤ slot.val) ∧ ((s.sec.slot slot.val).state ≠ SlotState.failed) ∧ (bit v.toNat 0 = true) ∧ (s.fwm.busy = false) ∧ (s.scarabUp = true) ∧ (s.sec.fuses.state = LcState.manufacture) ∧ (s.sec.fuses.udr = 0)) ∧
    (∃ (s : State), (s.scrapped = false) ∧ (s.scarabUp = true) ∧ (s.sec.entropyOk = true)) ∧
    (∃ (target : LcState) (token : BitVec 256) (s : State) (k : Sec) (st : Status), ((s.scrapped = false) ∧ (s.scarabUp = true)) ∧ (s.sec.transition target token s.anyPart = (k, st))) :=
  ⟨⟨40, (1 : DWord), { up with sec := { Sec.reset with fuses := { Fuses.unblown with lc0 := 3, lc1 := 3 } } }, by decide +kernel⟩,
   ⟨{ up with sec := { Sec.reset with fuses := { Fuses.unblown with lc0 := 3, lc1 := 3 } } }, by decide +kernel⟩,
   ⟨.returned, (0 : BitVec 256), { up with sec := { Sec.reset with fuses := { Fuses.unblown with lc0 := 7, lc1 := 7 } } }, _, _, by decide +kernel, pair_eta _⟩⟩

theorem witness_PartitionsOpenAndClose :
    (∃ (fn : Fin 17) (q : Fin 8192) (ctx : Nat) (c : Cmd) (p : Fin 16) (s : State), (HostReady s fn q 33 ctx c) ∧ (p.val = if fn.val = 0 then c.entry.p0 % 16 else fnPart fn.val) ∧ ((s.part p).live = true) ∧ ((s.part p).removal = none)) ∧
    (∃ (fn : Fin 17) (q : Fin 8192) (ctx : Nat) (c : Cmd) (bs : List Byte) (p : Fin 16) (s : State), (HostReady s fn q 32 ctx c) ∧ (s.fwm.held = false) ∧ ((started s fn q c).createStatus bs = Status.done) ∧ ((PartRecord.ofBytes bs).part = p.val) ∧ ((PartRecord.ofBytes bs).sessionId ≠ 0) ∧ ((((started s fn q c).openPart bs).openKem p.val).snd = Status.done)) ∧
    (∃ (p : Fin 16) (s : State) (r : Removal), ((s.part p).removal = some r) ∧ (r.step = RemovalStep.drain) ∧ (s.dmaBusy p.val = false)) :=
  ⟨⟨3, 0, 0, cmd 0x21 0 0 0, 2, askedAdmin 0x21 0 0 0, by decide +kernel⟩,
   ⟨0, 0, 0, cmd 0x20 0 0 0, partBytes 3 98, 3, { served .reset with hif := { Hif.reset with fns := [(0, someFn [cmd 0x20 0 0 0] [])] }, parts := [] }, by decide +kernel⟩,
   ⟨2, { served .reset with parts := [(2, { somePart with sess := .closing, removal := some ⟨.drain, 0, 0, [], none⟩ })] }, (⟨.drain, 0, 0, [], none⟩ : Removal), by decide +kernel⟩⟩

theorem witness_SessionCommandsComplete :
    (∃ (fn : Fin 17) (q : Fin 8192) (ctx : Nat) (c : Cmd) (bs : List Byte) (s : State) (a1 : State) (st : Status), ((HostReady s fn q 36 ctx c)) ∧ ((started s fn q c).ownerImport (fnPart fn.val) bs = (a1, st))) ∧
    (∃ (fn : Fin 17) (q : Fin 8192) (ctx : Nat) (c : Cmd) (s : State) (a1 : State) (st : Status), ((HostReady s fn q 37 ctx c) ∧ ((s.part (fnPart fn.val)).origin = true) ∧ ((s.part (fnPart fn.val)).sess = SessState.active) ∧ ((s.part (fnPart fn.val)).rekey = none)) ∧ ((started s fn q c).beginRekey (fnPart fn.val) = (a1, st))) ∧
    (∃ (fn : Fin 17) (q : Fin 8192) (ctx : Nat) (c : Cmd) (bs : List Byte) (s : State) (b : State) (i : Nat) (sig : List Byte), ((HostReady s fn q 34 ctx c) ∧ (evidenceFront + signatureBytes + 4 + s.fwm.cert.length ≤ c.entry.p2) ∧ ((s.part (fnPart fn.val)).sess ≠ SessState.opened)) ∧ (((started s fn q c).sign fun i => Config.shake256 ((started s fn q c).evidenceFor (fnPart fn.val) (field bs 0 32) i)) = Signed.made b i sig)) ∧
    (∃ (fn : Fin 17) (q : Fin 8192) (ctx : Nat) (c : Cmd) (peer : PeerEvidence) (w : Wrapped) (s : State) (a1 : State) (st : Status) (i : Nat), ((HostReady s fn q 35 ctx c) ∧ (s.sessionsAllowed = true) ∧ ((s.part (fnPart fn.val)).origin = false) ∧ (c.entry.p0 % 64 < 36) ∧ ((s.port (c.entry.p0 % 64)).peerSerial = peer.serial) ∧ ((s.part (fnPart fn.val)).sessionSlot = 0)) ∧ ((started s fn q c).importFor (fnPart fn.val) (s.part (fnPart fn.val)).kemSlot kindSession ((started s fn q c).joinMessage (fnPart fn.val) peer w) = (a1, st, i))) :=
  ⟨⟨3, 0, 0, cmd 0x24 0 0 0, importBytes, attesting openedPart (cmd 0x24 0 0 0), _, _, by decide +kernel, pair_eta _⟩,
   ⟨3, 0, 0, cmd 0x25 0 0 0, { askedAdmin 0x25 0 0 0 with parts := [(2, { somePart with origin := true })] }, _, _, by decide +kernel, pair_eta _⟩,
   ⟨3, 0, 0, cmd 0x22 0 0x5000 100000, List.replicate 32 1, attesting somePart (cmd 0x22 0 0x5000 100000), { (started (attesting somePart (cmd 0x22 0 0x5000 100000)) 3 0 (cmd 0x22 0 0x5000 100000)) with sec := { (attesting somePart (cmd 0x22 0 0x5000 100000)).sec with nextIndex := (attesting somePart (cmd 0x22 0 0x5000 100000)).sec.nextIndex + 1 } }, 0, signature (BitVec.ofNat 256 (attesting somePart (cmd 0x22 0 0x5000 100000)).sec.seeds) 0 (Config.shake256 ((started (attesting somePart (cmd 0x22 0 0x5000 100000)) 3 0 (cmd 0x22 0 0x5000 100000)).evidenceFor 2 (field (List.replicate 32 1) 0 32) 0)), by decide +kernel, rfl⟩,
   ⟨3, 0, 0, cmd 0x23 0 0 0, (⟨0, 0, [], 0, 0, [], 0, false, 0, 0, 0, [], 0, 0⟩ : PeerEvidence), (⟨[], 0, [], [], 0⟩ : Wrapped), attesting openedPart (cmd 0x23 0 0 0), _, _, _, by decide +kernel, triple_eta _⟩⟩

theorem witness_SessionCommandsComplete_2 :
    ∃ (fn : Fin 17) (q : Fin 8192) (ctx : Nat) (c : Cmd) (peer : PeerEvidence) (w : Wrapped) (s : State) (a1 : State) (st : Status) (i : Nat), ((HostReady s fn q 35 ctx c) ∧ (s.sessionsAllowed = true) ∧ ((s.part (fnPart fn.val)).origin = false) ∧ (c.entry.p0 % 64 < 36) ∧ ((s.port (c.entry.p0 % 64)).peerSerial = peer.serial) ∧ ((s.part (fnPart fn.val)).sessionSlot = 0)) ∧ ((started s fn q c).importFor (fnPart fn.val) (s.part (fnPart fn.val)).kemSlot kindSession ((started s fn q c).joinMessage (fnPart fn.val) peer w) = (a1, st, i)) :=
  ⟨3, 0, 0, cmd 0x23 0 0 0, (⟨0, 0, [], 0, 0, [], 0, false, 0, 0, 0, [], 0, 0⟩ : PeerEvidence), (⟨[], 0, [1], [], 0⟩ : Wrapped), { attesting openedPart (cmd 0x23 0 0 0) with parts := [(2, { openedPart with kemSlot := 40 })] }, _, _, _, by decide +kernel, triple_eta _⟩

theorem witness_ImageRunIngestAndRelease :
    (∃ (fn : Fin 17) (q : Fin 8192) (ctx : Nat) (c : Cmd) (s : State) (a1 : State) (st : Status) (n : Nat), ((HostReady s fn q 40 ctx c) ∧ ((s.part (fnPart fn.val)).sess = SessState.armed ∨ (s.part (fnPart fn.val)).sess = SessState.active)) ∧ (State.ingestMany c.entry.p1 (started s fn q c) (fnPart fn.val) ((started s fn q c).cmdMaps fn ctx c) c.entry.p0 = (a1, st, n))) ∧
    (∃ (fn : Fin 17) (q : Fin 8192) (ctx : Nat) (c : Cmd) (s : State), (HostReady s fn q 39 ctx c) ∧ ((s.job (fnPart fn.val)).image.isSome = true) ∧ ((s.job (fnPart fn.val)).restorePending = false) ∧ ((s.job (fnPart fn.val)).run = none) ∧ (c.entry.p0 ≠ 0)) ∧
    (∃ (fn : Fin 17) (q : Fin 8192) (ctx : Nat) (c : Cmd) (blk : List Byte) (body : ImageBody) (s : State) (a1 : State) (st : Status), ((HostReady s fn q 38 ctx c)) ∧ ((started s fn q c).imageLoad (fnPart fn.val) ctx fn c.entry.p0 blk body = (a1, st))) ∧
    (∃ (fn : Fin 17) (q : Fin 8192) (ctx : Nat) (c : Cmd) (s : State) (a1 : State) (st : Status) (k : Nat), ((HostReady s fn q 41 ctx c)) ∧ ((started s fn q c).release (fnPart fn.val) ((started s fn q c).cmdMaps fn ctx c) c.entry.p0 c.entry.p1 (bits c.entry.p2 0 48) (bits c.entry.p2 48 8) (bits c.entry.p2 56 8) = (a1, st, k))) :=
  ⟨⟨3, 1, 1, cmd 0x28 (16*2097152) 0 0, runAsk (cmd 0x28 (16*2097152) 0 0), _, _, _, by decide +kernel, triple_eta _⟩,
   ⟨3, 1, 1, cmd 0x27 4 1 0, runAsk (cmd 0x27 4 1 0), by decide +kernel⟩,
   ⟨3, 1, 1, cI, [], someImage.body, runAsk cI, _, _, by decide +kernel, pair_eta _⟩,
   ⟨3, 1, 1, cmd 0x29 (16*2097152) (32*2097152) 0, runAsk (cmd 0x29 (16*2097152) (32*2097152) 0), _, _, _, by decide +kernel, triple_eta _⟩⟩

theorem witness_StartUpPhasesComplete :
    (∃ (s : State), (s.pwr.aon = false) ∧ (s.pwr.reversed = false)) ∧
    (∃ (s : State), (s.boot = { phase := some 1, complete := true, failed := none })) ∧
    (∃ (s : State), (s.boot = { phase := some 2, complete := true, failed := none })) ∧
    (∃ (s : State), (s.boot = { phase := some 3, complete := true, failed := none })) :=
  ⟨⟨State.reset, by decide +kernel⟩,
   ⟨{ up with boot := ⟨some 1, true, none⟩ }, by decide +kernel⟩,
   ⟨{ up with boot := ⟨some 2, true, none⟩ }, by decide +kernel⟩,
   ⟨{ up with boot := ⟨some 3, true, none⟩ }, by decide +kernel⟩⟩

theorem witness_StartUpPhasesComplete_2 :
    (∃ (s : State) (work : PhaseWork) (n : Nat), (s.boot = { phase := some n, complete := false, failed := none }) ∧ (n = 0 ∧ s.pwr.pwrReq = false ∨ n = 2) ∧ (work.cause = none)) ∧
    (∃ (s : State) (work : PhaseWork), (s.boot = { phase := some 3, complete := false, failed := none }) ∧ (work = { slots := [], pcs := [], tiles := [], cause := none })) ∧
    (∃ (s : State) (work : PhaseWork), (s.boot = { phase := some 4, complete := false, failed := none }) ∧ (work = { slots := [], pcs := [], tiles := [], cause := none })) ∧
    (∃ (s : State) (work : PhaseWork) (n : Nat) (c : Nat), (s.boot = { phase := some n, complete := false, failed := none }) ∧ (work.cause = some c)) :=
  ⟨⟨{ up with boot := ⟨some 2, false, none⟩ }, (⟨[], [], [], none⟩ : PhaseWork), 2, by decide +kernel⟩,
   ⟨{ up with boot := ⟨some 3, false, none⟩ }, (⟨[], [], [], none⟩ : PhaseWork), by decide +kernel⟩,
   ⟨{ up with boot := ⟨some 4, false, none⟩ }, (⟨[], [], [], none⟩ : PhaseWork), by decide +kernel⟩,
   ⟨{ up with boot := ⟨some 2, false, none⟩ }, (⟨[], [], [], some 3⟩ : PhaseWork), 2, 3, by decide +kernel⟩⟩

theorem witness_StartUpPhasesComplete_3 :
    ∃ (s : State) (work : PhaseWork), s.boot = ⟨some 1, false, none⟩ ∧ s.pwr.good = true ∧ s.scrapped = false ∧ work = ⟨[], [], [], none⟩ :=
  ⟨{ up with boot := ⟨some 1, false, none⟩, pwr := { up.pwr with rails := (List.range 13).map fun k => (k, { Rail.off with state := .good }) } }, ⟨[], [], [], none⟩, by decide +kernel⟩

theorem witness_PowerAndResetRequestsAct :
    (∃ (s : State), (s.boot.past 2 = true) ∧ (s.pwr.state ≠ PowerState.standby) ∧ (s.boot.past 1 = true)) ∧
    (∃ (s : State) (rail : Fin 13), ((s.pwr.rail rail.val).state = RailState.ramping) ∧ (s.aonUp = true) ∧ (s.pwr.state ≠ PowerState.standby) ∧ (s.pwr.pwrReq = true) ∧ (s.pwr.aon = true) ∧ (s.scrapped = false)) ∧
    (∃ (s : State), (s.aonUp = true) ∧ (s.pwr.locked = false) ∧ (s.pwr.state = PowerState.standby) ∧ (s.pwr.askedLevel < 4) ∧ (s.pwr.pwrReq = false) ∧ (s.pwr.aon = true) ∧ (s.scrapped = false)) ∧
    (∃ (s : State) (rail : Fin 13) (cause : Nat), (rail.val ≠ 0) ∧ ((s.pwr.rail rail.val).state = RailState.good) ∧ (cause = 10 ∨ cause = 11) ∧ (s.pwr.state ≠ PowerState.standby)) :=
  ⟨⟨up, by decide +kernel⟩,
   ⟨{ up with pwr := { up.pwr with pwrReq := true, rails := [(3, { Rail.off with state := .ramping })] } }, 3, by decide +kernel⟩,
   ⟨{ up with boot := ⟨some 0, true, none⟩, pwr := { up.pwr with state := .standby } }, by decide +kernel⟩,
   ⟨{ up with pwr := { up.pwr with rails := [(3, { Rail.off with state := .good })] } }, 3, 10, by decide +kernel⟩⟩

theorem witness_PowerAndResetRequestsAct_2 :
    ∃ (s : State) (req : SpdmReq) (u : State) (b : List Byte), (s.boot.past 2 = true) ∧ (s.spdm req = some (u, b)) :=
  ⟨{ up with pwr := { up.pwr with rails := [(3, { Rail.off with state := .good })] } }, (⟨false, 0, 0⟩ : SpdmReq), ({ up with pwr := { up.pwr with rails := [(3, { Rail.off with state := .good })] } }), [], by decide +kernel⟩

theorem witness_EmergencyTriggersAct :
    (∃ (s : State) (clk : Fin 17) (cause : Fin 13) (reading : Nat) (l : Nat), (s.pwr.aon = true) ∧ (s.pwr.crystalFailed = false) ∧ (s.pwr.state ≠ PowerState.standby) ∧ (s.pwr.tripArmed = true) ∧ (s.pwr.level < 2) ∧ (s.pwr.askedLevel ≤ 2) ∧ (s.pwr.level < 4) ∧ (s.pwr.askedLevel < 4) ∧ (clk.val + 1 ∈ [2, 3, 4, 5, 6, 7, 8, 9, 10, 13, 14, 16, 17]) ∧ (s.pwr.runs (clk.val + 1) = true) ∧ (levelOf cause reading 0 = l) ∧ (l < 4) ∧ (s.pwr.level < l) ∧ (s.pwr.askedLevel ≤ l)) ∧
    (∃ (s : State), (s.pwr.aon = true) ∧ (s.fwm.held = false) ∧ (s.pwr.level = 4)) ∧
    (∃ (s : State) (rs : List (Nat × Nat)), (s.pwr.aon = true) ∧ (s.fwm.held = false) ∧ (s.pwr.level < 4) ∧ ((s.pwr.relax rs).askedLevel < s.pwr.level)) :=
  ⟨⟨up, 2, 1, 9600, 2, by decide +kernel⟩,
   ⟨{ up with pwr := { up.pwr with level := 4 } }, by decide +kernel⟩,
   ⟨{ up with pwr := { up.pwr with level := 2, asked := [(9, 2)] } }, [(9, 0)], by decide +kernel⟩⟩

theorem witness_ClocksAndPowerCapAct :
    (∃ (s : State) (f : Fin 3) (stack : Fin 16), (s.pwr.aon = true) ∧ (s.pwr.state = PowerState.standby) ∧ (s.pwr.gateUs ≠ 0) ∧ (s.pwr.runs (3 + f.val) = true) ∧ (s.fieldIdle f.val = true) ∧ (s.pwr.srUs ≠ 0) ∧ (s.boot.past 3 = true) ∧ (bit s.pwr.selfRefresh stack.val = false) ∧ (setBits s.pwr.selfRefresh stack 1 1 ≠ 65535) ∧ (s.pwr.pllMs ≠ 0) ∧ (Store.get 0 s.pwr.coreStop f.val ≠ 2)) ∧
    (∃ (s : State) (w : BitVec 16) (x : Nat), (s.pwr.aon = true) ∧ (s.aonUp = true) ∧ (s.scrapped = false) ∧ (capLegal w.toNat = true) ∧ (s.pwr.state ≠ PowerState.standby) ∧ (x < 65536) ∧ (x ≤ s.pwr.cap) ∧ (x * 100 < s.pwr.cap * 95) ∧ (s.pwr.below < 49)) ∧
    (∃ (s : State) (w : BitVec 16) (x : Nat), (s.aonUp = true) ∧ (s.scrapped = false) ∧ (capLegal w.toNat = false) ∧ (s.pwr.aon = true) ∧ (s.pwr.state ≠ PowerState.standby) ∧ (x < 65536) ∧ (x ≤ s.pwr.cap) ∧ (x * 100 < s.pwr.cap * 95) ∧ (s.pwr.below = 49) ∧ (s.pwr.duty < dutyCeiling s.pwr.level)) ∧
    (∃ (s : State) (x : Nat), (s.pwr.aon = true) ∧ (s.pwr.state ≠ PowerState.standby) ∧ (x < 65536) ∧ (s.pwr.cap < x)) :=
  ⟨⟨{ up with pwr := { up.pwr with state := .standby } }, 0, 3, by decide +kernel⟩,
   ⟨up, (4200 : BitVec 16), 100, by decide +kernel⟩,
   ⟨{ up with pwr := { up.pwr with running := 2^17 - 1 - 2^2, selfRefresh := 0xFFF7, below := 49, duty := 20 } }, (7 : BitVec 16), 3000, by decide +kernel⟩,
   ⟨up, 4300, by decide +kernel⟩⟩

theorem witness_ClocksAndPowerCapAct_2 :
    (∃ (s : State) (x : Nat), (s.pwr.aon = true) ∧ (s.pwr.state ≠ PowerState.standby) ∧ (x < 65536) ∧ (x ≤ s.pwr.cap) ∧ (s.pwr.cap * 95 ≤ x * 100)) ∧
    (∃ (s : State) (stack : Fin 16), (s.pwr.srUs ≠ 0) ∧ (s.boot.past 3 = true) ∧ (bit s.pwr.selfRefresh stack.val = false) ∧ (setBits s.pwr.selfRefresh stack 1 1 = 65535)) ∧
    (∃ (s : State) (f : Fin 3) (clk : Fin 17), (clk.val = f.val + 2) ∧ (s.mayWake (clk.val + 1) = true) ∧ (s.pwr.runs (clk.val + 1) = false)) :=
  ⟨⟨up, 4100, by decide +kernel⟩,
   ⟨{ up with pwr := { up.pwr with running := 2^17 - 1 - 2^2, selfRefresh := 0xFFF7, below := 49, duty := 20 } }, 3, by decide +kernel⟩,
   ⟨{ up with pwr := { up.pwr with running := 2^17 - 1 - 2^2, selfRefresh := 0xFFF7, below := 49, duty := 20 } }, 0, 2, by decide +kernel⟩⟩

theorem witness_PortCommandsAct :
    (∃ (k : Fin 36) (wave : Fin 5) (rx : Bool) (s : State), (s.ready = true) ∧ (s.clusterUp = true) ∧ (s.portAsk k 3 0 0 = none) ∧ ((s.port k).state = PortState.up) ∧ (s.portAsk k 2 0 0 = none) ∧ ((s.port k).version ≠ 0) ∧ (s.portAsk k 5 wave (b2n rx) = none) ∧ ((s.port k).spare (b2n rx) ≠ noWave) ∧ ((s.port k).moving (b2n rx) = false) ∧ (bit ((s.port k).waves (b2n rx)) wave.val = true)) ∧
    (∃ (k : Fin 36) (s : State), (s.ready = true) ∧ (s.clusterUp = true) ∧ (s.portAsk k 1 0 0 = none) ∧ (s.roleOf k.val ≠ 0) ∧ ((s.port k).state = PortState.off)) ∧
    (∃ (k : Fin 36) (s : State), (s.ready = true) ∧ (s.clusterUp = true) ∧ (s.portAsk k 4 0 0 = none) ∧ ((s.port k).state = PortState.miswired) ∧ (((s.port k).parts.all fun p => (s.job p).run.isNone) = true)) ∧
    (∃ (fn : Fin 17) (q : Fin 8192) (ctx : Nat) (c : Cmd) (bs : List Byte) (s : State), (HostReady s fn q 48 ctx c) ∧ (mapOk bs = true)) :=
  ⟨⟨3, 1, false, portState upPort, by decide +kernel⟩,
   ⟨3, portState .reset, by decide +kernel⟩,
   ⟨3, portState { upPort with state := .miswired }, by decide +kernel⟩,
   ⟨0, 0, 0, cmd 0x30 0 0 0, List.replicate 1152 0, { up with hif := { Hif.reset with fns := [(0, someFn [cmd 0x30 0 0 0] [])] } }, by decide +kernel⟩⟩

theorem witness_PortsTrainAndMoveWavelengths :
    (∃ (k : Fin 36) (wave : Fin 5) (rx : Bool) (cw : Nat) (m : WaveMove) (s : State), ((s.port k).state = PortState.up) ∧ (bit (s.port k).rxWaves wave.val = true) ∧ (s.links.failing 0 cw false = false) ∧ ((s.port k).move = [m]) ∧ (m.dir = 0) ∧ (m.wave = wave.val) ∧ ((s.port k).spare 1 ≠ noWave) ∧ ((s.port k).moving 1 = false) ∧ (m.dir = b2n rx) ∧ (m.locked = true) ∧ ((s.port k).version ≠ 1) ∧ (lseqDist m.boundary (((if rx = true then (s.port k).rxLseq else (s.port k).txLseq) + 1) % 16384) < 8192)) ∧
    (∃ (k : Fin 36) (own h : Hello) (tag : BitVec 256) (s : State), ((s.port k).sent = some own ∧ (s.port k).got = some h ∧ (s.port k).state = .ident ∧ pickVersion 7 h.versions ≠ 0 ∧ mapMatches s.links.map s.sec.fuses.serial k h.serial h.port = true) ∧ (tag.toNat = proofTag (s.sec.keyOf classSlot) h own)) ∧
    (∃ (k : Fin 36) (wave : Fin 5) (m : WaveMove) (s : State), ((s.port k).move = [m]) ∧ (m.dir = 1) ∧ (m.locked = false) ∧ ((s.port k).state = PortState.up) ∧ ((s.port k).txSpare ≠ noWave) ∧ ((s.port k).moving 0 = false) ∧ (bit (s.port k).txWaves wave.val = true)) ∧
    (∃ (k : Fin 36) (s : State), ((s.port k).state = PortState.up)) :=
  ⟨⟨3, 1, false, 10, (⟨0, 1, true, 70⟩ : WaveMove), portState { upPort with move := [⟨0, 1, true, 70⟩], txLseq := 75 }, by decide +kernel⟩,
   ⟨3, hello 11 3, hello 12 5, _, portState identPort, by decide +kernel, tag_nat _ _ _⟩,
   ⟨3, 1, (⟨1, 1, false, 0⟩ : WaveMove), portState { upPort with move := [⟨1, 1, false, 0⟩] }, by decide +kernel⟩,
   ⟨3, portState upPort, by decide +kernel⟩⟩

theorem witness_PortsTrainAndMoveWavelengths_2 :
    (∃ (k : Fin 36) (own h : Hello) (tag : BitVec 256) (s : State), ((s.port k).sent = some own ∧ (s.port k).got = some h ∧ (s.port k).state = .ident) ∧ (tag.toNat ≠ proofTag (s.sec.keyOf classSlot) h own)) ∧
    (∃ (k : Fin 36) (own : Hello) (h : Hello) (s : State), (h.ok = true) ∧ ((s.port k).sent = some own) ∧ ((s.port k).got = none) ∧ ((s.port k).state = PortState.ident)) ∧
    (∃ (k : Fin 36) (s : State), ((s.port k).state = PortState.retrain)) ∧
    (∃ (k : Fin 36) (s : State), ((s.port k).state = PortState.training) ∧ (s.sec.entropyOk = true)) :=
  ⟨⟨3, hello 11 3, hello 12 5, _, portState identPort, by decide +kernel, tag_ne _ _ _⟩,
   ⟨3, hello 11 3, hello 12 5, portState { identPort with got := none }, by decide +kernel⟩,
   ⟨3, portState { upPort with state := .retrain }, by decide +kernel⟩,
   ⟨3, portState { Port.reset with state := .training }, by decide +kernel⟩⟩

theorem witness_PortsTrainAndMoveWavelengths_3 :
    (∃ (k : Fin 36) (own h : Hello) (tag : BitVec 256) (s : State), ((s.port k).sent = some own ∧ (s.port k).got = some h ∧ (s.port k).state = .ident ∧ pickVersion 7 h.versions ≠ 0 ∧ mapMatches s.links.map s.sec.fuses.serial k h.serial h.port = false) ∧ (tag.toNat = proofTag (s.sec.keyOf classSlot) h own)) ∧
    (∃ (k : Fin 36) (own h : Hello) (tag : BitVec 256) (s : State), ((s.port k).sent = some own ∧ (s.port k).got = some h ∧ (s.port k).state = .ident ∧ pickVersion 7 h.versions = 0) ∧ (tag.toNat = proofTag (s.sec.keyOf classSlot) h own)) :=
  ⟨⟨3, hello 11 3, hello 12 6, _, portState { identPort with got := some (hello 12 6), peerPort := 6 }, by decide +kernel, tag_nat _ _ _⟩,
   ⟨3, hello 11 3, { hello 12 5 with versions := 0 }, _, portState { identPort with got := some { hello 12 5 with versions := 0 } }, by decide +kernel, tag_nat _ _ _⟩⟩

set_option maxRecDepth 1000000 in
theorem witness_FramesAndBindings :
    (∃ (k : Fin 36) (vc : Fin 8) (bs : List Byte) (v : OutUnit) (rest : List OutUnit) (y : Port) (s : State), ((s.port k).state = .up ∧ (s.port k).mayServe vc = true ∧ takeUnit (fun u => decide (u.vc = vc.val) && !(s.port k).holds u.pkid) (s.port k).txQ = some (v, rest) ∧ v.ring = none) ∧ ((s.setPort k { s.port k with txQ := rest }).sealUnit k v = some (bs, y)) ∧ (frameUnits bs.length ≤ (s.port k).credits vc ∧ (s.port k).replayed + bs.length ≤ replayBytes)) ∧
    (∃ (k : Fin 36) (e : PkidEntry) (frame : List Byte) (o : Outer) (s : State) (b : State) (w : Nat × Nat × Nat), ((s.port k).state = PortState.up) ∧ (crcOk frame = true) ∧ ((Outer.ofWord (field frame 0 16)).type = 1) ∧ ((Outer.ofWord (field frame 0 16)).seq = 0) ∧ (s.linkLayer k frame = (b, some o)) ∧ (((b.owe k o.vc (frameUnits frame.length)).port k.val).entry o.pkid = some e) ∧ (e.confirmed = false) ∧ (e.asker = some w)) ∧
    (∃ (k : Fin 36) (vc : Fin 8) (s : State) (u : State), (((s.port k).state = PortState.up) ∧ ((s.port k).mayServe vc.val = true)) ∧ (s.sendOne k.val vc.val = some u)) ∧
    (∃ (fn : Fin 17) (q : Fin 8192) (ctx : Nat) (c : Cmd) (k : Fin 36) (id : Nat) (e : PkidEntry) (s : State), (HostReady s fn q 51 ctx c) ∧ (bits c.entry.p0 4 6 = k.val) ∧ (bits c.entry.p0 10 5 = id) ∧ (1 ≤ id) ∧ (id ≤ 16) ∧ ((s.port k).entry id = some e) ∧ (e.part = bits c.entry.p0 0 4) ∧ (e.asker = none)) :=
  ⟨⟨3, 1, sealed.1, outUnit, [], sealed.2, sending, by decide +kernel, some_getD (d := ([], .reset)) (by decide +kernel), by decide +kernel⟩,
   ⟨3, eW, frameWith oC (List.replicate 96 3), oC, sC, (sC.linkLayer 3 (frameWith oC (List.replicate 96 3))).1, (3,1,7), by decide +kernel⟩,
   ⟨3, 1, sending, (sending.sendOne 3 1).getD sending, by decide +kernel, some_getD (by decide +kernel)⟩,
   ⟨0, 0, 0, cmd 0x33 (2 + 3 * 16 + 1 * 1024) 0 0, 3, 1, someEntry, { portState { upPort with entries := [(1, some someEntry)] } with hif := { Hif.reset with fns := [(0, someFn [cmd 0x33 (2 + 3 * 16 + 1 * 1024) 0 0] [])] } }, by decide +kernel⟩⟩

set_option maxRecDepth 1000000 in
theorem witness_FramesAndBindings_2 :
    (∃ (fn : Fin 17) (q : Fin 8192) (ctx : Nat) (c : Cmd) (k : Fin 36) (id : Nat) (s b : State) (slot : Nat), (HostReady s fn q 0x32 ctx c) ∧ (bits c.entry.p0 4 6 = k.val ∧ bits c.entry.p0 10 5 = id ∧ 1 ≤ id ∧ id ≤ 16 ∧ (s.part (bits c.entry.p0 0 4)).live = true ∧ (s.part (bits c.entry.p0 0 4)).sess ≠ .closing ∧ (s.part (bits c.entry.p0 0 4)).sessionSlot ≠ 0 ∧ (s.port k).state = .up ∧ (s.port k).entry id = none) ∧ ((started s fn q c).bindSlot (bits c.entry.p0 0 4) (s.port k).peerSerial = (b, .done, slot))) ∧
    (∃ (k : Fin 36) (s : State), ((s.port k).state = PortState.up) ∧ ((s.port k).txQ = [])) ∧
    (∃ (k : Fin 36) (frame : List Byte) (s : State) (w : State × Option Outer), ((s.port k).state = PortState.up) ∧ (crcOk frame = true) ∧ ((Outer.ofWord (field frame 0 16)).type = 0) ∧ (s.linkLayer k frame = w)) ∧
    (∃ (k : Fin 36) (frame : List Byte) (o : Outer) (h : Hello) (s : State) (u : State), ((s.port k).state = PortState.up) ∧ (crcOk frame = true) ∧ ((Outer.ofWord (field frame 0 16)).type = 2) ∧ (s.linkLayer k frame = (u, some o)) ∧ (frame.length = o.frameLen) ∧ ((s.port k).got = some h)) :=
  ⟨⟨0, 0, 0, cmd 0x32 (2 + 3 * 16 + 1 * 1024) 0 0, 3, 1, bindAsk, _, _, by decide +kernel, by decide +kernel, triple_of (by decide +kernel)⟩,
   ⟨3, portState { upPort with entries := [(1, some someEntry)] }, by decide +kernel⟩,
   ⟨3, frameWith ⟨0, 0, 0, 0, false, 0, 0, 0, false, 0, 0, 0⟩ [], portState { upPort with entries := [(1, some someEntry)], got := some (hello 12 5) }, (portState { upPort with entries := [(1, some someEntry)], got := some (hello 12 5) }).linkLayer 3 (frameWith ⟨0, 0, 0, 0, false, 0, 0, 0, false, 0, 0, 0⟩ []), by decide +kernel⟩,
   ⟨3, frameWith ⟨2, 0, 0, 1, false, 0, 1, 0, false, 0, 0, 0⟩ (List.replicate 96 0), Outer.ofWord (field (frameWith ⟨2, 0, 0, 1, false, 0, 1, 0, false, 0, 0, 0⟩ (List.replicate 96 0)) 0 16), hello 12 5, portState { upPort with entries := [(1, some someEntry)], got := some (hello 12 5) }, ((portState { upPort with entries := [(1, some someEntry)], got := some (hello 12 5) }).linkLayer 3 (frameWith ⟨2, 0, 0, 1, false, 0, 1, 0, false, 0, 0, 0⟩ (List.replicate 96 0))).1, by decide +kernel⟩⟩

set_option maxRecDepth 1000000 in
theorem witness_FramesAndBindings_3 :
    (∃ (k : Fin 36) (frame : List Byte) (o : Outer) (s : State) (u : State), ((s.port k).state = PortState.up) ∧ (crcOk frame = true) ∧ ((Outer.ofWord (field frame 0 16)).type = 2) ∧ (s.linkLayer k frame = (u, some o)) ∧ (frame.length ≠ o.frameLen)) ∧
    (∃ (k : Fin 36) (frame : List Byte) (fec : Nat) (o : Outer) (s : State) (u : State), ((s.port k).state = PortState.up) ∧ (crcOk frame = true) ∧ ((Outer.ofWord (field frame 0 16)).type = 1) ∧ ((s.updPort k.val fun x => { x with fecUe := satAdd 16 x.fecUe fec }).linkLayer k frame = (u, some o)) ∧ (o.type = 1)) ∧
    (∃ (k : Fin 36) (frame : List Byte) (fec : Nat) (s u : State), ((s.port k).state = .up ∧ crcOk frame = true ∧ (Outer.ofWord (field frame 0 16)).type = 1) ∧ ((s.updPort k fun x => { x with fecUe := satAdd 16 x.fecUe fec }).linkLayer k frame = (u, none))) ∧
    (∃ (k : Fin 36) (pkid : Fin 17) (kg : Fin 2) (e : PkidEntry) (frame : List Byte) (s : State), (s.port k).state = .up ∧ crcOk frame = false ∧ (s.port k).entry pkid = some e ∧ (s.port k).version = 3 ∧ kg.val = 1 - e.kg) :=
  ⟨⟨3, frameWith ⟨2, 0, 0, 2, false, 0, 1, 0, false, 0, 0, 0⟩ (List.replicate 96 0), Outer.ofWord (field (frameWith ⟨2, 0, 0, 2, false, 0, 1, 0, false, 0, 0, 0⟩ (List.replicate 96 0)) 0 16), portState { upPort with entries := [(1, some someEntry)], got := some (hello 12 5) }, ((portState { upPort with entries := [(1, some someEntry)], got := some (hello 12 5) }).linkLayer 3 (frameWith ⟨2, 0, 0, 2, false, 0, 1, 0, false, 0, 0, 0⟩ (List.replicate 96 0))).1, by decide +kernel⟩,
   ⟨3, frameWith ⟨1, 1, 1, 1, false, 0, 1, 0, false, 0, 0, 1⟩ (List.replicate 96 0), 0, Outer.ofWord (field (frameWith ⟨1, 1, 1, 1, false, 0, 1, 0, false, 0, 0, 1⟩ (List.replicate 96 0)) 0 16), portState { upPort with entries := [(1, some someEntry)], got := some (hello 12 5) }, (((portState { upPort with entries := [(1, some someEntry)], got := some (hello 12 5) }).updPort 3 fun x => { x with fecUe := satAdd 16 x.fecUe 0 }).linkLayer 3 (frameWith ⟨1, 1, 1, 1, false, 0, 1, 0, false, 0, 0, 1⟩ (List.replicate 96 0))).1, by decide +kernel⟩,
   ⟨3, frameWith ⟨1, 1, 1, 1, false, 0, 2, 0, false, 0, 0, 1⟩ (List.replicate 96 0), 0, portState { upPort with entries := [(1, some someEntry)], got := some (hello 12 5) }, _, by decide +kernel, pair_of (by decide +kernel)⟩,
   ⟨3, 1, 1, someEntry, [], sending, by decide +kernel⟩⟩

theorem witness_CollectivesAreEntered :
    (∃ (t : Fin 156) (s : State) (i : Issued) (p : Nat) (g : Group), (AtRecord s t recCol i) ∧ ((s.tile t).part = some p) ∧ ((s.tile t).unit unitCol = { cur := [], queue := [] }) ∧ ((((pastRecord (s.tile t)).setUnit unitCol { cur := [], queue := [i] }).mem.spWords (bits i.a 0 22) 16).any TWord.poison = false) ∧ ((ColDesc.ofBits (wordsNat (List.map TWord.bits (((pastRecord (s.tile t)).setUnit unitCol { cur := [], queue := [i] }).mem.spWords (bits i.a 0 22) 16)))).check ((pastRecord (s.tile t)).setUnit unitCol { cur := [], queue := [i] }) (s.colEnv p (ColDesc.ofBits (wordsNat (List.map TWord.bits (((pastRecord (s.tile t)).setUnit unitCol { cur := [], queue := [i] }).mem.spWords (bits i.a 0 22) 16)))).group (match (s.job p).image with | some im => im.vaSize | none => 0) (s.job p).space) = Status.done) ∧ ((s.coll.part p).group (ColDesc.ofBits (wordsNat (List.map TWord.bits (((pastRecord (s.tile t)).setUnit unitCol { cur := [], queue := [i] }).mem.spWords (bits i.a 0 22) 16)))).group = some g) ∧ ((s.coll.part p).inst (ColDesc.ofBits (wordsNat (List.map TWord.bits (((pastRecord (s.tile t)).setUnit unitCol { cur := [], queue := [i] }).mem.spWords (bits i.a 0 22) 16)))).group (Store.get 0 (s.coll.part p).seqs (256 * (ColDesc.ofBits (wordsNat (List.map TWord.bits (((pastRecord (s.tile t)).setUnit unitCol { cur := [], queue := [i] }).mem.spWords (bits i.a 0 22) 16)))).group + (ColDesc.ofBits (wordsNat (List.map TWord.bits (((pastRecord (s.tile t)).setUnit unitCol { cur := [], queue := [i] }).mem.spWords (bits i.a 0 22) 16)))).lidx)) false = none) ∧ (s.coll.inFlight < 256) ∧ ((s.coll.part p).faultRx = false)) ∧
    (∃ (fn : Fin 17) (q : Fin 8192) (ctx : Nat) (cmd : Cmd) (s : State) (p : Nat) (g : Group), (fnPart fn.val = p) ∧ (HostReady s fn q 54 ctx cmd) ∧ ((CpCall.ofEntry cmd.entry fn.val q.val).op = opBarrier ∧ (CpCall.ofEntry cmd.entry fn.val q.val).len = 0 ∧ (CpCall.ofEntry cmd.entry fn.val q.val).root = 0 ∨ (CpCall.ofEntry cmd.entry fn.val q.val).op = opAllGather ∧ 0 < (CpCall.ofEntry cmd.entry fn.val q.val).len ∧ (CpCall.ofEntry cmd.entry fn.val q.val).len ≤ 1048576 ∧ (CpCall.ofEntry cmd.entry fn.val q.val).root = 0 ∨ (CpCall.ofEntry cmd.entry fn.val q.val).op = opBroadcast ∧ 0 < (CpCall.ofEntry cmd.entry fn.val q.val).len ∧ (CpCall.ofEntry cmd.entry fn.val q.val).len ≤ 1048576) ∧ ((s.coll.part p).groupAs (bits cmd.entry.p0 8 10) true = some g) ∧ ((CpCall.ofEntry cmd.entry fn.val q.val).root < g.ranks.length) ∧ ((List.filter Inst.cp (s.coll.part p).insts).length < 4) ∧ ((s.coll.part p).inst (bits cmd.entry.p0 8 10) (Store.get 0 (s.coll.part p).cpSeqs (bits cmd.entry.p0 8 10)) true = none)) ∧
    (∃ (fn : Fin 17) (q : Fin 8192) (ctx : Nat) (cmd : Cmd) (bs : List Byte) (s : State) (p : Nat), (fnPart fn.val = p) ∧ (HostReady s fn q 52 ctx cmd) ∧ (bits cmd.entry.p1 16 15 < bits cmd.entry.p1 0 15) ∧ (bits cmd.entry.p1 0 15 ≤ 16384) ∧ (∀ (r : Nat), r < bits cmd.entry.p1 0 15 → zeroBytes bs (16 * r + 10) 6 = true)) ∧
    (∃ (t : Fin 156) (s : State) (p : Nat) (f : InFlight), ((s.tile t).stage.state = .running ∧ (s.tile t).part = some p ∧ 0 < (s.coll.part p).ranks ∧ Alone (s.tile t) unitCol f ∧ s.colStatus p f = some .done) ∧ (∀ n, ((s.tile n).unit unitCol).queue = [])) :=
  ⟨⟨5, collState atCol twoRanks, ((collState atCol twoRanks).tile 5).standing.2, 2, (⟨7, 1, [0, 1], 5⟩ : Group), by decide +kernel⟩,
   ⟨3, 1, 1, cmd 54 (6 + 7 * 256) (0) 0, { asked 54 (6 + 7 * 256) (0) 0 with coll := { Coll.reset with parts := [(2, twoRanks)] } }, 2, (⟨7, 1, [0, 1], 5⟩ : Group), by decide +kernel⟩,
   ⟨3, 1, 1, cmd 52 (0) (2 + 65536) 0, List.replicate 32 0, { asked 52 (0) (2 + 65536) 0 with coll := { Coll.reset with parts := [(2, twoRanks)] } }, 2, by decide +kernel⟩,
   ⟨5, collState { tileAt 1 0 0 with units := [(6, ⟨[colFlight], []⟩)] } { oneRank with insts := [{ entered 6 0 with ending := some .done }] }, 2, colFlight, by decide +kernel, fun _ => queues_empty _ _ _ (by decide)⟩⟩

theorem witness_CollectivesAreEntered_2 :
    (∃ (fn : Fin 17) (q : Fin 8192) (ctx : Nat) (c : Cmd) (bs : List Byte) (s : State) (gs : List Group), (HostReady s fn q 53 ctx c) ∧ (groupTable (bs.take c.entry.p1) (s.coll.part (fnPart fn)).ranks (s.coll.part (fnPart fn)).self = some gs) ∧ ((s.job (fnPart fn)).run = none)) ∧
    (∃ (fn : Fin 17) (q : Fin 8192) (ctx : Nat) (c : Cmd) (bs : List Byte) (s : State) (gs : List Group), (HostReady s fn q 53 ctx c) ∧ (groupTable (bs.take c.entry.p1) (s.coll.part (fnPart fn)).ranks (s.coll.part (fnPart fn)).self = some gs) ∧ ((s.job (fnPart fn)).run.isSome = true)) :=
  ⟨⟨3, 1, 1, cmd 53 0 12 0, natBytes 7 2 ++ natBytes 1 2 ++ natBytes 2 2 ++ natBytes 0 2 ++ natBytes 0 2 ++ natBytes 1 2, { asked 53 0 12 0 with coll := { Coll.reset with parts := [(2, twoRanks)] } }, _, by decide +kernel, some_getD (d := []) (by decide +kernel), by decide +kernel⟩,
   ⟨3, 1, 1, cmd 53 0 12 0, natBytes 7 2 ++ natBytes 1 2 ++ natBytes 2 2 ++ natBytes 0 2 ++ natBytes 0 2 ++ natBytes 1 2, { asked 53 0 12 0 with coll := { Coll.reset with parts := [(2, twoRanks)] }, jobs := [(2, stepJob)] }, _, by decide +kernel, some_getD (d := []) (by decide +kernel), by decide +kernel⟩⟩

set_option maxRecDepth 1000000 in
theorem witness_ChunksMoveOnAndArrive :
    (∃ (p : Fin 16) (f : ColFrame) (x : Incoming) (s : State), ((s.coll.part p.val).absorb = s.coll.part p.val) ∧ ((s.coll.part p.val).canClose = some (x, f)) ∧ (x.ok = true) ∧ (field f.bytes 56 8 ≠ crc64 (x.front ++ (List.map twordBytes x.units).flatten)) ∧ (x.header.cp = false) ∧ (0 < (s.coll.part p.val).ranks)) ∧
    (∃ (p : Fin 16) (f : ColFrame) (i : Inst) (s : State), ((s.coll.part p.val).frames = [f]) ∧ ((s.coll.part p.val).canOpen f = true) ∧ (f.lost = false) ∧ (headerOk f.bytes = true) ∧ ((ChunkHeader.ofBytes f.bytes).op ≠ 243) ∧ ((s.coll.part p.val).enteredInst (ChunkHeader.ofBytes f.bytes) = some i) ∧ (i.own = some (ChunkHeader.ofBytes f.bytes).digest) ∧ ((ChunkHeader.ofBytes f.bytes).units ≠ 0)) ∧
    (∃ (p : Fin 16) (f : ColFrame) (x : Incoming) (s : State), ((s.coll.part p.val).absorb = s.coll.part p.val) ∧ ((s.coll.part p.val).canClose = some (x, f)) ∧ (x.ok = true) ∧ (field f.bytes 56 8 = crc64 (x.front ++ (List.map twordBytes x.units).flatten))) ∧
    (∃ (p : Fin 16) (group : Fin 1024) (seq : Nat) (cp : Bool) (i : Inst) (g : Group) (d : ColDesc) (s : State), (s.inst p group seq cp = some i) ∧ ((s.coll.part p.val).groupAs group cp = some g) ∧ (i.desc = some d) ∧ (d.op = opBarrier)) :=
  ⟨⟨2, colFrame someHeader (closingLine 5), someIncoming, collState (tileAt 1 0 0) { twoRanks with insts := [(entered 3 16)], frames := [(colFrame someHeader (closingLine 5))], incoming := [someIncoming] }, by decide +kernel⟩,
   ⟨2, colFrame someHeader (someHeader.opening ++ List.replicate 8 0), entered 3 16, collState (tileAt 1 0 0) { twoRanks with insts := [(entered 3 16)], frames := [(colFrame someHeader (someHeader.opening ++ List.replicate 8 0))] }, by decide +kernel⟩,
   ⟨2, colFrame someHeader (closingLine (crc64 (someIncoming.front ++ List.replicate 64 0))), someIncoming, collState (tileAt 1 0 0) { twoRanks with insts := [(entered 3 16)], frames := [(colFrame someHeader (closingLine (crc64 (someIncoming.front ++ List.replicate 64 0))))], incoming := [someIncoming] }, by decide +kernel⟩,
   ⟨2, 7, 1, false, entered 6 0, (⟨7, 1, [0, 1], 5⟩ : Group), .ofBits (colBits 6 0), collState (tileAt 1 0 0) { twoRanks with insts := [(entered 6 0)] }, by decide +kernel⟩⟩

set_option maxRecDepth 1000000 in
theorem witness_ChunksMoveOnAndArrive_2 :
    (∃ (p : Fin 16) (group : Fin 1024) (seq : Nat) (cp : Bool) (origin : Nat) (chunk : Nat) (i : Inst) (g : Group) (d : ColDesc) (s : State) (e : (Fin 16 → Fin 1024 → Nat → Bool → Nat → Nat → Instr) × Nat) (a : State) (own : ChunkData) (fl : Flags) (m : Moved), ((s.inst p group seq cp = some i) ∧ ((s.coll.part p.val).groupAs group cp = some g) ∧ (i.desc = some d) ∧ (d.op = e.snd) ∧ (i.open_ g = true) ∧ (d.hasChunk g origin chunk = true) ∧ (i.inTurn origin chunk = true) ∧ ((if (i.chunk origin chunk).stage = 0 then s.ownChunk p i d g origin chunk else (s, Status.done, (i.chunk origin chunk).data, 0)) = (a, Status.done, own, fl)) ∧ (i.stepChunk d ((s.coll.part p.val).geo g) g (s.coll.part p.val).self origin chunk own = some m) ∧ ((m.sends.all fun x => !(s.portsTo p x.rank true).isEmpty) = true) ∧ (m.write = none)) ∧ (e ∈ colRows)) ∧
    (∃ (p : Fin 16) (group : Fin 1024) (seq : Nat) (cp : Bool) (origin : Nat) (chunk : Nat) (i : Inst) (g : Group) (d : ColDesc) (s : State) (e : (Fin 16 → Fin 1024 → Nat → Bool → Nat → Nat → Instr) × Nat) (a : State) (own : ChunkData) (fl : Flags) (m : Moved) (data : ChunkData) (b3 : State) (fl3 : Flags), ((s.inst p group seq cp = some i) ∧ ((s.coll.part p.val).groupAs group cp = some g) ∧ (i.desc = some d) ∧ (d.op = e.snd) ∧ (i.open_ g = true) ∧ (d.hasChunk g origin chunk = true) ∧ (i.inTurn origin chunk = true) ∧ ((if (i.chunk origin chunk).stage = 0 then s.ownChunk p i d g origin chunk else (s, Status.done, (i.chunk origin chunk).data, 0)) = (a, Status.done, own, fl)) ∧ (i.stepChunk d ((s.coll.part p.val).geo g) g (s.coll.part p.val).self origin chunk own = some m) ∧ ((m.sends.all fun x => !(s.portsTo p x.rank true).isEmpty) = true) ∧ (m.write = some data) ∧ ((List.foldl (fun a x => a.sendChunk p i d g x) a m.sends).landChunk p i d g data = (b3, Status.done, fl3))) ∧ (e ∈ colRows)) :=
  ⟨⟨2, 7, 1, false, 0, 0, entered 1 16, (⟨7, 1, [0], 5⟩ : Group), .ofBits (colBits 1 16), collState (tileAt 1 0 0) { oneRank with insts := [(entered 1 16)] }, ((.allReduce, 1) : (Fin 16 → Fin 1024 → Nat → Bool → Nat → Nat → Instr) × Nat), (chunkOwn (collState (tileAt 1 0 0) { oneRank with insts := [(entered 1 16)] }) (entered 1 16) ((⟨7, 1, [0], 5⟩ : Group)) 0).1, (chunkOwn (collState (tileAt 1 0 0) { oneRank with insts := [(entered 1 16)] }) (entered 1 16) ((⟨7, 1, [0], 5⟩ : Group)) 0).2.2.1, (chunkOwn (collState (tileAt 1 0 0) { oneRank with insts := [(entered 1 16)] }) (entered 1 16) ((⟨7, 1, [0], 5⟩ : Group)) 0).2.2.2, chunkMove oneRank (entered 1 16) ((⟨7, 1, [0], 5⟩ : Group)) 0 ((chunkOwn (collState (tileAt 1 0 0) { oneRank with insts := [(entered 1 16)] }) (entered 1 16) ((⟨7, 1, [0], 5⟩ : Group)) 0).2.2.1), by decide +kernel, by simp [colRows]⟩,
   ⟨2, 7, 1, false, 0, 0, entered 5 16, (⟨7, 1, [0], 5⟩ : Group), .ofBits (colBits 5 16), collState (tileAt 1 0 0) { oneRank with insts := [(entered 5 16)] }, ((.allToAll, 5) : (Fin 16 → Fin 1024 → Nat → Bool → Nat → Nat → Instr) × Nat), (chunkOwn (collState (tileAt 1 0 0) { oneRank with insts := [(entered 5 16)] }) (entered 5 16) ((⟨7, 1, [0], 5⟩ : Group)) 0).1, (chunkOwn (collState (tileAt 1 0 0) { oneRank with insts := [(entered 5 16)] }) (entered 5 16) ((⟨7, 1, [0], 5⟩ : Group)) 0).2.2.1, (chunkOwn (collState (tileAt 1 0 0) { oneRank with insts := [(entered 5 16)] }) (entered 5 16) ((⟨7, 1, [0], 5⟩ : Group)) 0).2.2.2, chunkMove oneRank (entered 5 16) ((⟨7, 1, [0], 5⟩ : Group)) 0 ((chunkOwn (collState (tileAt 1 0 0) { oneRank with insts := [(entered 5 16)] }) (entered 5 16) ((⟨7, 1, [0], 5⟩ : Group)) 0).2.2.1), (chunkMove oneRank (entered 5 16) ((⟨7, 1, [0], 5⟩ : Group)) 0 ((chunkOwn (collState (tileAt 1 0 0) { oneRank with insts := [(entered 5 16)] }) (entered 5 16) ((⟨7, 1, [0], 5⟩ : Group)) 0).2.2.1)).write.getD ((chunkOwn (collState (tileAt 1 0 0) { oneRank with insts := [(entered 5 16)] }) (entered 5 16) ((⟨7, 1, [0], 5⟩ : Group)) 0).2.2.1), (chunkLand ((chunkOwn (collState (tileAt 1 0 0) { oneRank with insts := [(entered 5 16)] }) (entered 5 16) ((⟨7, 1, [0], 5⟩ : Group)) 0).1) (entered 5 16) ((⟨7, 1, [0], 5⟩ : Group)) (chunkMove oneRank (entered 5 16) ((⟨7, 1, [0], 5⟩ : Group)) 0 ((chunkOwn (collState (tileAt 1 0 0) { oneRank with insts := [(entered 5 16)] }) (entered 5 16) ((⟨7, 1, [0], 5⟩ : Group)) 0).2.2.1)) ((chunkMove oneRank (entered 5 16) ((⟨7, 1, [0], 5⟩ : Group)) 0 ((chunkOwn (collState (tileAt 1 0 0) { oneRank with insts := [(entered 5 16)] }) (entered 5 16) ((⟨7, 1, [0], 5⟩ : Group)) 0).2.2.1)).write.getD ((chunkOwn (collState (tileAt 1 0 0) { oneRank with insts := [(entered 5 16)] }) (entered 5 16) ((⟨7, 1, [0], 5⟩ : Group)) 0).2.2.1))).1, (chunkLand ((chunkOwn (collState (tileAt 1 0 0) { oneRank with insts := [(entered 5 16)] }) (entered 5 16) ((⟨7, 1, [0], 5⟩ : Group)) 0).1) (entered 5 16) ((⟨7, 1, [0], 5⟩ : Group)) (chunkMove oneRank (entered 5 16) ((⟨7, 1, [0], 5⟩ : Group)) 0 ((chunkOwn (collState (tileAt 1 0 0) { oneRank with insts := [(entered 5 16)] }) (entered 5 16) ((⟨7, 1, [0], 5⟩ : Group)) 0).2.2.1)) ((chunkMove oneRank (entered 5 16) ((⟨7, 1, [0], 5⟩ : Group)) 0 ((chunkOwn (collState (tileAt 1 0 0) { oneRank with insts := [(entered 5 16)] }) (entered 5 16) ((⟨7, 1, [0], 5⟩ : Group)) 0).2.2.1)).write.getD ((chunkOwn (collState (tileAt 1 0 0) { oneRank with insts := [(entered 5 16)] }) (entered 5 16) ((⟨7, 1, [0], 5⟩ : Group)) 0).2.2.1))).2.2, by decide +kernel, by simp [colRows]⟩⟩

theorem witness_AbortsCensusAndFences :
    (∃ (p : Fin 16) (group : Fin 1024) (seq : Nat) (rank : Nat) (cp : Bool) (g : Group) (i : Inst) (m : Mismatch) (s : State), ((s.coll.part p.val).inst group seq cp = some i) ∧ ((treeChildren (s.coll.part p.val).pod (s.coll.part p.val).all (s.coll.part p.val).self).contains rank = false) ∧ (treeParent (s.coll.part p.val).pod (s.coll.part p.val).all (s.coll.part p.val).self = some rank) ∧ ((s.coll.part p.val).fence.result = none) ∧ ((s.coll.part p.val).groupAs group cp = some g) ∧ (i.mismatch = some m) ∧ (m.censusSent = false) ∧ (i.own.isSome = true) ∧ (g.ranks.headD 0 ≠ (s.coll.part p.val).self)) ∧
    (∃ (p : Fin 16) (group : Fin 1024) (seq : Nat) (rank : Nat) (cp : Bool) (g : Group) (s : State), ((treeChildren (s.coll.part p.val).pod (s.coll.part p.val).all (s.coll.part p.val).self).contains rank = true) ∧ (s.fenceReached p.val = false) ∧ ((s.coll.part p.val).groupAs group cp = some g) ∧ ((s.coll.part p.val).inst group seq cp = none) ∧ (0 < g.loc)) ∧
    (∃ (p : Fin 16) (seq : Nat) (s : State) (r : Run), ((s.job p).run = some r) ∧ (r.phase = RunPhase.step) ∧ ((s.job p).step.stepNum = seq)) ∧
    (∃ (p : Fin 16) (group : Fin 1024) (seq : Nat) (rank : Nat) (cp : Bool) (g : Group) (i : Inst) (m : Mismatch) (s : State), ((s.coll.part p.val).groupAs group cp = some g) ∧ (g.ranks.headD 0 = (s.coll.part p.val).self) ∧ (rank ∈ g.ranks) ∧ ((s.coll.part p.val).inst group seq cp = some i) ∧ (i.mismatch = some m) ∧ (∃ r, r ∈ g.ranks ∧ r ≠ rank ∧ ∀ (x : Nat × Nat × Nat), x ∈ m.census → x.fst ≠ r)) :=
  ⟨⟨2, 7, 1, 0, false, (⟨7, 1, [0, 1], 5⟩ : Group), { entered 3 16 with mismatch := some ⟨0, 1, 0, 0, false, []⟩ }, (⟨0, 1, 0, 0, false, []⟩ : Mismatch), collState (tileAt 1 0 0) { twoRanks with self := 1, groups := [((⟨7, 1, [0, 1], 5⟩ : Group))], insts := [({ entered 3 16 with mismatch := some ⟨0, 1, 0, 0, false, []⟩ })] }, by decide +kernel⟩,
   ⟨2, 7, 0, 1, false, (⟨7, 1, [0, 1], 5⟩ : Group), collState (tileAt 1 0 0) twoRanks, by decide +kernel⟩,
   ⟨2, 0, collState (tileAt 1 0 0) twoRanks, running, by decide +kernel⟩,
   ⟨2, 7, 1, 1, false, (⟨7, 1, [0, 1, 2], 5⟩ : Group), { entered 3 16 with mismatch := some ⟨0, 1, 0, 0, false, []⟩ }, (⟨0, 1, 0, 0, false, []⟩ : Mismatch), collState (tileAt 1 0 0) { twoRanks with ranks := 3, groups := [((⟨7, 1, [0, 1, 2], 5⟩ : Group))], insts := [({ entered 3 16 with mismatch := some ⟨0, 1, 0, 0, false, []⟩ })] }, by decide +kernel⟩⟩

theorem witness_TilesAndMaintenance :
    (∃ (t : Fin 156) (fn : Fin 17) (q : Fin 8192) (ctx : Nat) (c : Cmd) (s : State), (s.ready = true) ∧ (bit s.res.failed t.val = false) ∧ (HostReady s fn q 71 ctx c) ∧ (bits c.entry.p0 0 4 = 1) ∧ (bits c.entry.p0 16 16 < 156) ∧ (bit s.res.inService (bits c.entry.p0 16 16) = true) ∧ (s.tileBusy (bits c.entry.p0 16 16) = true)) ∧
    (∃ (fn : Fin 17) (q : Fin 8192) (ctx : Nat) (c : Cmd) (s : State), (HostReady s fn q 71 ctx c) ∧ (bits c.entry.p0 0 4 = 2) ∧ (bits c.entry.p0 16 16 < 156) ∧ (bit s.res.inService (bits c.entry.p0 16 16) = true) ∧ (s.tileBusy (bits c.entry.p0 16 16) = true)) ∧
    (∃ (fn : Fin 17) (q : Fin 8192) (ctx : Nat) (c : Cmd) (s : State), (HostReady s fn q 71 ctx c) ∧ (bits c.entry.p0 0 4 = 5) ∧ (bits c.entry.p0 16 16 < 16) ∧ (∃ p, p < 16 ∧ (s.job p).run.isSome = true)) ∧
    (∃ (fn : Fin 17) (q : Fin 8192) (ctx : Nat) (c : Cmd) (s : State), (HostReady s fn q 71 ctx c) ∧ (bits c.entry.p0 0 4 = 1) ∧ (bits c.entry.p0 16 16 < 156) ∧ (bit s.res.inService (bits c.entry.p0 16 16) = true) ∧ (s.tileBusy (bits c.entry.p0 16 16) = false)) :=
  ⟨⟨5, 3, 1, 1, mtC 1 5, inServ (inWork (mtC 1 5)), by decide +kernel⟩,
   ⟨3, 1, 1, mtC 2 5, inServ (inWork (mtC 2 5)), by decide +kernel⟩,
   ⟨3, 1, 1, mtC 5 5, inServ (inWork (mtC 5 5)), by decide +kernel⟩,
   ⟨3, 1, 1, mtC 1 5, inServ (served (someFn [] [mtC 1 5])), by decide +kernel⟩⟩

theorem witness_TilesAndMaintenance_2 :
    (∃ (fn : Fin 17) (q : Fin 8192) (ctx : Nat) (c : Cmd) (s : State), (HostReady s fn q 71 ctx c) ∧ (bits c.entry.p0 0 4 = 5) ∧ (bits c.entry.p0 16 16 < 16) ∧ (∀ (p : Nat), p < 16 → (s.job p).run = none)) ∧
    (∃ (fn : Fin 17) (q : Fin 8192) (ctx : Nat) (c : Cmd) (s : State), (HostReady s fn q 71 ctx c) ∧ (bits c.entry.p0 0 4 = 6) ∧ (bits c.entry.p0 16 16 < 36) ∧ (∀ (p : Nat), p ∈ (s.port (bits c.entry.p0 16 16)).parts → (s.job p).run = none)) ∧
    (∃ (fn : Fin 17) (q : Fin 8192) (ctx : Nat) (c : Cmd) (s : State), (HostReady s fn q 71 ctx c) ∧ (bits c.entry.p0 0 4 = 7)) ∧
    (∃ (fn : Fin 17) (q : Fin 8192) (ctx : Nat) (c : Cmd) (s : State), (HostReady s fn q 71 ctx c) ∧ (bits c.entry.p0 0 4 = 2) ∧ (bits c.entry.p0 16 16 < 156) ∧ (bit s.res.inService (bits c.entry.p0 16 16) = true) ∧ (s.tileBusy (bits c.entry.p0 16 16) = false)) :=
  ⟨⟨3, 1, 1, mtC 5 5, inServ (served (someFn [] [mtC 5 5])), by decide +kernel⟩,
   ⟨3, 1, 1, mtC 6 5, inServ (served (someFn [] [mtC 6 5])), by decide +kernel⟩,
   ⟨3, 1, 1, mtC 7 5, inServ (served (someFn [] [mtC 7 5])), by decide +kernel⟩,
   ⟨3, 1, 1, mtC 2 5, inServ (served (someFn [] [mtC 2 5])), by decide +kernel⟩⟩

theorem witness_TilesAndMaintenance_3 :
    (∃ (fn : Fin 17) (q : Fin 8192) (ctx : Nat) (c : Cmd) (s : State), (HostReady s fn q 71 ctx c) ∧ (bits c.entry.p0 0 4 = 3) ∧ (bits c.entry.p0 16 16 < 1024)) ∧
    (∃ (fn : Fin 17) (q : Fin 8192) (ctx : Nat) (c : Cmd) (s : State), (HostReady s fn q 71 ctx c) ∧ (bits c.entry.p0 0 4 = 4) ∧ (bits c.entry.p0 16 16 < 1024)) ∧
    (∃ (fn : Fin 17) (q : Fin 8192) (ctx : Nat) (c : Cmd) (s : State), (HostReady s fn q 71 ctx c) ∧ (bits c.entry.p0 0 4 = 1) ∧ (bits c.entry.p0 16 16 < 156) ∧ (bit s.res.inService (bits c.entry.p0 16 16) = false) ∧ (bit s.res.failed (bits c.entry.p0 16 16) = false)) ∧
    (∃ (t : Fin 156) (s : State), (bit s.res.failed t.val = true) ∧ (bit s.res.inService t.val = true) ∧ (s.res.spare (t.val / 52) = none) ∧ ((s.tile t).part = none)) :=
  ⟨⟨3, 1, 1, mtC 3 5, inServ (served (someFn [] [mtC 3 5])), by decide +kernel⟩,
   ⟨3, 1, 1, mtC 4 5, inServ (served (someFn [] [mtC 4 5])), by decide +kernel⟩,
   ⟨3, 1, 1, mtC 1 50, inServ (served (someFn [] [mtC 1 50])), by decide +kernel⟩,
   ⟨5, failedTile (resWith (32 + (2^52 - 2^48))) Tile.reset, by decide +kernel⟩⟩

theorem witness_TilesAndMaintenance_4 :
    (∃ (t : Fin 156) (s : State) (w : Nat), (bit s.res.failed t.val = true) ∧ (bit s.res.inService t.val = true) ∧ (s.res.spare (t.val / 52) = some w) ∧ ((s.tile t).part = none)) ∧
    (∃ (t : Fin 156) (s : State) (w : Nat) (p : Nat) (l : Nat), (bit s.res.failed t.val = true) ∧ (bit s.res.inService t.val = true) ∧ (s.res.spare (t.val / 52) = some w) ∧ ((s.tile t).part = some p) ∧ ((s.job p).run = none) ∧ ((s.job p).ltileOf t.val = some l)) :=
  ⟨⟨5, failedTile (resWith 32) Tile.reset, ((failedTile (resWith 32) Tile.reset).res.spare 0).getD 0, by decide +kernel⟩,
   ⟨5, failedTile (resWith 32) (tileAt 1 0 0), ((failedTile (resWith 32) (tileAt 1 0 0)).res.spare 0).getD 0, 2, 0, by decide +kernel⟩⟩

theorem witness_SnapshotCommandsComplete :
    (∃ (fn : Fin 17) (q : Fin 8192) (ctx : Nat) (c : Cmd) (s : State), HostReady s fn q 0x42 ctx c) ∧
    (∃ (fn : Fin 17) (q : Fin 8192) (ctx : Nat) (c : Cmd) (s : State), (HostReady s fn q 65 ctx c) ∧ ((s.snap (fnPart fn.val)).localArea.isSome = true)) ∧
    (∃ (fn : Fin 17) (q : Fin 8192) (ctx : Nat) (c : Cmd) (l : Layout) (s : State), (HostReady s fn q 64 ctx c) ∧ (s.layoutOf (fnPart fn.val) = some l) ∧ ((s.snap (fnPart fn.val)).free = true) ∧ (c.entry.p0 % 64 = 0) ∧ (c.entry.p2 % 64 = 0) ∧ ((started s fn q c).allStaging (fnPart fn.val) ((started s fn q c).cmdMaps fn ctx c) c.entry.p0 c.entry.p1 = true) ∧ (c.entry.p2 = 0 ∨ (started s fn q c).allStaging (fnPart fn.val) ((started s fn q c).cmdMaps fn ctx c) c.entry.p2 c.entry.p1 = true) ∧ ((l.snap.any fun r => overlaps r.fst r.snd c.entry.p0 c.entry.p1) = false) ∧ (c.entry.p1 < (started s fn q c).areaNeed (fnPart fn.val) l)) ∧
    (∃ (p : Fin 16) (s : State), (s.part p).live = true) :=
  ⟨⟨3, 1, 1, cmd 0x42 0x5000 10 0, asked 0x42 0x5000 10 0, by decide +kernel⟩,
   ⟨3, 1, 1, cmd 0x41 1 0 0, snapState (someFn [] [(cmd 0x41 1 0 0)]) none withArea, by decide +kernel⟩,
   ⟨3, 1, 1, cmd 0x40 (32 * 2097152) 64 0, someImage.body.layout, snapState (someFn [] [(cmd 0x40 (32 * 2097152) 64 0)]) none .reset, by decide +kernel⟩,
   ⟨2, served .reset, by decide +kernel⟩⟩

theorem witness_SnapshotCommandsComplete_2 :
    (∃ (fn : Fin 17) (q : Fin 8192) (ctx : Nat) (c : Cmd) (l : Layout) (s : State), (HostReady s fn q 64 ctx c) ∧ (s.layoutOf (fnPart fn.val) = some l) ∧ ((s.snap (fnPart fn.val)).free = true) ∧ (c.entry.p0 % 64 = 0) ∧ (c.entry.p2 % 64 = 0) ∧ ((started s fn q c).allStaging (fnPart fn.val) ((started s fn q c).cmdMaps fn ctx c) c.entry.p0 c.entry.p1 = true) ∧ (c.entry.p2 = 0 ∨ (started s fn q c).allStaging (fnPart fn.val) ((started s fn q c).cmdMaps fn ctx c) c.entry.p2 c.entry.p1 = true) ∧ ((l.snap.any fun r => overlaps r.fst r.snd c.entry.p0 c.entry.p1) = false) ∧ ((started s fn q c).areaNeed (fnPart fn.val) l ≤ c.entry.p1)) ∧
    (∃ (p : Fin 16) (s u : State), (s.endFill p true = some u)) ∧
    (∃ (p : Fin 16) (s u : State), (s.endFill p true = none) ∧ (s.endFill p false = some u)) ∧
    (∃ (fn : Fin 17) (q : Fin 8192) (ctx : Nat) (c : Cmd) (bs : List Byte) (s : State) (x : FlashSnap), (HostReady s fn q 0x46 ctx c) ∧ (s.flash.find (s.sessionId (fnPart fn)) (field bs 8 8) (field bs 0x10 8) = some x ∧ field bs 0 1 = 3 ∧ BitVec.ofNat 256 (field bs 0x18 32) = x.root) ∧ ((started s fn q c).allStaging (fnPart fn) ((started s fn q c).cmdMaps fn ctx c) c.entry.p1 (x.read s.flash).flatten.length = true)) :=
  ⟨⟨3, 1, 1, cmd 0x40 (32 * 2097152) 2097152 0, someImage.body.layout, snapState (someFn [] [(cmd 0x40 (32 * 2097152) 2097152 0)]) none .reset, by decide +kernel⟩,
   ⟨2, landing true, _, some_getD (d := .reset) (by decide +kernel)⟩,
   ⟨2, landing false, _, by decide +kernel, some_getD (d := .reset) (by decide +kernel)⟩,
   ⟨3, 1, 1, cmd 0x46 0x5000 (32 * 2097152) 0, natBytes 3 8 ++ natBytes 11 8, withFlash (cmd 0x46 0x5000 (32 * 2097152) 0), keptFlash, by decide +kernel, by decide +kernel, by decide +kernel⟩⟩

theorem witness_SnapshotCommandsComplete_3 :
    ∃ (p : Fin 16) (l : Layout) (s : State) (x : Copy) (a1 : State) (recs : List (List Byte)) (base : Nat) (f : Flash), ((s.snap p).flashSt = .active ∧ s.layoutOf p = some l ∧ (s.snap p).localCopy = some x) ∧ (s.areaRecords p false (snapCount l) = (a1, .done, recs)) ∧ (a1.flash.room a1.flash.snaps.length (recs.map List.length).sum = some (base, f)) :=
  ⟨2, someImage.body.layout, snapState (someFn [] []) none { withArea with flashSt := .active, localCopy := some kept }, kept, _, _, 0, .reset, by decide +kernel, triple_of (by decide +kernel), by decide +kernel⟩

theorem witness_FillsAndRestoresComplete :
    (∃ (fn : Fin 17) (q : Fin 8192) (ctx : Nat) (c : Cmd) (s : State) (x : FlashSnap), (HostReady s fn q 0x43 ctx c) ∧ (bits c.entry.p0 0 2 = 1 ∧ s.flash.find (s.sessionId (fnPart fn)) c.entry.p1 c.entry.p2 = some x ∧ (s.snap (fnPart fn)).free = true ∧ (s.snap (fnPart fn)).localArea.isSome = true)) ∧
    (∃ (fn : Fin 17) (q : Fin 8192) (ctx : Nat) (c : Cmd) (bs : List Byte) (s : State) (x : Copy), (HostReady s fn q 0x45 ctx c) ∧ ((s.part (fnPart fn)).sess = .active ∧ (s.job (fnPart fn)).run = none ∧ (s.snap (fnPart fn)).area = .complete ∧ (s.snap (fnPart fn)).localCopy = some x ∧ x.serial = c.entry.p1 ∧ x.epoch = c.entry.p2 ∧ x.root = BitVec.ofNat 256 (field bs 0 32))) ∧
    (∃ (fn : Fin 17) (q : Fin 8192) (ctx : Nat) (c : Cmd) (l : Layout) (s a1 : State) (recs : List (List Byte)), (HostReady s fn q 0x44 ctx c) ∧ (s.layoutOf (fnPart fn) = some l ∧ (s.snap (fnPart fn)).free = true ∧ (s.snap (fnPart fn)).localArea.isSome = true) ∧ ((started s fn q c).areaRecords (fnPart fn) false (snapCount l) = (a1, .done, recs))) ∧
    (∃ (fn : Fin 17) (q : Fin 8192) (ctx : Nat) (c : Cmd) (s b : State), (HostReady s fn q 0x43 ctx c) ∧ (bits c.entry.p0 0 2 = 0) ∧ ((started s fn q c).fillOut (fnPart fn) c.entry.p1 c.entry.p2 (bits c.entry.p0 16 16) (fn, q, c.entry.seq) = (b, .running))) :=
  ⟨⟨3, 1, 1, cmd 0x43 1 11 0, withFlash (cmd 0x43 1 11 0), keptFlash, by decide +kernel, by decide +kernel⟩,
   ⟨3, 1, 1, cmd 0x45 0 11 0, [], snapState (someFn [] [cmd 0x45 0 11 0]) none { withArea with area := .complete, localCopy := some kept }, kept, by decide +kernel, by decide +kernel⟩,
   ⟨3, 1, 1, cmd 0x44 0 11 0, someImage.body.layout, snapState (someFn [] [cmd 0x44 0 11 0]) none withArea, _, _, by decide +kernel, by decide +kernel, triple_of (by decide +kernel)⟩,
   ⟨3, 1, 1, cmd 0x43 65536 11 0, mirrored, _, by decide +kernel, by decide +kernel, pair_of (by decide +kernel)⟩⟩

theorem witness_FunctionsAndDoorbells :
    (∃ (fn : Fin 17) (s : State), (s.clusterUp = true) ∧ ((s.hif.fn fn.val).enable = true)) ∧
    (∃ (fn : Fin 17) (s : State), (s.clusterUp = true) ∧ ((s.hif.fn fn.val).enable = false) ∧ ((s.hif.fn fn.val).tdiError = false) ∧ ((s.hif.fn fn.val).drvMajor ≠ 1)) ∧
    (∃ (fn : Fin 17) (s : State), (s.clusterUp = true) ∧ ((s.hif.fn fn.val).enable = false) ∧ ((s.hif.fn fn.val).tdiError = false) ∧ ((s.hif.fn fn.val).drvMajor = 1) ∧ ((s.hif.fn fn.val).bare = true)) ∧
    (∃ (fn : Fin 17) (q : Fin 8192) (s : State) (x : Sq), ((s.hif.fn fn.val).sq q.val = some x)) :=
  ⟨⟨3, served (someFn [] []), by decide +kernel⟩,
   ⟨3, served { Fn.reset with drvMajor := 2, asqLog2 := 6, acqLog2 := 6 }, by decide +kernel⟩,
   ⟨3, served { Fn.reset with drvMajor := 1, drvMinor := 1, asqLog2 := 6, acqLog2 := 6 }, by decide +kernel⟩,
   ⟨3, 1, served (someFn [] []), (⟨1, 1, 4096, 6, 1, 7, [(7, none)], [], none⟩ : Sq), by decide +kernel⟩⟩

theorem witness_FunctionsAndDoorbells_2 :
    (∃ (fn : Fin 17) (q : Fin 8192) (n : BitVec 32) (s : State) (x : Cq) (d : Ctx), (s.clusterUp = true) ∧ ((s.hif.fn fn.val).tdiError = false) ∧ ((s.hif.fn fn.val).cq q.val = some x) ∧ ((s.hif.fn fn.val).ctx x.ctx = some d) ∧ (d.dying = false) ∧ (2 ^ x.log2 ≤ n.toNat)) ∧
    (∃ (fn : Fin 17) (q : Fin 8192) (n : BitVec 32) (s : State) (x : Sq) (d : Ctx), (s.clusterUp = true) ∧ ((s.hif.fn fn.val).tdiError = false) ∧ ((s.hif.fn fn.val).sq q.val = some x) ∧ ((s.hif.fn fn.val).ctx x.ctx = some d) ∧ (d.dying = false) ∧ (2 ^ x.log2 ≤ n.toNat)) ∧
    (∃ (fn : Fin 17) (q : Fin 8192) (n : BitVec 32) (es : List (List Byte)) (s : State) (x : Sq) (d : Ctx), (s.clusterUp = true) ∧ ((s.hif.fn fn.val).tdiError = false) ∧ ((s.hif.fn fn.val).sq q.val = some x) ∧ ((s.hif.fn fn.val).ctx x.ctx = some d) ∧ (d.dying = false) ∧ (n.toNat < 2 ^ x.log2) ∧ (es.length = (n.toNat + 2 ^ x.log2 - x.head) % 2 ^ x.log2)) ∧
    (∃ (fn : Fin 17) (q : Fin 8192) (s : State) (x : Cq), ((s.hif.fn fn.val).cq q.val = some x) ∧ (x.since ≠ 0) ∧ (x.vector < fnVectors fn.val)) :=
  ⟨⟨3, 1, (64 : BitVec 32), served (someFn [] []), (⟨1, 12288, 6, 1, 1, 0, true, 0, 0, [], 0⟩ : Cq), someCtx, by decide +kernel⟩,
   ⟨3, 1, (64 : BitVec 32), served (someFn [] []), (⟨1, 1, 4096, 6, 1, 7, [(7, none)], [], none⟩ : Sq), someCtx, by decide +kernel⟩,
   ⟨3, 1, (2 : BitVec 32), [0x12 :: List.replicate 63 0], served (someFn [] []), (⟨1, 1, 4096, 6, 1, 7, [(7, none)], [], none⟩ : Sq), someCtx, by decide +kernel⟩,
   ⟨3, 1, served { someFn [] [] with cqs := [(1, some ⟨1, 12288, 6, 1, 1, 1, true, 1, 0, [], 1⟩)] }, (⟨1, 12288, 6, 1, 1, 1, true, 1, 0, [], 1⟩ : Cq), by decide +kernel⟩⟩

theorem witness_FunctionsAndDoorbells_3 :
    (∃ (fn : Fin 17) (q : Fin 8192) (n : BitVec 32) (s : State) (x : Cq) (d : Ctx), (s.clusterUp = true) ∧ ((s.hif.fn fn.val).tdiError = false) ∧ ((s.hif.fn fn.val).cq q.val = some x) ∧ ((s.hif.fn fn.val).ctx x.ctx = some d) ∧ (d.dying = false) ∧ (n.toNat < 2 ^ x.log2) ∧ (x.waiting = [])) ∧
    (∃ (fn : Fin 17) (q : Fin 8192) (s : State) (x : Sq) (d : Ctx) (e : SubEntry), (s.clusterUp = true) ∧ ((s.hif.fn fn.val).tdiError = false) ∧ ((s.hif.fn fn.val).sq q.val = some x) ∧ ((s.hif.fn fn.val).ctx x.ctx = some d) ∧ (d.dying = false) ∧ (List.find? (fun w => decide (w.fst = e.seq)) x.window = none) ∧ (x.maxSeq < e.seq ∨ x.window = [])) :=
  ⟨⟨3, 1, (1 : BitVec 32), served { someFn [] [] with cqs := [(1, some ⟨1, 12288, 6, 1, 1, 1, true, 1, 0, [], 1⟩)] }, (⟨1, 12288, 6, 1, 1, 1, true, 1, 0, [], 1⟩ : Cq), someCtx, by decide +kernel⟩,
   ⟨3, 1, served (someFn [] []), (⟨1, 1, 4096, 6, 1, 7, [(7, none)], [], none⟩ : Sq), someCtx, (⟨0x12, false, false, false, 9, 8, 0, 0, 0, 0, 0, 0, 0, false⟩ : SubEntry), by decide +kernel⟩⟩

theorem witness_ContextsAndQueuesComplete :
    (∃ (fn : Fin 17) (q : Fin 8192) (ctx : Nat) (i : Nat) (c : Cmd) (s : State), (HostReady s fn q 1 ctx c) ∧ (((started s fn q c).hif.fn fn.val).ctxs.length < (started s fn q c).ctxLimit fn.val) ∧ (lowestFree ((started s fn q c).hif.fn fn.val).ctxs 1 ((started s fn q c).ctxLimit fn.val) = some i)) ∧
    (∃ (fn : Fin 17) (q : Fin 8192) (ctx : Nat) (i : Nat) (c : Cmd) (s : State) (x : Ctx), (((started s fn q c).hif.fn fn.val).ctxHandle (bits c.entry.p0 0 32) = some (i, x)) ∧ (i ≠ 0) ∧ (HostReady s fn q 2 ctx c)) ∧
    (∃ (fn : Fin 17) (q : Fin 8192) (ctx : Nat) (i : Nat) (c : Cmd) (s : State) (x : Ctx), (((started s fn q c).hif.fn fn.val).ctxHandle (bits c.entry.p0 0 32) = some (i, x)) ∧ (i ≠ 0) ∧ (HostReady s fn q 3 ctx c)) ∧
    (∃ (fn : Fin 17) (q : Fin 8192) (ctx : Nat) (i : Nat) (c : Cmd) (s : State) (x : Ctx) (j : Nat), (HostReady s fn q 6 ctx c) ∧ (4 ≤ bits c.entry.p2 0 4) ∧ (bits c.entry.p2 0 4 ≤ 12) ∧ (bits c.entry.p2 16 16 < fnVectors fn.val ∨ bits c.entry.p2 16 16 = 65535) ∧ (((started s fn q c).hif.fn fn.val).ctxHandle (bits c.entry.p0 0 32) = some (i, x)) ∧ (x.dying = false) ∧ ((List.filter (fun z => match z.snd with | some w => decide (w.ctx = i) | none => false) ((started s fn q c).hif.fn fn.val).cqs).length < 8) ∧ (lowestFree ((started s fn q c).hif.fn fn.val).cqs 1 (fnQueues fn.val) = some j)) :=
  ⟨⟨3, 0, 0, 2, cmd 1 0 0 0, askedAdmin 1 0 0 0, by decide +kernel⟩,
   ⟨3, 0, 0, 1, cmd 2 (handleOf 1 0 1) 0 0, askedAdmin 2 (handleOf 1 0 1) 0 0, someCtx, by decide +kernel⟩,
   ⟨3, 0, 0, 1, cmd 3 (handleOf 1 0 1) 0 0, askedAdmin 3 (handleOf 1 0 1) 0 0, someCtx, by decide +kernel⟩,
   ⟨3, 0, 0, 1, cmd 6 (handleOf 1 0 1) 0x10000 12, askedAdmin 6 (handleOf 1 0 1) 0x10000 12, someCtx, 2, by decide +kernel⟩⟩

theorem witness_ContextsAndQueuesComplete_2 :
    (∃ (fn : Fin 17) (q : Fin 8192) (ctx : Nat) (i : Nat) (c : Cmd) (s : State) (x : Sq), (HostReady s fn q 5 ctx c) ∧ (((started s fn q c).hif.fn fn.val).sqHandle (bits c.entry.p0 0 32) = some (i, x)) ∧ (i ≠ 0) ∧ (x.destroyer = none)) ∧
    (∃ (fn : Fin 17) (q : Fin 8192) (ctx : Nat) (i : Nat) (c : Cmd) (s : State) (x : Cq), (HostReady s fn q 7 ctx c) ∧ (((started s fn q c).hif.fn fn.val).cqHandle (bits c.entry.p0 0 32) = some (i, x)) ∧ (i ≠ 0) ∧ ((List.any ((started s fn q c).hif.fn fn.val).sqs fun z => match z.snd with | some w => decide (w.cq = i) | none => false) = false)) ∧
    (∃ (fn : Fin 17) (q : Fin 8192) (ctx : Nat) (i : Nat) (c : Cmd) (s : State) (x : Ctx) (k : Nat) (y : Cq) (j : Nat), (HostReady s fn q 4 ctx c) ∧ (c.entry.p1 % 4096 = 0) ∧ (4 ≤ bits c.entry.p2 0 4) ∧ (bits c.entry.p2 0 4 ≤ 12) ∧ (((started s fn q c).hif.fn fn.val).ctxHandle (bits c.entry.p0 0 32) = some (i, x)) ∧ (((started s fn q c).hif.fn fn.val).cqHandle (bits c.entry.p0 32 32) = some (k, y)) ∧ (x.dying = false) ∧ (y.ctx = i) ∧ ((List.filter (fun z => match z.snd with | some w => decide (w.ctx = i) | none => false) ((started s fn q c).hif.fn fn.val).sqs).length < 8) ∧ (lowestFree ((started s fn q c).hif.fn fn.val).sqs 1 (fnQueues fn.val) = some j)) :=
  ⟨⟨3, 0, 0, 1, cmd 5 (handleOf 2 0 1) 0 0, askedAdmin 5 (handleOf 2 0 1) 0 0, (⟨1, 1, 4096, 6, 1, 7, [(7, none)], [], none⟩ : Sq), by decide +kernel⟩,
   ⟨3, 0, 0, 2, cmd 7 (handleOf 3 0 2) 0 0, served { someFn [cmd 7 (handleOf 3 0 2) 0 0] [] with cqs := (someFn [] []).cqs ++ [(2, some ⟨1, 12288, 6, 1, 1, 0, true, 0, 0, [], 0⟩)] }, (⟨1, 12288, 6, 1, 1, 0, true, 0, 0, [], 0⟩ : Cq), by decide +kernel⟩,
   ⟨3, 0, 0, 1, cmd 4 (handleOf 1 0 1 + 2^32 * handleOf 3 0 1) 0x10000 4, askedAdmin 4 (handleOf 1 0 1 + 2^32 * handleOf 3 0 1) 0x10000 4, someCtx, 1, (⟨1, 12288, 6, 1, 1, 0, true, 0, 0, [], 0⟩ : Cq), 2, by decide +kernel⟩⟩

theorem witness_ObjectsAndFencesComplete :
    (∃ (fn : Fin 17) (q : Fin 8192) (ctx : Nat) (i : Nat) (c : Cmd) (s : State), (HostReady s fn q 14 ctx c) ∧ (c.entry.p0 < 2 ^ 63) ∧ (c.entry.p1 % 8 = 0) ∧ (bits c.entry.p2 0 16 < fnVectors fn.val ∨ bits c.entry.p2 0 16 = 65535) ∧ (lowestFree ((started s fn q c).hif.obj (objSpace fn.val)).fences 0 (2 ^ 20) = some i)) ∧
    (∃ (fn : Fin 17) (q : Fin 8192) (ctx : Nat) (i : Nat) (c : Cmd) (s : State) (b : Nat), (fn.val ≠ 0) ∧ (HostReady s fn q 8 ctx c) ∧ (1 ≤ c.entry.p0) ∧ (c.entry.p0 ≤ 524288) ∧ (((started s fn q c).hif.obj (objSpace fn.val)).freeRun (bit c.entry.p1 0) c.entry.p0 (512 * ((started s fn q c).pool (fnPart fn.val) (bit c.entry.p1 0)).length) = some b) ∧ (lowestFree ((started s fn q c).hif.obj (objSpace fn.val)).mems 0 (2 ^ 20) = some i) ∧ (((started s fn q c).hif.obj (objSpace fn.val)).wornPages { staging := bit c.entry.p1 0, first := b, pages := c.entry.p0, tag := none, zombie := false } = [])) :=
  ⟨⟨3, 1, 1, 1, cmd 14 5 4096 0xFFFF, asked 14 5 4096 0xFFFF, by decide +kernel⟩,
   ⟨3, 1, 1, 2, cmd 8 2 0 0, asked 8 2 0 0, 4, by decide +kernel⟩⟩

theorem witness_ObjectsAndFencesComplete_2 :
    (∃ (fn : Fin 17) (q : Fin 8192) (ctx : Nat) (i : Nat) (c : Cmd) (s : State), ((started s fn q c).hif.heldMem fn ctx (bits c.entry.p0 0 32) = some i) ∧ (HostReady s fn q 9 ctx c) ∧ (((started s fn q c).updCtx fn ctx fun x => { x with maps := List.filter (fun r => decide (r.mem ≠ i)) x.maps, mems := List.filter (fun m => decide (m ≠ i)) x.mems }).zombieNow fn i = true)) ∧
    (∃ (fn : Fin 17) (q : Fin 8192) (ctx : Nat) (i : Nat) (c : Cmd) (s : State), ((started s fn q c).hif.heldFence fn ctx (bits c.entry.p0 0 32) = some i) ∧ (HostReady s fn q 15 ctx c)) :=
  ⟨⟨3, 1, 1, 0, cmd 9 (handleOf 4 0 0) 0 0, asked 9 (handleOf 4 0 0) 0 0, by decide +kernel⟩,
   ⟨3, 1, 1, 0, cmd 15 (handleOf 5 0 0) 0 0, asked 15 (handleOf 5 0 0) 0 0, by decide +kernel⟩⟩

theorem witness_ObjectsAndFencesComplete_3 :
    (∃ (fn : Fin 17) (q : Fin 8192) (ctx : Nat) (c : Cmd) (s : State), (HostReady s fn q 11 ctx c) ∧ (c.entry.p1 % 2097152 = 0) ∧ ((rangeMems ((started s fn q c).ctxMaps fn ctx) c.entry.p1 (bits c.entry.p2 32 32 * 2097152)).isSome = true)) ∧
    (∃ (fn : Fin 17) (q : Fin 8192) (ctx : Nat) (i : Nat) (c : Cmd) (s : State) (m : Fence), ((started s fn q c).hif.heldFence fn ctx (bits c.entry.p0 0 32) = some i) ∧ (HostReady s fn q 16 ctx c) ∧ (Store.get none ((started s fn q c).hif.obj (objSpace fn.val)).fences i = some m) ∧ (m.tag = none)) :=
  ⟨⟨3, 1, 1, cmd 11 0 (16 * 2097152) (2^32), asked 11 0 (16 * 2097152) (2^32), by decide +kernel⟩,
   ⟨3, 1, 1, 0, cmd 16 (handleOf 5 0 0) 0 0, asked 16 (handleOf 5 0 0) 0 0, (⟨5, false, 3, 4096, 0xFFFF, none⟩ : Fence), by decide +kernel⟩⟩

theorem witness_ObjectsAndFencesComplete_4 :
    (∃ (fn : Fin 17) (q : Fin 8192) (ctx : Nat) (i : Nat) (c : Cmd) (s : State) (m : MemObj) (t : Nat), ((started s fn q c).hif.heldMem fn ctx (bits c.entry.p0 0 32) = some i) ∧ (HostReady s fn q 12 ctx c) ∧ (Store.get none ((started s fn q c).hif.obj (objSpace fn.val)).mems i = some m) ∧ (m.tag = some t)) ∧
    (∃ (fn : Fin 17) (q : Fin 8192) (ctx : Nat) (i : Nat) (c : Cmd) (s : State) (m : MemObj), ((started s fn q c).hif.heldMem fn ctx (bits c.entry.p0 0 32) = some i) ∧ (HostReady s fn q 10 ctx c) ∧ (c.entry.p1 % 2097152 = 0) ∧ (Store.get none ((started s fn q c).hif.obj (objSpace fn.val)).mems i = some m) ∧ (bits c.entry.p2 0 32 + bits c.entry.p2 32 32 ≤ m.pages) ∧ (c.entry.p1 / 2097152 + bits c.entry.p2 32 32 ≤ 2 ^ 27) ∧ (0 < bits c.entry.p2 32 32) ∧ ((((started s fn q c).ctxMaps fn ctx).any fun r => overlaps (c.entry.p1 / 2097152) (bits c.entry.p2 32 32) r.va r.pages) = false)) :=
  ⟨⟨3, 1, 1, 0, cmd 12 (handleOf 4 0 0) 0 0, asked 12 (handleOf 4 0 0) 0 0, (⟨false, 0, 4, some 77, false⟩), 77, by decide +kernel⟩,
   ⟨3, 1, 1, 0, cmd 10 (handleOf 4 0 0) (64 * 2097152) (1 + 2^32), asked 10 (handleOf 4 0 0) (64 * 2097152) (1 + 2^32), (⟨false, 0, 4, some 77, false⟩), by decide +kernel⟩⟩

theorem witness_ObjectsAndFencesComplete_5 :
    (∃ (fn : Fin 17) (q : Fin 8192) (ctx : Nat) (i : Nat) (c : Cmd) (s : State), ((started s fn q c).hif.heldMem fn ctx (bits c.entry.p0 0 32) = some i) ∧ (HostReady s fn q 9 ctx c) ∧ (((started s fn q c).updCtx fn ctx fun x => { x with maps := List.filter (fun r => decide (r.mem ≠ i)) x.maps, mems := List.filter (fun m => decide (m ≠ i)) x.mems }).zombieNow fn i = false)) ∧
    (∃ (fn : Fin 17) (q : Fin 8192) (ctx : Nat) (i : Nat) (c : Cmd) (s : State) (m : MemObj) (x : Ctx), (HostReady s fn q 13 ctx c) ∧ (i = handleIndex (bits c.entry.p0 0 32)) ∧ (Store.get none ((started s fn q c).hif.obj (objSpace fn.val)).mems i = some m) ∧ (handleKind (bits c.entry.p0 0 32) = 4) ∧ (Store.get 0 ((started s fn q c).hif.obj (objSpace fn.val)).memGen i = handleGen (bits c.entry.p0 0 32)) ∧ (m.zombie = false) ∧ (m.tag = some (bits c.entry.p0 32 32)) ∧ (((started s fn q c).hif.fn fn.val).ctx ctx = some x) ∧ (x.mems.contains i = false)) :=
  ⟨⟨3, 1, 1, 0, cmd 9 (handleOf 4 0 0) 0 0, { asked 9 (handleOf 4 0 0) 0 0 with hif := { (asked 9 (handleOf 4 0 0) 0 0).hif with objs := [(2, { someObjs with image := [0] })] } }, by decide +kernel⟩,
   ⟨3, 1, 1, 0, cmd 13 (handleOf 4 0 0 + 77 * 2^32) 0 0, served { someFn [] [cmd 13 (handleOf 4 0 0 + 77 * 2^32) 0 0] with ctxs := [(0, some .fresh), (1, some .fresh)] }, (⟨false, 0, 4, some 77, false⟩), Ctx.fresh, by decide +kernel⟩⟩

theorem witness_ObjectsAndFencesComplete_6 :
    ∃ (fn : Fin 17) (q : Fin 8192) (ctx : Nat) (i : Nat) (c : Cmd) (s : State) (m : Fence) (x : Ctx), (HostReady s fn q 17 ctx c) ∧ (i = handleIndex (bits c.entry.p0 0 32)) ∧ (Store.get none ((started s fn q c).hif.obj (objSpace fn.val)).fences i = some m) ∧ (handleKind (bits c.entry.p0 0 32) = 5) ∧ (Store.get 0 ((started s fn q c).hif.obj (objSpace fn.val)).fenceGen i = handleGen (bits c.entry.p0 0 32)) ∧ (m.tag = some (bits c.entry.p0 32 32)) ∧ (((started s fn q c).hif.fn fn.val).ctx ctx = some x) ∧ (x.fences.contains i = false) :=
  ⟨3, 1, 1, 0, cmd 17 (handleOf 5 0 0 + 78 * 2^32) 0 0, { served { someFn [] [cmd 17 (handleOf 5 0 0 + 78 * 2^32) 0 0] with ctxs := [(0, some .fresh), (1, some .fresh)] } with hif := { (served { someFn [] [cmd 17 (handleOf 5 0 0 + 78 * 2^32) 0 0] with ctxs := [(0, some .fresh), (1, some .fresh)] }).hif with objs := [(2, { someObjs with fences := [(0, some ⟨5, false, 3, 4096, 0xFFFF, some 78⟩)] })] } }, (⟨5, false, 3, 4096, 0xFFFF, some 78⟩ : Fence), Ctx.fresh, by decide +kernel⟩

theorem witness_CopiesQueriesAndReservedEntries :
    (∃ (fn : Fin 17) (q : Fin 8192) (ctx : Nat) (c : Cmd) (s : State), (HostReady s fn q 18 ctx c)) ∧
    (∃ (fn : Fin 17) (q : Fin 8192) (ctx : Nat) (c : Cmd) (s : State), (HostReady s fn q 80 ctx c) ∧ (1 ≤ c.entry.p2) ∧ (c.entry.p2 ≤ 4096)) ∧
    (∃ (fn : Fin 17) (q : Fin 8192) (ctx : Nat) (c : Cmd) (s : State), (HostReady s fn q 19 ctx c) ∧ (bits c.entry.p2 0 48 % 64 = 0) ∧ (c.entry.p1 % 64 = 0) ∧ ((started s fn q c).allStaging (fnPart fn.val) ((started s fn q c).cmdMaps fn ctx c) c.entry.p1 (bits c.entry.p2 0 48) = true) ∧ (bit c.entry.p2 63 = true) ∧ (((started s fn q c).vaRead (Origin.sysChan (fnPart fn.val)) (fnPart fn.val) ((started s fn q c).cmdMaps fn ctx c) c.entry.p1 (bits c.entry.p2 0 48)).status = Status.done) ∧ (0 < bits c.entry.p2 0 48)) ∧
    (∃ (fn : Fin 17) (q : Fin 8192) (ctx : Nat) (c : Cmd) (s : State), (HostReady s fn q 19 ctx c) ∧ (bits c.entry.p2 0 48 % 64 = 0) ∧ (c.entry.p1 % 64 = 0) ∧ ((started s fn q c).allStaging (fnPart fn.val) ((started s fn q c).cmdMaps fn ctx c) c.entry.p1 (bits c.entry.p2 0 48) = true) ∧ (bit c.entry.p2 63 = false)) :=
  ⟨⟨3, 1, 1, cmd 0x12 0 0 0, asked 0x12 0 0 0, by decide +kernel⟩,
   ⟨3, 1, 1, cmd 0x50 0 0x6000 1, asked 0x50 0 0x6000 1, by decide +kernel⟩,
   ⟨3, 1, 1, cmd 0x13 0x5000 (32*2097152) (2^63+64), asked 0x13 0x5000 (32*2097152) (2^63+64), by decide +kernel⟩,
   ⟨3, 1, 1, cmd 0x13 0x5000 (32*2097152) 64, asked 0x13 0x5000 (32*2097152) 64, by decide +kernel⟩⟩

theorem witness_CopiesQueriesAndReservedEntries_2 :
    ∃ (fn : Fin 17) (q : Fin 8192) (c : Cmd) (s : State) (x : Sq), (s.clusterUp = true) ∧ ((s.hif.fn fn.val).sq q.val = some x) ∧ (x.next = some c) ∧ (c.checked = Status.versionUnsupported) :=
  ⟨3, 1, { cmd 0x77 0 0x6000 1 with checked := .versionUnsupported }, served (someFn [] [{ cmd 0x77 0 0x6000 1 with checked := .versionUnsupported }]), (((served (someFn [] [{ cmd 0x77 0 0x6000 1 with checked := .versionUnsupported }])).hif.fn 3).sq 1).getD ⟨0,0,0,0,0,0,[],[],none⟩, by decide +kernel⟩

theorem witness_CompletionsArePosted :
    (∃ (h : Hif) (fn : Nat) (q : Nat) (x : Sq) (c : Cmd) (d : Ctx) (y : Cq) (p : Nat) (i : Nat) (v : Nat) (f : Fence), (Store.get none (h.obj p).fences i = some f) ∧ (f.abandoned = false) ∧ (f.value < v) ∧ ((h.fn fn).sq q = some x) ∧ (x.cmds = [c]) ∧ (c.entry.sigEn = false) ∧ ((h.fn fn).ctx x.ctx = some d) ∧ (d.dying = false) ∧ ((h.fn fn).cq x.cq = some y) ∧ (y.waiting = []) ∧ (y.used < 2 ^ y.log2)) ∧
    (∃ (h : Hif) (p : Nat) (i : Nat) (v : Nat) (f : Fence), (Store.get none (h.obj p).fences i = some f) ∧ (f.abandoned = true ∨ v ≤ f.value)) :=
  ⟨⟨(asked 0x12 0 0 0).hif, 3, 1, (⟨1, 1, 4096, 6, 1, 7, [(7, none)], [cmd 0x12 0 0 0], none⟩ : Sq), cmd 0x12 0 0 0, someCtx, (⟨1, 12288, 6, 1, 1, 0, true, 0, 0, [], 0⟩ : Cq), 2, 0, 6, (⟨5, false, 3, 4096, 0xFFFF, none⟩ : Fence), by decide +kernel⟩,
   ⟨(asked 0x12 0 0 0).hif, 2, 0, 5, (⟨5, false, 3, 4096, 0xFFFF, none⟩ : Fence), by decide +kernel⟩⟩

theorem witness_FirmwareLogAndTimeCommandsComplete :
    (∃ (fn : Fin 17) (q : Fin 8192) (ctx : Nat) (c : Cmd) (s : State), (HostReady s fn q 105 ctx c)) ∧
    (∃ (fn : Fin 17) (q : Fin 8192) (ctx : Nat) (c : Cmd) (s : State), (HostReady s fn q 102 ctx c)) ∧
    (∃ (fn : Fin 17) (q : Fin 8192) (ctx : Nat) (c : Cmd) (s : State), (HostReady s fn q 103 ctx c) ∧ (bits c.entry.p0 16 8 ≠ 0)) ∧
    (∃ (fn : Fin 17) (q : Fin 8192) (ctx : Nat) (c : Cmd) (s : State), (HostReady s fn q 104 ctx c) ∧ (s.fwm.gm = true) ∧ (s.fwm.source ≠ 1)) :=
  ⟨⟨3, 1, 1, cmd 0x69 0 0 5, fwAsk (cmd 0x69 0 0 5) .reset, by decide +kernel⟩,
   ⟨3, 1, 1, cmd 0x66 0x17 0 5, fwAsk (cmd 0x66 0x17 0 5) .reset, by decide +kernel⟩,
   ⟨3, 1, 1, cmd 0x67 (0x187 + 65536 * 3) 0 5, fwAsk (cmd 0x67 (0x187 + 65536 * 3) 0 5) .reset, by decide +kernel⟩,
   ⟨3, 1, 1, cmd 0x68 (2^70 + 77) 0 5, fwAsk (cmd 0x68 (2^70 + 77) 0 5) { Fwm.reset with gm := true }, by decide +kernel⟩⟩

theorem witness_FirmwareLogAndTimeCommandsComplete_2 :
    (∃ (fn : Fin 17) (q : Fin 8192) (ctx : Nat) (c : Cmd) (s : State), (HostReady s fn q 99 ctx c) ∧ (c.entry.p0 = 2) ∧ (s.fwm.bcb.pending.isSome = true)) ∧
    (∃ (fn : Fin 17) (q : Fin 8192) (ctx : Nat) (c : Cmd) (b : Bool) (s : State), (HostReady s fn q 100 ctx c) ∧ (s.fwm.running = some b) ∧ (s.fwm.bcb.pending = some b)) ∧
    (∃ (fn : Fin 17) (q : Fin 8192) (ctx : Nat) (c : Cmd) (s : State), (HostReady s fn q 98 ctx c)) ∧
    (∃ (fn : Fin 17) (q : Fin 8192) (ctx : Nat) (c : Cmd) (s : State), (HostReady s fn q 99 ctx c) ∧ (c.entry.p0 = 0) ∧ (s.fwm.verified = false)) :=
  ⟨⟨3, 1, 1, cmd 0x63 2 0 0, fwAsk (cmd 0x63 2 0 0) fwRun, by decide +kernel⟩,
   ⟨3, 1, 1, cmd 0x64 2 0 0, false, fwAsk (cmd 0x64 2 0 0) fwRun, by decide +kernel⟩,
   ⟨3, 1, 1, cmd 0x62 0 0 0, fwAsk (cmd 0x62 0 0 0) .reset, by decide +kernel⟩,
   ⟨3, 1, 1, cmd 0x63 0 0 0, fwAsk (cmd 0x63 0 0 0) .reset, by decide +kernel⟩⟩

theorem witness_FirmwareLogAndTimeCommandsComplete_3 :
    (∃ (fn : Fin 17) (q : Fin 8192) (ctx : Nat) (c : Cmd) (s : State), (HostReady s fn q 96 ctx c)) ∧
    (∃ (fn : Fin 17) (q : Fin 8192) (ctx : Nat) (c : Cmd) (s : State), (HostReady s fn q 97 ctx c) ∧ (c.entry.p1 % 4096 = 0) ∧ (c.entry.p2 % 4096 = 0) ∧ (c.entry.p2 ≤ 16777216) ∧ (c.entry.p1 + c.entry.p2 ≤ fwSlotBytes)) ∧
    (∃ (fn : Fin 17) (q : Fin 8192) (ctx : Nat) (c : Cmd) (s : State), (HostReady s fn q 101 ctx c) ∧ (1 ≤ c.entry.p2) ∧ (c.entry.p2 ≤ 65536)) ∧
    (∃ (fn : Fin 17) (q : Fin 8192) (ctx : Nat) (c : Cmd) (b : Bool) (s : State), (HostReady s fn q 100 ctx c) ∧ (s.fwm.running = some b) ∧ (s.fwm.bcb.pending = some b) ∧ (s.fwm.hdr.keysel = 0 ∧ s.sec.fuses.floor < s.fwm.hdr.svn ∧ (s.sec.fuses.state = LcState.manufacture ∨ s.sec.fuses.state = LcState.deployed))) :=
  ⟨⟨3, 1, 1, cmd 0x60 0x1000 0 0, fwAsk (cmd 0x60 0x1000 0 0) .reset, by decide +kernel⟩,
   ⟨3, 1, 1, cmd 0x61 0x1000 4096 4096, fwAsk (cmd 0x61 0x1000 4096 4096) .reset, by decide +kernel⟩,
   ⟨3, 1, 1, cmd 0x65 0x1000 0 5, fwAsk (cmd 0x65 0x1000 0 5) { Fwm.reset with log := [⟨5, 1, 0x600, 1, 2, [1,2]⟩, ⟨5, 0, 0x600, 1, 2, [1,2]⟩], nextSeq := 2 }, by decide +kernel⟩,
   ⟨3, 1, 1, cmd 0x64 2 0 0, false, fwAsk (cmd 0x64 2 0 0) { fwRun with header := hd }, by decide +kernel⟩⟩

theorem witness_FirmwareLogAndTimeCommandsComplete_4 :
    (∃ (fn : Fin 17) (q : Fin 8192) (ctx : Nat) (c : Cmd) (s : State), (HostReady s fn q 97 ctx c) ∧ (c.entry.p1 % 4096 = 0) ∧ (c.entry.p2 % 4096 = 0) ∧ (c.entry.p2 ≤ 16777216) ∧ (fwSlotBytes < c.entry.p1 + c.entry.p2)) ∧
    (∃ (fn : Fin 17) (q : Fin 8192) (ctx : Nat) (c : Cmd) (s : State), (HostReady s fn q 99 ctx c) ∧ (c.entry.p0 = 0) ∧ (s.fwm.verified = true)) ∧
    (∃ (fn : Fin 17) (q : Fin 8192) (ctx : Nat) (c : Cmd) (s : State), (HostReady s fn q 99 ctx c) ∧ (c.entry.p0 = 1) ∧ (s.fwm.verified = true) ∧ (s.anyPart = false) ∧ (s.pwr.level = 0)) ∧
    (∃ (fn : Fin 17) (q : Fin 8192) (ctx : Nat) (c : Cmd) (s : State), (HostReady s fn q 99 ctx c) ∧ (c.entry.p0 = 1) ∧ (s.fwm.verified = true) ∧ (s.anyPart = false) ∧ (s.pwr.level ≠ 0)) :=
  ⟨⟨3, 1, 1, cmd 0x61 0x1000 (256*1048576) 4096, fwAsk (cmd 0x61 0x1000 (256*1048576) 4096) .reset, by decide +kernel⟩,
   ⟨3, 1, 1, cmd 0x63 0 0 0, fwAsk (cmd 0x63 0 0 0) { Fwm.reset with verified := true }, by decide +kernel⟩,
   ⟨0, 1, 1, cmd 0x63 1 0 0, fwAlone (cmd 0x63 1 0 0) { Fwm.reset with verified := true }, by decide +kernel⟩,
   ⟨0, 1, 1, cmd 0x63 1 0 0, { fwAlone (cmd 0x63 1 0 0) { Fwm.reset with verified := true } with pwr := { up.pwr with level := 1 } }, by decide +kernel⟩⟩

theorem witness_BootControlBlockInForce :
    ∃ (f : Fwm), f.bcb0.valid = true ∧ f.bcb1.valid = true ∧ f.bcb0.gen = f.bcb1.gen + 1 :=
  ⟨{ Fwm.reset with bcb0 := ⟨8, false, none, 0, true⟩, bcb1 := ⟨7, true, some true, 2, true⟩ }, by decide +kernel⟩

theorem witness_ControlClusterEvents :
    (∃ (point : Fin 4096) (w : BarWrite) (rest : List BarWrite) (s : State), (s.fwm.boundary < s.fwm.time / 1000000) ∧ (s.clusterUp = true) ∧ ((Store.get PointRate.none s.fwm.rates point.val).second < s.fwm.time / 1000000000) ∧ ((Store.get PointRate.none s.fwm.rates point.val).dropped ≠ 0) ∧ (s.ringReady = true) ∧ (s.fwm.writes = w :: rest) ∧ (w.offset = 56)) ∧
    (∃ (w : BarWrite) (rest : List BarWrite) (s : State), (s.clusterUp = true) ∧ (s.fwm.writes = w :: rest) ∧ (w.offset = 48)) ∧
    (∃ (w : BarWrite) (rest : List BarWrite) (s : State), (s.clusterUp = true) ∧ (s.fwm.writes = w :: rest) ∧ (w.offset = 32)) ∧
    (∃ (w : BarWrite) (rest : List BarWrite) (s : State), (s.clusterUp = true) ∧ (s.fwm.writes = w :: rest) ∧ (w.offset = 16)) :=
  ⟨⟨7, wr 0x38 12345, [], inStep { Fwm.reset with writes := (wr 0x38 12345) :: ([]), time := 3000000000, rates := [(7, ⟨2, 10, 5, 1⟩)] }, by decide +kernel⟩,
   ⟨wr 0x30 12345, [], inStep { Fwm.reset with writes := (wr 0x30 12345) :: ([]) }, by decide +kernel⟩,
   ⟨wr 0x20 7, [wr 0x20 7], inStep { Fwm.reset with writes := (wr 0x20 7) :: ([wr 0x20 7]) }, by decide +kernel⟩,
   ⟨wr 16 0x0203, [wr 0x20 7], inStep { Fwm.reset with writes := (wr 16 0x0203) :: ([wr 0x20 7]) }, by decide +kernel⟩⟩

theorem witness_MantisAnswers :
    (∃ (s : State) (off : Nat) (data : List Byte), s.pwr.aon = true ∧ s.aonUp = true ∧ s.scrapped = false ∧ s.updateMode = true ∧ off + data.length ≤ fwSlotBytes) ∧
    (∃ (s u : State) (req : SpdmReq) (b : List Byte), (s.pwr.aon = true ∧ s.aonUp = true ∧ s.scrapped = false ∧ s.boot.past 2 = true) ∧ (s.spdm req = some (u, b))) :=
  ⟨⟨updating, 512, [1, 2], by decide +kernel⟩,
   ⟨{ served .reset with boot := ⟨some 2, true, none⟩ }, _, ⟨false, 0, 0⟩, _, by decide +kernel, some_getD (d := (.reset, [])) (by decide +kernel)⟩⟩

theorem witness_TimeFollowsItsSource :
    (∃ (k : Fin 36) (width : Nat) (dom : Fin 128) (s : State), (s.pwr.runs clkTime = true) ∧ (width < 100 ∨ 100000 < s.fwm.ppsOffset.natAbs) ∧ (s.ptpPort k.val = true) ∧ (s.fwm.best ≠ some k.val) ∧ (dom.val = s.fwm.domain) ∧ (s.fwm.source = 2) ∧ (s.fwm.lastPps = none)) ∧
    (∃ (k : Fin 36) (width : Nat) (t1 : Nat) (t2 : Nat) (s : State), (s.ptpPort k.val = true) ∧ (s.fwm.best = some k.val) ∧ (s.fwm.lastSync = some (k.val, t1, t2)) ∧ (s.pwr.runs clkTime = true) ∧ (100 ≤ width) ∧ (s.fwm.ppsOffset.natAbs ≤ 100000) ∧ (s.fwm.source ≠ 1) ∧ (s.fwm.source ≠ 2)) ∧
    (∃ (s : State), (s.fwm.source = 1)) ∧
    (∃ (s : State), (s.fwm.source = 3)) :=
  ⟨⟨3, 50, 0, clk { Fwm.reset with time := 6000, source := 2 }, by decide +kernel⟩,
   ⟨3, 500, 1, 5, clk { Fwm.reset with best := some 3, time := 6000, lastSync := some (3, 1, 5) }, by decide +kernel⟩,
   ⟨clk { Fwm.reset with best := some 6, time := 6000, lastSync := some (3, 1, 5), source := 1 }, by decide +kernel⟩,
   ⟨clk { Fwm.reset with best := some 6, time := 6000, lastPps := some 4, source := 3, masters := [(3, some cs0)] }, by decide +kernel⟩⟩

theorem witness_ReadsClearTheirFields :
    ∃ (s : State), (s.clusterUp = true) ∧ (s.ringReady = true) ∧ (s.pwr.aon = true) :=
  ⟨{ inStep { Fwm.reset with wqDrop := 3, ppsBad := 2 } with links := (portState { upPort with retries := 4, swaps := 3 }).links }, by decide +kernel⟩

theorem witness_RegisterWritesAndTheStagingWindow :
    (∃ (fn : Fin 17) (off : Fin 16777216) (o : BitVec 44) (n : Nat) (s : State), (s.pwr.aon = true) ∧ (s.clusterUp = true) ∧ ((s.hif.fn fn.val).tdiError = true ∨ s.bar4Mapped fn o.toNat n = false) ∧ (s.boot.past 2 = true) ∧ ((s.hif.fn fn.val).tdiError = false) ∧ (off.val % 8 = 0) ∧ (s.fwm.writes.length < 4096)) ∧
    (∃ (fn : Fin 17) (o : BitVec 44) (s : State) (d : Nat) (u : State) (ws : List TWord), ((s.hif.fn fn.val).tdiError = false) ∧ (o.toNat % 64 = 0) ∧ (s.bar4Addr fn o.toNat = some d) ∧ (s.hbmRead Origin.host 0 d true Fetch.clean = (u, Status.done, ws)) ∧ (ws.length = 16)) ∧
    (∃ (fn : Fin 17) (o : BitVec 44) (bs : List Byte) (s : State) (d : Nat) (u : State) (ws : List TWord) (w : State) (st : Status), ((s.hif.fn fn.val).tdiError = false) ∧ (o.toNat % 64 = 0) ∧ (s.bar4Addr fn o.toNat = some d) ∧ (s.hbmRead Origin.host 0 d true Fetch.clean = (u, Status.done, ws)) ∧ (ws.length = 16) ∧ (bs.length = 64) ∧ (u.bar4Addr fn o.toNat = some d) ∧ (u.hbmWrite Origin.host 0 d true (List.map some (cleanWords bs)) Fetch.clean = some (w, st))) :=
  ⟨⟨3, 16, (0x40000000 : BitVec 44), 64, served (someFn [] []), by decide +kernel⟩,
   ⟨3, (64 : BitVec 44), served (someFn [] []), ((served (someFn [] [])).bar4Addr 3 64).getD 0, ((served (someFn [] [])).hbmRead .host 0 (((served (someFn [] [])).bar4Addr 3 64).getD 0) true .clean).1, ((served (someFn [] [])).hbmRead .host 0 (((served (someFn [] [])).bar4Addr 3 64).getD 0) true .clean).2.2, by decide +kernel⟩,
   ⟨3, (64 : BitVec 44), List.replicate 64 7, served (someFn [] []), ((served (someFn [] [])).bar4Addr 3 64).getD 0, ((served (someFn [] [])).hbmRead .host 0 (((served (someFn [] [])).bar4Addr 3 64).getD 0) true .clean).1, ((served (someFn [] [])).hbmRead .host 0 (((served (someFn [] [])).bar4Addr 3 64).getD 0) true .clean).2.2, (((((served (someFn [] [])).hbmRead .host 0 (((served (someFn [] [])).bar4Addr 3 64).getD 0) true .clean).1).hbmWrite .host 0 (((served (someFn [] [])).bar4Addr 3 64).getD 0) true ((cleanWords (List.replicate 64 7)).map some) .clean).getD ((((served (someFn [] [])).hbmRead .host 0 (((served (someFn [] [])).bar4Addr 3 64).getD 0) true .clean).1), .done)).1, (((((served (someFn [] [])).hbmRead .host 0 (((served (someFn [] [])).bar4Addr 3 64).getD 0) true .clean).1).hbmWrite .host 0 (((served (someFn [] [])).bar4Addr 3 64).getD 0) true ((cleanWords (List.replicate 64 7)).map some) .clean).getD ((((served (someFn [] [])).hbmRead .host 0 (((served (someFn [] [])).bar4Addr 3 64).getD 0) true .clean).1), .done)).2, by decide +kernel⟩⟩

theorem witness_EveryStepKeepsTheInvariant :
    ∃ (s u : State), (Ok s) ∧ (step s = .next u) :=
  ⟨{ State.reset with pending := [.setPwrCap 2000] }, _, by decide +kernel, rfl⟩

theorem witness_EveryStepTakesOneCommand :
    ∃ (s u : State), (step s = .next u) :=
  ⟨{ State.reset with pending := [.entropyHealthRecover, .setPwrCap 2000] }, _, rfl⟩

theorem witness_OnlyMantisWritesTheCap :
    ∃ (s u : State), (exec (.setPwrCap 2000) s = .next u) :=
  ⟨up, _, rfl⟩

theorem witness_RollbackFloorNeverFalls :
    ∃ (s u : State) (i : Nat), (i < 64 ∧ bit s.sec.fuses.antiRollback i = true) ∧ (step s = .next u) :=
  ⟨{ served .reset with sec := { Sec.reset with fuses := signedFuses }, pending := [.entropyHealthRecover] }, _, 3, by decide +kernel, rfl⟩

theorem witness_RollbackFloorJudgesProductionImages :
    ((let image := fun k v => signedHead k v ++ List.replicate 4096 0
    (FwHeader.ofBytes (image 0 3)).keysel = 0 ∧ (FwHeader.ofBytes (image 0 3)).svn < signedFuses.floor ∧
    (FwHeader.ofBytes (image 0 64)).keysel = 0 ∧ signedFuses.floor ≤ (FwHeader.ofBytes (image 0 64)).svn ∧ 63 < (FwHeader.ofBytes (image 0 64)).svn ∧ (FwHeader.ofBytes (image 1 5)).keysel = 1)) ∧
    (((∀ k d g, Config.xmssVerify k d g = true) → ∃ (fz : Fuses) (image : List Byte), verifyImage fz false image = (0, .done))) ∧
    (∃ (s u : State), (s.fwm.hdr.keysel ≠ 0) ∧ (exec (.fwCommit 3 1 false) s = .next u)) :=
  ⟨by decide +kernel,
   fun h => ⟨signedFuses, signedImage 5, signed_verifies h⟩,
   ⟨{ up with fwm := { Fwm.reset with header := signedHead 1 5 } }, _, by decide +kernel, rfl⟩⟩

theorem witness_ReservedValuesAreIgnored :
    (∃ (v : DWord) (s : State), s.clusterUp = true ∧ 1 < bits v.toNat 0 2) ∧
    (∃ (p : Fin 16) (v : DWord) (rest : List BarWrite) (s : State), s.clusterUp = true ∧ s.fwm.writes = ⟨p.val + 1, 0x1000, v.toNat⟩ :: rest ∧ (s.part p).live = true) ∧
    (∃ (p : Fin 16) (v : DWord) (rest : List BarWrite) (s : State), s.clusterUp = true ∧ s.fwm.writes = ⟨p.val + 1, 0x1008, v.toNat⟩ :: rest ∧ (s.part p).live = true) ∧
    (∃ (fn : Fin 17) (v : DWord) (rest : List BarWrite) (s : State), s.clusterUp = true ∧ s.fwm.writes = ⟨fn, 0x28, v.toNat⟩ :: rest ∧ bits v.toNat 0 4 < 4 ∧ 12 < bits v.toNat 8 4 ∧ fnVectors fn ≤ bits v.toNat 32 16 ∧ bits v.toNat 32 16 ≠ 0xFFFF) :=
  ⟨⟨3, up, by decide +kernel⟩,
   ⟨2, 3, [], { served (someFn [] []) with fwm := { Fwm.reset with writes := [⟨3, 0x1000, 3⟩] } }, by decide +kernel⟩,
   ⟨2, 3, [], { served (someFn [] []) with fwm := { Fwm.reset with writes := [⟨3, 0x1008, 3⟩] } }, by decide +kernel⟩,
   ⟨3, 0xFFFE00000D03, [], { served (someFn [] []) with fwm := { Fwm.reset with writes := [⟨3, 0x28, 0xFFFE00000D03⟩] } }, by decide +kernel⟩⟩

theorem witness_ReservedValuesAreIgnored_2 :
    ∃ (watts : BitVec 16) (s : State), s.clusterUp = true ∧ capLegal watts.toNat = false :=
  ⟨4201, up, by decide +kernel⟩

theorem witness_TileCommandsKeepTheRest :
    (∃ (s u : State), exec (.nop 5) s = .next u) ∧ (∃ (s u : State), exec (.mxeComplete 5) s = .next u) ∧ ∃ (s u : State), exec (.tload 5 1) s = .next u :=
  ⟨⟨atRec 1 0 0, _, rfl⟩, ⟨inUnit unitMxe, _, rfl⟩, ⟨vecTile 1 false, _, rfl⟩⟩

theorem witness_HostCommandsKeepTheRest :
    (∃ (s u : State), HostOnly 3 1 (.hostNop 3 1) ∧ exec (.hostNop 3 1) s = .next u) ∧ (∃ (s u : State), exec (.sqTailDoorbell 3 1 1 []) s = .next u) ∧ (∃ (s u : State), exec (.cqHeadDoorbell 3 1 1) s = .next u) ∧
  (∃ (s u : State), exec (.memExport 3 1) s = .next u) ∧ ∃ (s u : State), exec (.fenceExport 3 1) s = .next u :=
  ⟨⟨asked 0 0 0 0, _, by simp [HostOnly], rfl⟩, ⟨served (someFn [] []), _, rfl⟩, ⟨served (someFn [] []), _, rfl⟩, ⟨asked 0x16 0 0 0, _, rfl⟩, ⟨asked 0x1B 0 0 0, _, rfl⟩⟩

end Sys2Proof.Tests
end

section
/-! SUPPORT. Laws of bit fields: what a field reads as after a write of the same and of another field of its register. -/

namespace Sys2Proof.Machine

theorem testBit_bits (v lo n i : Nat) : (bits v lo n).testBit i = (decide (i < n) && v.testBit (lo + i)) := by
  rw [bits, Nat.testBit_mod_two_pow, Nat.testBit_shiftRight]

theorem bits_lt (v lo n : Nat) : bits v lo n < 2 ^ n := Nat.mod_lt _ (Nat.two_pow_pos n)

/-- A number is what lies below a field, the field, and what lies above it. -/
theorem split_at_field (v lo n : Nat) : v = 2 ^ lo * (2 ^ n * (v / 2 ^ (lo + n)) + bits v lo n) + v % 2 ^ lo := by
  have hfield : v / 2 ^ lo = 2 ^ n * (v / 2 ^ (lo + n)) + bits v lo n := by
    rw [bits, Nat.shiftRight_eq_div_pow, Nat.pow_add, ← Nat.div_div_eq_div_mul, Nat.div_add_mod]
  rw [← hfield, Nat.div_add_mod]

/-- A write of a field keeps what lies below and above it. -/
theorem setBits_eq (v lo n x : Nat) : setBits v lo n x = 2 ^ lo * (2 ^ n * (v / 2 ^ (lo + n)) + x % 2 ^ n) + v % 2 ^ lo := by
  have h := split_at_field v lo n
  rw [setBits, Nat.shiftLeft_eq, Nat.shiftLeft_eq, Nat.mul_comm _ (2 ^ lo), Nat.mul_comm _ (2 ^ lo)]
  rw [Nat.mul_add] at h ⊢
  omega

theorem testBit_setBits (v lo n x i : Nat) :
    (setBits v lo n x).testBit i = if lo ≤ i ∧ i < lo + n then x.testBit (i - lo) else v.testBit i := by
  rw [setBits_eq, Nat.testBit_two_pow_mul_add _ (Nat.mod_lt v (Nat.two_pow_pos lo)), Nat.testBit_two_pow_mul_add _ (Nat.mod_lt x (Nat.two_pow_pos n))]
  by_cases below : i < lo
  · have hout : ¬(lo ≤ i ∧ i < lo + n) := by omega
    simp [below, hout]
  · by_cases within : i - lo < n
    · have hin : lo ≤ i ∧ i < lo + n := by omega
      simp [below, within, hin]
    · have hout : ¬(lo ≤ i ∧ i < lo + n) := by omega
      have habove : lo + n + (i - lo - n) = i := by omega
      simp [below, within, hout, Nat.testBit_div_two_pow, Nat.add_comm, habove]

/-- A field reads as what was written to it. -/
theorem bits_setBits_same (v lo n x : Nat) : bits (setBits v lo n x) lo n = x % 2 ^ n := by
  refine Nat.eq_of_testBit_eq fun i => ?_
  by_cases hi : i < n <;> simp [testBit_bits, testBit_setBits, hi]

/-- A field reads as before after a write of another one. -/
theorem bits_setBits_of_disjoint {lo n a m : Nat} (v x : Nat) (h : a + m ≤ lo ∨ lo + n ≤ a) : bits (setBits v lo n x) a m = bits v a m := by
  refine Nat.eq_of_testBit_eq fun i => ?_
  rw [testBit_bits, testBit_bits, testBit_setBits]
  by_cases hi : i < m
  · have hout : ¬(lo ≤ a + i ∧ a + i < lo + n) := by omega
    rw [if_neg hout]
  · simp [hi]

/-- Cutting a number above a field keeps the field. -/
theorem bits_mod_two_pow {a m k : Nat} (v : Nat) (h : a + m ≤ k) : bits (v % 2 ^ k) a m = bits v a m := by
  refine Nat.eq_of_testBit_eq fun i => ?_
  rw [testBit_bits, testBit_bits, Nat.testBit_mod_two_pow]
  by_cases hi : i < m
  · have hk : a + i < k := by omega
    simp [hk]
  · simp [hi]

/-- A field given what another register holds there reads as that. -/
@[simp] theorem bits_setBits_bits (v w lo n : Nat) : bits (setBits v lo n (bits w lo n)) lo n = bits w lo n := by
  rw [bits_setBits_same, Nat.mod_eq_of_lt (bits_lt w lo n)]

/-- A field takes the value written if that is legal, and else keeps its own (R14). -/
theorem orKeep_decide (p : Prop) [Decidable p] (new old : Nat) : orKeep (decide p) new old = if p then new else old := by
  by_cases hp : p <;> simp [orKeep, hp]

end Sys2Proof.Machine
end

section
/-! SUPPORT. Register writes: which write acts (R10, R443), and what a field reads as after a write of its register (R14). -/

namespace Sys2Proof.Machine

/-! ### Which write acts -/

theorem exec_registerWrite (reg : RegName) (v : DWord) (s : State) : exec (.registerWrite reg v) s = execRegisterWrite reg v s := rfl

/-- While the control cluster runs it writes its registers: all but the BAR0 space and PWR_RAIL_SEL. -/
theorem exec_registerWrite_cluster {s : State} (h : s.clusterUp = true) {reg : RegName} (hrail : reg ≠ .pwrRailSel)
    (hbar : ∀ fn off, reg ≠ .bar0 fn off) (v : DWord) : exec (.registerWrite reg v) s = .next (s.regWrite reg v.toNat) := by
  rw [exec_registerWrite]
  cases reg with
  | bar0 fn off => exact absurd rfl (hbar fn off)
  | pwrRailSel => exact absurd rfl hrail
  | _ => exact congrArg Host.Outcome.next (if_pos h)

/-- PWR_RAIL_SEL is in AON. -/
theorem exec_registerWrite_pwrRailSel (v : DWord) (s : State) :
    exec (.registerWrite .pwrRailSel v) s = .next (if s.pwr.aon then s.regWrite .pwrRailSel v.toNat else s) := rfl

/-- A good BAR0 write joins the queue while it has room (R443). -/
theorem exec_registerWrite_bar0 {s : State} {fn : Fin 17} {off : Fin 16777216} (hphase : s.boot.past 2 = true) (htdi : (s.hif.fn fn).tdiError = false)
    (hoff : off.val % 8 = 0) (hroom : s.fwm.writes.length < 4096) (v : DWord) :
    exec (.registerWrite (.bar0 fn off) v) s = .next { s with fwm := { s.fwm with writes := s.fwm.writes ++ [⟨fn, off, v.toNat⟩] } } := by
  have hnotFull : ¬ 4096 ≤ s.fwm.writes.length := by omega
  have htaken : (s.boot.past 2 && !(s.hif.fn fn).tdiError && decide (off.val % 8 = 0)) = true := by simp [hphase, htdi, hoff]
  calc exec (.registerWrite (.bar0 fn off) v) s
      = .next (if s.boot.past 2 && !(s.hif.fn fn).tdiError && decide (off.val % 8 = 0) then { s with fwm := s.fwm.queueWrite ⟨fn, off, v.toNat⟩ } else s) := rfl
    _ = .next { s with fwm := { s.fwm with writes := s.fwm.writes ++ [⟨fn, off, v.toNat⟩] } } := by
      rw [if_pos htaken, Fwm.queueWrite, if_neg hnotFull]

/-- The firmware applies the oldest BAR0 write (R443). -/
theorem exec_bar0WriteApply {s : State} (h : s.clusterUp = true) {w : BarWrite} {rest : List BarWrite} (hw : s.fwm.writes = w :: rest) :
    exec .bar0WriteApply s = .next (State.bar0Write { s with fwm := { s.fwm with writes := rest } } w) := by
  show execBar0WriteApply s = _
  simp only [execBar0WriteApply, hw, h, if_true]

/-- A write from offset 0x1000 up goes to the window of the function's partition, while that exists (Table 15.4). -/
theorem State.bar0Write_window (s : State) {p : Nat} (hlive : (s.part p).live = true) (k v : Nat) :
    s.bar0Write ⟨p + 1, 0x1000 + k, v⟩ = s.windowWrite p k v := by
  unfold State.bar0Write
  dsimp only
  split
  case h_7 => simp [fnPart, hlive]
  all_goals omega

/-- The loss-scale policy of a partition's job written through its window. -/
theorem State.windowWrite_lossPolicy (s : State) (p v : Nat) :
    s.windowWrite p 0x00 v = s.updJob p fun j => { j with lossPolicy := lossWritten (s.job p).lossPolicy v } := by
  simp only [State.windowWrite, State.updJob]

/-- The gradient-format policy of a partition's job written through its window. -/
theorem State.windowWrite_gfmtPolicy (s : State) (p v : Nat) :
    s.windowWrite p 0x08 v = s.updJob p fun j => { j with gfmtPolicy := gfmtWritten (s.job p).gfmtPolicy v } := by
  simp only [State.windowWrite, State.updJob]

/-- The weights of a port's virtual channels written. -/
theorem State.regWrite_lnkVcWeight (s : State) (k : Fin 36) (v : Nat) :
    s.regWrite (.lnkVcWeight k) v = s.updPort k fun y => { y with weights := weightsWritten (s.port k).weights v } := by
  simp only [State.regWrite, State.updPort]

/-! ### What a field reads as -/

/-- TIL_LOSS_POLICY BACKOFF after a write: 0 is reserved (Table 6.10). -/
theorem bits_lossWritten_backoff (old v : Nat) : bits (lossWritten old v) 32 4 = if bits v 32 4 = 0 then bits old 32 4 else bits v 32 4 := by
  unfold lossWritten
  dsimp only
  rw [bits_mod_two_pow _ (by decide)]
  split <;> split <;> simp [bits_setBits_of_disjoint]

/-- TIL_LOSS_POLICY MODE after a write: 3 is reserved (Table 6.10). -/
theorem bits_lossWritten_mode (old v : Nat) : bits (lossWritten old v) 0 2 = if bits v 0 2 = 3 then bits old 0 2 else bits v 0 2 := by
  unfold lossWritten
  dsimp only
  rw [bits_mod_two_pow _ (by decide)]
  split <;> split <;> simp [bits_setBits_of_disjoint]

/-- COL_GFMT_POLICY MODE after a write: 3 is reserved (Table 6.11). -/
theorem bits_gfmtWritten_mode (old v : Nat) : bits (gfmtWritten old v) 0 2 = if bits v 0 2 = 3 then bits old 0 2 else bits v 0 2 := by
  unfold gfmtWritten
  dsimp only
  split
  · exact bits_setBits_bits _ _ _ _
  · rw [bits_setBits_of_disjoint _ _ (by decide), bits_mod_two_pow _ (by decide)]

/-- MPR_WEEVIL_CFG: a rate is 1 to 100 (Table 9.11). -/
theorem Hbm.weevilWritten_rate (h : Hbm) (v : Nat) : (h.weevilWritten v).rate = if 1 ≤ bits v 0 7 ∧ bits v 0 7 ≤ 100 then bits v 0 7 else h.rate := orKeep_decide _ _ _
theorem Hbm.weevilWritten_fillRate (h : Hbm) (v : Nat) : (h.weevilWritten v).fillRate = if 1 ≤ bits v 8 7 ∧ bits v 8 7 ≤ 100 then bits v 8 7 else h.fillRate := orKeep_decide _ _ _

/-- MPR_REMAP_CFG: at most 8 granules in reserve. -/
theorem Hbm.remapWritten_reserve (h : Hbm) (v : Nat) : (h.remapWritten v).reserve = if bits v 0 4 ≤ 8 then bits v 0 4 else h.reserve := orKeep_decide _ _ _

/-- MPR_SCRUB_CFG: the period and both limits are not 0. -/
theorem Hbm.scrubWritten_period (h : Hbm) (v : Nat) : (h.scrubWritten v).period = if bits v 0 16 ≠ 0 then bits v 0 16 else h.period := orKeep_decide _ _ _
theorem Hbm.scrubWritten_retireCe (h : Hbm) (v : Nat) : (h.scrubWritten v).retireCe = if bits v 16 16 ≠ 0 then bits v 16 16 else h.retireCe := orKeep_decide _ _ _
theorem Hbm.scrubWritten_retireUe (h : Hbm) (v : Nat) : (h.scrubWritten v).retireUe = if bits v 32 4 ≠ 0 then bits v 32 4 else h.retireUe := orKeep_decide _ _ _

/-- LNK_GCFG: SWAP_SER is 3 to 9, and no other field is 0 (Table 12.12). -/
theorem Links.gcfgWritten_swapSer (l : Links) (v : Nat) : (l.gcfgWritten v).swapSer = if 3 ≤ bits v 48 4 ∧ bits v 48 4 ≤ 9 then bits v 48 4 else l.swapSer := orKeep_decide _ _ _
theorem Links.gcfgWritten_swapUe (l : Links) (v : Nat) : (l.gcfgWritten v).swapUe = if bits v 40 8 ≠ 0 then bits v 40 8 else l.swapUe := orKeep_decide _ _ _
theorem Links.gcfgWritten_retrainLimit (l : Links) (v : Nat) : (l.gcfgWritten v).retrainLimit = if bits v 36 4 ≠ 0 then bits v 36 4 else l.retrainLimit := orKeep_decide _ _ _
theorem Links.gcfgWritten_retryLimit (l : Links) (v : Nat) : (l.gcfgWritten v).retryLimit = if bits v 32 4 ≠ 0 then bits v 32 4 else l.retryLimit := orKeep_decide _ _ _
theorem Links.gcfgWritten_retrainWindow (l : Links) (v : Nat) : (l.gcfgWritten v).retrainWindow = if bits v 16 16 ≠ 0 then bits v 16 16 else l.retrainWindow := orKeep_decide _ _ _
theorem Links.gcfgWritten_trainTimeout (l : Links) (v : Nat) : (l.gcfgWritten v).trainTimeout = if bits v 0 16 ≠ 0 then bits v 0 16 else l.trainTimeout := orKeep_decide _ _ _

/-- PWR_RAIL_SEL: rails 0 to 12. -/
theorem State.regWrite_railSel (s : State) (v : Nat) : (s.regWrite .pwrRailSel v).pwr.railSel = if bits v 0 4 ≤ 12 then bits v 0 4 else s.pwr.railSel := orKeep_decide _ _ _

/-- HIF_AQ_CFG: an admin queue has 2^4 to 2^12 entries, and its vector is one of the function's or none. -/
theorem Fn.aqWritten_asqLog2 (f : Fn) (fn v : Nat) : (f.aqWritten fn v).asqLog2 = if 4 ≤ bits v 0 4 ∧ bits v 0 4 ≤ 12 then bits v 0 4 else f.asqLog2 := by simp [Fn.aqWritten]
theorem Fn.aqWritten_acqLog2 (f : Fn) (fn v : Nat) : (f.aqWritten fn v).acqLog2 = if 4 ≤ bits v 8 4 ∧ bits v 8 4 ≤ 12 then bits v 8 4 else f.acqLog2 := by simp [Fn.aqWritten]
theorem Fn.aqWritten_avector (f : Fn) (fn v : Nat) : (f.aqWritten fn v).avector = if bits v 32 16 < fnVectors fn ∨ bits v 32 16 = 0xFFFF then bits v 32 16 else f.avector := rfl

/-- The weight of one channel written, unless the value is 0, which is reserved (Table 12.10). -/
def weightWritten (v acc i : Nat) : Nat := if bits v (8 * (i + 1)) 8 = 0 then acc else setBits acc (8 * i) 8 (bits v (8 * (i + 1)) 8)

theorem weightsWritten_eq_foldl (old v : Nat) : weightsWritten old v = (List.range 7).foldl (weightWritten v) old := rfl

/-- A channel given a weight of 0 keeps its own, whichever channels are written beside it. -/
theorem bits_foldl_weightWritten {v j : Nat} (hj : bits v (8 * (j + 1)) 8 = 0) (channels : List Nat) (acc : Nat) :
    bits (channels.foldl (weightWritten v) acc) (8 * j) 8 = bits acc (8 * j) 8 := by
  induction channels generalizing acc with
  | nil => rfl
  | cons i channels ih =>
    rw [List.foldl_cons, ih, weightWritten]
    split
    · rfl
    · rename_i hi
      have hne : j ≠ i := by
        rintro rfl
        exact hi hj
      exact bits_setBits_of_disjoint _ _ (by omega)

/-- A channel given a weight of 0 keeps its own (R14). -/
theorem bits_weightsWritten_of_zero (old : Nat) {v n : Nat} (h1 : 1 ≤ n) (h0 : bits v (8 * n) 8 = 0) :
    bits (weightsWritten old v) (8 * (n - 1)) 8 = bits old (8 * (n - 1)) 8 := by
  rw [weightsWritten_eq_foldl]
  exact bits_foldl_weightWritten (by rwa [Nat.sub_add_cancel h1]) _ _

/-! ### VEC_MODE -/

/-- VEC_MODE given a reserved mode: the mode and the clearing stand (R14, R141). -/
theorem exec_vecModeWrite_reserved {s : State} (h : s.clusterUp = true) {v : DWord} (hv : 1 < bits v.toNat 0 2) (t : Fin 156) :
    exec (.vecModeWrite t v) s = .next (s.setTile t { s.tile t with vec := { (s.tile t).vec with modeRefused := w1c (s.tile t).vec.modeRefused v.toNat 2 } }) := by
  show execVecModeWrite t v s = _
  simp [execVecModeWrite, h, hv]

/-! ### SET_PWR_CAP -/

theorem State.reply_pwr (s : State) (st : Status) (data : List Byte) : (s.reply st data).pwr = s.pwr := by
  unfold State.reply
  dsimp only
  split <;> rfl

/-- A cap that may not be written leaves the cap, whether the command is taken or not (R472). -/
theorem exec_setPwrCap_illegal {watts : BitVec 16} (h : capLegal watts.toNat = false) (s : State) :
    Answers (exec (.setPwrCap watts) s) fun u => u.pwr = s.pwr := by
  show Answers (execSetPwrCap watts s) _
  unfold execSetPwrCap
  split
  · exact ⟨s, rfl, rfl⟩
  · split
    · exact ⟨_, rfl, s.reply_pwr _ _⟩
    · rw [h]
      exact ⟨_, rfl, s.reply_pwr _ _⟩

end Sys2Proof.Machine
end

section
/-! SUPPORT. Reads with an effect (R10, R12): the value of before leaves, and the state after the read stands. -/

namespace Sys2Proof.Machine

/-- While the control cluster runs, a read sends its value. -/
theorem State.ctrlRead_up {s : State} (h : s.clusterUp = true) (v : Nat) (after : State) : s.ctrlRead v after = after.emit [.readData v] := if_pos h

/-- RES_FAULT_STATUS_READ shows and clears the ring in HBM once that is ready (R368). -/
theorem exec_resFaultStatusRead_ring {s : State} (h : s.clusterUp = true) (hr : s.ringReady = true) :
    exec .resFaultStatusRead s =
      .next (State.emit { s with res := { s.res with ring := { s.res.ring with lost := 0, maxClass := 0 } } } [.readData s.res.ring.statusWord]) := by
  show execResFaultStatusRead s = _
  simp [execResFaultStatusRead, State.ctrlRead_up h, hr, Resil.shown, FaultRing.read]

/-- FWM_STATUS_READ needs AON alone: Mantis reads it too. -/
theorem exec_fwmStatusRead_aon {s : State} (h : s.pwr.aon = true) :
    exec .fwmStatusRead s = .next (State.emit { s with fwm := { s.fwm with wqDrop := 0 } } [.readData (s.fwm.statusWord s.sec.fuses.floor)]) :=
  congrArg Host.Outcome.next (if_pos h)

theorem exec_fwmTimeStatusRead_aon {s : State} (h : s.pwr.aon = true) :
    exec .fwmTimeStatusRead s = .next (State.emit { s with fwm := { s.fwm with ppsBad := 0 } } [.readData s.fwm.timeStatusWord]) :=
  congrArg Host.Outcome.next (if_pos h)

end Sys2Proof.Machine
end

section
/-! SUPPORT. The staging window (R403): what a 64 B access of one line reads and writes. -/

namespace Sys2Proof.Machine

theorem twordBytes_length (ws : List TWord) : (twordBytes ws).length = 4 * ws.length := by
  induction ws with
  | nil => rfl
  | cons w ws ih =>
    have hcons : twordBytes (w :: ws) = natBytes w.bits.toNat 4 ++ twordBytes ws := rfl
    have hword : (natBytes w.bits.toNat 4).length = 4 := rfl
    rw [hcons, List.length_append, hword, ih, List.length_cons]
    omega

/-- The 16 words of a line are 64 bytes. -/
theorem twordBytes_length_line {ws : List TWord} (h : ws.length = 16) : (twordBytes ws).length = 64 := by
  have hlen := twordBytes_length ws
  omega

/-- 64 bytes from a multiple of 64 lie in one line. -/
theorem linesOf_line {a : Nat} (h : a % 64 = 0) : linesOf a 64 = 1 := by
  unfold linesOf
  omega

theorem line_start {a : Nat} (h : a % 64 = 0) : a / 64 * 64 = a := by omega

theorem State.bar4Mapped_line {s : State} {fn a d : Nat} (ha : a % 64 = 0) (hd : s.bar4Addr fn a = some d) : s.bar4Mapped fn a 64 = true := by
  simp [State.bar4Mapped, linesOf_line ha, line_start ha, hd]

/-- A mapped line gives the state after its read and its plaintext. -/
theorem State.bar4Lines_line {s u : State} {fn a d : Nat} {ws : List TWord} (ha : a % 64 = 0) (hd : s.bar4Addr fn a = some d)
    (hr : s.hbmRead .host 0 d true .clean = (u, .done, ws)) : s.bar4Lines fn a 64 = (u, twordBytes ws) := by
  simp [State.bar4Lines, linesOf_line ha, line_start ha, hd, hr]

/-- A mapped line takes the 64 bytes put there. -/
theorem State.bar4Put_line {u w : State} {fn a d : Nat} {bs : List Byte} {st : Status} (hbs : bs.length = 64) (hd : u.bar4Addr fn a = some d)
    (hw : u.hbmWrite .host 0 d true ((cleanWords bs).map some) .clean = some (w, st)) : u.bar4Put fn a bs = w := by
  have hall : bs.take 64 = bs := List.take_of_length_le (by omega)
  simp [State.bar4Put, hbs, hd, hall, hw]

/-- A read from a TDI in ERROR (R399), or outside the window, is an Unsupported Request. -/
theorem exec_bar4Access_unsupported {s : State} {fn : Fin 17} {o : BitVec 44} {n : Nat}
    (h : (s.hif.fn fn).tdiError = true ∨ s.bar4Mapped fn o.toNat n = false) : exec (.bar4Access fn o none n) s = .next (s.emit [.unsupported]) := by
  show execBar4Access fn o none n s = _
  have hrefused : ((s.hif.fn fn).tdiError || !s.bar4Mapped fn o.toNat n) = true := by simpa using h
  exact if_pos hrefused

section
variable {s u : State} {fn : Fin 17} {o : BitVec 44} {d : Nat} {ws : List TWord}

/-- A 64 B read of a mapped line returns its plaintext. -/
theorem exec_bar4Access_readLine (htdi : (s.hif.fn fn).tdiError = false) (ho : o.toNat % 64 = 0) (hd : s.bar4Addr fn o.toNat = some d)
    (hr : s.hbmRead .host 0 d true .clean = (u, .done, ws)) (hws : ws.length = 16) :
    exec (.bar4Access fn o none 64) s = .next (u.emit [.barData (twordBytes ws)]) := by
  show execBar4Access fn o none 64 s = _
  have hall : (twordBytes ws).take 64 = twordBytes ws := List.take_of_length_le (Nat.le_of_eq (twordBytes_length_line hws))
  simp [execBar4Access, htdi, State.bar4Mapped_line ho hd, State.bar4Lines_line ho hd hr, ho, hall]

/-- A 64 B write of a mapped line stores its bytes, whole. -/
theorem exec_bar4Access_writeLine {bs : List Byte} {w : State} {st : Status} (htdi : (s.hif.fn fn).tdiError = false) (ho : o.toNat % 64 = 0)
    (hd : s.bar4Addr fn o.toNat = some d) (hr : s.hbmRead .host 0 d true .clean = (u, .done, ws)) (hws : ws.length = 16) (hbs : bs.length = 64)
    (hdu : u.bar4Addr fn o.toNat = some d) (hw : u.hbmWrite .host 0 d true ((cleanWords bs).map some) .clean = some (w, st)) (n : Nat) :
    exec (.bar4Access fn o (some bs) n) s = .next w := by
  show execBar4Access fn o (some bs) n s = _
  have hnone : (twordBytes ws).drop 64 = [] := List.drop_eq_nil_of_le (Nat.le_of_eq (twordBytes_length_line hws))
  have hstart : o.toNat / 64 * 64 = o.toNat := line_start ho
  simp [execBar4Access, htdi, hbs, State.bar4Mapped_line ho hd, State.bar4Lines_line ho hd hr, ho, hnone, hstart, State.bar4Put_line hbs hdu hw]

end

end Sys2Proof.Machine
end

section
/-! The statements on register fields given reserved values, on reads with an effect, and on register writes. -/

namespace Sys2Proof.Machine

/-- Settles O58: for each register, what its field reads as after a write, when the value is reserved. -/
theorem reservedValuesAreIgnored : Obligations.ReservedValuesAreIgnored := by
  intro t p k fn v watts rest s h x write written out loss gfmt f
  have hwrite : ∀ r, r ≠ .pwrRailSel → (∀ fn off, r ≠ .bar0 fn off) → write r = .next (s.regWrite r x) := fun r hrail hbar => exec_registerWrite_cluster h hrail hbar v
  have hloss : loss (lossWritten (s.job p).lossPolicy x) :=
    ⟨fun h0 => (bits_lossWritten_backoff _ x).trans (if_pos h0), fun h3 => (bits_lossWritten_mode _ x).trans (if_pos h3)⟩
  have hgfmt : gfmt (gfmtWritten (s.job p).gfmtPolicy x) := fun h3 => (bits_gfmtWritten_mode _ x).trans (if_pos h3)
  refine ⟨?vecMode, ?lossPolicy, ?gfmtPolicy, ?windowLoss, ?windowGfmt, ?weevil, ?remap, ?scrub, ?weights, ?gcfg, ?adminQueues, ?timeCfg, ?railSel, ?cap⟩
  case vecMode => exact fun hv => ⟨_, exec_vecModeWrite_reserved h hv t⟩
  case lossPolicy => exact ⟨_, (hwrite (.tilLossPolicy p) nofun nofun).trans (congrArg _ (s.windowWrite_lossPolicy p x)), hloss⟩
  case gfmtPolicy => exact ⟨_, (hwrite (.colGfmtPolicy p) nofun nofun).trans (congrArg _ (s.windowWrite_gfmtPolicy p x)), hgfmt⟩
  case windowLoss =>
    intro hw hlive
    have hwindow := (written.bar0Write_window hlive 0x00 x).trans (written.windowWrite_lossPolicy p x)
    exact ⟨_, (exec_bar0WriteApply h hw).trans (congrArg _ hwindow), hloss⟩
  case windowGfmt =>
    intro hw hlive
    have hwindow := (written.bar0Write_window hlive 0x08 x).trans (written.windowWrite_gfmtPolicy p x)
    exact ⟨_, (exec_bar0WriteApply h hw).trans (congrArg _ hwindow), hgfmt⟩
  case weevil =>
    exact ⟨_, hwrite .mprWeevilCfg nofun nofun, fun hr => (s.hbm.weevilWritten_rate x).trans (if_neg (by omega)), fun hr => (s.hbm.weevilWritten_fillRate x).trans (if_neg (by omega))⟩
  case remap => exact ⟨_, hwrite .mprRemapCfg nofun nofun, fun hr => (s.hbm.remapWritten_reserve x).trans (if_neg (by omega))⟩
  case scrub =>
    exact ⟨_, hwrite .mprScrub nofun nofun, fun h0 => (s.hbm.scrubWritten_period x).trans (if_neg (not_not_intro h0)),
      fun h0 => (s.hbm.scrubWritten_retireCe x).trans (if_neg (not_not_intro h0)), fun h0 => (s.hbm.scrubWritten_retireUe x).trans (if_neg (not_not_intro h0))⟩
  case weights =>
    exact ⟨_, (hwrite (.lnkVcWeight k) nofun nofun).trans (congrArg _ (s.regWrite_lnkVcWeight k x)), fun n h1 _ h0 => bits_weightsWritten_of_zero _ h1 h0⟩
  case gcfg =>
    exact ⟨_, hwrite .lnkGcfg nofun nofun, fun hr => (s.links.gcfgWritten_swapSer x).trans (if_neg (by omega)),
      fun h0 => (s.links.gcfgWritten_swapUe x).trans (if_neg (not_not_intro h0)), fun h0 => (s.links.gcfgWritten_retrainLimit x).trans (if_neg (not_not_intro h0)),
      fun h0 => (s.links.gcfgWritten_retryLimit x).trans (if_neg (not_not_intro h0)), fun h0 => (s.links.gcfgWritten_retrainWindow x).trans (if_neg (not_not_intro h0)),
      fun h0 => (s.links.gcfgWritten_trainTimeout x).trans (if_neg (not_not_intro h0))⟩
  case adminQueues =>
    exact fun hw => ⟨_, _, _, exec_bar0WriteApply h hw, fun hr => (f.aqWritten_asqLog2 fn x).trans (if_neg (by omega)),
      fun hr => (f.aqWritten_acqLog2 fn x).trans (if_neg (by omega)), fun hge hne => (f.aqWritten_avector fn x).trans (if_neg (by omega))⟩
  case timeCfg => exact ⟨_, hwrite .fwmTimeCfg nofun nofun, fun h0 => if_pos h0⟩
  case railSel =>
    refine ⟨_, exec_registerWrite_pwrRailSel v s, fun hr => ?_⟩
    split
    · exact (s.regWrite_railSel x).trans (if_neg (by omega))
    · rfl
  case cap =>
    intro hcap
    obtain ⟨u, hu, hpwr⟩ := exec_setPwrCap_illegal hcap s
    exact ⟨u, hu, congrArg Power.cap hpwr⟩

/-- Settles O49: each read sends the value of before and leaves the state its row names. -/
theorem readsClearTheirFields : Obligations.ReadsClearTheirFields := by
  intro t k p s h read w b
  have hread : ∀ (v : Nat) (after : State), Host.Outcome.next (s.ctrlRead v after) = read after v := fun v after => congrArg Host.Outcome.next (State.ctrlRead_up h v after)
  exact ⟨hread _ _, hread _ _, hread _ _, hread _ _, hread _ _, hread _ _, hread _ _, hread _ _, hread _ _, exec_resFaultStatusRead_ring h, hread _ _, hread _ _,
    fun haon => ⟨exec_fwmStatusRead_aon haon, exec_fwmTimeStatusRead_aon haon⟩⟩

/-- Settles O50: register by register, then the queue of BAR0 writes, then the staging window line by line. -/
theorem registerWritesAndTheStagingWindow : Obligations.RegisterWritesAndTheStagingWindow := by
  intro t v fn off b o bs n s x
  refine ⟨fun h => ?cluster, fun hphase htdi hoff hroom => exec_registerWrite_bar0 hphase htdi hoff hroom v, fun haon => ?railSel,
    exec_bar4Access_unsupported, fun d u ws htdi ho hd hr hws => ⟨exec_bar4Access_readLine htdi ho hd hr hws, ?writeLine⟩⟩
  case cluster =>
    have hwrite : ∀ r, r ≠ .pwrRailSel → (∀ fn off, r ≠ .bar0 fn off) → exec (.registerWrite r v) s = .next (s.regWrite r x) :=
      fun r hrail hbar => exec_registerWrite_cluster h hrail hbar v
    exact ⟨hwrite (.vecSig t) nofun nofun, hwrite (.dmaRetry t) nofun nofun,
      ⟨_, hwrite .mprWeevilCfg nofun nofun, s.hbm.weevilWritten_rate x, s.hbm.weevilWritten_fillRate x, rfl⟩,
      hwrite .clkIdleCfg nofun nofun, hwrite (.readOnly b) nofun nofun⟩
  case railSel => exact ⟨_, (exec_registerWrite_pwrRailSel v s).trans (congrArg _ (if_pos haon)), s.regWrite_railSel x, rfl⟩
  case writeLine => exact fun w st hbs hdu hw => exec_bar4Access_writeLine htdi ho hd hr hws hbs hdu hw n

end Sys2Proof.Machine
end

section
/-! SUPPORT. What a report to the fault record and the log leaves: all but the record, the log and what has left the module, and of the firmware its running slot (R368, R446, R447). -/

namespace Sys2Proof.Machine

/-- An entry of the log leaves the slot that runs. -/
theorem Fwm.put_running (f : Fwm) (ready : Bool) (time point part sev : Nat) (args : List Nat) :
    (f.put ready time point part sev args).running = f.running := by
  unfold Fwm.put
  cases ready <;> rfl

theorem Fwm.summary_running (f : Fwm) (ready : Bool) (point : Nat) : (f.summary ready point).running = f.running := by
  unfold Fwm.summary
  dsimp only
  split
  · rfl
  · exact Fwm.put_running _ _ _ _ _ _ _

theorem Fwm.trace_running (f : Fwm) (ready : Bool) (point part sev : Nat) (args : List Nat) :
    (f.trace ready point part sev args).running = f.running := by
  simp only [Fwm.trace, apply_ite Fwm.running, Fwm.put_running, Fwm.summary_running, ite_self]

/-- From s to u only the fault record, the firmware's state (its log) and what has left the module change, and the same firmware slot runs. -/
structure Noted (s u : State) : Prop where
  eq : u = { s with res := u.res, fwm := u.fwm, out := u.out }
  running : u.fwm.running = s.fwm.running

theorem Noted.refl (s : State) : Noted s s := ⟨rfl, rfl⟩

theorem Noted.trans {s t u : State} (h : Noted s t) (k : Noted t u) : Noted s u := by
  refine ⟨?_, k.running.trans h.running⟩
  calc u = { t with res := u.res, fwm := u.fwm, out := u.out } := k.eq
    _ = { s with res := u.res, fwm := u.fwm, out := u.out } :=
      congrArg (fun (a : State) => { a with res := u.res, fwm := u.fwm, out := u.out }) h.eq

/-- A fold of noting steps notes. -/
theorem Noted.foldl {α : Type} {f : State → α → State} (hf : ∀ a x, Noted a (f a x)) (xs : List α) (s : State) : Noted s (xs.foldl f s) := by
  induction xs generalizing s with
  | nil => exact .refl s
  | cons x xs ih => exact (hf s x).trans (ih _)

theorem State.emit_noted (s : State) (os : List Out) : Noted s (s.emit os) := ⟨rfl, rfl⟩

theorem State.trace_noted (s : State) (point part sev : Nat) (args : List Nat) : Noted s (s.trace point part sev args) :=
  ⟨rfl, Fwm.trace_running _ _ _ _ _ _⟩

theorem State.report_noted (s : State) (cls source unit : Nat) (st : Status) (part detail : Nat) : Noted s (s.report cls source unit st part detail) := by
  have hrecord : ∀ r, Noted s { s with res := r } := fun r => ⟨rfl, rfl⟩
  unfold State.report
  dsimp only
  split
  · exact ((hrecord _).trans (State.trace_noted _ _ _ _ _)).trans (State.emit_noted _ _)
  · exact (hrecord _).trans (State.trace_noted _ _ _ _ _)

section
variable {s u : State} (h : Noted s u)
include h

theorem Noted.boot : u.boot = s.boot := (congrArg State.boot h.eq :)
theorem Noted.pwr : u.pwr = s.pwr := (congrArg State.pwr h.eq :)
theorem Noted.hbm : u.hbm = s.hbm := (congrArg State.hbm h.eq :)
theorem Noted.sec : u.sec = s.sec := (congrArg State.sec h.eq :)
theorem Noted.tiles : u.tiles = s.tiles := (congrArg State.tiles h.eq :)
theorem Noted.streams : u.streams = s.streams := (congrArg State.streams h.eq :)
theorem Noted.sys : u.sys = s.sys := (congrArg State.sys h.eq :)
theorem Noted.links : u.links = s.links := (congrArg State.links h.eq :)
theorem Noted.coll : u.coll = s.coll := (congrArg State.coll h.eq :)
theorem Noted.flash : u.flash = s.flash := (congrArg State.flash h.eq :)

end

end Sys2Proof.Machine
end

section
/-! SUPPORT. Start-up (R33 to R36, R433): what the start, the end and the failure of a phase do. -/

namespace Sys2Proof.Machine

/-! ### A phase passes or fails -/

/-- A phase that passes is complete; beyond that it is at most traced. -/
theorem State.passPhase_noted (s : State) : Noted { s with boot := { s.boot with complete := true } } s.passPhase := by
  unfold State.passPhase
  dsimp only
  split
  · exact .refl _
  · exact State.trace_noted _ _ _ _ _

/-- A phase that fails keeps its cause and stops the module HALTED; beyond that it is reported. -/
theorem State.failPhase_noted (s : State) (cause : Nat) :
    Noted { s with boot := { s.boot with failed := some cause }, pwr := { s.pwr with state := .halted } } (s.failPhase cause) :=
  (State.report_noted _ _ _ _ _ _ _).trans (State.emit_noted _ _)

/-- The side-band report of a failed phase leaves last: phase and cause (R35). -/
theorem State.failPhase_out {s : State} {n : Nat} (h : s.boot.phase = some n) (cause : Nat) :
    ∃ o, (s.failPhase cause).out = .sideband sbStart .noResource [BitVec.ofNat 8 n, BitVec.ofNat 8 cause] :: o := by
  unfold State.failPhase
  rw [h]
  exact ⟨_, rfl⟩

/-! ### PHASE_COMPLETE, by the phase whose work ends -/

section
variable {s : State} {n : Nat} {work : PhaseWork} (hboot : s.boot = ⟨some n, false, none⟩)
include hboot

/-- Work that meets a cause fails the phase, whichever it is (R35). -/
theorem exec_phaseComplete_fails {c : Nat} (hcause : work.cause = some c) : exec (.phaseComplete work) s = .next (s.failPhase c) := by
  show execPhaseComplete work s = _
  simp [execPhaseComplete, hboot, hcause]

/-- Phases 0 and 2 have no work of the model's own: they pass. At phase 0 no power-on request waits. -/
theorem exec_phaseComplete_passes (hn : (n = 0 ∧ s.pwr.pwrReq = false) ∨ n = 2) (hcause : work.cause = none) :
    exec (.phaseComplete work) s = .next s.passPhase := by
  show execPhaseComplete work s = _
  rcases hn with ⟨rfl, hreq⟩ | rfl
  · have hpassed : s.passPhase.pwr.pwrReq = false := (congrArg Power.pwrReq s.passPhase_noted.pwr).trans hreq
    simp [execPhaseComplete, hboot, hcause, hpassed]
  · simp [execPhaseComplete, hboot, hcause]

/-- Phase 1 ends once every main rail is good. -/
theorem exec_phaseComplete_phase1 (hn : n = 1) (hgood : s.pwr.good = true) (hcause : work.cause = none) :
    exec (.phaseComplete work) s = .next (s.endPhase1 work.slots) := by
  subst hn
  show execPhaseComplete work s = _
  simp [execPhaseComplete, hboot, hcause, hgood]

theorem exec_phaseComplete_phase3 (hn : n = 3) (hcause : work.cause = none) : exec (.phaseComplete work) s = .next (s.endPhase3 work.pcs) := by
  subst hn
  show execPhaseComplete work s = _
  simp [execPhaseComplete, hboot, hcause]

theorem exec_phaseComplete_phase4 (hn : n = 4) (hcause : work.cause = none) : exec (.phaseComplete work) s = .next (s.endPhase4 work.tiles) := by
  subst hn
  show execPhaseComplete work s = _
  simp [execPhaseComplete, hboot, hcause]

end

/-! ### What the end of phases 1, 3 and 4 does when every slot, stack and tile is good -/

/-- The slot chosen is the one that runs (R433). -/
theorem Fwm.choose_running (f : Fwm) (fz : Fuses) (fwTest : Bool) : (f.choose fz fwTest).1.running = (f.choose fz fwTest).2.run := by
  simp only [Fwm.choose, apply_ite Prod.fst, apply_ite Prod.snd, apply_ite Fwm.running, apply_ite BootChoice.run]

/-- Phase 1 with every key slot good: Scarab's and the flash's work done, a firmware slot chosen and the rejected ones reported; it passes if one was found. -/
theorem State.endPhase1_good {s : State} (h : s.scrapped = false) {c : Fwm × BootChoice}
    (hc : s.fwm.choose (s.sec.phase1 []).fuses (bit (s.sec.phase1 []).rights 4) = c) :
    ∃ t, Noted { s with sec := s.sec.phase1 [], flash := s.flash.startUp, fwm := c.1 } t ∧ t.fwm.running = c.2.run ∧
      s.endPhase1 [] = if c.2.run.isSome then t.passPhase else t.failPhase causeFwNone := by
  have hreport : ∀ (a : State) (r : Bool × Nat × Status),
      Noted a ((a.report clsDegraded srcFwm (b2n r.1) r.2.2 noPart r.2.1).trace 0x0002 noPart 1 [b2n r.1, r.2.1]) :=
    fun a r => (a.report_noted _ _ _ _ _ _).trans (State.trace_noted _ _ _ _ _)
  have hchosen : c.1.running = c.2.run := hc ▸ Fwm.choose_running _ _ _
  have hrejected := Noted.foldl hreport c.2.rejected { s with sec := s.sec.phase1 [], flash := s.flash.startUp, fwm := c.1 }
  refine ⟨_, hrejected, hrejected.running.trans hchosen, ?_⟩
  have hslots : Sec.slotsTooBad [] = false := rfl
  cases hrun : c.2.run <;> simp [State.endPhase1, h, hslots, hc, hrun]

/-- Phase 3 with every stack trained: the granules are marked and the early entries moved; it passes. -/
theorem State.endPhase3_good (s : State) :
    ∃ t, Noted s t ∧ s.endPhase3 [] = ({ t with hbm := t.hbm.markPhase3, res := t.res.moveEarly, fwm := t.fwm.moveEarly } : State).passPhase :=
  ⟨_, Noted.foldl (fun a _ => a.report_noted _ _ _ _ _ _) _ s, rfl⟩

/-- Phase 4 with every tile good: tiles, streams, channels, links and collectives at reset, the module READY; it passes. -/
theorem State.endPhase4_good (s : State) :
    s.endPhase4 [] = ({ s with tiles := [], streams := .reset, sys := [], links := .reset, coll := .reset, res := s.res.phase4 0
                               pwr := { s.pwr with state := .ready } } : State).passPhase := by
  have hfields : fieldsShort 0 = false := by decide
  unfold State.endPhase4
  exact if_neg (by simp [hfields])

/-! ### The start of a phase -/

/-- The AON rail becomes good: phase 0 begins in STANDBY, with the AON and MGMT clocks. -/
theorem exec_aonRailGood {s : State} (haon : s.pwr.aon = false) (hpolarity : s.pwr.reversed = false) :
    exec .aonRailGood s = .next { s with
      boot := ⟨some 0, false, none⟩
      pwr := { ((s.pwr.startClk 1).startClk 15).setRail 0 ⟨.good, 800, 0, 0, 0⟩ with aon := true, state := .standby, level := s.pwr.askedLevel, reversed := false } } := by
  show execAonRailGood s = _
  simp [execAonRailGood, haon, hpolarity]

theorem Power.rail_setRail_same (p : Power) (i : Nat) {r : Rail} (hr : r ≠ .off) : (p.setRail i r).rail i = r := Store.get_set_same _ i hr

theorem exec_controlClusterRelease {s : State} (h : s.boot = ⟨some 1, true, none⟩) : exec .controlClusterRelease s = .next { s with boot := ⟨some 2, false, none⟩ } :=
  congrArg Host.Outcome.next (if_pos h)

theorem exec_phase3Start {s : State} (h : s.boot = ⟨some 2, true, none⟩) :
    exec .phase3Start s = .next { s with boot := ⟨some 3, false, none⟩, pwr := s.pwr.startClks [7, 8, 9], hbm := .reset, pageLabels := [] } :=
  congrArg Host.Outcome.next (if_pos h)

theorem exec_phase4Start {s : State} (h : s.boot = ⟨some 3, true, none⟩) :
    exec .phase4Start s = .next { s with boot := ⟨some 4, false, none⟩, pwr := s.pwr.startClks [3, 4, 5, 6] } :=
  congrArg Host.Outcome.next (if_pos h)

end Sys2Proof.Machine
end

section
/-! SUPPORT. Mantis (R449 to R454): which request is served, and the answer sent. -/

namespace Sys2Proof.Machine

/-! ### Answers -/

/-- A reply DONE is sent, and not traced. -/
theorem State.reply_done (s : State) (data : List Byte) : s.reply .done data = s.emit [.sideband sbReply .done data] := by
  simp [State.reply]

/-- An answer with completion code 0 is sent, and not traced. -/
theorem State.answerCode_zero (s : State) (kind : Nat) (data : List Byte) : s.answerCode kind 0 data = s.emit [.sideband sbReply .done (0 :: data)] := by
  simp [State.answerCode]

/-! ### Addresses and endpoints -/

theorem exec_setdasa {s : State} (haon : s.pwr.aon = true) : exec .setdasa s = .next (State.emit { s with fwm := { s.fwm with i3cAddr := 0x4A } } [.i3c 0x4A]) :=
  congrArg Host.Outcome.next (if_pos haon)

theorem exec_entdaa {s : State} (haon : s.pwr.aon = true) (addr : Fin 128) :
    exec (.entdaa addr) s = .next (State.emit { s with fwm := { s.fwm with i3cAddr := addr } } [.i3c addr]) :=
  congrArg Host.Outcome.next (if_pos haon)

/-- Set Endpoint ID keeps the second byte of its data and answers it (R450). -/
theorem exec_mctpControl_setEid {s : State} (hup : s.aonUp = true) (data : List Byte) :
    let e := (data.getD 1 0).toNat
    exec (.mctpControl 1 data) s = .next (State.emit { s with fwm := { s.fwm with eid := e } } [.sideband sbReply .done [0, 0, BitVec.ofNat 8 e, 0]]) := by
  show execMctpControl 1 data s = _
  simp [execMctpControl, hup, State.answerCode_zero]

/-- Get Endpoint ID answers the one kept. -/
theorem exec_mctpControl_getEid {s : State} (hup : s.aonUp = true) (data : List Byte) :
    exec (.mctpControl 2 data) s = .next (s.emit [.sideband sbReply .done [0, BitVec.ofNat 8 s.fwm.eid, 0, 0]]) := by
  show execMctpControl 2 data s = _
  simp [execMctpControl, hup, State.answerCode_zero]

/-! ### Requests that SCRAPPED refuses -/

/-- A request is served once its phase is complete (Table 16.7). -/
theorem State.mantis_served {s : State} {ph : Nat} (haon : s.pwr.aon = true) (hlife : s.scrapped = false) (hphase : s.boot.past ph = true) (f : State → State) :
    s.mantis ph f = f s := by
  simp [State.mantis, haon, hlife, hphase]

section
variable {s : State} (haon : s.pwr.aon = true) (hlife : s.scrapped = false)
include haon hlife

/-- The SPDM responder's answer leaves as it is (R452). -/
theorem exec_spdmRequest {u : State} {b : List Byte} {req : SpdmReq} (hspdm : s.spdm req = some (u, b)) (secured : Bool) :
    exec (.spdmRequest secured req) s = .next (u.emit [.sideband sbReply .done b]) := by
  show execSpdmRequest secured req s = _
  simp [execSpdmRequest, haon, hlife, hspdm]

variable (hup : s.aonUp = true)
include hup

/-- PLDM Type 2 answers a sensor's figure in whole units. -/
theorem exec_pldmSensorRead_figure (sensor reading : Nat) :
    exec (.pldmSensorRead 2 sensor reading) s = .next (s.emit [.sideband sbReply .done (0 :: natBytes sensor 2 ++ natBytes (reading / 100) 4)]) :=
  congrArg Host.Outcome.next ((State.mantis_served haon hlife hup _).trans (s.answerCode_zero 1 _))

/-- PLDM Type 4 answers SERIAL. -/
theorem exec_pldmSensorRead_serial (sensor reading : Nat) :
    exec (.pldmSensorRead 4 sensor reading) s = .next (s.emit [.sideband sbReply .done (0 :: natBytes s.sec.fuses.serial 8)]) :=
  congrArg Host.Outcome.next ((State.mantis_served haon hlife hup _).trans (s.answerCode_zero 1 _))

/-- FAULT_READ answers AON's entries, then those of the record shown (R368). -/
theorem exec_faultRead :
    exec .faultRead s = .next (s.emit [.sideband sbReply .done ((s.res.aonModule ++ (s.res.shown s.ringReady).entries).map FaultEntry.bytes).flatten]) :=
  congrArg Host.Outcome.next ((State.mantis_served haon hlife hup _).trans (s.reply_done _))

/-- LOG_READ answers the entries asked for once phase 2 is complete (R446, R448). -/
theorem exec_pldmLogRead (hphase : s.boot.past 2 = true) (seq : BitVec 32) (count : Nat) :
    exec (.pldmLogRead seq count) s = .next (s.emit [.sideband sbReply .done (s.logBytes seq.toNat count).1]) := by
  have hserved : s.boot.past (if s.boot.failed.isSome then 0 else 2) = true := by
    split
    · exact hup
    · exact hphase
  exact congrArg Host.Outcome.next ((State.mantis_served haon hlife hserved _).trans (s.reply_done _))

omit hlife in
/-- INVENTORY answers in SCRAPPED too (Table 16.7). -/
theorem exec_inventory :
    exec .inventory s =
      .next (s.emit [.sideband sbReply .done (natBytes s.sec.fuses.serial 8 ++ natBytes s.sec.fuses.state.num 1 ++ natBytes s.fwm.hdr.version 4 ++ natBytes s.sec.fuses.floor 1)]) := by
  show execInventory s = _
  simp [execInventory, haon, hup, State.reply_done]

variable (hmode : s.updateMode = true)
include hmode

/-- In update mode a component that fits goes into slot A (R454); what was verified there no longer is. -/
theorem exec_fwUpdateComponent {off : Nat} {data : List Byte} (hfits : off + data.length ≤ fwSlotBytes) :
    exec (.fwUpdateComponent off data) s =
      .next (State.emit { s with fwm := { s.fwm with slotA := Store.setMany erasedByte s.fwm.slotA off data, verified := s.fwm.verified && s.fwm.inactive } } [.sideband sbReply .done [0]]) := by
  have hroom : ¬ fwSlotBytes < off + data.length := Nat.not_lt.2 hfits
  refine congrArg Host.Outcome.next ((State.mantis_served haon hlife hup _).trans ?_)
  simp only [hmode, Bool.not_true, Bool.false_eq_true, if_false, if_neg hroom, State.answerCode_zero]

/-- In update mode the status of slot A's check is the reply, and a slot A that passes is started by a warm reset (R454). -/
theorem exec_activateFirmware {st : Status} (hst : (verifyImage s.sec.fuses s.fwTest (s.fwm.image false)).2 = st) :
    exec .activateFirmware s = .next (if st = .done then (s.emit [.sideband sbReply .done []]).warmReset else s.reply st []) := by
  have hreply : (s.mantis 0 fun a =>
      if !a.updateMode then a.answerCode 1 pldmNotInUpdate []
      else a.reply (verifyImage a.sec.fuses a.fwTest (a.fwm.image false)).2 []) = s.reply st [] := by
    simp [State.mantis_served haon hlife hup, hmode, hst]
  have hgo : (s.pwr.aon && !s.scrapped && s.aonUp && s.updateMode && decide (st = .done)) = decide (st = .done) := by
    simp [haon, hlife, hup, hmode]
  show execActivateFirmware s = _
  unfold execActivateFirmware
  dsimp only
  rw [hreply, hst, hgo]
  by_cases hverified : st = .done
  · simp [hverified, State.reply_done]
  · simp [hverified]

end

end Sys2Proof.Machine
end

section
/-! The statements on the start-up phases and on Mantis. -/

namespace Sys2Proof.Machine

/-- Settles O26: phase by phase, from what passes or fails it. That a failure is reported as NO_RESOURCE is the model's choice (log 84, DEDUCED). -/
theorem startUpPhasesComplete : Obligations.StartUpPhasesComplete := by
  intro s work n
  refine ⟨?aonRail, ?passes, ?fails, ?phase1, ?phase3, ?phase4, exec_controlClusterRelease, exec_phase3Start, exec_phase4Start⟩
  case aonRail => exact fun haon hpolarity => ⟨_, exec_aonRailGood haon hpolarity, rfl, rfl, rfl, congrArg Rail.state (Power.rail_setRail_same _ 0 (by decide)), rfl⟩
  case passes =>
    intro hboot hn hcause
    have hpass := s.passPhase_noted
    refine ⟨_, exec_phaseComplete_passes hboot hn hcause, ?_, hpass.pwr, hpass.hbm, hpass.sec⟩
    rw [hpass.boot, hboot]
  case fails =>
    intro c hboot hcause
    have hfail := s.failPhase_noted c
    refine ⟨_, exec_phaseComplete_fails hboot hcause, ?_, hfail.pwr, State.failPhase_out (congrArg Boot.phase hboot) c⟩
    rw [hfail.boot, hboot]
  case phase1 =>
    rintro hboot hgood hlife rfl c
    obtain ⟨t, ht, hrunning, hend⟩ := State.endPhase1_good hlife rfl
    have htboot : t.boot = ⟨some 1, false, none⟩ := ht.boot.trans hboot
    refine ⟨_, (exec_phaseComplete_phase1 hboot rfl hgood rfl).trans (congrArg Host.Outcome.next hend), ?_⟩
    by_cases hrun : c.run.isSome = true
    · have hpass := t.passPhase_noted
      rw [if_pos hrun, if_pos hrun]
      refine ⟨hpass.sec.trans ht.sec, hpass.flash.trans ht.flash, hpass.running.trans hrunning, ?_⟩
      rw [hpass.boot, htboot]
    · have hfail := t.failPhase_noted causeFwNone
      rw [if_neg hrun, if_neg hrun]
      refine ⟨hfail.sec.trans ht.sec, hfail.flash.trans ht.flash, hfail.running.trans hrunning, ?_⟩
      rw [hfail.boot, htboot]
  case phase3 =>
    rintro hboot rfl
    obtain ⟨t, ht, hend⟩ := s.endPhase3_good
    have hpass := State.passPhase_noted { t with hbm := t.hbm.markPhase3, res := t.res.moveEarly, fwm := t.fwm.moveEarly }
    refine ⟨_, (exec_phaseComplete_phase3 hboot rfl rfl).trans (congrArg Host.Outcome.next hend), ?_, hpass.hbm.trans (congrArg Hbm.markPhase3 ht.hbm), hpass.tiles.trans ht.tiles⟩
    rw [hpass.boot, ht.boot, hboot]
  case phase4 =>
    rintro hboot rfl
    have hpass := State.passPhase_noted { s with
      tiles := [], streams := .reset, sys := [], links := .reset, coll := .reset, res := s.res.phase4 0, pwr := { s.pwr with state := .ready } }
    refine ⟨_, (exec_phaseComplete_phase4 hboot rfl rfl).trans (congrArg Host.Outcome.next s.endPhase4_good), ?_, hpass.tiles, hpass.streams, hpass.sys, hpass.links, hpass.coll, hpass.pwr⟩
    rw [hpass.boot, hboot]

/-- Settles O47: request by request, from which is served and what it answers. The bytes and codes of the answers are the model's choice (log 73 and 78, PRESUMED). -/
theorem mantisAnswers : Obligations.MantisAnswers := by
  intro data sensor reading count off sec req seq addr s haon hup hlife said
  exact ⟨exec_mctpControl_setEid hup data, exec_mctpControl_getEid hup data,
    exec_pldmSensorRead_figure haon hlife hup sensor reading, exec_pldmSensorRead_serial haon hlife hup sensor reading,
    fun u b hspdm => exec_spdmRequest haon hlife hspdm sec, exec_faultRead haon hlife hup,
    fun hphase => exec_pldmLogRead haon hlife hup hphase seq count, exec_inventory haon hup, exec_setdasa haon, exec_entdaa haon addr,
    fun hmode hfits => exec_fwUpdateComponent haon hlife hup hmode hfits, fun hmode => exec_activateFirmware haon hlife hup hmode rfl⟩

end Sys2Proof.Machine
end

section
/-! SUPPORT. Tile-register instructions (R142, Table 5.7): a row's command is the shared operation of its TOP, and what that operation and TEND do when the instruction is accepted. -/

namespace Sys2Proof.Machine

/-- Each row's command runs the shared tile-register operation with the row's TOP. -/
theorem exec_tileRegRow {e : (Fin 156 → DWord → Instr) × Nat} (he : e ∈ tileRegRows) (t : Fin 156) (word : DWord) (s : State) :
    exec (e.1 t word) s = .next (s.tileOp t word e.2) := by
  simp only [tileRegRows, List.cons_append, List.nil_append, List.mem_cons, List.not_mem_nil, or_false] at he
  obtain rfl | rfl | rfl | rfl | rfl | rfl | rfl | rfl | rfl | rfl | rfl | rfl | rfl | rfl | rfl | rfl | rfl := he
  all_goals rfl

/-- TEND sets LAST_STATUS and counts itself in DONE_CNT; the rest of the tile stands. -/
theorem trRun_tend (x : Tile) {i : TrInstr} (htop : i.top = 0xFF) :
    trRun x i = { x with vec := { x.vec with trLast := .done, trDone := (x.vec.trDone + 1) % 65536 } } := by
  have harith : x.vec.trArith i = none := by simp [VecRegs.trArith, htop]
  simp [trRun, harith, htop]

section
variable {t : Fin 156} {word : DWord} {s : State} (hup : s.clusterUp = true) (hmode : (s.tile t).inTileMode = true)
  (hcheck : (TrInstr.ofBits word.toNat).check = .done)
include hup hmode hcheck

/-- An instruction with the TOP of its command that passes its check runs on its tile. -/
theorem State.tileOp_accepted {top : Nat} (htop : (TrInstr.ofBits word.toNat).top = top) :
    s.tileOp t word top = s.setTile t (trRun (s.tile t) (TrInstr.ofBits word.toNat)) := by
  simp [State.tileOp, hup, hmode, hcheck, htop]

/-- An accepted TEND runs on its tile and interrupts the control cluster. -/
theorem exec_tend_accepted (htop : (TrInstr.ofBits word.toNat).top = 0xFF) :
    exec (.tend t word) s =
      .next ((s.setTile t (trRun (s.tile t) (TrInstr.ofBits word.toNat))).emit [.sideband sbTend .done [BitVec.ofNat 8 t]]) := by
  show execTend t word s = _
  simp [execTend, hup, hmode, hcheck, htop]

end

end Sys2Proof.Machine
end

section
/-! The statement on the tile-register instructions. -/

namespace Sys2Proof.Machine

/-- Settles O5: a row's command is the shared operation of its TOP, which an accepted instruction runs; TEND's run leaves the count, and its command emits the interrupt. -/
theorem tileRegisterInstructionsRun : Obligations.TileRegisterInstructionsRun := by
  intro t v s hup hmode hcheck
  refine ⟨fun e he htop => ?row, fun htop => ⟨_, exec_tend_accepted hup hmode hcheck htop, ?tiles, rfl⟩⟩
  case row => rw [exec_tileRegRow he, State.tileOp_accepted hup hmode hcheck htop]
  case tiles => rw [State.emit_tiles, State.setTile_tiles, trRun_tend _ htop]

end Sys2Proof.Machine
end

section
/-! SUPPORT. Locks, credits and packets of level queues (R184 to R188): what a grant, an injection and a landing leave of the stream table and of the tiles. -/

namespace Sys2Proof.Machine

/-! ### The stream table -/

/-- A BOUND entry is not a FREE one. -/
theorem SEntry.ne_free {e : SEntry} (h : e.state = .bound) : e ≠ .free := by
  rintro rfl
  exact absurd h (by decide)

/-- An entry reads as what was written to it, when that is not a FREE entry. -/
theorem Streams.entry_setEntry (q : Streams) (i : Nat) {e : SEntry} (h : e ≠ .free) : (q.setEntry i e).entry i = e := Store.get_set_same _ _ h

/-- The last write of an entry stands. -/
theorem Streams.setEntry_setEntry (q : Streams) (i : Nat) {e : SEntry} (d : SEntry) (h : e ≠ .free) : (q.setEntry i e).setEntry i d = q.setEntry i d := by
  simp only [Streams.setEntry, Store.set_set _ _ _ h]

/-- A lock that is held is not granted. -/
theorem Streams.grant_held {q : Streams} {i : Nat} (h : (q.entry i).lockValid = true) : q.grant i = q := by
  simp [Streams.grant, Streams.grantable, h]

/-- A free lock of a BOUND queue goes to the first request of the queue that waits (R185 step 2). -/
theorem Streams.grant_free {q : Streams} {i : Nat} {r : LockReq} (hlock : (q.entry i).lockValid = false) (hbound : (q.entry i).state = .bound)
    (hdrop : q.dropping.contains i = false) (hfirst : q.waiting.find? (fun x => decide (x.entry = i)) = some r) :
    q.grant i = { q.setEntry i { q.entry i with lockOwner := r.producer, lockValid := true, lockRemain := r.packets } with
      waiting := q.waiting.erase r, grants := q.grants ++ [(i, r.producer, (q.entry i).freeSlots)] } := by
  have hgrantable : q.grantable i = some r := by
    simp only [Streams.grantable, hlock, hbound, hdrop]
    exact hfirst
  simp [Streams.grant, hgrantable]

/-- A message with packets left keeps its lock. -/
theorem Streams.lockLeft_pos (q : Streams) (i : Nat) {left : Nat} (h : left ≠ 0) :
    q.lockLeft i left = q.setEntry i { q.entry i with lockRemain := left, lockValid := true } := by
  simp [Streams.lockLeft, h]

/-- The entry of a queue once a packet of a message with more to come is in its ring. -/
def SEntry.pushed (e : SEntry) (p : Packet) : SEntry :=
  { e with tail := (e.tail + 1) % (2 * e.slots), msgCnt := if p.first then e.msgCnt + 1 else e.msgCnt, lockRemain := e.lockRemain - 1, lockValid := true }

theorem SEntry.pushed_slots (e : SEntry) (p : Packet) : (e.pushed p).slots = e.slots := rfl

section
variable {q : Streams} {i : Nat} {p : Packet} (hbound : (q.entry i).state = .bound) (hmore : 1 < (q.entry i).lockRemain)
include hbound hmore

/-- A packet with more of its message to come takes the slot at TAIL, and the lock counts it (R185 steps 3 to 5). -/
theorem Streams.push_more :
    q.push i p = ({ q with rings := Store.set .none q.rings (ringKey i ((q.entry i).tail % (q.entry i).slots)) p } : Streams).setEntry i ((q.entry i).pushed p) := by
  have hleft : (q.entry i).lockRemain - 1 ≠ 0 := by omega
  have hfull : { (q.entry i).pushed p with lockRemain := (q.entry i).lockRemain, lockValid := (q.entry i).lockValid } ≠ SEntry.free := SEntry.ne_free hbound
  calc q.push i p
      = (({ q with rings := Store.set .none q.rings (ringKey i ((q.entry i).tail % (q.entry i).slots)) p } : Streams).setEntry i
          { (q.entry i).pushed p with lockRemain := (q.entry i).lockRemain, lockValid := (q.entry i).lockValid }).lockLeft i ((q.entry i).lockRemain - 1) := rfl
    _ = _ := by
      rw [Streams.lockLeft_pos _ _ hleft, Streams.entry_setEntry _ _ hfull, Streams.setEntry_setEntry _ _ _ hfull]
      rfl

theorem Streams.entry_push_more : (q.push i p).entry i = (q.entry i).pushed p := by
  rw [Streams.push_more hbound hmore]
  exact q.entry_setEntry i (SEntry.ne_free hbound)

/-- A packet that lands in an empty ring is at its head: TAIL has moved past it, and its slot holds it. -/
theorem Streams.head_push_more (hempty : (q.entry i).head = (q.entry i).tail) (htail : (q.entry i).tail < 2 * (q.entry i).slots) (hp : p ≠ .none) :
    (q.push i p).head i = some p := by
  have hentry : (q.push i p).entry i = (q.entry i).pushed p := Streams.entry_push_more hbound hmore
  have hholds : ((q.entry i).pushed p).empty = false := by
    have htwo : 1 < (q.entry i).slots := by
      have := Nat.two_pow_pos (q.entry i).ringSize
      unfold SEntry.slots
      omega
    have hmoved : (q.entry i).tail ≠ ((q.entry i).tail + 1) % (2 * (q.entry i).slots) := by
      rcases Nat.lt_or_ge ((q.entry i).tail + 1) (2 * (q.entry i).slots) with hlt | hge
      · rw [Nat.mod_eq_of_lt hlt]
        omega
      · have hwrap : (q.entry i).tail + 1 = 2 * (q.entry i).slots := by omega
        rw [hwrap, Nat.mod_self]
        omega
    simp [SEntry.empty, SEntry.pushed, hempty, hmoved]
  have hslot : (q.push i p).slot i ((q.entry i).pushed p).head = p := by
    rw [Streams.slot, hentry, Streams.push_more hbound hmore, SEntry.pushed_slots]
    show Store.get _ (Store.set _ _ _ _) (ringKey i ((q.entry i).head % _)) = p
    rw [hempty, Store.get_set_same _ _ hp]
  simp [Streams.head, hentry, hholds, hslot]

end

/-! ### A packet on its way -/

/-- The CRC register stays 0 over zeros (R184). -/
theorem crc16_of_zeros {bs : List Bool} (h : ∀ b ∈ bs, b = false) : crc16 bs = 0 := by
  rw [List.eq_replicate_of_mem h]
  generalize bs.length = n
  induction n with
  | zero => rfl
  | succ n ih => exact ih

/-- Words with some bits flipped, as `landed` flips them. -/
def flipWords (ws : List TWord) (f : List Word) : List TWord :=
  (List.range ws.length).map fun i => ⟨(ws.getD i .zero).bits ^^^ f.getD i 0, (ws.getD i .zero).poison⟩

theorem flipWords_nil (ws : List TWord) : flipWords ws [] = ws := by
  refine List.ext_getElem (by simp [flipWords]) fun i _ hi => ?_
  simp [flipWords, hi]

/-- The bits that change on the way, in the order of the CRC. -/
def Landing.delta (l : Landing) : List Bool :=
  ((List.range 16).map fun i => (List.range 32).map fun b => bit (l.flip.getD i 0).toNat b).flatten ++ (List.range 16).map (bit l.parityFlip)

/-- A packet whose CRC passes lands with its bits flipped and no word poisoned (R184). -/
theorem landed_of_crc {l : Landing} (h : crc16 l.delta = 0) (p : Packet) :
    landed p l = ({ p with words := flipWords (flipWords p.words l.flip) l.ringFlip, parity := p.parity ^^^ (l.parityFlip % 65536) }, false) := by
  have hgood : decide (crc16 l.delta ≠ 0) = false := by simp [h]
  calc landed p l
      = ({ p with words := flipWords (if decide (crc16 l.delta ≠ 0) then (flipWords p.words l.flip).map fun w => ⟨w.bits, true⟩ else flipWords p.words l.flip) l.ringFlip,
                  parity := p.parity ^^^ (l.parityFlip % 65536) }, decide (crc16 l.delta ≠ 0)) := rfl
    _ = _ := by rw [hgood]; rfl

theorem bit_zero (i : Nat) : bit 0 i = false := by simp [bit]

theorem Landing.delta_clean : ∀ b ∈ Landing.clean.delta, b = false := by
  intro b hb
  simp only [Landing.delta, List.mem_append, List.mem_flatten, List.mem_map] at hb
  obtain ⟨_, ⟨i, -, rfl⟩, hb⟩ | ⟨i, -, rfl⟩ := hb
  · obtain ⟨k, -, rfl⟩ := List.mem_map.1 hb
    exact bit_zero k
  · exact bit_zero i

/-- A clean landing leaves the packet as it was sent. -/
theorem landed_clean (p : Packet) : landed p .clean = (p, false) := by
  rw [landed_of_crc (crc16_of_zeros Landing.delta_clean)]
  simp [Landing.clean, flipWords_nil]

/-! ### Injection by a QSEND -/

/-- A tile whose QSEND is in progress is not at reset. -/
theorem Tile.ne_reset_of_tx {x : Tile} {tx : TxState} (h : x.ep.tx = some tx) : x ≠ .reset := by
  rintro rfl
  cases h

/-- A QSEND injects its next packet (R185 step 3). -/
def State.injectOne (s : State) (t : Nat) (tx : TxState) : State :=
  let x := s.tile t
  let y : Tile := { x with ep := { x.ep with tx := some { tx with sent := tx.sent + 1, credits := tx.credits - 1 }, txPkts := wrap64 x.ep.txPkts 1 } }
  { s.setTile t y with streams := { s.streams with flights := s.streams.flights ++ [⟨tx.entry, t, x.packet tx⟩] } }

theorem State.injectOne_tx (s : State) (t : Nat) (tx : TxState) :
    ((s.injectOne t tx).tile t).ep.tx = some { tx with sent := tx.sent + 1, credits := tx.credits - 1 } :=
  congrArg (fun x : Tile => x.ep.tx) (s.tile_setTile t (Tile.ne_reset_of_tx rfl))

/-- The grants on their way are as given, and of a tile's QSEND the packets sent and the credits left alone have changed, with the same sum. -/
def SendKept (grants : List (Nat × Nat × Nat)) (t : Nat) (tx : TxState) (a : State) : Prop :=
  a.streams.grants = grants ∧ ∃ sent credits, (a.tile t).ep.tx = some { tx with sent := sent, credits := credits } ∧ sent + credits = tx.sent + tx.credits

theorem SendKept.injectOne {grants : List (Nat × Nat × Nat)} {t : Nat} {tx x : TxState} {a : State} (h : SendKept grants t tx a)
    (hx : (a.tile t).ep.tx = some x) (hcredit : 0 < x.credits) : SendKept grants t tx (a.injectOne t x) := by
  obtain ⟨hgrants, sent, credits, htx, hsum⟩ := h
  obtain rfl : x = { tx with sent := sent, credits := credits } := Option.some.inj (hx.symm.trans htx)
  refine ⟨hgrants, _, _, a.injectOne_tx t _, ?_⟩
  dsimp only at hcredit ⊢
  omega

/-- A QSEND may inject: it holds the lock and a credit, has a packet left, and its queue is BOUND (R185, R195). -/
abbrev State.mayInject (s : State) (tx : TxState) : Prop := tx.locked ∧ 0 < tx.credits ∧ tx.sent < tx.packets ∧ (s.streams.entry tx.entry).state = .bound

section
variable {s : State} {t : Nat} {tx : TxState} (htx : (s.tile t).ep.tx = some tx)
include htx

theorem State.inject_succ (hmay : s.mayInject tx) (n : Nat) : s.inject (n + 1) t = (s.injectOne t tx).inject n t := by
  simp only [State.inject, htx, if_pos hmay]
  rfl

theorem State.inject_blocked (hmay : ¬ s.mayInject tx) (n : Nat) : s.inject n t = s := by
  cases n with
  | zero => rfl
  | succ n => simp only [State.inject, htx, if_neg hmay]

/-- What a QSEND with credits keeps as it injects one packet, it keeps as it injects them all. -/
theorem State.inject_induction {P : State → Prop}
    (hone : ∀ (a : State) (x : TxState), (a.tile t).ep.tx = some x → 0 < x.credits → P a → P (a.injectOne t x)) (n : Nat) (hs : P s) : P (s.inject n t) := by
  induction n generalizing s tx with
  | zero => exact hs
  | succ n ih =>
    by_cases hmay : s.mayInject tx
    · rw [State.inject_succ htx hmay]
      obtain ⟨-, hcredit, -, -⟩ := hmay
      exact ih (s.injectOne_tx t tx) (hone s tx htx hcredit hs)
    · rw [State.inject_blocked htx hmay]
      exact hs

/-- Injection sends a packet for each credit it uses, and leaves the rest of its QSEND and the grants. -/
theorem State.inject_keeps (n : Nat) : SendKept s.streams.grants t tx (s.inject n t) :=
  State.inject_induction htx (fun _ _ hx hcredit hkept => hkept.injectOne hx hcredit) n ⟨rfl, _, _, htx, rfl⟩

end

/-! ### The consumer of a packet -/

section
variable {s : State} {t : Nat} (hrx : (s.tile t).ep.rx = none)
include hrx

theorem State.chooseIn_idle : s.chooseIn t = s := by simp [State.chooseIn, hrx]

theorem State.copyIn_idle (n : Nat) : s.copyIn n t = s := by
  cases n with
  | zero => rfl
  | succ n => simp only [State.copyIn, hrx]

/-- A packet of a message with more to come, landed for a tile that receives nothing, starts nothing. -/
theorem State.afterLanding_idle {i : Nat} (hconsumer : (s.streams.entry i).consumer = t) (htile : t < 156) (hlock : (s.streams.entry i).lockValid = true) :
    s.afterLanding i = s := by
  subst hconsumer
  simp only [State.afterLanding, Streams.grant_held hlock, if_pos htile]
  rw [State.chooseIn_idle hrx, State.copyIn_idle hrx]

end

/-! ### The commands -/

/-- The i-th lock request is no longer on the mesh, and waits at its consumer. -/
def Streams.arrive (q : Streams) (i : Nat) (r : LockReq) : Streams := { q with asking := removeAt q.asking i, waiting := q.waiting ++ [r] }

theorem exec_lockRequest {s : State} {i : Nat} {r : LockReq} (h : s.streams.asking[i]? = some r) :
    exec (.lockRequest i) s = .next { s with streams := (s.streams.arrive i r).grant r.entry } := by
  show execLockRequest i s = _
  simp only [execLockRequest, h]
  rfl

/-- The i-th grant is no longer on its way. -/
def State.takeGrant (s : State) (i : Nat) : State := { s with streams := { s.streams with grants := removeAt s.streams.grants i } }

/-- One of the credits of a key is no longer on its way. -/
def State.takeCredit (s : State) (key : Nat) : State := { s with streams := { s.streams with credits := Store.upd 0 s.streams.credits key (· - 1) } }

/-- The QSEND of a tile stands as given. -/
def State.setTx (s : State) (t : Nat) (tx : TxState) : State := s.setTile t { s.tile t with ep := { (s.tile t).ep with tx := some tx } }

theorem State.setTx_ep (s : State) (t : Nat) (tx : TxState) : ((s.setTx t tx).tile t).ep = { (s.tile t).ep with tx := some tx } :=
  congrArg Tile.ep (s.tile_setTile t (Tile.ne_reset_of_tx rfl))

theorem State.setTx_tx (s : State) (t : Nat) (tx : TxState) : ((s.setTx t tx).tile t).ep.tx = some tx := congrArg Endpoint.tx (s.setTx_ep t tx)

/-- A grant that reaches the QSEND that asked gives it the lock and its credits, and it injects. -/
theorem exec_lockGrant_tile {s : State} {i t n : Nat} {tx : TxState} (h : s.streams.grants[i]? = some (tx.entry, t, n)) (ht : t < 156)
    (htx : (s.tile t).ep.tx = some tx) (hlock : tx.locked = false) :
    exec (.lockGrant i) s = .next (((s.takeGrant i).setTx t { tx with locked := true, asked := false, credits := n }).inject tx.packets t) := by
  have htaken : ((s.takeGrant i).tile t).ep.tx = some tx := htx
  have hgrant : (s.takeGrant i).grantTile tx.entry t n = ((s.takeGrant i).setTx t { tx with locked := true, asked := false, credits := n }).inject tx.packets t := by
    simp only [State.grantTile, htaken, hlock, and_self, if_true]
    rfl
  show execLockGrant i s = _
  simp only [execLockGrant, h, if_pos ht]
  exact congrArg Host.Outcome.next hgrant

/-- A credit that reaches the QSEND that holds the lock is its own, and it injects. -/
theorem exec_creditReturn_tile {s : State} {t : Fin 192} {c : Nat × Nat} {tx : TxState} (ht : t.val < 156)
    (h : s.streams.credits.find? (fun c => decide (c.1 % 192 = t.val)) = some c) (htx : (s.tile t).ep.tx = some tx) (hentry : tx.entry = c.1 / 192) (hlock : tx.locked = true) :
    exec (.creditReturn t) s = .next (((s.takeCredit c.1).setTx t { tx with credits := tx.credits + 1 }).inject tx.packets t) := by
  show execCreditReturn t s = _
  simp only [execCreditReturn, h, if_pos ht, htx, hentry, hlock, and_self, if_true]
  rfl

/-- A packet in flight to level queue i of tile t enters its ring, and the tile counts it (R185, R197). -/
def State.receive (s : State) (t i : Nat) (f : Flight) : State :=
  { s.setTile t { s.tile t with ep := { (s.tile t).ep with rxPkts := wrap64 (s.tile t).ep.rxPkts 1 } } with
    streams := ({ s.streams with flights := s.streams.flights.erase f } : Streams).push i f.packet }

theorem State.receive_ep {s : State} {t : Nat} (h : (s.tile t).stage.state = .running) (i : Nat) (f : Flight) :
    ((s.receive t i f).tile t).ep = { (s.tile t).ep with rxPkts := wrap64 (s.tile t).ep.rxPkts 1 } := by
  have hcounted : { s.tile t with ep := { (s.tile t).ep with rxPkts := wrap64 (s.tile t).ep.rxPkts 1 } } ≠ Tile.reset := Tile.ne_reset h
  exact congrArg Tile.ep (s.tile_setTile t hcounted)

section
variable {s : State} {i : Nat} (hbound : (s.streams.entry i).state = .bound) (hmore : 1 < (s.streams.entry i).lockRemain) (t : Nat) (f : Flight)
include hbound hmore

theorem State.receive_entry : (s.receive t i f).streams.entry i = (s.streams.entry i).pushed f.packet :=
  Streams.entry_push_more (q := { s.streams with flights := s.streams.flights.erase f }) hbound hmore

theorem State.receive_flights : (s.receive t i f).streams.flights = s.streams.flights.erase f :=
  congrArg Streams.flights (Streams.push_more (q := { s.streams with flights := s.streams.flights.erase f }) hbound hmore)

theorem State.receive_head (hempty : (s.streams.entry i).head = (s.streams.entry i).tail) (htail : (s.streams.entry i).tail < 2 * (s.streams.entry i).slots)
    (hp : f.packet ≠ .none) : (s.receive t i f).streams.head i = some f.packet :=
  Streams.head_push_more (q := { s.streams with flights := s.streams.flights.erase f }) hbound hmore hempty htail hp

end

/-- A clean packet that no flush discards is received (R184). -/
theorem exec_packetLanding_clean {s : State} {entry : Fin 262144} {f : Flight}
    (h : s.streams.flights.find? (fun f => decide (f.entry = entry.val)) = some f) (htile : (s.streams.entry entry).consumer < 156)
    (hdrop : s.streams.dropping.contains entry.val = false) :
    exec (.packetLanding entry .clean) s = .next ((s.receive (s.streams.entry entry).consumer entry f).afterLanding entry) := by
  have hlands : ¬ s.streams.dropping.contains entry.val = true := Bool.eq_false_iff.1 hdrop
  show execPacketLanding entry .clean s = _
  simp only [execPacketLanding, h, landed_clean, if_pos htile]
  exact (if_neg (by decide)).trans ((if_neg hlands).trans rfl)

end Sys2Proof.Machine
end

section
/-! The statement on locks, grants, credits and landing packets. -/

namespace Sys2Proof.Machine

/-- Settles O8: command by command; injection by the invariant that packets sent and credits left keep their sum, a landing by what its ring holds afterwards. -/
theorem locksCreditsAndPackets : Obligations.LocksCreditsAndPackets := by
  refine ⟨fun s i => ⟨?request, ?grant, ?credit⟩, ?landing⟩
  case request =>
    intro r hr hlock hbound hdrop hwaiting
    have hfirst : (s.streams.arrive i r).waiting.find? (fun x => decide (x.entry = r.entry)) = some r := by simp [Streams.arrive, hwaiting]
    have hgrant := Streams.grant_free (q := s.streams.arrive i r) hlock hbound hdrop hfirst
    refine ⟨_, exec_lockRequest hr, ?_⟩
    rw [hgrant]
    exact ⟨s.streams.entry_setEntry r.entry (SEntry.ne_free hbound), rfl, by simp [Streams.arrive, hwaiting], rfl⟩
  case grant =>
    rintro e t n tx hgrant ht htx rfl hlock
    obtain ⟨hgrants, sent, credits, hy, hsum⟩ := State.inject_keeps ((s.takeGrant i).setTx_tx t { tx with locked := true, asked := false, credits := n }) tx.packets
    exact ⟨_, exec_lockGrant_tile hgrant ht htx hlock, hgrants, _, hy, rfl, rfl, rfl, rfl, hsum⟩
  case credit =>
    intro t c tx ht hc htx hentry hlock hsent
    have hnone := State.inject_blocked ((s.takeCredit c.1).setTx_tx t { tx with credits := tx.credits + 1 })
      (fun ⟨_, _, hleft, _⟩ => absurd hleft (Nat.not_lt.2 (Nat.le_of_eq hsent.symm))) tx.packets
    refine ⟨_, exec_creditReturn_tile ht hc htx hentry hlock, ?_⟩
    rw [hnone]
    exact ⟨(s.takeCredit c.1).setTx_ep t _, rfl⟩
  case landing =>
    rintro entry s f e hf rfl hbound hconsumer hempty hlock hmore hrunning hdrop hrx - - hp htail
    have hep := State.receive_ep hrunning entry f
    have hentry := State.receive_entry hbound hmore (s.streams.entry entry).consumer f
    have hquiet := State.afterLanding_idle ((congrArg Endpoint.rx hep).trans hrx) (congrArg SEntry.consumer hentry :) hconsumer (congrArg SEntry.lockValid hentry)
    refine ⟨_, exec_packetLanding_clean hf hconsumer hdrop, ?_⟩
    rw [hquiet]
    exact ⟨State.receive_head hbound hmore _ f hempty htail hp, congrArg SEntry.tail hentry, congrArg SEntry.lockRemain hentry,
      State.receive_flights hbound hmore _ f, congrArg Endpoint.rxPkts hep⟩

end Sys2Proof.Machine
end

section
/-! SUPPORT. DMA channels (chapter 8): what a channel reads as after a write, and the state a channel's instruction, line request or command leaves. -/

namespace Sys2Proof.Machine

/-! ### Channels -/

theorem State.sysChan_setSys (s : State) (n : Nat) {x : SysChan} (h : x ≠ .reset) : (s.setSys n x).sysChan n = x := Store.get_set_same _ _ h

theorem State.setSys_setSys (s : State) (n : Nat) {x : SysChan} (y : SysChan) (h : x ≠ .reset) : (s.setSys n x).setSys n y = s.setSys n y :=
  congrArg (fun m => { s with sys := m }) (Store.set_set _ _ y h)

theorem DmaChan.ne_reset_of_phase {x : DmaChan} (h : x.phase ≠ .idle) : x ≠ .reset := by
  rintro rfl
  exact h rfl

theorem DmaChan.ne_reset_of_reqs {x : DmaChan} (h : x.reqs ≠ []) : x ≠ .reset := by
  rintro rfl
  exact h rfl

theorem Tile.ne_reset_of_dma {x : Tile} (h : x.dma ≠ .reset) : x ≠ .reset := by
  rintro rfl
  exact h rfl

theorem SysChan.ne_reset_of_chan {y : SysChan} (h : y.chan ≠ .reset) : y ≠ .reset := by
  rintro rfl
  exact h rfl

theorem isSys_tile {c : Nat} (h : c < 156) : isSys c = false := decide_eq_false (Nat.not_le.2 h)

theorem isSys_sys {c n : Nat} (h : c = 156 + n) : isSys c = true := decide_eq_true (h ▸ Nat.le_add_right 156 n)

theorem State.chan_tile (s : State) {c : Nat} (h : c < 156) : s.chan c = (s.tile c).dma := by
  simp [State.chan, isSys_tile h]

theorem State.setChan_tile (s : State) {c : Nat} (h : c < 156) (x : DmaChan) : s.setChan c x = s.setTile c { s.tile c with dma := x } := by
  simp [State.setChan, isSys_tile h, State.updTile_eq]

theorem State.chan_sys (s : State) {c n : Nat} (h : c = 156 + n) : s.chan c = (s.sysChan n).chan := by
  subst h
  simp [State.chan, isSys_sys]

theorem State.setChan_sys (s : State) {c n : Nat} (h : c = 156 + n) (x : DmaChan) : s.setChan c x = s.setSys n { s.sysChan n with chan := x } := by
  subst h
  simp [State.setChan, isSys_sys, State.updSys]

theorem State.chanRec_sys (s : State) {c n : Nat} (h : c = 156 + n) : s.chanRec c = 0 := by
  simp [State.chanRec, isSys_sys h]

/-- A channel reads as what was written to it, unless that is the reset value. -/
theorem State.chan_setChan (s : State) (c : Nat) {x : DmaChan} (h : x ≠ .reset) : (s.setChan c x).chan c = x := by
  by_cases hc : c < 156
  · have hset : { s.tile c with dma := x } ≠ Tile.reset := Tile.ne_reset_of_dma h
    rw [State.setChan_tile s hc, State.chan_tile _ hc, State.tile_setTile s c hset]
  · have hsys : c = 156 + (c - 156) := by omega
    have hset : { s.sysChan (c - 156) with chan := x } ≠ SysChan.reset := SysChan.ne_reset_of_chan h
    rw [State.setChan_sys s hsys, State.chan_sys _ hsys, State.sysChan_setSys s _ hset]

/-- Of two writes of a channel the second stands. -/
theorem State.setChan_setChan (s : State) (c : Nat) {x : DmaChan} (h : x ≠ .reset) (y : DmaChan) : (s.setChan c x).setChan c y = s.setChan c y := by
  by_cases hc : c < 156
  · have hset : { s.tile c with dma := x } ≠ Tile.reset := Tile.ne_reset_of_dma h
    simp only [State.setChan_tile _ hc, s.tile_setTile c hset, s.setTile_setTile c _ hset]
  · have hsys : c = 156 + (c - 156) := by omega
    have hset : { s.sysChan (c - 156) with chan := x } ≠ SysChan.reset := SysChan.ne_reset_of_chan h
    simp only [State.setChan_sys _ hsys, s.sysChan_setSys _ hset, s.setSys_setSys _ _ hset]

/-- A write of a tile's channel leaves the tile's memories. -/
theorem State.mem_setChan (s : State) {c : Nat} (hc : c < 156) {x : DmaChan} (h : x ≠ .reset) : ((s.setChan c x).tile c).mem = (s.tile c).mem := by
  have hset : { s.tile c with dma := x } ≠ Tile.reset := Tile.ne_reset_of_dma h
  rw [State.setChan_tile s hc, s.tile_setTile c hset]

@[simp] theorem State.setChan_hbm (s : State) (c : Nat) (x : DmaChan) : (s.setChan c x).hbm = s.hbm := by
  unfold State.setChan
  split <;> rfl

/-- A list with an element at some index is not empty after one of its elements is replaced. -/
theorem setAt_ne_nil {α : Type} {l : List α} {i : Nat} {a : α} (h : l[i]? = some a) (j : Nat) (b : α) : setAt l j b ≠ [] := by
  cases l with
  | nil => cases h
  | cons x xs => cases j <;> exact List.cons_ne_nil _ _

/-! ### Instructions -/

/-- A running channel executes the instruction at which it stands when no rule of Table 8.8 refuses it. -/
theorem State.dmaStep_atInstr {s : State} {c op : Nat} {i : DmaInstr} (h : AtInstr s c op i) (f : DmaInstr → State) : s.dmaStep c op f = f i := by
  obtain ⟨hrun, rfl, hop, hpc, hfits, hclean, hgood, hsys⟩ := h
  have hinside : ¬ (4096 ≤ (s.chan c).pc ∨ progLimit c < (s.chan c).base + 8 * (s.chan c).pc + 8) := by omega
  simp [State.dmaStep, hrun, hop, hinside, hclean, hgood, hsys]

/-- The address descriptor at an offset of the memory that holds a channel's program (Table 8.4). -/
def State.descAt (s : State) (c off : Nat) : AddrDesc := .ofBits (wordsNat ((s.progWords c off 8).map TWord.bits))

/-- The address that a descriptor forms in a channel's open loops and its step (R203). -/
def AddrDesc.formed (d : AddrDesc) (x : DmaChan) : Int := d.addr (loopIter x.loops 0) (loopIter x.loops 1) (loopIter x.loops 2) (d.stepTerm x.step)

/-- One side of a MOVE: the place that a descriptor names in a space. -/
def AddrDesc.side (d : AddrDesc) (x : DmaChan) (sp : Space) : DmaAddr := ⟨sp, d.ltile, (d.formed x).toNat, d.xform, d.ksel⟩

/-- A channel past a MOVE: its requests stand behind those in progress and its lines are counted; with BAR it waits for arrival (R206, R208). -/
def DmaChan.afterMove (x : DmaChan) (reqs : List LineReq) (lines : Nat) (bar : Bool) : DmaChan :=
  { x.advance with reqs := x.reqs ++ reqs, rdLines := wrap64 x.rdLines lines, phase := if bar then .waitArrival else .running }

theorem DmaChan.afterMove_ne_reset (x : DmaChan) (reqs : List LineReq) (lines : Nat) (bar : Bool) : x.afterMove reqs lines bar ≠ .reset := by
  refine DmaChan.ne_reset_of_phase ?_
  cases bar <;> exact DmaPhase.noConfusion

/-- No side in staging, no mix of staging with protected memory. -/
theorem stagingMix_of_ne {a b : Option Bool} (ha : a ≠ some true) (hb : b ≠ some true) (sx dx : Nat) : stagingMix a b sx dx = false := by
  unfold stagingMix
  split <;> simp_all

/-- A MOVE that Table 8.8 lets pass issues its requests, drawing the contents of an overlap. -/
theorem State.doMove_passes {s : State} {c : Nat} {i : DmaInstr} {sd dd : AddrDesc} {ss ds : Space} (hsrc : i.srcDesc + 32 ≤ progLimit c)
    (hdst : i.dstDesc + 32 ≤ progLimit c) (hsd : sd = s.descAt c i.srcDesc) (hdd : dd = s.descAt c i.dstDesc) (hss : Space.ofCode sd.space = some ss)
    (hds : Space.ofCode dd.space = some ds) (hclean : ((s.progWords c i.srcDesc 8).any TWord.poison || (s.progWords c i.dstDesc 8).any TWord.poison) = false)
    (hst : moveStatus (s.chanEnv c) sd dd (sd.formed (s.chan c)) (dd.formed (s.chan c)) i.len = .done)
    (hstageS : s.sideStaging c ss (sd.formed (s.chan c)).toNat ≠ some true) (hstageD : s.sideStaging c ds (dd.formed (s.chan c)).toNat ≠ some true) :
    s.doMove c i = s.draw.2.setChan c ((s.chan c).afterMove
      (moveRequests (s.chan c) (s.chanRec c) (sd.side (s.chan c) ss) (dd.side (s.chan c) ds) i.len s.draws)
      (linesOf (sd.formed (s.chan c)).toNat i.len) i.bar) := by
  subst hsd hdd
  obtain ⟨hcleanS, hcleanD⟩ := Bool.or_eq_false_iff.1 hclean
  have hfits : ¬ (progLimit c < i.srcDesc + 32 ∨ progLimit c < i.dstDesc + 32) := by omega
  have hmix := stagingMix_of_ne hstageS hstageD
  simp only [State.descAt, AddrDesc.side, AddrDesc.formed] at hss hds hst hmix hstageS hstageD ⊢
  simp only [State.doMove, if_neg hfits, hss, hds, hst, hmix, hstageS, hstageD, hcleanS, hcleanD]
  cases i.bar <;> simp [DmaChan.afterMove, State.draw, DmaChan.advance]

theorem exec_move {c : Fin 204} {s : State} {i : DmaInstr} (h : AtInstr s c dmaMove i) : exec (.move c) s = .next (s.doMove c i) :=
  congrArg Host.Outcome.next (State.dmaStep_atInstr h _)

/-- A LOOP that may open stands innermost, with its body ahead (R204). -/
theorem exec_dmaLoop {c : Fin 204} {s : State} {i : DmaInstr} (h : AtInstr s c dmaLoop i) (hok : loopOk (s.chan c).pc i (s.chan c).loops = true) :
    exec (.dmaLoop c) s = .next (s.setChan c { s.chan c with
      pc := (s.chan c).pc + 1, phase := .running, loops := ⟨i.level, (s.chan c).pc + 1, (s.chan c).pc + 1 + i.body, 0, i.count⟩ :: (s.chan c).loops }) :=
  congrArg Host.Outcome.next ((State.dmaStep_atInstr h _).trans (if_pos hok))

/-- A WAIT of a tile's channel whose token holds VAL takes it (R210). -/
theorem exec_wait_taken {c : Fin 204} {s : State} {i : DmaInstr} (h : AtInstr s c dmaWait i) (hval : i.val ≤ s.chanTok c i.tok) (hc : c.val < 156) :
    exec (.wait c) s = .next ((s.updTile c fun t => { t with disp := { t.disp with tokens := Store.upd 0 t.disp.tokens i.tok (· - i.val) } }).setChan c (s.chan c).advance) := by
  refine congrArg Host.Outcome.next ((State.dmaStep_atInstr h _).trans ?_)
  simp only [if_pos hval, isSys_tile hc]
  rfl

/-- A WAIT whose token holds less than VAL waits (R211). -/
theorem exec_wait_blocked {c : Fin 204} {s : State} {i : DmaInstr} (h : AtInstr s c dmaWait i) (hval : s.chanTok c i.tok < i.val) :
    exec (.wait c) s = .next (s.setChan c { s.chan c with phase := .waitToken }) :=
  congrArg Host.Outcome.next ((State.dmaStep_atInstr h _).trans (if_neg (Nat.not_le.2 hval)))

/-- A SIGNAL of a tile's channel whose MOVEs have met R209 raises its token (R210). -/
theorem exec_signal_raised {c : Fin 204} {s : State} {i : DmaInstr} (h : AtInstr s c dmaSignal i) (hdrained : drained (s.chan c).reqs (s.chanRec c) = true)
    (hc : c.val < 156) : exec (.signal c) s = .next ((s.updTile c fun t => t.raiseToken i.tok i.amt).setChan c (s.chan c).advance) := by
  refine congrArg Host.Outcome.next ((State.dmaStep_atInstr h _).trans ?_)
  simp only [hdrained, isSys_tile hc]
  rfl

theorem exec_endProgram {c : Fin 204} {s : State} {i : DmaInstr} (h : AtInstr s c dmaEnd i) :
    exec (.endProgram c) s = .next (s.setChan c { s.chan c with phase := .draining, ending := some .done }) :=
  congrArg Host.Outcome.next (State.dmaStep_atInstr h _)

/-! ### Line requests -/

section
variable {c : Fin 204} {s : State} {i : Nat} {r : LineReq} (hr : (s.chan c).reqs[i]? = some r)
include hr

/-- A read of the channel's own scratchpad or program memory for a destination that is not local gives the request its words (R206). -/
theorem exec_dmaReadReturn_local (hmay : mayRead (s.chan c).reqs i = true) (hxform : r.src.xform = 0) (hsrc : r.src.space = .localSp)
    (hsp : r.dst.space ≠ .localSp) (hstash : r.dst.space ≠ .localStash) (f : Fetch) :
    exec (.dmaReadReturn c i f) s = .next (s.setReq c i { r with data := some (s.progWords c r.src.addr r.words) }) := by
  have hread : s.readPlace c r.src r.words f = (s, .done, s.progWords c r.src.addr r.words) := by simp only [State.readPlace, hsrc]
  have hlabel : s.takeLabel c r.src (4 * r.words) = s := by simp [State.takeLabel, hsrc]
  show execDmaReadReturn c i f s = _
  simp [execDmaReadReturn, hr, hmay, hxform, hread, hlabel, hsp, hstash]

/-- A bus error or a line timeout while retries are left makes the request wait for its re-issue (R213). -/
theorem State.busError_retried (hagain : r.again = false) (hleft : r.retries < (s.chan c).retry) : s.busError c i = s.setReq c i { r with again := true } := by
  simp [State.busError, State.chanRetry, hr, hagain, hleft]

/-- The re-issue of a request is counted on its channel and on the request. -/
theorem exec_dmaRetry_again (hagain : r.again = true) : ∃ a, exec (.dmaRetry c i) s = .next ((s.setChan c { s.chan c with
    reqs := setAt (s.chan c).reqs i { r with again := false, retries := r.retries + 1 }, retries := wrap64 (s.chan c).retries 1 }).trace
      0x0301 ((s.chanPart c).getD noPart) 0 [c, a]) := by
  have hcounted : { s.chan c with retries := wrap64 (s.chan c).retries 1 } ≠ DmaChan.reset :=
    DmaChan.ne_reset_of_reqs (List.ne_nil_of_mem (List.mem_of_getElem? hr))
  refine ⟨if r.data.isSome then r.dst.addr else r.src.addr, ?_⟩
  show execDmaRetry c i s = _
  simp [execDmaRetry, hr, hagain, State.setReq, s.chan_setChan c hcounted, s.setChan_setChan c hcounted]

end

/-- A channel that does not wait at a BAR stands as it is. -/
theorem DmaChan.wake_of_ne {x : DmaChan} (h : x.phase ≠ .waitArrival) (n : Nat) : x.wake n = x := by simp [DmaChan.wake, h]

/-- The end of a request of a running channel takes it off the list, with any other that has arrived. -/
theorem State.endReq_running {s : State} {c : Nat} (h : (s.chan c).phase = .running) (i : Nat) (r : LineReq) :
    s.endReq c i r = s.setChan c { s.chan c with reqs := (setAt (s.chan c).reqs i { r with arrived := true }).filter fun q => !q.arrived } := by
  refine congrArg (s.setChan c) (DmaChan.wake_of_ne ?_ _)
  show (s.chan c).phase ≠ .waitArrival
  simp [h]

/-- Words into a tile's scratchpad from byte offset a. -/
def State.landSp (s : State) (t a : Nat) (ws : List TWord) : State :=
  s.updTile t fun x => { x with mem := { x.mem with sp := Store.setMany .zero x.mem.sp (a / 4) ws } }

/-- Words into the scratchpad leave the rest of a tile whose channel is not at reset. -/
theorem State.tile_landSp {s : State} {t : Nat} (h : (s.tile t).dma ≠ .reset) (a : Nat) (ws : List TWord) :
    (s.landSp t a ws).tile t = { s.tile t with mem := { (s.tile t).mem with sp := Store.setMany .zero (s.tile t).mem.sp (a / 4) ws } } :=
  s.tile_setTile t (Tile.ne_reset_of_dma (x := { s.tile t with mem := _ }) h)

theorem State.chan_landSp {s : State} {t : Nat} (ht : t < 156) (h : (s.tile t).dma ≠ .reset) (a : Nat) (ws : List TWord) :
    (s.landSp t a ws).chan t = s.chan t := by
  rw [State.chan_tile _ ht, State.chan_tile _ ht, State.tile_landSp h]

/-- A channel past the landing of request i: the request has left the list and its lines are counted (R209). -/
def DmaChan.afterWrite (x : DmaChan) (i : Nat) (r : LineReq) (lines : Nat) : DmaChan :=
  { x with reqs := (setAt x.reqs i { r with arrived := true }).filter fun q => !q.arrived, wrLines := wrap64 x.wrLines lines }

/-- A write to the scratchpad of a tile whose channel runs lands, its lines are counted, and its request ends. -/
theorem State.serveWrite_scratchpad {s : State} {c i : Nat} {r : LineReq} {ws : List TWord} (hr : (s.chan c).reqs[i]? = some r)
    (hmay : mayWrite (s.chan c).reqs i = true) (hdata : r.data = some ws) (hxform : r.dst.xform = 0) (hdst : r.dst.space = .localSp) (hov : r.ov = none)
    (hc : c < 156) (hrun : (s.chan c).phase = .running) (f : Fetch) :
    s.serveWrite c i f = (s.landSp c r.dst.addr ws).setChan c ((s.chan c).afterWrite i r (linesOf r.dst.addr (4 * ws.length))) := by
  have hwords : overlapWords r ws = ws := by simp only [overlapWords, hov]
  have hwrite : s.writePlace c r.dst ws f = some (s.landSp c r.dst.addr ws, .done) := by
    simp only [State.writePlace, hdst, isSys_tile hc]
    rfl
  have hchan : (s.landSp c r.dst.addr ws).chan c = s.chan c := State.chan_landSp hc (DmaChan.ne_reset_of_phase (by simp [← s.chan_tile hc, hrun])) _ _
  have hcounted : { s.chan c with wrLines := wrap64 (s.chan c).wrLines (linesOf r.dst.addr (4 * ws.length)) } ≠ DmaChan.reset :=
    DmaChan.ne_reset_of_phase (by simp [hrun])
  have hread := (s.landSp c r.dst.addr ws).chan_setChan c hcounted
  calc s.serveWrite c i f
      = ((s.landSp c r.dst.addr ws).setChan c
          { s.chan c with wrLines := wrap64 (s.chan c).wrLines (linesOf r.dst.addr (4 * ws.length)) }).endReq c i r := by
        simp [State.serveWrite, hr, hdata, hmay, hxform, hwords, hwrite, hchan]
    _ = (s.landSp c r.dst.addr ws).setChan c ((s.chan c).afterWrite i r (linesOf r.dst.addr (4 * ws.length))) := by
        rw [State.endReq_running ((congrArg DmaChan.phase hread).trans hrun), hread, State.setChan_setChan _ _ hcounted]
        rfl

/-! ### The end of a program, and commands to system channels -/

/-- A system program at its END completes once all its requests have arrived (R209). -/
theorem exec_dmaProgramComplete_sys {c : Fin 204} {n : Nat} {s : State} {st : Status} (hc : c.val = 156 + n) (hending : (s.sysChan n).chan.ending = some st)
    (hphase : (s.sysChan n).chan.phase = .draining) (harrived : allArrived (s.sysChan n).chan.reqs 0 = true) :
    exec (.dmaProgramComplete c) s =
      .next (s.setSys n { s.sysChan n with chan := { (s.sysChan n).chan with phase := .idle, ending := none, lastStatus := st } }) := by
  show execDmaProgramComplete c s = _
  simp only [execDmaProgramComplete, s.chan_sys hc, hending]
  simp [hphase, isSys_sys hc, s.chanRec_sys hc, harrived, s.setChan_sys hc]

/-- A START takes an idle channel; a partition's channel samples its step number (R199, R203). -/
theorem exec_start_idle {s : State} {n : Fin 48} (hup : s.clusterUp = true) (hidle : (s.sysChan n).chan.phase = .idle) (pc : Fin 4096) :
    exec (.start n pc) s = .next (s.setSys n { s.sysChan n with
      chan := (s.sysChan n).chan.start 0 pc (if (s.sysChan n).fw then 0 else (s.job (s.sysChan n).part).step.stepNum) }) := by
  show execStart n pc s = _
  simp [execStart, hup, hidle]

/-- A stop halts a running program, which ends CANCELLED (R215). -/
theorem DmaChan.stop_running {x : DmaChan} (h : x.phase = .running) : x.stop = { x with phase := .halted, ending := some .cancelled } := by
  simp [DmaChan.stop, h]

theorem exec_stop {s : State} (hup : s.clusterUp = true) (n : Fin 48) :
    exec (.stop n) s = .next (s.setSys n { s.sysChan n with chan := (s.sysChan n).chan.stop }) := by
  show execStop n s = _
  simp [execStop, hup, State.updSys]

/-- A write of DMA_SYS_BIND with FW binds an idle channel to the firmware context, which has no key slots (Table 8.13). -/
theorem exec_dmaSysBindWrite_firmware {s : State} {n : Fin 48} (hup : s.clusterUp = true) (hidle : (s.sysChan n).chan.phase = .idle) {v : DWord}
    (hfw : bit v.toNat 4 = true) : exec (.dmaSysBindWrite n v) s = .next (s.setSys n { s.sysChan n with
      refused := w1c (s.sysChan n).refused v.toNat 5, fw := true, part := bits v.toNat 0 4, keys := [] }) := by
  show execDmaSysBindWrite n v s = _
  simp [execDmaSysBindWrite, hup, hidle, hfw]

/-- A write of DMA_SYS_BIND to a channel that is not idle is refused (Table 8.13). -/
theorem exec_dmaSysBindWrite_refused {s : State} {n : Fin 48} (hup : s.clusterUp = true) (hbusy : (s.sysChan n).chan.phase ≠ .idle) (v : DWord) :
    exec (.dmaSysBindWrite n v) s = .next (s.setSys n { s.sysChan n with refused := true }) := by
  show execDmaSysBindWrite n v s = _
  simp [execDmaSysBindWrite, hup, hbusy]

end Sys2Proof.Machine
end

section
/-! The statements on DMA programs, line requests and system channels. -/

namespace Sys2Proof.Machine

/-- Settles O11: a MOVE by the state its issue leaves, a line request by what its return, landing or re-issue writes to its channel. -/
theorem dmaMovesAndLineRequests : Obligations.DmaMovesAndLineRequests := by
  refine ⟨?move, fun c s i r f hr => ⟨?read, ?write, ?error, ?retry⟩⟩
  case move =>
    intro c s i sd dd ss ds hat hsrc hdst hsd hdd hss hds hclean x a b hst hstageS hstageD
    have hchan := s.draw.2.chan_setChan c ((s.chan c).afterMove_ne_reset
      (moveRequests x (s.chanRec c) (sd.side x ss) (dd.side x ds) i.len s.draws)
      (linesOf a.toNat i.len) i.bar)
    exact ⟨_, (exec_move hat).trans (congrArg _ (State.doMove_passes hsrc hdst hsd hdd hss hds hclean hst hstageS hstageD)),
      congrArg DmaChan.reqs hchan, (congrArg DmaChan.pc hchan :), (congrArg DmaChan.loops hchan :), congrArg DmaChan.phase hchan, congrArg DmaChan.rdLines hchan,
      State.setChan_hbm _ _ _⟩
  case read =>
    intro hmay hxform hsrc hsp hstash
    exact exec_dmaReadReturn_local hr hmay hxform hsrc hsp hstash f
  case write =>
    intro ws hmay hdata hxform hdst hov hc hrun
    have hdma : (s.tile c).dma ≠ .reset := DmaChan.ne_reset_of_phase (by simp [← s.chan_tile hc, hrun])
    have hafter : (s.chan c).afterWrite i r (linesOf r.dst.addr (4 * ws.length)) ≠ .reset := DmaChan.ne_reset_of_phase (by simp [DmaChan.afterWrite, hrun])
    have hmem := ((s.landSp c r.dst.addr ws).mem_setChan hc hafter).trans (congrArg Tile.mem (State.tile_landSp hdma r.dst.addr ws))
    have hchan := (s.landSp c r.dst.addr ws).chan_setChan c hafter
    exact ⟨_, congrArg Host.Outcome.next (State.serveWrite_scratchpad hr hmay hdata hxform hdst hov hc hrun f),
      congrArg TileMem.sp hmem, congrArg DmaChan.wrLines hchan, State.setChan_hbm _ _ _⟩
  case error =>
    intro hagain hleft
    have hwaits := State.busError_retried hr hagain hleft
    exact ⟨congrArg Host.Outcome.next hwaits, congrArg Host.Outcome.next hwaits⟩
  case retry =>
    intro hagain
    obtain ⟨a, hexec⟩ := exec_dmaRetry_again hr hagain
    have hchan := s.chan_setChan c
      (x := { s.chan c with reqs := setAt (s.chan c).reqs i { r with again := false, retries := r.retries + 1 }, retries := wrap64 (s.chan c).retries 1 })
      (DmaChan.ne_reset_of_reqs (setAt_ne_nil hr i _))
    exact ⟨_, hexec, congrArg DmaChan.reqs hchan, congrArg DmaChan.retries hchan⟩

/-- Settles O12: each instruction by what it does where Table 8.8 refuses nothing. -/
theorem dmaControlInstructions : Obligations.DmaControlInstructions := by
  intro c s i x
  refine ⟨?loop, exec_wait_taken, exec_wait_blocked, exec_signal_raised, exec_endProgram⟩
  intro hat hok
  rw [exec_dmaLoop hat hok]
  obtain ⟨hrun, -⟩ := hat
  rw [← hrun]

/-- Settles O13: completion, START, STOP and DMA_SYS_BIND, each by the phase in which it finds its channel. -/
theorem dmaProgramsAndSystemChannels : Obligations.DmaProgramsAndSystemChannels := by
  intro n pc v c s y
  refine ⟨fun st => exec_dmaProgramComplete_sys, ?start, ?stop, fun hup hidle hfw => exec_dmaSysBindWrite_firmware hup hidle hfw,
    fun hup hbusy => exec_dmaSysBindWrite_refused hup hbusy v⟩
  case start =>
    intro hup hidle hfw
    rw [exec_start_idle hup hidle, if_neg (Bool.eq_false_iff.1 hfw)]
    rfl
  case stop =>
    intro hup hrun
    rw [exec_stop hup, DmaChan.stop_running hrun]

end Sys2Proof.Machine
end

section
/-! SUPPORT. Line requests of protected memory (R228 to R233, R240 to R242): what a clean fetch reads, what a refusal leaves, and what a write to a line in order leaves of the memory. -/

namespace Sys2Proof.Machine

/-! ### A clean fetch -/

/-- The words of the number that words make are those words (R7). -/
theorem natWords_wordsNat (ws : List Word) : natWords (wordsNat ws) ws.length = ws := by
  induction ws with
  | nil => rfl
  | cons w ws ih =>
    have hlow : BitVec.ofNat 32 (w.toNat + 2 ^ 32 * wordsNat ws) = w := by
      rw [← BitVec.toNat_inj, BitVec.toNat_ofNat, Nat.add_mul_mod_self_left, Nat.mod_eq_of_lt w.isLt]
    have hhigh : (w.toNat + 2 ^ 32 * wordsNat ws) / 2 ^ 32 = wordsNat ws := by
      have := w.isLt
      omega
    simp only [wordsNat, List.length_cons, natWords, hlow, hhigh, ih]

/-- A fold stays at a value that every step leaves. -/
theorem foldl_fixed {α β : Type} {f : β → α → β} {b : β} (h : ∀ a, f b a = b) (as : List α) : as.foldl f b = b := by
  induction as with
  | nil => rfl
  | cons a as ih => rw [List.foldl_cons, h a, ih]

theorem gfMul_zero (b : Nat) : gfMul 0 b = 0 :=
  foldl_fixed (fun i => by simp [bit_zero]) (List.range 64)

/-- The hash is linear: no flip leaves no difference (R231, R232). -/
theorem gfHash_zero (hkey : Nat) : gfHash hkey 0 0 = 0 := by
  have hfold : (List.range 8).foldl (fun acc i => gfMul acc hkey ^^^ gfMul (bits 0 (64 * i) 64) hkey) 0 = 0 :=
    foldl_fixed (fun i => by simp [bits, gfMul_zero]) _
  simp [gfHash, hfold, gfMul_zero]

theorem judgeTag_clean (hkey : Nat) : judgeTag hkey .clean false = .clean := by
  simp [judgeTag, Fetch.clean, gfHash_zero]

/-- No flip leaves a line's words as they were. -/
theorem natWords_clean {ws : List Word} (h : ws.length = 16) : natWords (wordsNat ws ^^^ Fetch.clean.dataFlip) 16 = ws := by
  simpa [Fetch.clean, h] using natWords_wordsNat ws

/-! ### Refusals (R228, R229) -/

/-- What a refusal counts leaves every line, counter and version (R228). -/
theorem Hbm.countRefusal_keeps (h : Hbm) (o : Origin) (dpa : Nat) (bar4 : Bool) (st : Status) :
    (h.countRefusal o dpa bar4 st).lines = h.lines ∧ (h.countRefusal o dpa bar4 st).ctrs = h.ctrs ∧ (h.countRefusal o dpa bar4 st).versions = h.versions := by
  unfold Hbm.countRefusal
  split
  · exact ⟨rfl, rfl, rfl⟩
  · split
    · exact ⟨rfl, rfl, rfl⟩
    · split <;> exact ⟨rfl, rfl, rfl⟩
  · exact ⟨rfl, rfl, rfl⟩

/-- The state after a refused request: the refusal is counted. -/
def State.refused (s : State) (o : Origin) (dpa : Nat) (bar4 : Bool) (st : Status) : State := { s with hbm := s.hbm.countRefusal o dpa bar4 st }

section
variable {s : State} {o : Origin} {key dpa : Nat} {bar4 : Bool} {st : Status} (hcheck : s.hbm.checkReq s.laneKeys o key dpa bar4 = st) (hst : st ≠ .done)
include hcheck hst

theorem State.hbmRead_refused (f : Fetch) : s.hbmRead o key dpa bar4 f = (s.refused o dpa bar4 st, st, []) := by
  subst hcheck
  have hread : s.hbm.read s.laneKeys o key dpa bar4 f = ⟨s.hbm.countRefusal o dpa bar4 _, _, [], none, false⟩ := if_pos hst
  rw [State.hbmRead, hread]
  rfl

theorem State.hbmWrite_refused (ws : List (Option TWord)) (f : Fetch) : s.hbmWrite o key dpa bar4 ws f = some (s.refused o dpa bar4 st, st) := by
  subst hcheck
  have hwrite : s.hbm.write s.laneKeys o key dpa bar4 ws f = ⟨s.hbm.countRefusal o dpa bar4 _, _, [], none, false⟩ := if_pos hst
  exact (if_pos hst).trans (congrArg (fun r => some (s.afterLane r dpa, r.status)) hwrite)

end

/-! ### Reads and writes of a line in order -/

/-- An early conversion leaves the lines and the losses (R245). -/
theorem Hbm.convertEarly_keeps (h : Hbm) (dpa : Nat) : (h.convertEarly dpa).lines = h.lines ∧ (h.convertEarly dpa).lost = h.lost := by
  unfold Hbm.convertEarly
  dsimp only
  split <;> exact ⟨rfl, rfl⟩

/-- A tag of one enabled word sets P (R231). -/
def anyPoison (ws : List (Option TWord)) : Bool := ws.any fun w => (w.map TWord.poison).getD false

theorem anyPoison_map_some (data : List TWord) : anyPoison (data.map some) = data.any TWord.poison := by
  simp [anyPoison, List.any_map, Function.comp_def]

/-- A merge with every word enabled does not need the old words. -/
theorem mergeWords_full {ws : List (Option TWord)} (hlen : ws.length = 16) (hfull : ws.all Option.isSome = true) (a b : List Word) :
    mergeWords a ws = mergeWords b ws := by
  refine List.map_congr_left fun i hi => ?_
  have hlt : i < ws.length := hlen ▸ List.mem_range.1 hi
  obtain ⟨w, hw⟩ := Option.isSome_iff_exists.1 (List.all_eq_true.1 hfull _ (List.getElem_mem hlt))
  rw [List.getD_eq_getElem?_getD, List.getElem?_eq_getElem hlt, hw, Option.getD_some]

theorem mergeWords_map_some {data : List TWord} (h : data.length = 16) (old : List Word) : mergeWords old (data.map some) = data.map TWord.bits := by
  refine List.ext_getElem (by simp [mergeWords, h]) fun i hi hd => ?_
  have hlt : i < data.length := by simpa using hd
  simp [mergeWords, hlt]

/-- The memory after the enabled words of a write are merged into a line: its page converted first where R245 asks for it, the line under its next counter (R241, R242). -/
def Hbm.merged (h : Hbm) (dpa : Nat) (ws : List (Option TWord)) : Hbm :=
  (h.convertEarly dpa).putLine dpa ⟨mergeWords (h.lineAt dpa).words ws, anyPoison ws⟩

section
variable {h : Hbm} {ks : LaneKeys} {o : Origin} {key dpa pc slot : Nat} {bar4 : Bool} (hcheck : h.checkReq ks o key dpa bar4 = .done)
  (hplace : h.placeOf dpa = some (pc, slot)) (hdead : h.dead.contains pc = false) (hfence : h.fenced pc slot = false)
include hcheck hplace hdead hfence

/-- A clean read of an intact line gives its words (R240, Table 9.7). -/
theorem Hbm.read_intact (hp : (h.lineAt dpa).poison = false) (hlen : (h.lineAt dpa).words.length = 16) :
    h.read ks o key dpa bar4 .clean = ⟨h, .done, (h.lineAt dpa).words.map fun w => ⟨w, false⟩, none, false⟩ := by
  have hmeta : Fetch.clean.metaFail = none := rfl
  have hue : Fetch.clean.ue = false := rfl
  simp [-List.contains_eq_mem, Hbm.read, hcheck, hplace, hdead, hfence, hp, hmeta, hue, judgeTag_clean, natWords_clean hlen]

/-- A clean write to a line of protected memory that its counter lets pass merges its enabled words over those of the line, which it reads unless it is full (R241, R242). -/
theorem Hbm.write_merges {ws : List (Option TWord)} (hneed : h.writeNeed dpa = .go) (hprot : (h.gran (granOf dpa)).state ≠ .staging)
    (hlen : ws.length = 16) (hsome : ws.any Option.isSome = true)
    (hold : ws.all Option.isSome = true ∨ ((h.lineAt dpa).poison = false ∧ (h.lineAt dpa).words.length = 16)) :
    h.write ks o key dpa bar4 ws .clean = ⟨h.merged dpa ws, .done, [], none, false⟩ := by
  have hmeta : Fetch.clean.metaFail = none := rfl
  have hnone : ws.all Option.isNone = false := by
    obtain ⟨w, hw, hs⟩ := List.any_eq_true.1 hsome
    exact List.all_eq_false.2 ⟨w, hw, by simp [Option.isNone_iff_eq_none, Option.isSome_iff_ne_none.1 hs]⟩
  have hmarks : ∀ merged, (h.convertEarly dpa).putLine dpa ⟨merged, ws.any fun w => match w with | some x => x.poison | none => false⟩ =
      (h.convertEarly dpa).putLine dpa ⟨merged, anyPoison ws⟩ := fun merged =>
    congrArg (fun b => (h.convertEarly dpa).putLine dpa ⟨merged, b⟩) (congrArg ws.any (funext fun w => by cases w <;> rfl))
  by_cases hfull : ws.all Option.isSome = true
  · have hmerge := mergeWords_full hlen hfull (h.lineAt dpa).words []
    simp [-List.contains_eq_mem, -List.all_eq_true, Hbm.write, hcheck, hplace, hdead, hfence, hneed, hprot, hmeta, hlen, hnone, hfull, hmerge, Hbm.merged]
    exact hmarks _
  · obtain ⟨hp, hwords⟩ := hold.resolve_left hfull
    simp [-List.contains_eq_mem, -List.all_eq_true, Hbm.write, hcheck, hplace, hdead, hfence, hneed, hprot, hmeta, hlen, hnone, hfull, hp, judgeTag_clean,
      natWords_clean hwords, Hbm.merged]
    exact hmarks _

end

section
variable {h : Hbm} (hwf : Memory.wf h = true) (dpa : Nat) (ws : List (Option TWord))
include hwf

theorem Hbm.lineAt_merged : (h.merged dpa ws).lineAt dpa = ⟨mergeWords (h.lineAt dpa).words ws, anyPoison ws⟩ :=
  Hbm.lineAt_putLine (Hbm.convertEarly_wf hwf dpa) dpa _

/-- Every other line reads as before. -/
theorem Hbm.lineAt_merged_ne {a : Nat} (hne : pageOf a ≠ pageOf dpa ∨ lineOf a ≠ lineOf dpa) : (h.merged dpa ws).lineAt a = h.lineAt a :=
  (Hbm.lineAt_putLine_ne (Hbm.convertEarly_wf hwf dpa) _ hne).trans (Hbm.lineAt_congr (h.convertEarly_keeps dpa).1 (h.convertEarly_keeps dpa).2 a)

end

/-! ### The requests as commands -/

section
variable {s : State} {o : Origin} {key : Fin 2048} {dpa : BitVec 40} (hring : s.ringReady = true)
include hring

theorem exec_hbmRead (f : Fetch) : exec (.hbmRead o key dpa f) s =
    .next ((s.hbmRead o key dpa.toNat o.viaBar f).1.emit [.line (s.hbmRead o key dpa.toNat o.viaBar f).2.1 (s.hbmRead o key dpa.toNat o.viaBar f).2.2]) :=
  if_pos hring

theorem State.lineWrite_served {ws : List (Option TWord)} {f : Fetch} {u : State} {st : Status} (h : s.hbmWrite o key dpa.toNat o.viaBar ws f = some (u, st)) :
    s.lineWrite o key dpa.toNat ws f = u.emit [.line st []] := by
  simp [State.lineWrite, hring, h]

end

/-- A write that its checks and its page's counter let pass goes to its lane at once (R245). -/
theorem State.hbmWrite_goes {s : State} {o : Origin} {key dpa : Nat} {bar4 : Bool} (hcheck : s.hbm.checkReq s.laneKeys o key dpa bar4 = .done)
    (hneed : s.hbm.writeNeed dpa = .go) (ws : List (Option TWord)) (f : Fetch) :
    s.hbmWrite o key dpa bar4 ws f = some (s.afterLane (s.hbm.write s.laneKeys o key dpa bar4 ws f) dpa, (s.hbm.write s.laneKeys o key dpa bar4 ws f).status) := by
  simp [State.hbmWrite, hcheck, hneed]

theorem exec_hbmFullWrite {data : List TWord} (h : data.length = 16) (o : Origin) (key : Fin 2048) (dpa : BitVec 40) (f : Fetch) (s : State) :
    exec (.hbmFullWrite o key dpa data f) s = .next (s.lineWrite o key dpa.toNat (data.map some) f) := if_pos h

theorem exec_hbmPartialWrite {data : List (Option TWord)} (h : data.length = 16) (o : Origin) (key : Fin 2048) (dpa : BitVec 40) (f : Fetch) (s : State) :
    exec (.hbmPartialWrite o key dpa data f) s = .next (s.lineWrite o key dpa.toNat data f) := if_pos h

end Sys2Proof.Machine
end

section
/-! The statements on reads, writes and refusals of protected memory. -/

namespace Sys2Proof.Machine

/-- Settles O15: a clean fetch of an intact line gives its words, and no tree failure follows. -/
theorem hbmReadGivesTheLine : Obligations.HbmReadGivesTheLine := by
  intro o key dpa s pc slot hring hcheck hplace hdead hfence hpoison hlen
  rw [exec_hbmRead hring, State.hbmRead, Hbm.read_intact hcheck hplace hdead hfence hpoison hlen]
  rfl

/-- Settles O16: a refusal is counted, and nothing else of the memory changes. -/
theorem refusedLineRequestsLeaveMemory : Obligations.RefusedLineRequestsLeaveMemory := by
  intro o key dpa data f s st hring hlen hcheck hst
  obtain ⟨hlines, hctrs, hversions⟩ := s.hbm.countRefusal_keeps o dpa.toNat o.viaBar st
  have hread := exec_hbmRead (o := o) (key := key) (dpa := dpa) hring f
  rw [State.hbmRead_refused hcheck hst] at hread
  have hwrite := State.lineWrite_served hring (State.hbmWrite_refused hcheck hst (data.map some) f)
  exact ⟨⟨_, hread, rfl, hlines, hctrs, hversions, rfl⟩, _, (exec_hbmFullWrite hlen o key dpa f s).trans (congrArg _ hwrite), rfl, hlines, hctrs, hversions⟩

/-- Settles O17: a full and a partial write alike merge their enabled words into one line and put it under its next counter. -/
theorem hbmWritesReplaceOneLine : Obligations.HbmWritesReplaceOneLine := by
  intro o key dpa s pc slot hring hwf hcheck hplace hdead hfence hneed hprot others
  have hserved : ∀ ws : List (Option TWord), ws.length = 16 → ws.any Option.isSome = true →
      (ws.all Option.isSome = true ∨ ((s.hbm.lineAt dpa.toNat).poison = false ∧ (s.hbm.lineAt dpa.toNat).words.length = 16)) →
      s.lineWrite o key dpa.toNat ws .clean = State.emit { s with hbm := s.hbm.merged dpa.toNat ws } [.line .done []] := by
    intro ws hlen hsome hold
    have hwrite := State.hbmWrite_goes hcheck hneed ws .clean
    rw [Hbm.write_merges hcheck hplace hdead hfence hneed hprot hlen hsome hold] at hwrite
    exact State.lineWrite_served hring hwrite
  have hothers : ∀ ws, others (State.emit { s with hbm := s.hbm.merged dpa.toNat ws } [.line .done []]) := fun ws _ => Hbm.lineAt_merged_ne hwf dpa.toNat ws
  refine ⟨fun data hlen => ?fullWrite, fun data hlen hsome hpoison hwords => ?partialWrite⟩
  case fullWrite =>
    have hsome : (data.map some).any Option.isSome = true := by cases data <;> simp_all
    have hline := Hbm.lineAt_merged hwf dpa.toNat (data.map some)
    rw [mergeWords_map_some hlen, anyPoison_map_some] at hline
    exact ⟨_, (exec_hbmFullWrite hlen o key dpa .clean s).trans (congrArg _ (hserved _ (by simpa using hlen) hsome (.inl (by simp)))), hline, hothers _, rfl, rfl⟩
  case partialWrite =>
    exact ⟨_, (exec_hbmPartialWrite hlen o key dpa .clean s).trans (congrArg _ (hserved data hlen hsome (.inr ⟨hpoison, hwords⟩))),
      Hbm.lineAt_merged hwf dpa.toNat data, hothers _, rfl⟩

end Sys2Proof.Machine
end

section
/-! SUPPORT. What a stop of jobs leaves (R63, R370, R374): the memory, the failed tiles, and every tile that is FENCED. -/

namespace Sys2Proof.Machine

/-- From s to u the memory and RES_TILE_FAIL stand, and a tile that is FENCED stays so. -/
structure Halts (s u : State) : Prop where
  hbm : u.hbm = s.hbm
  failed : u.res.failed = s.res.failed
  fenced : ∀ t, (s.tile t).stage.state = .fenced → (u.tile t).stage.state = .fenced

theorem Halts.refl (s : State) : Halts s s := ⟨rfl, rfl, fun _ h => h⟩

theorem Halts.trans {s t u : State} (h : Halts s t) (k : Halts t u) : Halts s u :=
  ⟨k.hbm.trans h.hbm, k.failed.trans h.failed, fun t ht => k.fenced t (h.fenced t ht)⟩

theorem Halts.foldl {α : Type} {f : State → α → State} (hf : ∀ a x, Halts a (f a x)) (xs : List α) (s : State) : Halts s (xs.foldl f s) := by
  induction xs generalizing s with
  | nil => exact .refl s
  | cons x xs ih => exact (hf s x).trans (ih _)

/-- An update that leaves the memory, RES_TILE_FAIL and the tiles. -/
theorem Halts.ofTiles {s u : State} (hbm : u.hbm = s.hbm) (failed : u.res.failed = s.res.failed) (tiles : u.tiles = s.tiles) : Halts s u :=
  ⟨hbm, failed, fun t h => (congrArg (fun x : Tile => x.stage.state) (congrArg (fun m => Store.get Tile.reset m t) tiles)).trans h⟩

/-- A FENCED tile is not at reset. -/
theorem Tile.ne_reset_of_fenced {x : Tile} (h : x.stage.state = .fenced) : x ≠ .reset := by
  rintro rfl
  exact absurd h (by decide)

/-- An update of a tile that keeps its stage. -/
theorem State.updTile_halts (s : State) (t : Nat) {f : Tile → Tile} (hf : ∀ x, (f x).stage = x.stage) : Halts s (s.updTile t f) := by
  refine ⟨rfl, rfl, fun j hj => ?_⟩
  by_cases hjt : j = t
  · subst hjt
    have hstage : (f (s.tile j)).stage.state = .fenced := by rw [hf, hj]
    rw [State.updTile_eq, s.tile_setTile j (Tile.ne_reset_of_fenced hstage), hstage]
  · rw [State.updTile_eq, s.tile_setTile_ne _ hjt, hj]

theorem State.updTiles_halts (s : State) (ts : List Nat) {f : Tile → Tile} (hf : ∀ x, (f x).stage = x.stage) : Halts s (s.updTiles ts f) :=
  Halts.foldl (fun a t => a.updTile_halts t hf) ts s

theorem Resil.write_failed (r : Resil) (ready : Bool) (e : FaultEntry) : (r.write ready e).failed = r.failed := by
  unfold Resil.write
  dsimp only
  split <;> split <;> rfl

theorem State.report_halts (s : State) (cls source unit : Nat) (st : Status) (part detail : Nat) : Halts s (s.report cls source unit st part detail) := by
  have hres : (s.report cls source unit st part detail).res.failed = s.res.failed := by
    unfold State.report
    dsimp only
    split <;> exact Resil.write_failed _ _ _
  have hnoted := s.report_noted cls source unit st part detail
  exact .ofTiles hnoted.hbm hres hnoted.tiles

theorem State.complete_halts (s : State) (fn q seq : Nat) (st : Status) (r0 r1 : Nat) : Halts s (s.complete fn q seq st r0 r1) := by
  rw [State.complete_eq]
  exact .ofTiles rfl rfl rfl

/-- The stop of a tile's dispatch keeps its stage (R63). -/
theorem Tile.stopDispatch_stage (x : Tile) : x.stopDispatch.stage = x.stage := by
  unfold Tile.stopDispatch
  dsimp only
  repeat' split
  all_goals rfl

theorem State.flushQueue_halts (s : State) (i : Nat) : Halts s (s.flushQueue i) := by
  have hflushed : ∀ q, Halts s { s with streams := q } := fun q => .ofTiles rfl rfl rfl
  unfold State.flushQueue
  dsimp only
  split
  · refine (hflushed _).trans (State.updTile_halts _ _ ?_)
    intro x
    split
    · split <;> rfl
    · rfl
  · split <;> exact .ofTiles rfl rfl rfl

theorem State.stopRun_halts (s : State) (p : Nat) (st : Status) : Halts s (s.stopRun p st) := by
  unfold State.stopRun
  dsimp only
  split
  · exact .refl s
  · split
    · exact .refl s
    · refine Halts.trans ?_ (Halts.foldl State.flushQueue_halts _ _)
      have hmarked : ∀ j, Halts s (s.setJob p j) := fun j => .ofTiles rfl rfl rfl
      exact (hmarked _).trans (Halts.trans (State.updTiles_halts _ _ Tile.stopDispatch_stage) (.ofTiles rfl rfl rfl))

theorem State.cancelFill_halts (s : State) (p : Nat) : Halts s (s.cancelFill p) := by
  unfold State.cancelFill
  split
  · exact .refl s
  · have hport : ∀ (a : State) k f, Halts a (a.updPort k f) := fun a k f => .ofTiles rfl rfl rfl
    have hsnap : ∀ (a : State) f, Halts a (a.updSnap p f) := fun a f => .ofTiles rfl rfl rfl
    exact ((Halts.foldl (fun a k => hport a k _) _ s).trans (hsnap _ _)).trans (State.complete_halts _ _ _ _ _ _ _)

theorem State.jobFault_halts (s : State) (cls source unit : Nat) (st : Status) (p detail : Nat) : Halts s (s.jobFault cls source unit st p detail) :=
  ((s.report_halts _ _ _ _ _ _).trans (State.stopRun_halts _ _ _)).trans (State.cancelFill_halts _ _)

theorem State.stopAll_halts (s : State) (st : Status) : Halts s (s.stopAll st) :=
  Halts.foldl (fun a p => (a.stopRun_halts p st).trans (State.cancelFill_halts _ _)) _ s

end Sys2Proof.Machine
end

section
/-! SUPPORT. Key commands, Weevil's passes, retirements and the scrubber (R246 to R258): what each leaves of the memory's state. -/

namespace Sys2Proof.Machine

/-! ### Key commands (Table 9.13) -/

/-- A partition's register reads as what was written to it, when that is not its reset value. -/
theorem Hbm.part_updPart (h : Hbm) (p : Nat) {f : MprPart → MprPart} (hf : f (h.part p) ≠ .reset) : (h.updPart p f).part p = f (h.part p) :=
  Store.get_set_same _ _ hf

/-- A command of the control cluster acts once phase 3 is complete. -/
theorem State.mprCmd_up {s : State} (hup : s.clusterUp = true) (hring : s.ringReady = true) (f : Hbm → Hbm) : s.mprCmd f = { s with hbm := f s.hbm } := by
  simp [State.mprCmd, hup, hring]

theorem Hbm.loadNext_waiting (h : Hbm) (p slot : Nat) : (h.loadNext p slot).waiting = h.waiting := by
  unfold Hbm.loadNext
  split <;> rfl

/-- A re-key of a partition with an epoch left waits with its slot. -/
theorem Hbm.rekey_waits {h : Hbm} {p : Nat} (hepoch : (h.part p).epoch ≠ 255) (slot : Nat) :
    (h.rekey p slot).waiting = h.waiting ++ [⟨.rekey, p, 0, slot, 0⟩] ∧ (h.rekey p slot).lastStatus = .done := by
  rw [Hbm.rekey, if_neg hepoch]
  exact ⟨congrArg (· ++ _) (h.loadNext_waiting p slot), rfl⟩

/-- At EPOCH 255 the partition is EXHAUSTED instead (R246). -/
theorem Hbm.rekey_exhausted {h : Hbm} {p : Nat} (hepoch : (h.part p).epoch = 255) (slot : Nat) :
    (h.rekey p slot).waiting = h.waiting ∧ ((h.rekey p slot).part p).exhausted = true ∧ (h.rekey p slot).lastStatus = .counterExhausted := by
  have hmarked : { h.part p with exhausted := true } ≠ MprPart.reset := fun e => Bool.noConfusion (congrArg MprPart.exhausted e)
  rw [Hbm.rekey, if_pos hepoch]
  exact ⟨rfl, congrArg MprPart.exhausted (h.part_updPart p (f := fun m => { m with exhausted := true }) hmarked), rfl⟩

theorem Hbm.sessionRekey_waits (h : Hbm) (p slot : Nat) : (h.sessionRekey p slot).waiting = h.waiting ++ [⟨.sessionRekey, p, 0, slot, 0⟩] :=
  congrArg (· ++ _) (h.loadNext_waiting p slot)

/-- A revoked partition has no valid key (R250). -/
theorem Hbm.part_revoke (h : Hbm) (p : Nat) :
    (h.revoke p).part p = { h.part p with curValid := false, nextValid := false, revoked := true, early := [], refused := 0 } :=
  Store.get_set_same _ _ fun e => Bool.noConfusion (congrArg MprPart.revoked e)

/-! ### The start of a pass (R247) -/

/-- The pass first in line takes a free context when it may start. -/
theorem Hbm.startPass_first {h : Hbm} {i : Nat} {x : Pass} {rest : List Pass} (hwait : h.waiting = x :: rest) (hmay : h.mayStart x = true)
    (hctx : h.freeCtx = some i) : ∃ k, h.startPass = some k ∧ k.waiting = rest ∧ Store.get none k.passes i = some x := by
  have htake : h.takeWaiting [] h.waiting = some (x, rest) := by simp [hwait, Hbm.takeWaiting, hmay]
  have hget : Store.get none (Store.set none h.passes i (some x)) i = some x := Store.get_set_same _ _ (Option.some_ne_none x)
  simp only [Hbm.startPass, hctx, htake, Option.bind_eq_bind, Option.bind_some]
  cases x.kind <;> exact ⟨_, rfl, rfl, hget⟩

/-! ### The end of a FILL and of a WIPE (R249, R250) -/

/-- A granule that has been gone over reads zero throughout (R247). -/
theorem Hbm.lineAt_zeroGran (h : Hbm) {a g : Nat} (ha : granOf a = g) : (h.zeroGran g).lineAt a = .zero := by
  have hlow : g * 2 ^ 18 ≤ pageOf a := by
    simp only [← ha, granOf, pageOf, bits, Nat.shiftRight_eq_div_pow]
    omega
  have hhigh : pageOf a < g * 2 ^ 18 + 2 ^ 18 := by
    simp only [← ha, granOf, pageOf, bits, Nat.shiftRight_eq_div_pow]
    omega
  have hpage : Store.get [] (h.zeroGran g).lines (pageOf a) = [] := Store.get_clear_in _ hlow hhigh
  have hlost : (h.zeroGran g).lost.contains ((decodeDpa a).pc, granOf a) = false := by simp [Hbm.zeroGran, ha]
  unfold Hbm.lineAt
  rw [hpage]
  exact if_neg (Bool.eq_false_iff.1 hlost)

theorem Hbm.gran_setGran (h : Hbm) {g : Nat} (hg : g < 1013) {x : Gran} (hx : x ≠ .free) : (h.setGran g x).gran g = x := by
  rw [Hbm.gran, if_neg (Nat.not_le.2 hg)]
  exact Store.get_set_same _ _ hx

section
variable {h : Hbm} {g i : Nat} {x : Pass}

theorem Hbm.fillEnd_found (hfind : h.findPass (fun x => decide (x.kind = .fill) && decide (x.index = g)) = some (i, x)) :
    h.fillEnd g = some (((h.endPass i).zeroGran g).setGran g (if (h.gran g).next = .free then .free else ⟨(h.gran g).next, (h.gran g).owner, (h.gran g).next⟩)) := by
  simp [Hbm.fillEnd, hfind]

/-- The end of a WIPE of a granule whose owner is not revoked. -/
theorem Hbm.wipeEnd_found (hfind : h.findPass (fun x => decide (x.kind = .wipe) && decide (x.index = g)) = some (i, x))
    (hrevoked : (h.part (h.gran g).owner).revoked = false) : h.wipeEnd g = some (((h.endPass i).zeroGran g).setGran g .free) := by
  have hpart : ((((h.endPass i).zeroGran g).setGran g .free).part (h.gran g).owner).revoked = false := hrevoked
  simp [Hbm.wipeEnd, hfind, hpart]

end

theorem State.tryArm_hbm (s : State) (p : Nat) : (s.tryArm p).hbm = s.hbm := by
  unfold State.tryArm
  dsimp only
  split <;> rfl

/-! ### The end of a re-key and of a MIGRATE (R248, R258) -/

/-- The register of a partition after its re-key pass: NEXT_SLOT is in use, and EPOCH has risen. -/
def MprPart.rekeyed (m : MprPart) : MprPart :=
  { m with curSlot := m.nextSlot, curValid := true, nextValid := false, early := [], epoch := m.epoch + 1 }

theorem Hbm.rekeyEnd_found {h : Hbm} {p i : Nat} {x : Pass}
    (hfind : h.findPass (fun x => decide (x.part = p) && decide (x.kind = .rekey ∨ x.kind = .sessionRekey)) = some (i, x)) (hkind : x.kind = .rekey) :
    ∃ k, h.rekeyEnd p = some (k, (h.part p).curSlot, false) ∧ k.part p = (h.part p).rekeyed := by
  have hvalid : (h.part p).rekeyed ≠ .reset := fun e => Bool.noConfusion (congrArg MprPart.curValid e)
  simp only [Hbm.rekeyEnd, hfind, hkind, Option.bind_eq_bind, Option.bind_some]
  exact ⟨_, rfl, Store.get_set_same _ _ hvalid⟩

theorem Hbm.migrateEnd_found {h : Hbm} {c i : Nat} {x : Pass} {e : Nat × Nat}
    (hfind : h.findPass (fun x => decide (x.kind = .migrate) && decide (x.index = c)) = some (i, x))
    (he : h.retiring.find? (fun e => decide (e.1 = c)) = some e) :
    h.migrateEnd c [] = some { h.endPass i with retired := h.retired ++ [e], retiring := h.retiring.filter fun x => decide (x.1 ≠ c) } := by
  simp [Hbm.migrateEnd, hfind, he]

/-! ### Retirements (R255, R258) -/

theorem Hbm.retireInto_errors (h : Hbm) (c w : Nat) (dead : Bool) : (h.retireInto c w dead).ce = h.ce ∧ (h.retireInto c w dead).ue = h.ue := by
  cases dead <;> exact ⟨rfl, rfl⟩

/-- A retirement leaves the counts of errors. -/
theorem Hbm.retire_errors (h : Hbm) (c : Nat) (dead : Bool) : (h.retire c dead).1.ce = h.ce ∧ (h.retire c dead).1.ue = h.ue := by
  have hsame : (if dead && !h.dead.contains c then { h with dead := c :: h.dead } else h).ce = h.ce ∧
      (if dead && !h.dead.contains c then { h with dead := c :: h.dead } else h).ue = h.ue := by
    split <;> exact ⟨rfl, rfl⟩
  unfold Hbm.retire
  dsimp only
  generalize (if dead && !h.dead.contains c then { h with dead := c :: h.dead } else h) = k at hsame ⊢
  split
  · exact hsame
  · split
    · exact hsame
    · split
      · exact ⟨(k.retireInto_errors c _ dead).1.trans hsame.1, (k.retireInto_errors c _ dead).2.trans hsame.2⟩
      · exact hsame

/-- Whether or not the limits refuse it, a retirement leaves the memory as the protection's command does. -/
theorem State.retirePc_hbm (s : State) (c : Nat) (dead : Bool) : (s.retirePc c dead).hbm = (s.hbm.retire c dead).1 := by
  unfold State.retirePc
  dsimp only
  split
  · exact ((State.report_halts _ _ _ _ _ _ _).trans (State.stopAll_halts _ _)).hbm
  · rfl

theorem State.scrubLimit_errors (s : State) (c : Nat) : (s.scrubLimit c).hbm.ce = s.hbm.ce ∧ (s.scrubLimit c).hbm.ue = s.hbm.ue := by
  unfold State.scrubLimit
  dsimp only
  split
  · rw [State.retirePc_hbm]
    exact s.hbm.retire_errors c false
  · exact ⟨rfl, rfl⟩

/-- The granule that a retirement takes depends on the granules alone. -/
theorem Hbm.retireGran_congr {h k : Hbm} (hg : k.grans = h.grans) : k.retireGran = h.retireGran := by
  have hgran : k.gran = h.gran := by
    funext g
    rw [Hbm.gran, Hbm.gran, hg]
  unfold Hbm.retireGran Hbm.gransIn
  rw [hgran]

/-- A pseudo-channel that stops responding is retired at once, into the granule that is FREE now (R258). -/
theorem Hbm.retire_dead {h : Hbm} {c w : Nat} (hnew : h.isRetired c = false) (hcount : h.retiredCount < 32) (hstack : h.stackRetired (c % 16) < 8)
    (hgran : h.retireGran = some w) : (h.retire c true).1.retired = h.retired ++ [(c, w)] ∧ (h.retire c true).1.dead.contains c = false := by
  obtain ⟨ds, hds⟩ : ∃ ds, (if true && !h.dead.contains c then { h with dead := c :: h.dead } else h) = { h with dead := ds } := by
    split
    · exact ⟨_, rfl⟩
    · exact ⟨h.dead, rfl⟩
  have hnew' : ({ h with dead := ds } : Hbm).isRetired c = false := hnew
  have hcount' : ({ h with dead := ds } : Hbm).retiredCount = h.retiredCount := rfl
  have hstack' : ({ h with dead := ds } : Hbm).stackRetired (c % 16) = h.stackRetired (c % 16) := rfl
  have hlimits : ¬ (32 ≤ ({ h with dead := ds } : Hbm).retiredCount ∨ 8 ≤ ({ h with dead := ds } : Hbm).stackRetired (c % 16)) := by omega
  have hgran' : ({ h with dead := ds } : Hbm).retireGran = some w := by
    rw [Hbm.retireGran_congr (h := h) (k := { h with dead := ds }) rfl, hgran]
  have hretire : h.retire c true = ({ ({ h with dead := ds } : Hbm).retireInto c w true with lastStatus := .done }, false) := by
    rw [Hbm.retire, hds]
    simp only [hnew', if_neg hlimits, hgran', Bool.false_eq_true, if_false]
  rw [hretire]
  refine ⟨rfl, ?_⟩
  show (ds.filter fun x => decide (x ≠ c)).contains c = false
  simp

/-- A held retirement takes the granule that is FREE now (R255). -/
theorem Hbm.resume_held {h : Hbm} {c w : Nat} {dead : Bool} {rest : List (Nat × Bool)} (hheld : h.held = (c, dead) :: rest) (hgran : h.retireGran = some w) :
    h.resume = some ({ h with held := rest }.retireInto c w dead) := by
  simp [Hbm.resume, hheld, hgran]

/-! ### The scrubber (R252, R253) -/

/-- The memory at the scrubber's visit to a line: at the first line of a pseudo-channel a new period begins. -/
def Hbm.visited (h : Hbm) (c slot line : Nat) : Hbm :=
  if slot = 0 ∧ line = 0 then { h with pcCe := Store.set 0 h.pcCe c 0, pcUe := Store.set 0 h.pcUe c 0 } else h

/-- A new period leaves the module's counts of errors. -/
theorem Hbm.visited_errors (h : Hbm) (c slot line : Nat) : (h.visited c slot line).ce = h.ce ∧ (h.visited c slot line).ue = h.ue := by
  unfold Hbm.visited
  split <;> exact ⟨rfl, rfl⟩

/-- A corrected line counts in CE, of the module and of its pseudo-channel; the limits of R253 then apply. -/
theorem exec_scrubLine_corrected {s : State} {dpa : BitVec 40} {c slot : Nat} (hring : s.ringReady = true)
    (hplace : s.hbm.placeOf (dpa.toNat / 64 * 64) = some (c, slot)) : let h1 := s.hbm.visited c slot (decodeDpa (dpa.toNat / 64 * 64)).line
    exec (.scrubLine dpa .corrected) s = .next ((({ s with hbm := { h1 with ce := satAdd 32 h1.ce 1, pcCe := Store.upd 0 h1.pcCe c (· + 1) } } : State).report
      clsCorrected srcMpr c .done noPart (dpa.toNat / 64 * 64)).scrubLimit c) := by
  show execScrubLine dpa .corrected s = _
  simp [execScrubLine, hring, hplace, Hbm.visited]

/-! ### The passes as commands -/

section
variable {s : State} {g : Fin 1024} {p : Fin 16} {h : Hbm}

/-- The end of a FILL changes the memory, the labels, and the session that may now be armed. -/
theorem exec_fillPassEnd (hend : s.hbm.fillEnd g = some h) : Answers (exec (.fillPassEnd g) s) fun u => u.hbm = { h with lastStatus := .done } := by
  have hexec : exec (.fillPassEnd g) s = .next (State.tryArm
      { s with hbm := { h with lastStatus := .done }, pageLabels := Store.clear s.pageLabels (512 * g.val) 512 } (s.hbm.gran g).owner) := by
    show execFillPassEnd g s = _
    simp only [execFillPassEnd, hend]
  exact ⟨_, hexec, State.tryArm_hbm _ _⟩

/-- The end of a WIPE that does not end a removal. -/
theorem exec_wipePassEnd (hend : s.hbm.wipeEnd g = some h) (hgone : (h.part (s.hbm.gran g).owner).gone = (s.hbm.part (s.hbm.gran g).owner).gone) :
    exec (.wipePassEnd g) s = .next { s with hbm := { h with lastStatus := .done }, pageLabels := Store.clear s.pageLabels (512 * g.val) 512 } := by
  show execWipePassEnd g s = _
  simp [execWipePassEnd, hend, hgone]

theorem exec_rekeyPassEnd {old : Nat} (hend : s.hbm.rekeyEnd p = some (h, old, false)) :
    Answers (exec (.rekeyPassEnd p) s) fun u => u.hbm = { h with lastStatus := .done } := by
  have hexec : exec (.rekeyPassEnd p) s =
      .next ((({ s with hbm := { h with lastStatus := .done } } : State).dropSlot p old).updPart p fun x => { x with memSlot := (h.part p).curSlot }) := by
    show execRekeyPassEnd p s = _
    simp only [execRekeyPassEnd, hend, Bool.false_eq_true, if_false]
  exact ⟨_, hexec, rfl⟩

theorem exec_migratePassEnd {pc : Fin 1024} {lines : List Nat} (hend : s.hbm.migrateEnd pc lines = some h) :
    Answers (exec (.migratePassEnd pc lines) s) fun u => u.hbm = { h with lastStatus := .done } := by
  have hexec : exec (.migratePassEnd pc lines) s =
      .next (State.report { s with hbm := { h with lastStatus := .done } } clsDegraded srcMpr pc .done noPart 0) := by
    show execMigratePassEnd pc lines s = _
    simp only [execMigratePassEnd, hend]
  exact ⟨_, hexec, (State.report_noted _ _ _ _ _ _ _).hbm⟩

end

/-- PC_UNRESPONSIVE: what it reports, and the jobs that stop, leave the memory as its retirement does (R258). -/
theorem exec_pcUnresponsive {s : State} {pc : Fin 1024} (hring : s.ringReady = true) (hnew : s.hbm.isRetired pc = false) :
    Answers (exec (.pcUnresponsive pc) s) fun u => u.hbm = (s.hbm.retire pc true).1 := by
  have hplaced : s.hbm.retired.any (fun e => decide (e.1 = pc.val)) = false := by
    unfold Hbm.isRetired at hnew
    rw [List.any_append, Bool.or_eq_false_iff, Bool.or_eq_false_iff] at hnew
    exact hnew.1.1
  refine ⟨_, if_pos (by rw [hring, hplaced]; rfl), ?_⟩
  rw [← s.retirePc_hbm pc true]
  dsimp only
  split
  · exact (State.report_halts _ _ _ _ _ _ _).hbm
  · exact (Halts.foldl (fun a p => a.jobFault_halts _ _ _ _ _ _) _ _).hbm

end Sys2Proof.Machine
end

section
/-! The statements on key commands, passes, retirements and the scrubber. -/

namespace Sys2Proof.Machine

/-- Settles O19: each command by the register and the list of waiting passes it leaves. -/
theorem partitionKeyCommands : Obligations.PartitionKeyCommands := by
  intro p slot s hup hring
  have hcmd : ∀ f, (.next (s.mprCmd f) : Result) = .next { s with hbm := f s.hbm } := fun f => congrArg _ (State.mprCmd_up hup hring f)
  have hrevoked := s.hbm.part_revoke p
  exact ⟨fun hepoch => ⟨_, hcmd _, Hbm.rekey_waits (Nat.ne_of_lt hepoch) slot⟩, fun hepoch => ⟨_, hcmd _, Hbm.rekey_exhausted hepoch slot⟩,
    ⟨_, hcmd _, s.hbm.sessionRekey_waits p slot, rfl⟩,
    _, hcmd _, congrArg MprPart.revoked hrevoked, congrArg MprPart.curValid hrevoked, congrArg MprPart.nextValid hrevoked, rfl, rfl⟩

/-- Settles O20: each pass by what its end writes, each retirement by where it stands afterwards. -/
theorem passesAndRetirementsEnd : Obligations.PassesAndRetirementsEnd := by
  refine ⟨fun s i x g p pc => ⟨?start, ?fill, ?wipe, ?rekey, ?migrate⟩, fun dpa pc w s hring => ⟨?scrub, ?held, ?lost⟩⟩
  case start =>
    intro rest hwait hmay hctx
    obtain ⟨k, hstart, hrest, hpass⟩ := Hbm.startPass_first hwait hmay hctx
    have hexec : exec .weevilPassStart s = .next { s with hbm := k } := by
      show execWeevilPassStart s = _
      simp only [execWeevilPassStart, hstart]
    exact ⟨_, hexec, hrest, hpass⟩
  case fill =>
    intro hfind hnext hg
    obtain ⟨u, hexec, hu⟩ := exec_fillPassEnd (Hbm.fillEnd_found hfind)
    refine ⟨u, hexec, ?_, fun a ha => ?_⟩
    · rw [hu, hnext]
      exact Hbm.gran_setGran _ hg (x := ⟨.prot, (s.hbm.gran g).owner, .prot⟩) fun e => GranState.noConfusion (congrArg Gran.state e)
    · rw [hu]
      exact (s.hbm.endPass i).lineAt_zeroGran ha
  case wipe =>
    intro hfind hrevoked
    exact ⟨_, exec_wipePassEnd (Hbm.wipeEnd_found hfind hrevoked) rfl, rfl, fun a ha => (s.hbm.endPass i).lineAt_zeroGran ha⟩
  case rekey =>
    intro hfind hkind
    obtain ⟨k, hend, hpart⟩ := Hbm.rekeyEnd_found hfind hkind
    obtain ⟨u, hexec, hu⟩ := exec_rekeyPassEnd hend
    have hread : u.hbm.part p = (s.hbm.part p).rekeyed := (congrArg (fun h : Hbm => h.part p) hu).trans hpart
    exact ⟨u, hexec, congrArg MprPart.curSlot hread, congrArg MprPart.curValid hread, congrArg MprPart.nextValid hread, congrArg MprPart.epoch hread⟩
  case migrate =>
    intro e hfind he
    obtain ⟨u, hexec, hu⟩ := exec_migratePassEnd (Hbm.migrateEnd_found hfind he)
    exact ⟨u, hexec, by rw [hu], by rw [hu]; rfl⟩
  case scrub =>
    intro c slot hplace
    obtain ⟨hce, hue⟩ := s.hbm.visited_errors c slot (decodeDpa (dpa.toNat / 64 * 64)).line
    refine ⟨_, exec_scrubLine_corrected hring hplace, ?_, ?_⟩
    · rw [(State.scrubLimit_errors _ _).1, (State.report_noted _ _ _ _ _ _ _).hbm, hce]
    · rw [(State.scrubLimit_errors _ _).2, (State.report_noted _ _ _ _ _ _ _).hbm]
      exact hue
  case held =>
    intro c rest hheld hgran
    have hexec : exec .retirementResume s = .next { s with hbm := ({ s.hbm with held := rest } : Hbm).retireInto c w false } := by
      show execRetirementResume s = _
      simp only [execRetirementResume, Hbm.resume_held hheld hgran]
    exact ⟨_, hexec, rfl, rfl⟩
  case lost =>
    intro hnew hcount hstack hgran
    obtain ⟨u, hexec, hu⟩ := exec_pcUnresponsive hring hnew
    obtain ⟨hretired, hdead⟩ := Hbm.retire_dead hnew hcount hstack hgran
    exact ⟨u, hexec, by rw [hu, hretired], by rw [hu, hdead]⟩

end Sys2Proof.Machine
end

section
/-! SUPPORT. Failed tiles and online maintenance (R373 to R375): what the failure of a tile, its replacement and a MAINT command leave. -/

namespace Sys2Proof.Machine

/-! ### A tile that fails (R374) -/

/-- A tile that fails is FENCED. -/
theorem State.failTile_fenced (s : State) (t : Nat) : ((s.failTile t).tile t).stage.state = .fenced := by
  have hfenced : { s.tile t with stage := { (s.tile t).stage with state := .fenced } } ≠ Tile.reset := Tile.ne_reset_of_fenced rfl
  exact congrArg (fun x : Tile => x.stage.state) (s.tile_setTile t hfenced)

theorem State.failTile_failed (s : State) (t : Nat) : (s.failTile t).res.failed = setBits s.res.failed t 1 1 := rfl

/-- Whatever a failed tile served, it is reported, and at most the jobs stop. -/
theorem State.tileError_halts (s : State) (t : Nat) : Halts (s.failTile t) (s.tileError t) := by
  unfold State.tileError
  dsimp only
  split
  · split
    · exact State.jobFault_halts _ _ _ _ _ _ _
    · exact State.report_halts _ _ _ _ _ _ _
  · exact State.report_halts _ _ _ _ _ _ _

theorem exec_tileUncorrectableError {s : State} {t : Fin 156} (hready : s.ready = true) (hgood : bit s.res.failed t = false) :
    exec (.tileUncorrectableError t) s = .next (s.tileError t) :=
  if_pos (by rw [hready, hgood]; rfl)

/-! ### Loading a tile reads memory under no tree failure -/

/-- From s to u the tile maps and the jobs stand. -/
structure Loads (s u : State) : Prop where
  res : u.res = s.res
  jobs : u.jobs = s.jobs

theorem Loads.refl (s : State) : Loads s s := ⟨rfl, rfl⟩

theorem Loads.trans {s t u : State} (h : Loads s t) (k : Loads t u) : Loads s u := ⟨k.res.trans h.res, k.jobs.trans h.jobs⟩

theorem Loads.job {s u : State} (h : Loads s u) (p : Nat) : u.job p = s.job p := congrArg (fun m => Store.get Job.reset m p) h.jobs

theorem Loads.foldl {α : Type} {f : State → α → State} (hf : ∀ a x, Loads a (f a x)) (xs : List α) (s : State) : Loads s (xs.foldl f s) := by
  induction xs generalizing s with
  | nil => exact .refl s
  | cons x xs ih => exact (hf s x).trans (ih _)

/-- A clean fetch meets no tree failure. -/
theorem Hbm.read_clean_tree (h : Hbm) (ks : LaneKeys) (o : Origin) (key dpa : Nat) (bar4 : Bool) : (h.read ks o key dpa bar4 .clean).tree = none := by
  have hmeta : Fetch.clean.metaFail = none := rfl
  unfold Hbm.read
  simp only [hmeta]
  repeat' split
  all_goals rfl

theorem State.hbmRead_loads (s : State) (o : Origin) (key dpa : Nat) (bar4 : Bool) : Loads s (s.hbmRead o key dpa bar4 .clean).1 := by
  unfold State.hbmRead State.afterLane
  simp only [Hbm.read_clean_tree]
  exact ⟨rfl, rfl⟩

theorem State.vaLine_loads (s : State) (o : Origin) (p : Nat) (space : List MapRun) (va : Nat) : Loads s (s.vaLine o p space va).1 := by
  unfold State.vaLine
  split
  · exact .refl s
  · exact s.hbmRead_loads _ _ _ _

theorem State.readLines_loads (o : Origin) (p : Nat) (space : List MapRun) (k : Nat) (s : State) (va n : Nat) :
    Loads s (State.readLines o p space k s va n).1 := by
  induction k generalizing s va n with
  | zero => exact .refl s
  | succ k ih => exact (s.vaLine_loads o p space va).trans (ih _ _ _)

theorem State.loadRegion_loads (s : State) (p t : Nat) (r : Resident) : Loads s (s.loadRegion p t r) :=
  (State.readLines_loads _ p _ _ s _ _).trans ⟨rfl, rfl⟩

theorem State.loadTile_loads (s : State) (p l t : Nat) : Loads s (s.loadTile p l t) := by
  unfold State.loadTile
  dsimp only
  split
  · exact .refl s
  · split
    · exact .refl s
    · have hinstall : ∀ f, Loads s (s.updTile t f) := fun f => ⟨rfl, rfl⟩
      refine (hinstall _).trans (Loads.foldl (fun a r => ?_) _ _)
      split
      · exact .refl a
      · exact a.loadRegion_loads p t r

/-! ### Replacement (R373, R374) -/

theorem State.job_setJob (s : State) (p : Nat) {x : Job} (h : x ≠ .reset) : (s.setJob p x).job p = x := Store.get_set_same _ _ h

/-- A partition's tile that is rebound: its logical tile has the new place, and the tile maps stand (R43). -/
theorem State.rebind_found {s : State} {p t l : Nat} (hl : (s.job p).ltileOf t = some l) (w : Nat) :
    (s.rebind p t w).res = s.res ∧ ((s.rebind p t w).job p).place = setAt (s.job p).place l w := by
  have hfind : (List.range (s.job p).place.length).find? (fun i => decide ((s.job p).place[i]? = some t)) = some l := hl
  have hat : (s.job p).place[l]? = some t := by simpa using List.find?_some hfind
  have hmoved : { s.job p with place := setAt (s.job p).place l w } ≠ Job.reset := fun e => setAt_ne_nil hat l w (congrArg Job.place e)
  unfold State.rebind
  simp only [hl]
  refine ⟨(State.loadTile_loads _ p l w).res, ?_⟩
  rw [(State.loadTile_loads _ p l w).job p]
  exact congrArg Job.place (s.job_setJob p hmoved)

/-- A failed tile in service whose partition does not run gives its place to the spare of its field; without one the module fails. -/
theorem exec_tileReplacement_idle {s : State} {t : Fin 156} (hfailed : bit s.res.failed t = true) (hserves : bit s.res.inService t = true)
    (hidle : ∀ p, (s.tile t).part = some p → (s.job p).run = none) : exec (.tileReplacement t) s = .next ((s.replaceTile t).getD (s.noSpare t)) := by
  show execTileReplacement t s = _
  cases hpart : (s.tile t).part with
  | none => cases hspare : s.replaceTile t <;> simp [execTileReplacement, hfailed, hserves, hpart, hspare]
  | some p => cases hspare : s.replaceTile t <;> simp [execTileReplacement, hfailed, hserves, hpart, hspare, hidle p hpart]

theorem State.replaceTile_none {s : State} {t : Nat} (hspare : s.res.spare (t / 52) = none) : s.replaceTile t = none := by
  simp [State.replaceTile, hspare]

theorem State.replaceTile_spare {s : State} {t w : Nat} (hspare : s.res.spare (t / 52) = some w) (hpart : (s.tile t).part = none) :
    s.replaceTile t = some { s with res := s.res.swapTile t w } := by
  simp [State.replaceTile, hspare, hpart]

theorem State.replaceTile_rebind {s : State} {t w p : Nat} (hspare : s.res.spare (t / 52) = some w) (hpart : (s.tile t).part = some p) :
    s.replaceTile t = some (State.rebind { s with res := s.res.swapTile t w } p t w) := by
  simp [State.replaceTile, hspare, hpart]

/-! ### MAINT commands (Table 14.3, R375) -/

/-- A MAINT command that is ready does what its request does to its unit, and completes. -/
theorem State.maintCmd_ready {s : State} {fn q req ctx : Nat} {c : Cmd} (h : HostReady s fn q 0x47 ctx c) (hreq : bits c.entry.p0 0 4 = req)
    {f : State → Nat → State × Status} {r : State × Status} (hf : f (started s fn q c) (bits c.entry.p0 16 16) = r) :
    s.maintCmd fn q req f = completes r.1 fn q c r.2 0 0 := by
  subst hf
  have hnext := h.1
  simp only [State.maintCmd, hnext, hreq, if_true]
  exact State.hostCmd_ready _ h

theorem State.heldOr_idle (s : State) (m : Maint) {busy : Bool} (h : busy = false) (now : State → State × Status) : s.heldOr m busy now = now s := by
  simp [State.heldOr, h]

theorem State.heldOr_busy (s : State) (m : Maint) {busy : Bool} (h : busy = true) (now : State → State × Status) :
    s.heldOr m busy now = ({ s with maint := s.maint ++ [m] }, .deferred) := if_pos h

end Sys2Proof.Machine
end

section
/-! The statement on failed tiles and online maintenance. -/

namespace Sys2Proof.Machine

/-- Settles O36: a failed tile stays FENCED whatever stops with it; a replacement by whom its tile serves; each MAINT request by what it does to its unit now. -/
theorem tilesAndMaintenance : Obligations.TilesAndMaintenance := by
  intro t fn q ctx c pass s a n req
  refine ⟨?fails, fun hfailed hserves => ⟨?spare, ?rebound, ?noSpare⟩, fun hready => ?maint⟩
  case fails =>
    intro hready hgood
    have hkeeps := s.tileError_halts t
    exact ⟨_, exec_tileUncorrectableError hready hgood, hkeeps.fenced t (s.failTile_fenced t), hkeeps.failed.trans (s.failTile_failed t)⟩
  case spare =>
    intro w hspare hpart
    rw [exec_tileReplacement_idle hfailed hserves (by simp [hpart]), State.replaceTile_spare hspare hpart, Option.getD_some]
  case rebound =>
    intro w p l hspare hpart hrun hl
    obtain ⟨hres, hplace⟩ := State.rebind_found (s := { s with res := s.res.swapTile t w }) (t := t) hl w
    have hexec := exec_tileReplacement_idle hfailed hserves fun p' hp' => by
      have : p' = p := Option.some.inj (hp'.symm.trans hpart)
      rw [this, hrun]
    rw [State.replaceTile_rebind hspare hpart] at hexec
    exact ⟨_, hexec, congrArg Resil.inService hres, hplace⟩
  case noSpare =>
    intro hspare hpart
    rw [exec_tileReplacement_idle hfailed hserves (by simp [hpart]), State.replaceTile_none hspare, Option.getD_none]
  case maint =>
    have hcmd : ∀ (k : Nat) (f : State → Nat → State × Status) (r : State × Status), req = k → f a n = r →
        (.next (s.maintCmd fn q k f) : Result) = .next (completes r.1 fn q c r.2 0 0) :=
      fun k f r hreq hf => congrArg _ (State.maintCmd_ready hready hreq hf)
    have hnotSpare : bit s.res.inService n = true → ¬ (!bit s.res.inService n) = true := fun h => by simp [h]
    refine ⟨fun hreq hn => ⟨?testIdle, ?testBusy, ?testSpare⟩, fun hreq hn hserves => ⟨?replaceIdle, ?replaceBusy⟩, ?pcTest, ?pcRetire, ?recalIdle,
      ?recalBusy, ?lane, ?sensor⟩
    case testIdle =>
      exact fun hserves hidle => hcmd _ _ (a.testTile n pass) hreq
        ((if_neg (Nat.not_le.2 hn)).trans ((if_pos hserves).trans (a.heldOr_idle _ hidle _)))
    case testBusy =>
      exact fun hserves hbusy => hcmd _ _ (_, .deferred) hreq
        ((if_neg (Nat.not_le.2 hn)).trans ((if_pos hserves).trans (a.heldOr_busy _ hbusy _)))
    case testSpare =>
      intro hspare hgood
      have hfails : ¬ (bit s.res.failed n || false) = true := by simp [hgood]
      exact hcmd _ _ (a.failTile n, .done) hreq
        ((if_neg (Nat.not_le.2 hn)).trans ((if_neg (Bool.eq_false_iff.1 hspare)).trans (if_neg hfails)))
    case replaceIdle =>
      exact fun hidle => hcmd _ _ (a.swapOut n) hreq
        ((if_neg (Nat.not_le.2 hn)).trans ((if_neg (hnotSpare hserves)).trans (a.heldOr_idle _ hidle _)))
    case replaceBusy =>
      exact fun hbusy => hcmd _ _ (_, .deferred) hreq
        ((if_neg (Nat.not_le.2 hn)).trans ((if_neg (hnotSpare hserves)).trans (a.heldOr_busy _ hbusy _)))
    case pcTest =>
      exact fun hreq hn => hcmd _ _ (a, .done) hreq (congrArg (Prod.mk a) (if_neg (Nat.not_le.2 hn)))
    case pcRetire =>
      exact fun hreq hn => hcmd _ _ (a.retirePc n false, (a.retirePc n false).hbm.lastStatus) hreq (if_neg (Nat.not_le.2 hn))
    case recalIdle =>
      intro hreq hn hidle
      have hany : ((List.range 16).any fun p => (s.job p).run.isSome) = false :=
        List.any_eq_false.2 fun p hp => by simp [hidle p (List.mem_range.1 hp)]
      exact hcmd _ _ (a, .done) hreq ((if_neg (Nat.not_le.2 hn)).trans (a.heldOr_idle _ hany _))
    case recalBusy =>
      rintro hreq hn ⟨p, hp, hrun⟩
      have hany : ((List.range 16).any fun p => (s.job p).run.isSome) = true := List.any_eq_true.2 ⟨p, List.mem_range.2 hp, hrun⟩
      exact hcmd _ _ (_, .deferred) hreq ((if_neg (Nat.not_le.2 hn)).trans (a.heldOr_busy _ hany _))
    case lane =>
      intro hreq hn hidle
      have hany : ((s.port n).parts.any fun p => (s.job p).run.isSome) = false := List.any_eq_false.2 fun p hp => by simp [hidle p hp]
      exact hcmd _ _ (a, .done) hreq ((if_neg (Nat.not_le.2 hn)).trans (a.heldOr_idle _ hany _))
    case sensor => exact fun hreq => hcmd _ _ (a, .done) hreq rfl

end Sys2Proof.Machine
end

section
/-! SUPPORT. Scarab's roots, entropy and slot checks, debug authorisation and the life cycle (R263, R264, R270, R277 to R279): what each command leaves, and what stands over the warm reset that some of them end in. -/

namespace Sys2Proof.Machine

/-! ### Warm reset -/

theorem State.warmReset_phase (s : State) : s.warmReset.boot.phase = some 1 := rfl

/-- Of Scarab's state the fuses, the counts that outlast a phase, the rights and the grant stand (R277, R279). -/
theorem State.warmReset_sec (s : State) : s.warmReset.sec = { Sec.reset with
    fuses := s.sec.fuses, draws := s.sec.draws, tokenFails := s.sec.tokenFails, rights := s.sec.rights, grant := s.sec.grant
    recProd := s.sec.recProd, recTest := s.sec.recTest } := rfl

/-- A grant that is opened or closed stands over the warm reset after it. -/
theorem State.setGrant_stands (s : State) (opened : Bool) (rights : Nat) : (s.setGrant opened rights).sec.grant = opened ∧
    (s.setGrant opened rights).sec.rights = rights ∧ (s.setGrant opened rights).boot.phase = some 1 := by
  refine ⟨?_, ?_, State.warmReset_phase _⟩ <;> rw [State.setGrant, State.warmReset_sec]

/-! ### Roots, entropy, slot checks and the mailbox (R263, R264, R270, R285, R445) -/

/-- In MANUFACTURE, with the root unblown, GEN_ROOT blows it with the next draw. -/
theorem exec_genRoot {s : State} (hup : s.scarabUp = true) (hstate : s.sec.fuses.state = .manufacture) (hudr : s.sec.fuses.udr = 0)
    (hentropy : s.sec.entropyOk = true) : exec .genRoot s = .next (({ s with sec := { s.sec with
      draws := s.sec.draws + 1, fuses := { s.sec.fuses with udr := Config.entropy s.sec.draws } } }).answer .done []) := by
  show execGenRoot s = _
  simp [execGenRoot, hup, hstate, hudr, hentropy, Sec.draw]

/-- A source that fails its health test is reported. -/
theorem exec_entropyHealthFail {s : State} (h : s.sec.entropyOk = true) : exec .entropyHealthFail s =
    .next (({ s with sec := { s.sec with entropyOk := false } }).report clsDegraded srcSec 0 .noResource noPart 0) := if_pos h

/-- A slot not yet FAILED loses its material and is counted. -/
theorem Sec.failSlot_of_ne {k : Sec} {i : Nat} (h : (k.slot i).state ≠ .failed) :
    k.failSlot i = { k.setSlot i { k.slot i with state := .failed, material := 0 } with failedCnt := k.failedCnt + 1, slotFail := true, lastFailed := i } :=
  if_neg h

theorem Sec.slot_failSlot {k : Sec} {i : Nat} (h : (k.slot i).state ≠ .failed) :
    (k.failSlot i).slot i = { k.slot i with state := .failed, material := 0 } := by
  rw [Sec.failSlot_of_ne h]
  exact Store.get_set_same _ _ fun hfree => SlotState.noConfusion (congrArg Slot.state hfree)

theorem Sec.failSlot_counts {k : Sec} {i : Nat} (h : (k.slot i).state ≠ .failed) :
    (k.failSlot i).slotFail = true ∧ (k.failSlot i).lastFailed = i ∧ (k.failSlot i).failedCnt = k.failedCnt + 1 := by
  rw [Sec.failSlot_of_ne h]
  exact ⟨rfl, rfl, rfl⟩

/-- The report of a failed slot leaves Scarab's state. -/
theorem State.reportSlot_sec (s : State) (i : Nat) : (s.reportSlot i).sec = s.sec := (State.report_noted s _ _ _ _ _ _).sec

/-- A swept slot beyond the sixteen of the module is reported, and no job stops. -/
theorem exec_slotSweep {s : State} {slot : Fin 2048} (hphase : s.boot.past 1 = true) (hslot : 16 ≤ slot.val) (hstate : (s.sec.slot slot).state ≠ .failed) :
    Answers (exec (.slotSweep slot) s) fun u => u.sec = s.sec.failSlot slot := by
  have hnotModule : ¬ slot.val < 16 := Nat.not_lt.2 hslot
  have hexec : exec (.slotSweep slot) s = .next (({ s with sec := s.sec.failSlot slot }).reportSlot slot) := by
    show execSlotSweep slot s = _
    simp [execSlotSweep, hphase, hstate, hnotModule]
  exact ⟨_, hexec, State.reportSlot_sec _ _⟩

/-- GO is taken when no request is being served. -/
theorem exec_secMboxDb {s : State} {v : DWord} (hphase : s.boot.past 1 = true) (hgo : bit v.toNat 0 = true) (hidle : s.fwm.busy = false) (req : List Byte) :
    exec (.secMboxDb v req) s = .next { s with fwm := { s.fwm with busy := true, request := req.take 4096 } } := by
  show execSecMboxDb v req s = _
  simp [execSecMboxDb, hphase, hgo, hidle]

/-! ### Commands of the TCK port to a module that is not SCRAPPED (R277 to R279) -/

section
variable {s : State} (hup : s.scarabUp = true) (hlife : s.scrapped = false)
include hup hlife

theorem exec_debugNonce (hentropy : s.sec.entropyOk = true) : exec (.debugNonce true) s =
    .next (({ s with sec := { s.sec with draws := s.sec.draws + 1, nonce := some (Config.entropy s.sec.draws) } }).emit
      [.exported .done (natBytes (Config.entropy s.sec.draws).toNat 32)]) := by
  show execDebugNonce true s = _
  simp [execDebugNonce, hup, hlife, hentropy, Sec.draw, State.tckReply]

/-- A certificate that passes every check of Table 10.10 opens the rights it names. -/
theorem exec_debugCert_passes {cert : DebugCert} (hpass : s.sec.certReason cert s.anyPart = 0) : exec (.debugCert true cert) s =
    .next ((({ s with sec := { s.sec with nonce := none, dbgReason := 0, dbgStatus := .done } }).emit [.exported .done []]).setGrant true cert.rights) := by
  show execDebugCert true cert s = _
  simp [execDebugCert, hup, hlife, hpass, State.tckReply]

/-- One that fails a check spends the nonce. -/
theorem exec_debugCert_fails {cert : DebugCert} (hfail : s.sec.certReason cert s.anyPart ≠ 0) : exec (.debugCert true cert) s =
    .next (({ s with sec := { s.sec with nonce := none, dbgReason := s.sec.certReason cert s.anyPart, dbgStatus := .accessDenied } }).emit
      [.exported .accessDenied []]) := by
  show execDebugCert true cert s = _
  simp [execDebugCert, hup, hlife, hfail, State.tckReply]

theorem exec_debugClose : exec (.debugClose true) s = .next ((s.emit [.exported .done []]).setGrant false 0) := by
  show execDebugClose true s = _
  simp [execDebugClose, hup, hlife, State.tckReply]

theorem exec_lcTransition {target : LcState} {token : BitVec 256} {k : Sec} {st : Status} (htry : s.sec.transition target token s.anyPart = (k, st)) (secured : Bool) :
    exec (.lcTransition target token true secured) s =
      .next (if st = .done then ({ s with sec := k }).changeState target true else ({ s with sec := k }).emit [.exported st []]) := by
  show execLcTransition target token true secured s = _
  simp [execLcTransition, hup, hlife, htry, State.tckReply]

end

/-- Only a token that fails is counted: a transition that may proceed leaves Scarab as it was. -/
theorem Sec.transition_done {k k' : Sec} {target : LcState} {token : BitVec 256} {parts : Bool} (h : k.transition target token parts = (k', .done)) : k' = k := by
  unfold Sec.transition at h
  split at h
  · exact (congrArg Prod.fst h).symm
  · split at h
    · exact (congrArg Prod.fst h).symm
    · split at h
      · exact Status.noConfusion (congrArg Prod.snd h)
      · split at h <;> exact (congrArg Prod.fst h).symm

/-- Short of SCRAPPED, a change of state blows the target's bits and ends in a warm reset with every slot empty. -/
theorem State.changeState_alive (s : State) {target : LcState} (h : target ≠ .scrapped) :
    (s.changeState target true).sec.fuses = s.sec.fuses.blowState target ∧ (s.changeState target true).sec.slots = [] ∧
      (s.changeState target true).boot.phase = some 1 := by
  refine ⟨?_, rfl, State.warmReset_phase _⟩
  simp only [State.changeState, State.tckReply, State.warmReset_sec, State.emit_sec, h, if_true, if_false, false_or]
  split <;> rfl

end Sys2Proof.Machine
end

section
/-! The statement on Scarab's events, debug authorisation and the life cycle. -/

namespace Sys2Proof.Machine

/-- Settles O22: command by command; what an opened or closed grant and a change of state leave is what stands over the warm reset in which they end. -/
theorem scarabAndDebugEventsAct : Obligations.ScarabAndDebugEventsAct := by
  refine ⟨fun slot layer v req s => ⟨?mailbox, ?root, ?unhealthy, rfl, ?sweep, ?subtree⟩,
    fun tck cert target token s hlife => ⟨?nonce, rfl, ?cert, ?close, ?life⟩⟩
  case mailbox => exact fun hphase hgo hidle => exec_secMboxDb hphase hgo hidle req
  case root => exact fun hup hstate hudr hentropy => ⟨_, exec_genRoot hup hstate hudr hentropy, rfl, rfl⟩
  case unhealthy =>
    intro hentropy
    have hnoted := State.report_noted { s with sec := { s.sec with entropyOk := false } } clsDegraded srcSec 0 .noResource noPart 0
    exact ⟨_, exec_entropyHealthFail hentropy, hnoted.sec, hnoted.hbm⟩
  case sweep =>
    intro hphase hslot hstate
    obtain ⟨u, hexec, hu⟩ := exec_slotSweep hphase hslot hstate
    refine ⟨u, hexec, ?_, ?_⟩ <;> rw [hu]
    · exact Sec.slot_failSlot hstate
    · exact Sec.failSlot_counts hstate
  case subtree => exact fun hphase => congrArg Host.Outcome.next (if_pos hphase)
  case nonce => exact fun hup hentropy => ⟨_, exec_debugNonce hup hlife hentropy, rfl, rfl⟩
  case cert =>
    intro hup
    by_cases hpass : s.sec.certReason cert s.anyPart = 0
    · exact ⟨_, exec_debugCert_passes hup hlife hpass, fun _ => State.setGrant_stands _ _ _, fun hfail => absurd hpass hfail⟩
    · exact ⟨_, exec_debugCert_fails hup hlife hpass, fun h => absurd h hpass, fun _ => ⟨rfl, rfl⟩⟩
  case close => exact fun hup => ⟨_, exec_debugClose hup hlife, State.setGrant_stands _ _ _⟩
  case life =>
    intro k st hup htry
    refine ⟨exec_lcTransition hup hlife htry tck, fun hdone => ⟨?_, s.changeState_alive⟩⟩
    subst hdone
    exact Sec.transition_done htry

end Sys2Proof.Machine
end

section
/-! SUPPORT. Frames of a stop (R63, R310, R441): flushes, completions, ends of runs and cleared ports leave partitions, keys, memory and firmware as they are; and which runs a stop leaves. -/

namespace Sys2Proof.Machine

/-- A fold keeps what every step of it keeps. -/
theorem foldl_keeps {α β γ : Type} {f : β → α → β} {g : β → γ} (h : ∀ b a, g (f b a) = g b) (as : List α) (b : β) : g (as.foldl f b) = g b := by
  induction as generalizing b with
  | nil => rfl
  | cons a as ih => exact (ih (f b a)).trans (h b a)

/-- From s to u only what a stop touches may change: tiles, channels, queues, ports, collectives, jobs, snapshots, the host interface, and what has left the module. -/
structure Quiets (s u : State) : Prop where
  eq : u = { s with
    pwr := u.pwr, tiles := u.tiles, streams := u.streams, sys := u.sys, jobs := u.jobs, links := u.links, coll := u.coll, snaps := u.snaps, hif := u.hif, out := u.out }

theorem Quiets.refl (s : State) : Quiets s s := ⟨rfl⟩

theorem Quiets.trans {s t u : State} (h : Quiets s t) (k : Quiets t u) : Quiets s u :=
  ⟨k.eq.trans (congrArg (fun (a : State) => { a with
    pwr := u.pwr, tiles := u.tiles, streams := u.streams, sys := u.sys, jobs := u.jobs, links := u.links, coll := u.coll, snaps := u.snaps, hif := u.hif, out := u.out }) h.eq)⟩

/-- A fold of quieting steps quiets; the state may be read off an accumulator. -/
theorem Quiets.foldl_of {α β : Type} (g : β → State) {f : β → α → β} (hf : ∀ b a, Quiets (g b) (g (f b a))) (as : List α) (b : β) :
    Quiets (g b) (g (as.foldl f b)) := by
  induction as generalizing b with
  | nil => exact .refl _
  | cons a as ih => exact (hf b a).trans (ih _)

theorem Quiets.foldl {α : Type} {f : State → α → State} (hf : ∀ s a, Quiets s (f s a)) (as : List α) (s : State) : Quiets s (as.foldl f s) :=
  Quiets.foldl_of id hf as s

section
variable {s u : State} (h : Quiets s u)
include h

theorem Quiets.parts : u.parts = s.parts := (congrArg State.parts h.eq :)
theorem Quiets.hbm : u.hbm = s.hbm := (congrArg State.hbm h.eq :)
theorem Quiets.sec : u.sec = s.sec := (congrArg State.sec h.eq :)
theorem Quiets.fwm : u.fwm = s.fwm := (congrArg State.fwm h.eq :)
theorem Quiets.part (p : Nat) : u.part p = s.part p := congrArg (fun m => Store.get Part.reset m p) h.parts

end

/-! ### The operations of a stop -/

theorem State.emit_quiets (s : State) (os : List Out) : Quiets s (s.emit os) := ⟨rfl⟩

theorem State.updTiles_quiets (s : State) (ts : List Nat) (f : Tile → Tile) : Quiets s (s.updTiles ts f) := Quiets.foldl (fun _ _ => ⟨rfl⟩) ts s

theorem State.complete_quiets (s : State) (fn q seq : Nat) (st : Status) (r0 r1 : Nat) : Quiets s (s.complete fn q seq st r0 r1) := by
  rw [State.complete_eq]
  exact ⟨rfl⟩

theorem State.flushQueue_quiets (s : State) (i : Nat) : Quiets s (s.flushQueue i) := by
  unfold State.flushQueue
  dsimp only
  split
  · exact ⟨rfl⟩
  · split <;> exact ⟨rfl⟩

theorem State.flushMany_quiets (s : State) (is : List Nat) : Quiets s (s.flushMany is) := Quiets.foldl State.flushQueue_quiets is s

theorem State.stopRun_quiets (s : State) (p : Nat) (st : Status) : Quiets s (s.stopRun p st) := by
  unfold State.stopRun
  dsimp only
  split
  · exact .refl s
  · split
    · exact .refl s
    · have hmarked : ∀ j, Quiets s (s.setJob p j) := fun _ => ⟨rfl⟩
      exact (hmarked _).trans ((State.updTiles_quiets _ _ _).trans (Quiets.trans ⟨rfl⟩ (State.flushMany_quiets _ _)))

theorem State.cancelFill_quiets (s : State) (p : Nat) : Quiets s (s.cancelFill p) := by
  unfold State.cancelFill
  split
  · exact .refl s
  · have hnoted : ∀ (a : State) f, Quiets a (a.updSnap p f) := fun _ _ => ⟨rfl⟩
    exact (Quiets.foldl (fun _ _ => ⟨rfl⟩) _ s).trans ((hnoted _ _).trans (State.complete_quiets _ _ _ _ _ _ _))

theorem State.stopAll_quiets (s : State) (st : Status) : Quiets s (s.stopAll st) :=
  Quiets.foldl (fun a p => (a.stopRun_quiets p st).trans (State.cancelFill_quiets _ p)) _ s

theorem State.endRun_quiets (s : State) (p : Nat) (st : Status) : Quiets s (s.endRun p st) := by
  unfold State.endRun
  dsimp only
  split
  · exact .refl s
  · exact Quiets.trans ⟨rfl⟩ (State.complete_quiets _ _ _ _ _ _ _)

theorem State.follow_quiets (s : State) : Quiets s s.follow := by
  unfold State.follow
  dsimp only
  split
  · exact ⟨rfl⟩
  · exact ⟨rfl⟩
  · exact .refl s

theorem State.endCtrl_quiets (s : State) (p : Nat) : Quiets s (s.endCtrl p) :=
  Quiets.trans ⟨rfl⟩ (Quiets.foldl (fun a _ => a.complete_quiets _ _ _ _ _ _) _ _)

theorem State.endBinds_quiets (s : State) (p : Nat) : Quiets s (s.endBinds p) := Quiets.foldl (fun a _ => a.complete_quiets _ _ _ _ _ _) _ s

theorem State.clearPorts_quiets (s : State) (p : Nat) : Quiets s (s.clearPorts p).1 := by
  refine Quiets.foldl_of Prod.fst (fun acc k => ?_) _ (s, 0)
  dsimp only
  split
  · exact .refl _
  · exact ⟨rfl⟩

/-! ### The runs that a stop leaves (R63) -/

/-- A run of the partition, where one stands, is FAULTING: it has been stopped. -/
def State.Stopped (s : State) (p : Nat) : Prop := ∀ r, (s.job p).run = some r → r.phase = .faulting

theorem State.Stopped.congr {s u : State} {p : Nat} (h : s.Stopped p) (hjobs : u.job p = s.job p) : u.Stopped p := by
  rw [State.Stopped, hjobs]
  exact h

theorem State.flushQueue_jobs (s : State) (i : Nat) : (s.flushQueue i).jobs = s.jobs := by
  unfold State.flushQueue
  dsimp only
  split
  · rfl
  · split <;> rfl

theorem State.flushMany_jobs (s : State) (is : List Nat) : (s.flushMany is).jobs = s.jobs := foldl_keeps State.flushQueue_jobs is s

theorem State.updTiles_jobs (s : State) (ts : List Nat) (f : Tile → Tile) : (s.updTiles ts f).jobs = s.jobs :=
  foldl_keeps (g := State.jobs) (fun a t => a.updTile_jobs t f) ts s

theorem State.complete_jobs (s : State) (fn q seq : Nat) (st : Status) (r0 r1 : Nat) : (s.complete fn q seq st r0 r1).jobs = s.jobs := by
  rw [State.complete_eq]

theorem State.cancelFill_jobs (s : State) (p : Nat) : (s.cancelFill p).jobs = s.jobs := by
  unfold State.cancelFill
  split
  · rfl
  · rw [State.complete_jobs, State.updSnap_jobs]
    exact foldl_keeps (g := State.jobs) (fun a k => a.updPort_jobs k _) _ s

/-- A stop leaves the jobs, the run being stopped already, or marks the run of its partition FAULTING. -/
theorem State.stopRun_jobs (s : State) (p : Nat) (st : Status) : (s.Stopped p ∧ (s.stopRun p st).jobs = s.jobs) ∨
    ∃ r : Run, r.phase = .faulting ∧ (s.stopRun p st).jobs = (s.setJob p { s.job p with run := some r }).jobs := by
  unfold State.stopRun
  dsimp only
  split
  next hnone => exact .inl ⟨fun r hr => by simp [hnone] at hr, rfl⟩
  next r hrun =>
    split
    next hfaulting => exact .inl ⟨fun x hx => by rwa [← Option.some.inj (hrun.symm.trans hx)], rfl⟩
    next => exact .inr ⟨{ r with phase := .faulting, ending := some st }, rfl, (State.flushMany_jobs _ _).trans (State.updTiles_jobs _ _ _)⟩

theorem State.stopRun_stopped (s : State) (p : Nat) (st : Status) : (s.stopRun p st).Stopped p := by
  obtain ⟨hstopped, hjobs⟩ | ⟨r, hphase, hjobs⟩ := s.stopRun_jobs p st
  · exact hstopped.congr (congrArg (fun m => Store.get Job.reset m p) hjobs)
  · have hmarked : { s.job p with run := some r } ≠ Job.reset := fun e => Option.some_ne_none r (congrArg Job.run e)
    have hjob : (s.stopRun p st).job p = { s.job p with run := some r } :=
      (congrArg (fun m => Store.get Job.reset m p) hjobs).trans (s.job_setJob p hmarked)
    intro x hx
    rw [hjob] at hx
    rwa [← Option.some.inj hx]

/-- A stop of one partition leaves another's run stopped. -/
theorem State.Stopped.stopRun {s : State} {p : Nat} (h : s.Stopped p) (k : Nat) (st : Status) : (s.stopRun k st).Stopped p := by
  by_cases hpk : p = k
  · exact hpk ▸ s.stopRun_stopped p st
  · obtain ⟨-, hjobs⟩ | ⟨r, -, hjobs⟩ := s.stopRun_jobs k st
    · exact h.congr (congrArg (fun m => Store.get Job.reset m p) hjobs)
    · exact h.congr ((congrArg (fun m => Store.get Job.reset m p) hjobs).trans (Store.get_set_ne _ _ hpk))

/-- Every run of the module is stopped (R441). -/
theorem State.stopAll_stopped (s : State) (st : Status) {p : Nat} (hp : p < 16) : (s.stopAll st).Stopped p := by
  have hfill : ∀ (a : State) k, a.Stopped p → (a.cancelFill k).Stopped p := fun a k ha =>
    ha.congr (congrArg (fun m => Store.get Job.reset m p) (a.cancelFill_jobs k))
  have hall : ∀ (ps : List Nat) (a : State), p ∈ ps ∨ a.Stopped p → (ps.foldl (fun (b : State) k => (b.stopRun k st).cancelFill k) a).Stopped p := by
    intro ps
    induction ps with
    | nil => exact fun a ha => ha.resolve_left List.not_mem_nil
    | cons k ks ih =>
      refine fun a ha => ih _ ?_
      obtain hmem | hstopped := ha
      · obtain rfl | hmem := List.mem_cons.1 hmem
        · exact .inr (hfill _ _ (a.stopRun_stopped _ st))
        · exact .inl hmem
      · exact .inr (hfill _ _ (hstopped.stopRun k st))
  exact hall _ s (.inl (List.mem_range.2 hp))

end Sys2Proof.Machine
end

section
/-! SUPPORT. The control cluster (R440, R441, R443, R447): what a restart, an applied BAR0 write, a second's summary and a millisecond boundary leave. -/

namespace Sys2Proof.Machine

/-! ### Restarts (R441) -/

/-- An entry of the log leaves the count of restarts and their last cause. -/
theorem Fwm.put_restarts (f : Fwm) (ready : Bool) (time point part sev : Nat) (args : List Nat) :
    (f.put ready time point part sev args).restarts = f.restarts ∧ (f.put ready time point part sev args).lastCause = f.lastCause := by
  unfold Fwm.put
  cases ready <;> exact ⟨rfl, rfl⟩

theorem Fwm.summary_restarts (f : Fwm) (ready : Bool) (point : Nat) :
    (f.summary ready point).restarts = f.restarts ∧ (f.summary ready point).lastCause = f.lastCause := by
  unfold Fwm.summary
  dsimp only
  split
  · exact ⟨rfl, rfl⟩
  · exact Fwm.put_restarts _ _ _ _ _ _ _

theorem Fwm.trace_restarts (f : Fwm) (ready : Bool) (point part sev : Nat) (args : List Nat) :
    (f.trace ready point part sev args).restarts = f.restarts ∧ (f.trace ready point part sev args).lastCause = f.lastCause := by
  simp only [Fwm.trace, apply_ite Fwm.restarts, apply_ite Fwm.lastCause, Fwm.put_restarts, Fwm.summary_restarts, ite_self, and_self]

theorem State.report_restarts (s : State) (cls source unit : Nat) (st : Status) (part detail : Nat) :
    (s.report cls source unit st part detail).fwm.restarts = s.fwm.restarts := by
  unfold State.report
  dsimp only
  split <;> exact (Fwm.trace_restarts _ _ _ _ _ _).1

/-- From s to u the firmware restarted once for a cause: it is counted, and every run is stopped (R441). -/
structure Restarted (s u : State) (cause : Nat) : Prop where
  count : u.fwm.restarts = satAdd 8 s.fwm.restarts 1
  cause : u.fwm.lastCause = cause
  stopped : ∀ p, p < 16 → u.Stopped p

theorem State.restart_up {s : State} (hup : s.clusterUp = true) (cause unit : Nat) (st : Status) :
    ∃ t : State, s.restart cause unit st = State.trace { t with fwm := t.fwm.restart cause } 0x0003 noPart 3 [cause] ∧
      t.fwm.restarts = s.fwm.restarts ∧ ∀ p, p < 16 → t.Stopped p := by
  refine ⟨(s.report clsModule srcFwm unit st noPart 0).stopAll st, if_neg (by simp [hup]), ?_, fun p => State.stopAll_stopped _ st⟩
  rw [(State.stopAll_quiets _ st).fwm, State.report_restarts]

theorem State.restart_restarted {s : State} (hup : s.clusterUp = true) (cause unit : Nat) (st : Status) : Restarted s (s.restart cause unit st) cause := by
  obtain ⟨t, hrestart, hcount, hstopped⟩ := State.restart_up hup cause unit st
  obtain ⟨hrestarts, hcause⟩ := (t.fwm.restart cause).trace_restarts t.ringReady 0x0003 noPart 3 [cause]
  rw [hrestart]
  refine ⟨hrestarts.trans ?_, hcause, fun p hp => (hstopped p hp).congr rfl⟩
  rw [Fwm.restart, hcount]

/-! ### Summaries and boundaries (R308, R447) -/

/-- The summary of a second in which entries were dropped is the newest entry of the log. -/
theorem Fwm.summary_dropped {f : Fwm} {point : Nat} {r : PointRate} (hr : Store.get PointRate.none f.rates point = r) (hdropped : r.dropped ≠ 0) :
    (f.summary true point).log.head? = some ⟨(r.second + 1) * 1000000000, f.nextSeq % 2 ^ 32, 0x0FFF, noPart, r.sev, [point, r.dropped]⟩ ∧
      (f.summary true point).nextSeq = f.nextSeq + 1 := by
  subst hr
  rw [Fwm.summary, if_neg hdropped]
  refine ⟨?_, rfl⟩
  rw [Fwm.put, if_pos rfl, List.head?_take, if_neg (by decide)]
  rfl

/-- Every live partition sampled (R308). -/
def State.sampleLive (s : State) : State := (List.range 16).foldl (fun (a : State) p => if (a.part p).live then a.sample p sampledRegs else a) s

/-- Two states that agree but for their samples. -/
theorem State.eq_of_rest {s t : State} (h : ({ t with view := [] } : State) = { s with view := [] }) : t = { s with view := t.view } :=
  congrArg (fun a : State => { a with view := t.view }) h

/-- Samples change what tenants see of the registers, nothing else. -/
theorem State.sampleLive_eq (s : State) : s.sampleLive = { s with view := s.sampleLive.view } := by
  have hrest : ({ s.sampleLive with view := [] } : State) = { s with view := [] } := by
    refine foldl_keeps (g := fun a : State => { a with view := [] }) (fun a p => ?_) _ s
    split <;> rfl
  exact State.eq_of_rest hrest

/-- A millisecond that has passed is taken, and every live partition is sampled. -/
theorem exec_coarsenBoundary_passed {s : State} (h : s.fwm.boundary < s.fwm.time / 1000000) (utils : List (Nat × Nat × Nat)) :
    ∃ v, exec (.coarsenBoundary utils) s = .next { s with fwm := { s.fwm with boundary := s.fwm.time / 1000000 }, view := v } := by
  have hexec : exec (.coarsenBoundary utils) s =
      .next ((State.sampleLive { s with fwm := { s.fwm with boundary := s.fwm.time / 1000000 } }).noteUtil utils) := if_neg (Nat.not_le.2 h)
  rw [State.sampleLive_eq] at hexec
  exact ⟨_, hexec⟩

theorem exec_traceRateSummary_ended {s : State} {point : Fin 4096} (h : (Store.get PointRate.none s.fwm.rates point).second < s.fwm.time / 1000000000) :
    exec (.traceRateSummary point) s = .next { s with fwm := s.fwm.summary s.ringReady point } := congrArg Host.Outcome.next (if_pos h)

end Sys2Proof.Machine
end

section
/-! The statement on the control cluster. -/

namespace Sys2Proof.Machine

/-- Settles O46: each restart by its cause, each BAR0 write by its offset, then the summary and the boundary. -/
theorem controlClusterEvents : Obligations.ControlClusterEvents := by
  intro core point utils w rest s restarted f v
  refine ⟨fun hup => ?restarts, fun hup hw => ?writes, ?summary, fun hpassed => ?boundary⟩
  case restarts =>
    have hrestart : ∀ cause unit st, restarted (s.restart cause unit st) cause := fun cause unit st =>
      have h := State.restart_restarted hup cause unit st
      ⟨h.count, h.cause, fun p r hp => h.stopped p hp r⟩
    exact ⟨⟨_, rfl, hrestart 1 core .timeout⟩, ⟨_, rfl, hrestart 2 0 .timeout⟩, _, rfl, hrestart 3 0 .poison⟩
  case writes =>
    have happly : ∀ g : Fn, State.bar0Write { s with fwm := { s.fwm with writes := rest } } w =
          { s with fwm := { s.fwm with writes := rest }, hif := s.hif.setFn w.fn g } →
        Answers (exec .bar0WriteApply s) fun u => u.fwm.writes = rest ∧ u.hif = s.hif.setFn w.fn g :=
      fun g hg => ⟨_, (exec_bar0WriteApply hup hw).trans (congrArg _ hg), rfl, rfl⟩
    refine ⟨fun hoff => happly _ ?_, fun hoff => happly _ ?_, fun hoff => happly _ ?_, fun hoff => happly _ ?_⟩ <;> simp only [State.bar0Write, hoff] <;> rfl
  case summary =>
    intro r hended hdropped hring
    have hsummary := Fwm.summary_dropped (f := s.fwm) (point := point) rfl hdropped
    refine ⟨_, exec_traceRateSummary_ended hended, ?_⟩
    rwa [hring]
  case boundary =>
    obtain ⟨view, hexec⟩ := exec_coarsenBoundary_passed hpassed utils
    exact ⟨_, hexec, rfl, rfl, rfl⟩

end Sys2Proof.Machine
end

section
/-! SUPPORT. Partitions (R289, R292, R310 to R312): what opening, the KEM slot, a removal and its drain leave of the partition, its keys and its memory. -/

namespace Sys2Proof.Machine

/-! ### What a partition reads as -/

/-- A partition that has a session state is not at reset. -/
theorem Part.ne_reset_of_sess {x : Part} (h : x.sess ≠ .none) : x ≠ .reset := by
  rintro rfl
  exact h rfl

theorem State.part_setPart (s : State) (p : Nat) {x : Part} (h : x.sess ≠ .none) : (s.setPart p x).part p = x :=
  Store.get_set_same _ _ (Part.ne_reset_of_sess h)

theorem State.part_updPart (s : State) (p : Nat) {f : Part → Part} (h : (f (s.part p)).sess ≠ .none) : (s.updPart p f).part p = f (s.part p) :=
  s.part_setPart p h

/-- A completion leaves the partitions. -/
theorem State.part_completes (s : State) (fn q : Nat) (c : Cmd) (st : Status) (r0 r1 p : Nat) : (completes s fn q c st r0 r1).part p = s.part p :=
  (s.complete_quiets fn q c.entry.seq st r0 r1).part p

@[simp] theorem started_part (s : State) (fn q : Nat) (c : Cmd) (p : Nat) : (started s fn q c).part p = s.part p := rfl
@[simp] theorem started_port (s : State) (fn q : Nat) (c : Cmd) (k : Nat) : (started s fn q c).port k = s.port k := rfl
@[simp] theorem started_fwm (s : State) (fn q : Nat) (c : Cmd) : (started s fn q c).fwm = s.fwm := rfl

/-! ### Opening (R289, R292) -/

theorem State.part_freshView (s : State) (p k : Nat) : (s.freshView p).part k = s.part k := rfl

/-- The partition of a record that opens: OPENED, originating when the record has no SESSION_ID (R288, R292 step 1). -/
theorem State.part_openPart (s : State) (bs : List Byte) : ∃ blocks, (s.openPart bs).part (PartRecord.ofBytes bs).part =
    { Part.reset with record := bs, sess := .opened, origin := decide ((PartRecord.ofBytes bs).sessionId = 0), blocks := blocks } := by
  refine ⟨s.freeBlocks.take (PartRecord.ofBytes bs).streamBlocks, ?_⟩
  unfold State.openPart
  extract_lets r opened
  rw [State.part_freshView, (State.updTiles_quiets _ _ _).part]
  exact Store.get_set_same _ _ (Part.ne_reset_of_sess SessState.noConfusion)

/-- A slot generated for a partition changes of it the list of its slots. -/
theorem State.part_generateFor {s : State} {p : Nat} (h : (s.part p).sess ≠ .none) (kind : Nat) :
    ∃ slots, (s.generateFor p kind).1.part p = { s.part p with slots := slots } := by
  unfold State.generateFor
  dsimp only
  split
  · exact ⟨_, rfl⟩
  · split
    · exact ⟨_, rfl⟩
    · exact ⟨_, State.part_updPart _ p h⟩

/-- The KEM slot and its key change nothing else of a partition (R292 step 3). -/
theorem State.part_openKem {s : State} {p : Nat} (h : (s.part p).sess ≠ .none) :
    ∃ slots slot key, (s.openKem p).1.part p = { s.part p with slots := slots, kemSlot := slot, kemKey := key } := by
  obtain ⟨slots, hslots⟩ := State.part_generateFor h kindKem
  obtain ⟨slot, key, hkem⟩ : ∃ slot key, (s.openKem p).1 = (s.generateFor p kindKem).1.updPart p fun x => { x with kemSlot := slot, kemKey := key } := ⟨_, _, rfl⟩
  refine ⟨slots, slot, key, ?_⟩
  rw [hkem, State.part_updPart _ _ (by rwa [hslots]), hslots]

/-- The note of a status leaves the rest of an OPENED partition (Table 11.7). -/
theorem State.part_noteSession {s : State} {p : Nat} (h : (s.part p).sess = .opened) (st : Status) :
    ((s.noteSession p st).part p).sess = .opened ∧ ((s.noteSession p st).part p).record = (s.part p).record ∧
      ((s.noteSession p st).part p).origin = (s.part p).origin ∧ ((s.noteSession p st).part p).lastStatus = st := by
  have hnotNone : (s.part p).sess ≠ .none := by
    rw [h]
    exact SessState.noConfusion
  rw [State.noteSession, State.part_updPart s p (f := fun x => { x with lastStatus := st }) hnotNone]
  exact ⟨h, rfl, rfl, rfl⟩

/-- A joining member's partition once its KEM slot is made: OPENED with its record, not originating. -/
theorem State.part_joined (s : State) {bs : List Byte} {p : Nat} (hp : (PartRecord.ofBytes bs).part = p) (hjoins : (PartRecord.ofBytes bs).sessionId ≠ 0) :
    (((s.openPart bs).openKem p).1.part p).sess = .opened ∧ (((s.openPart bs).openKem p).1.part p).record = bs ∧
      ((s.openPart bs).part p).origin = false ∧ (((s.openPart bs).openKem p).1.part p).origin = false := by
  subst hp
  obtain ⟨blocks, hopen⟩ := s.part_openPart bs
  obtain ⟨slots, slot, key, hkem⟩ := State.part_openKem (s := s.openPart bs) (p := (PartRecord.ofBytes bs).part) (by simp [hopen])
  rw [hkem, hopen]
  exact ⟨rfl, rfl, decide_eq_false hjoins, decide_eq_false hjoins⟩

/-! ### Removal (R310) -/

/-- Actions 1 and 2: the partition is CLOSING with no re-key in progress, and its keys are revoked. -/
theorem State.removePart_closing (s : State) (p : Nat) (asker : Option (Nat × Nat × Nat)) (create : Option ((Nat × Nat × Nat) × Status)) :
    ((s.removePart p asker create).part p).sess = .closing ∧ ((s.removePart p asker create).part p).rekey = none ∧
      (s.removePart p asker create).hbm = s.hbm.revoke p := by
  generalize hu : s.removePart p asker create = u
  unfold State.removePart at hu
  extract_lets x marked told frozen stopped flushed halted channels answered flash revoked at hu
  have htold : Quiets marked told := by
    unfold told
    split
    · exact State.emit_quiets _ _
    · exact .refl _
  have hstopped : Quiets told stopped := Quiets.trans (t := frozen) ⟨rfl⟩ (frozen.stopRun_quiets p .partitionGone)
  have hhalted : Quiets stopped halted := (State.flushMany_quiets _ _).trans ((State.endCtrl_quiets _ p).trans (State.updTiles_quiets _ _ _))
  have hchannels : Quiets halted channels := by
    refine Quiets.foldl (fun a n => ?_) _ _
    dsimp only
    split
    · exact ⟨rfl⟩
    · exact .refl _
  have hanswered : Quiets channels answered := by
    unfold answered
    split
    · exact State.complete_quiets _ _ _ _ _ _ _
    · exact .refl _
  have hstops : Quiets marked answered := htold.trans (hstopped.trans (hhalted.trans (hchannels.trans hanswered)))
  clear_value answered
  have hclears : Quiets revoked ((revoked.endBinds p).clearPorts p).1 := (State.endBinds_quiets _ p).trans (State.clearPorts_quiets _ p)
  generalize (revoked.endBinds p).clearPorts p = acc at hu hclears
  obtain ⟨cleared, n⟩ := acc
  have hpart : cleared.part p = { x with sess := .closing, removal := some ⟨.drain, 0, 0, asker.toList, create⟩ } :=
    (hclears.part p).trans ((hstops.part p).trans (s.part_setPart p SessState.noConfusion))
  have hhbm : cleared.hbm = s.hbm.revoke p := hclears.hbm.trans (congrArg (Hbm.revoke · p) hstops.hbm)
  rw [← hu]
  refine ⟨?_, ?_, hhbm⟩ <;> rw [State.part_updPart _ p (by simp [hpart]), hpart]

/-- The end of a removal leaves the key slots. -/
theorem State.finishRemoval_sec (s : State) (p : Nat) : (s.finishRemoval p).sec = s.sec := by
  have hanswers : ∀ (a : State) (n m : Nat) (ws : List (Nat × Nat × Nat)), Quiets a (ws.foldl (fun (b : State) w => b.complete w.1 w.2.1 w.2.2 .done n m) a).follow :=
    fun a n m ws => (Quiets.foldl (fun b w => b.complete_quiets _ _ _ _ _ _) ws a).trans (State.follow_quiets _)
  unfold State.finishRemoval
  dsimp only
  split
  · rfl
  · refine (hanswers _ _ _ _).sec.trans ?_
    split
    · exact (State.complete_quiets _ _ _ _ _ _ _).sec.trans (State.updTiles_quiets s _ _).sec
    · exact (State.updTiles_quiets s _ _).sec

/-- The drain's end zeroizes the slots of the partition's quota. -/
theorem State.drained_sec {s : State} {p : Nat} {r : Removal} (h : (s.part p).removal = some r) :
    (s.drained p).sec = (s.part p).slots.foldl (fun k i => k.zeroize i) s.sec := by
  generalize hu : s.drained p = u
  unfold State.drained at hu
  extract_lets x refused at hu
  split at hu
  next hnone => exact absurd (h.symm.trans hnone) (Option.some_ne_none r)
  extract_lets emptied answered grans zeroized at hu
  have hanswered : Quiets emptied answered := by
    unfold answered
    split
    · exact Quiets.trans ⟨rfl⟩ (State.endRun_quiets _ _ _)
    · exact .refl _
  clear_value answered
  have hzeroized : zeroized.sec = (s.part p).slots.foldl (fun k i => k.zeroize i) s.sec :=
    congrArg (fun k => (s.part p).slots.foldl (fun (k : Sec) i => k.zeroize i) k) hanswered.sec
  rw [← hu]
  split
  · exact (State.finishRemoval_sec _ p).trans hzeroized
  · exact hzeroized

/-! ### The commands -/

section
variable {s : State} {fn : Fin 17} {q : Fin 8192} {ctx : Nat} {c : Cmd}

/-- A joining member's PART_CREATE that passes its checks completes DONE with its KEM slot made: its memory waits for the session secret. -/
theorem exec_partCreate_joins {bs : List Byte} {p : Nat} (hready : HostReady s fn q 0x20 ctx c) (hheld : s.fwm.held = false)
    (hcheck : (started s fn q c).createStatus bs = .done) (hpart : (PartRecord.ofBytes bs).part = p) (hjoins : (PartRecord.ofBytes bs).sessionId ≠ 0)
    (hkem : (((started s fn q c).openPart bs).openKem p).2 = .done) :
    exec (.partCreate fn q (some bs)) s = .next (completes ((((started s fn q c).openPart bs).openKem p).1.noteSession p .done) fn q c .done 0 0) := by
  subst hpart
  obtain ⟨-, -, horigin, horiginKem⟩ := (started s fn q c).part_joined rfl hjoins
  refine congrArg Host.Outcome.next ((State.hostCmd_ready _ hready).trans ?_)
  simp only [withHost, started_fwm, hheld, hcheck, horigin, hkem, horiginKem, ne_eq, not_true_eq_false, Bool.false_eq_true, if_false, finishCmd_ends]

theorem exec_partRemove_live {p : Nat} (hready : HostReady s fn q 0x21 ctx c) (hp : p = if fn.val = 0 then c.entry.p0 % 16 else fnPart fn)
    (hlive : (s.part p).live = true) (hremoval : (s.part p).removal = none) :
    exec (.partRemove fn q) s = .next ((started s fn q c).removePart p (some (fn, q, c.entry.seq)) none) := by
  subst hp
  refine congrArg Host.Outcome.next ((State.hostCmd_ready _ hready).trans ?_)
  simp only [started_part, hlive, hremoval, Bool.not_true, Bool.false_eq_true, if_false, finishCmd_running]

end

theorem exec_removalDrainEnd_drained {s : State} {p : Fin 16} {r : Removal} (hremoval : (s.part p).removal = some r) (hdrain : r.step = .drain)
    (hidle : s.dmaBusy p = false) : exec (.removalDrainEnd p) s = .next (s.drained p) := by
  show execRemovalDrainEnd p s = _
  simp only [execRemovalDrainEnd, hremoval, hdrain, hidle, and_self, if_true]

end Sys2Proof.Machine
end

section
/-! The statement on the opening and the closing of partitions. -/

namespace Sys2Proof.Machine

/-- Settles O23: the opening by what its steps leave of the partition, the removal and its drain by the frames of what they stop. That a joining member's PART_CREATE completes DONE once its KEM slot is made is the model's choice (log 40, DEDUCED). -/
theorem partitionsOpenAndClose : Obligations.PartitionsOpenAndClose := by
  intro fn q ctx c bs p s a
  refine ⟨?opens, ?closes, ?drains⟩
  case opens =>
    intro hready hheld hcheck hp hjoins hkem
    obtain ⟨hsess, hrecord, -, horigin⟩ := a.part_joined hp hjoins
    refine ⟨_, exec_partCreate_joins hready hheld hcheck hp hjoins hkem, ?_⟩
    obtain ⟨hnotedSess, hnotedRecord, hnotedOrigin, hnoted⟩ := State.part_noteSession hsess .done
    rw [State.part_completes]
    exact ⟨hnotedSess, hnotedRecord.trans hrecord, hnotedOrigin.trans horigin, hnoted⟩
  case closes =>
    intro hready hp hlive hremoval
    obtain ⟨hsess, hrekey, hhbm⟩ := a.removePart_closing p (some (fn, q, c.entry.seq)) none
    refine ⟨_, exec_partRemove_live hready hp hlive hremoval, hsess, hrekey, ?_⟩
    rw [hhbm, Hbm.part_revoke]
    exact ⟨rfl, rfl⟩
  case drains => exact fun r hremoval hdrain hidle => ⟨_, exec_removalDrainEnd_drained hremoval hdrain hidle, State.drained_sec hremoval⟩

end Sys2Proof.Machine
end

section
/-! SUPPORT. Session commands (R292, R294, R295, R453): when each proceeds, and what it then does. -/

namespace Sys2Proof.Machine

/-! ### Owner import (R294) -/

/-- A bit that is set reads as set. -/
theorem bit_setBits_one (v i : Nat) : bit (setBits v i 1 1) i = true := decide_eq_true (bits_setBits_same v i 1 1)

/-- A partition with an owner marked imported is not at reset. -/
theorem Part.ne_reset_of_imported {x : Part} {v j : Nat} (h : x.imported = setBits v j 1 1) : x ≠ .reset := by
  rintro rfl
  exact Bool.noConfusion ((bit_zero j).symm.trans ((congrArg (bit · j) h).trans (bit_setBits_one v j)))

/-- Arming leaves which owners have imported (R292 step 7). -/
theorem State.tryArm_imported (s : State) (p : Nat) : ((s.tryArm p).part p).imported = (s.part p).imported := by
  unfold State.tryArm
  dsimp only
  split
  · exact (congrArg Part.imported (s.part_setPart p (x := { s.part p with sess := .armed }) SessState.noConfusion) :)
  · rfl

/-- An import that ends DONE has marked its owner imported. -/
theorem State.ownerImport_done {s a : State} {p : Nat} {bs : List Byte} (h : s.ownerImport p bs = (a, .done)) : bit (a.part p).imported (field bs 0x638 1) = true := by
  have hfails : ∀ {b : State} {st : Status}, st ≠ .done → (b, st) ≠ (a, .done) := fun hst e => hst (congrArg Prod.snd e)
  unfold State.ownerImport at h
  extract_lets x j at h
  split at h
  · exact absurd h (hfails Status.noConfusion)
  · split at h
    next b st i himport =>
      split at h
      next hst => exact absurd h (hfails hst)
      split at h
      · exact absurd h (hfails Status.noConfusion)
      · obtain ⟨rfl, -⟩ := Prod.mk.inj h
        rw [State.tryArm_imported, State.updPart, State.setPart, State.part, Store.get_set_same _ _ (Part.ne_reset_of_imported rfl)]
        exact bit_setBits_one _ j

/-! ### Signatures (R285) -/

/-- A signature made has taken Scarab's next index, and changes Scarab alone. -/
theorem State.sign_made {s b : State} {digest : Nat → BitVec 256} {i : Nat} {sig : List Byte} (h : s.sign digest = .made b i sig) :
    ∃ k, s.sec.sign = .signed k i ∧ b = { s with sec := k } := by
  unfold State.sign at h
  split at h
  · cases h
  · split at h
    next k j hsign =>
      obtain ⟨rfl, rfl, -⟩ := Signed.made.inj h
      exact ⟨k, hsign, rfl⟩
    · cases h
    · cases h

/-! ### The commands -/

section
variable {s : State} {fn : Fin 17} {q : Fin 8192} {ctx : Nat} {c : Cmd}

/-- EVIDENCE with room for the whole structure, its signature made and its session not OPENED: structure, signature and certificates go to the host (R453). -/
theorem exec_evidence_made {bs sig : List Byte} {b : State} {i : Nat} (hready : HostReady s fn q 0x22 ctx c)
    (hroom : evidenceFront + signatureBytes + 4 + s.fwm.cert.length ≤ c.entry.p2) (hsess : (s.part (fnPart fn)).sess ≠ .opened)
    (hsign : (started s fn q c).sign (fun i => Config.shake256 ((started s fn q c).evidenceFor (fnPart fn) (field bs 0 32) i)) = .made b i sig) :
    exec (.evidence fn q (some bs)) s = .next (completes ((b.setPart (fnPart fn) (b.part (fnPart fn))).emit
      [.hostWrite fn c.entry.p1 ((started s fn q c).evidenceFor (fnPart fn) (field bs 0 32) i ++ sig ++ natBytes s.fwm.cert.length 4 ++ s.fwm.cert)]) fn q c .done
        (evidenceFront + signatureBytes + 4 + s.fwm.cert.length) 0) := by
  obtain ⟨k, hsigned, hb⟩ := State.sign_made hsign
  have hsec : s.sec.sign = .signed k i := hsigned
  have hkept : b.part (fnPart fn) = s.part (fnPart fn) := by rw [hb]; rfl
  show execEvidence fn q (some bs) s = _
  unfold execEvidence
  simp only [hsec, Bool.false_and, Bool.false_eq_true, if_false]
  refine congrArg Host.Outcome.next ((State.hostCmd_ready _ hready).trans ?_)
  simp only [withHost, started_fwm, if_neg (Nat.not_lt.2 hroom), hsign, State.updPart, hkept, if_neg hsess, finishCmd_done]

/-- SESSION_JOIN from the peer of its port, where sessions may open, on a member that holds no secret: the import's status decides (R292 step 2). -/
theorem exec_sessionJoin_imports {peer : PeerEvidence} {w : Wrapped} {a : State} {st : Status} {i : Nat} (hready : HostReady s fn q 0x23 ctx c)
    (hallowed : s.sessionsAllowed = true) (horigin : (s.part (fnPart fn)).origin = false) (hport : c.entry.p0 % 64 < 36)
    (hpeer : (s.port (c.entry.p0 % 64)).peerSerial = peer.serial) (hslot : (s.part (fnPart fn)).sessionSlot = 0)
    (himport : (started s fn q c).importFor (fnPart fn) (s.part (fnPart fn)).kemSlot kindSession ((started s fn q c).joinMessage (fnPart fn) peer w) = (a, st, i))
    (origin sid : Nat) :
    (st ≠ .done → exec (.sessionJoin fn q peer w origin sid) s = .next (a.failOpen (fnPart fn) (fn, q, c.entry.seq) st)) ∧
      ∀ b, st = .done → (a.updPart (fnPart fn) fun y => { y with sessionSlot := i }).openMemory (fnPart fn) = (b, .done) →
        exec (.sessionJoin fn q peer w origin sid) s = .next (completes b fn q c .done 0 0) := by
  have hpasses : ¬ ((!(started s fn q c).sessionsAllowed) = true ∨ (s.part (fnPart fn)).origin = true ∨ 36 ≤ c.entry.p0 % 64 ∨
      (s.port (c.entry.p0 % 64)).peerSerial ≠ peer.serial) := by
    have hopen : (started s fn q c).sessionsAllowed = true := hallowed
    simp [hopen, horigin, hport, hpeer]
  have hstart : exec (.sessionJoin fn q peer w origin sid) s = _ := congrArg Host.Outcome.next (State.hostCmd_ready _ hready)
  simp only [started_part, started_port, if_neg hpasses, if_pos hslot, himport] at hstart
  refine ⟨fun hst => ?_, fun b hst hopen => ?_⟩ <;> rw [hstart]
  · simp only [if_pos hst, finishCmd_running]
  · simp only [hst, hopen, ne_eq, not_true_eq_false, if_false, finishCmd_ends]

theorem exec_ownerImport {bs : List Byte} {a : State} {st : Status} (hready : HostReady s fn q 0x24 ctx c)
    (himport : (started s fn q c).ownerImport (fnPart fn) bs = (a, st)) :
    exec (.ownerImport fn q (some bs)) s = .next (completes (a.noteSession (fnPart fn) st) fn q c st 0 0) := by
  refine congrArg Host.Outcome.next ((State.hostCmd_ready _ hready).trans ?_)
  simp only [withHost, himport, finishCmd_ends]

/-- SESSION_REKEY of an ACTIVE session on its originating module, with no re-key in progress, begins one (R295). -/
theorem exec_sessionRekey_begins {a : State} {st : Status} (hready : HostReady s fn q 0x25 ctx c) (horigin : (s.part (fnPart fn)).origin = true)
    (hactive : (s.part (fnPart fn)).sess = .active) (hidle : (s.part (fnPart fn)).rekey = none) (hbegin : (started s fn q c).beginRekey (fnPart fn) = (a, st)) :
    exec (.sessionRekey fn q) s = .next (completes a fn q c st 0 0) := by
  refine congrArg Host.Outcome.next ((State.hostCmd_ready _ hready).trans ?_)
  simp [horigin, hactive, hidle, hbegin]

end

end Sys2Proof.Machine
end

section
/-! The statement on the session commands. -/

namespace Sys2Proof.Machine

/-- Settles O24: each command by what it does once its checks pass. That a join that fails removes the partition, its command completing when that is GONE, is the model's choice (log 40, DEDUCED). -/
theorem sessionCommandsComplete : Obligations.SessionCommandsComplete := by
  intro fn q ctx c bs peer w o sid s a p
  refine ⟨fun b i sig hready hroom hsess hsign => exec_evidence_made hready hroom hsess hsign,
    fun a1 st i hready hallowed horigin hport hpeer hslot himport => exec_sessionJoin_imports hready hallowed horigin hport hpeer hslot himport o sid,
    fun a1 st hready himport => ⟨exec_ownerImport hready himport, fun hdone => ?_⟩,
    fun a1 st hready horigin hactive hidle hbegin => exec_sessionRekey_begins hready horigin hactive hidle hbegin⟩
  subst hdone
  exact State.ownerImport_done himport

end Sys2Proof.Machine
end

section
/-! SUPPORT. Ports (R315, R325): what a port reads as after a write, and what a change of a port's state keeps of the map and of every port. -/

namespace Sys2Proof.Machine

/-! ### Reads and writes of a port -/

/-- A port reads as what was written to it, when that is not a port at reset. -/
theorem State.port_setPort (s : State) (k : Nat) {x : Port} (h : x ≠ .reset) : (s.setPort k x).port k = x := Store.get_set_same _ _ h

/-- Other ports read as before. -/
theorem State.port_setPort_ne (s : State) {k j : Nat} (x : Port) (h : j ≠ k) : (s.setPort k x).port j = s.port j := Store.get_set_ne _ _ h

/-- The last write of a port stands. -/
theorem State.setPort_setPort (s : State) (k : Nat) {x : Port} (y : Port) (h : x ≠ .reset) : (s.setPort k x).setPort k y = s.setPort k y := by
  simp only [State.setPort, Links.setPort, Store.set_set _ _ _ h]

/-- A change of the port just written. -/
theorem State.updPort_setPort (s : State) (k : Nat) {x : Port} (h : x ≠ .reset) (f : Port → Port) : (s.setPort k x).updPort k f = s.setPort k (f x) := by
  rw [State.updPort, s.port_setPort k h, s.setPort_setPort k _ h]

/-- A port that is not OFF is not at reset. -/
theorem Port.ne_reset {x : Port} (h : x.state ≠ .off) : x ≠ .reset := by
  rintro rfl
  exact h rfl

theorem Port.ne_reset_of_eq {x : Port} {st : PortState} (h : x.state = st) (hst : st ≠ .off) : x ≠ .reset := Port.ne_reset (h ▸ hst)

theorem State.port_eq_of_links {s u : State} (h : u.links = s.links) (k : Nat) : u.port k = s.port k := congrArg (fun l : Links => l.port k) h

theorem State.complete_links (s : State) (fn q seq : Nat) (st : Status) (r0 r1 : Nat) : (s.complete fn q seq st r0 r1).links = s.links := by
  rw [State.complete_eq]

theorem completes_links (s : State) (fn q : Nat) (c : Cmd) (st : Status) (r0 r1 : Nat) : (completes s fn q c st r0 r1).links = s.links :=
  s.complete_links _ _ _ _ _ _

theorem State.opticalClocks_eq (s : State) : s.opticalClocks = { s with pwr := s.opticalClocks.pwr } := by
  unfold State.opticalClocks
  split <;> rfl

/-! ### What a port keeps -/

/-- A port but for what bindings, streams and a completion change of it: its waiting frames, its entries and the command that waits for a training. -/
def Port.core (x : Port) : Port := { x with txQ := [], entries := [], asker := none }

theorem Port.ne_reset_of_core {x : Port} (h : x.core ≠ .reset) : x ≠ .reset := by
  rintro rfl
  exact h rfl

/-- A port that is not OFF has a core that is not at reset. -/
theorem Port.core_ne_reset {x : Port} (h : x.state ≠ .off) : x.core ≠ .reset := Port.ne_reset (x := x.core) h

/-- From s to u the map stands, and every port whose core is not at reset keeps its core. -/
structure KeepsPorts (s u : State) : Prop where
  map : u.links.map = s.links.map
  core : ∀ k, (s.port k).core ≠ .reset → (u.port k).core = (s.port k).core

theorem KeepsPorts.of_links {s u : State} (h : u.links = s.links) : KeepsPorts s u := ⟨by rw [h], fun k _ => by rw [State.port_eq_of_links h]⟩

theorem KeepsPorts.refl (s : State) : KeepsPorts s s := .of_links rfl

theorem KeepsPorts.trans {s t u : State} (h : KeepsPorts s t) (g : KeepsPorts t u) : KeepsPorts s u :=
  ⟨g.map.trans h.map, fun k hk => (g.core k (by rwa [h.core k hk])).trans (h.core k hk)⟩

theorem KeepsPorts.foldl {α : Type} {f : State → α → State} (hf : ∀ a x, KeepsPorts a (f a x)) (xs : List α) (s : State) : KeepsPorts s (xs.foldl f s) := by
  induction xs generalizing s with
  | nil => exact .refl s
  | cons x xs ih => exact (hf s x).trans (ih _)

/-- A write that keeps the core of its port. -/
theorem State.setPort_keepsPorts (s : State) (j : Nat) {x : Port} (hx : x.core = (s.port j).core) : KeepsPorts s (s.setPort j x) := by
  refine ⟨rfl, fun k hk => ?_⟩
  by_cases hkj : k = j
  · subst hkj
    rw [s.port_setPort k (Port.ne_reset_of_core (hx ▸ hk)), hx]
  · rw [s.port_setPort_ne x hkj]

/-- A flush takes of a port waiting frames alone (R193). -/
theorem State.flushQueue_keepsPorts (s : State) (i : Nat) : KeepsPorts s (s.flushQueue i) := by
  unfold State.flushQueue
  dsimp only
  split
  · exact .of_links rfl
  · split
    · have hflushed : ∀ q, KeepsPorts s { s with streams := q } := fun _ => .of_links rfl
      exact (hflushed _).trans (State.setPort_keepsPorts _ _ (by rfl))
    · exact .of_links rfl

theorem State.updTiles_links (s : State) (ts : List Nat) (f : Tile → Tile) : (s.updTiles ts f).links = s.links :=
  foldl_keeps (g := State.links) (fun a t => a.updTile_links t f) ts s

theorem State.complete_keepsPorts (s : State) (fn q seq : Nat) (st : Status) (r0 r1 : Nat) : KeepsPorts s (s.complete fn q seq st r0 r1) :=
  .of_links (s.complete_links _ _ _ _ _ _)

theorem State.stopRun_keepsPorts (s : State) (p : Nat) (st : Status) : KeepsPorts s (s.stopRun p st) := by
  unfold State.stopRun
  dsimp only
  split
  · exact .refl s
  · split
    · exact .refl s
    · refine KeepsPorts.trans (.of_links ?_) (KeepsPorts.foldl State.flushQueue_keepsPorts _ _)
      exact State.updTiles_links (s.setJob p _) _ _

theorem State.cancelFill_keepsPorts (s : State) (p : Nat) : KeepsPorts s (s.cancelFill p) := by
  unfold State.cancelFill
  split
  · exact .refl s
  · have hasked : ∀ (a : State) f, KeepsPorts a (a.updSnap p f) := fun _ _ => .of_links rfl
    exact (KeepsPorts.foldl (fun a k => a.setPort_keepsPorts k (by rfl)) _ s).trans ((hasked _ _).trans (State.complete_keepsPorts _ _ _ _ _ _ _))

theorem State.jobFault_keepsPorts (s : State) (cls source unit : Nat) (st : Status) (p detail : Nat) : KeepsPorts s (s.jobFault cls source unit st p detail) :=
  (KeepsPorts.of_links (s.report_noted _ _ _ _ _ _).links).trans ((State.stopRun_keepsPorts _ _ _).trans (State.cancelFill_keepsPorts _ _))

theorem State.judgePort_keepsPorts (s : State) (k : Nat) (old : Port) (p : Nat) : KeepsPorts s (s.judgePort k old p) := by
  have hreport : ∀ (a : State) cls src unit st part detail, KeepsPorts a (a.report cls src unit st part detail) :=
    fun a _ _ _ _ _ _ => .of_links (a.report_noted _ _ _ _ _ _).links
  unfold State.judgePort
  extract_lets x lost st bad s1
  have hmirror : KeepsPorts s s1 := by
    unfold s1
    split <;> exact .of_links rfl
  refine hmirror.trans ?_
  split
  · split
    · exact State.jobFault_keepsPorts _ _ _ _ _ _ _
    · exact hreport _ _ _ _ _ _ _
  · split
    · exact hreport _ _ _ _ _ _ _
    · exact .refl _

theorem State.freeLink_links (s : State) (p slot : Nat) : (s.freeLink p slot).links = s.links := by
  unfold State.freeLink
  dsimp only
  split <;> rfl

theorem State.sayReady_links (s : State) (k : Nat) : (s.sayReady k).links = s.links := by
  unfold State.sayReady
  dsimp only
  split <;> rfl

theorem Port.rekeyAll_core (x : Port) : x.rekeyAll.core = x.core := by
  unfold Port.rekeyAll
  split <;> rfl

/-- A re-key of a port's entries changes entries alone (R332). -/
theorem State.rekeyPort_keepsPorts (s : State) (k : Nat) : KeepsPorts s (s.rekeyPort k) := by
  have hclosed : ∀ (a : State) (c : Nat × Nat × Nat), KeepsPorts a ((a.updPort k fun x =>
      x.setEntry c.1 ((x.entry c.1).map fun y => { y with next := none, flipped := false })).freeLink c.2.1 c.2.2) :=
    fun a c => (a.setPort_keepsPorts k (by rfl)).trans (.of_links (State.freeLink_links _ _ _))
  exact (s.setPort_keepsPorts k (Port.rekeyAll_core _)).trans (KeepsPorts.foldl hclosed _ _)

theorem State.endTraining_keepsPorts (s : State) (k : Nat) : KeepsPorts s (s.endTraining k) := by
  unfold State.endTraining
  dsimp only
  split
  · split
    · exact (s.setPort_keepsPorts k (by rfl)).trans (State.complete_keepsPorts _ _ _ _ _ _ _)
    · exact .refl s
  · exact .refl s

/-- What follows a port's change of state keeps the map and every port's core (R325). -/
theorem State.portMoved_keepsPorts (s : State) (k : Nat) (old : Port) : KeepsPorts s (s.portMoved k old) := by
  unfold State.portMoved
  extract_lets x s1 r s2 s3 s4
  have hclocks : KeepsPorts s s1 := .of_links (by unfold s1; rw [State.opticalClocks_eq]; rfl)
  have htwin : KeepsPorts s1 s2 := by
    unfold s2
    split <;> exact .of_links rfl
  have hjudged : KeepsPorts s2 s3 := KeepsPorts.foldl (fun a p => a.judgePort_keepsPorts k old p) _ _
  have hrekeyed : KeepsPorts s3 s4 := by
    unfold s4
    split
    · exact (KeepsPorts.of_links (State.sayReady_links _ _)).trans (State.rekeyPort_keepsPorts _ _)
    · exact .refl _
  split
  · exact .refl s
  · exact hclocks.trans (htwin.trans (hjudged.trans (hrekeyed.trans (State.endTraining_keepsPorts _ _))))

theorem State.movePort_map (s : State) (k : Nat) (f : Port → Port) : (s.movePort k f).links.map = s.links.map := (State.portMoved_keepsPorts _ _ _).map

/-- A port that is changed to one whose core is not at reset has that core, whatever follows. -/
theorem State.movePort_core {s : State} {k : Nat} {f : Port → Port} (h : (f (s.port k)).core ≠ .reset) : ((s.movePort k f).port k).core = (f (s.port k)).core := by
  have hwritten : (s.updPort k f).port k = f (s.port k) := s.port_setPort k (Port.ne_reset_of_core h)
  rw [← hwritten]
  exact (State.portMoved_keepsPorts _ _ _).core k (hwritten ▸ h)

/-! ### Changes of state within a training -/

/-- From s to u the clocks, the log and the state of mirrors change, nothing else. -/
structure Trains (s u : State) : Prop where
  eq : u = { s with pwr := u.pwr, fwm := u.fwm, snaps := u.snaps }

theorem Trains.refl (s : State) : Trains s s := ⟨rfl⟩

theorem Trains.trans {s t u : State} (h : Trains s t) (g : Trains t u) : Trains s u :=
  ⟨g.eq.trans (congrArg (fun (a : State) => { a with pwr := u.pwr, fwm := u.fwm, snaps := u.snaps }) h.eq)⟩

section
variable {s u : State} (h : Trains s u)
include h

theorem Trains.links : u.links = s.links := (congrArg State.links h.eq :)
theorem Trains.streams : u.streams = s.streams := (congrArg State.streams h.eq :)
theorem Trains.sec : u.sec = s.sec := (congrArg State.sec h.eq :)
theorem Trains.out : u.out = s.out := (congrArg State.out h.eq :)

end

/-- In TRAINING and IDENT no partition has a fault of its port; a mirror copy that lost frames fails. -/
theorem State.judgePort_trains {s : State} {k : Nat} (h : (s.port k).state = .training ∨ (s.port k).state = .ident) (old : Port) (p : Nat) :
    Trains s (s.judgePort k old p) := by
  unfold State.judgePort
  extract_lets x lost st bad s1
  have hmirror : Trains s s1 := by
    unfold s1
    split <;> exact ⟨rfl⟩
  have hbad : bad = false := by
    obtain h | h := h <;> simp [bad, x, h]
  have hlit : ¬ (old.state = .up ∧ x.state = .retrain ∧ s.otherPort k p = true) := by
    obtain h | h := h <;> simp [x, h]
  rw [hbad, if_neg Bool.false_ne_true, if_neg hlit]
  exact hmirror

/-- A port that has gone to TRAINING or IDENT: the command that trains it waits on. -/
theorem State.portMoved_trains {s : State} {k : Nat} (h : (s.port k).state = .training ∨ (s.port k).state = .ident) (old : Port) : Trains s (s.portMoved k old) := by
  have hjudged : ∀ (ps : List Nat) (a : State), Trains s a → Trains s (ps.foldl (fun (b : State) p => b.judgePort k old p) a) := by
    intro ps
    induction ps with
    | nil => exact fun a ha => ha
    | cons p ps ih => exact fun a ha => ih _ (ha.trans (State.judgePort_trains (by rwa [State.port_eq_of_links ha.links]) old p))
  have hends : ∀ a : State, Trains s a → a.endTraining k = a := by
    intro a ha
    have hport := State.port_eq_of_links ha.links k
    unfold State.endTraining
    dsimp only
    rw [hport]
    split
    · obtain h | h := h <;> simp [h, PortState.settled]
    · rfl
  have hnotUp : (s.port k).state ≠ .up := by
    obtain h | h := h <;> simp [h]
  have hnotTwin : ¬ ((s.port k).state = .up ∧ 32 ≤ k) := fun hup => hnotUp hup.1
  have hclocks : Trains s (s.trace 0x0400 noPart 0 [k, old.state.code, (s.port k).state.code]).opticalClocks := by
    rw [State.opticalClocks_eq]
    exact ⟨rfl⟩
  unfold State.portMoved
  dsimp only
  rw [if_neg hnotTwin, if_neg hnotUp, hends _ (hjudged _ _ hclocks)]
  split
  · exact .refl s
  · exact hjudged _ _ hclocks

/-- A port that goes to TRAINING or IDENT reads as it was changed; streams, Scarab and what has left the module stand. -/
theorem State.movePort_trains {s : State} {k : Nat} {f : Port → Port} (h : (f (s.port k)).state = .training ∨ (f (s.port k)).state = .ident) :
    Trains (s.updPort k f) (s.movePort k f) ∧ (s.movePort k f).port k = f (s.port k) := by
  have hwritten : (s.updPort k f).port k = f (s.port k) := s.port_setPort k (Port.ne_reset (by obtain h | h := h <;> simp [h]))
  have htrains := State.portMoved_trains (s := s.updPort k f) (by rwa [hwritten]) (s.port k)
  exact ⟨htrains, (State.port_eq_of_links htrains.links k).trans hwritten⟩

end Sys2Proof.Machine
end

section
/-! SUPPORT. Port commands (Table 12.12, R317, R319, R323 to R325): what each does when the control cluster writes it, and a map against the ports. -/

namespace Sys2Proof.Machine

/-- With no PORT_CMD that asks for it, an action is the control cluster's own. -/
theorem State.portCmd_own {s : State} (hready : s.ready = true) (hup : s.clusterUp = true) {k action wave dir : Nat} (hask : s.portAsk k action wave dir = none)
    (f : State → State × Option Status) : s.portCmd k action wave dir f = (f s).1 := by
  simp [State.portCmd, hready, hup, hask]

/-! ### Rebinding a partition's LINK streams (R324) -/

theorem State.cutSome_keepsPorts (n : Nat) (s : State) (i : Nat) : KeepsPorts s (s.cutSome n i) := by
  induction n generalizing s with
  | zero => exact .refl s
  | succ n ih =>
    unfold State.cutSome
    split
    next u hcut =>
      refine KeepsPorts.trans ?_ (ih u)
      unfold State.cut at hcut
      dsimp only at hcut
      split at hcut
      · obtain ⟨id, -, rfl⟩ := Option.map_eq_some_iff.1 hcut
        exact s.setPort_keepsPorts _ (by rfl)
      · cases hcut
    · exact .refl s

/-- Moving a partition's LINK_OUT streams to other ports moves waiting frames alone. -/
theorem State.moveLinks_keepsPorts (s : State) (p : Nat) : KeepsPorts s (s.moveLinks p) := by
  unfold State.moveLinks
  split
  · exact .refl s
  · refine KeepsPorts.foldl (fun a i => ?_) _ s
    dsimp only
    split
    · exact .refl a
    · split
      · exact .refl a
      · split
        · exact .refl a
        · split
          · exact .refl a
          · have hmoved : ∀ (b : State) q, KeepsPorts b { b with streams := q } := fun _ _ => .of_links rfl
            exact (a.setPort_keepsPorts _ (by rfl)).trans ((hmoved _ _).trans (State.cutSome_keepsPorts _ _ _))

/-! ### The commands -/

section
variable {s : State} {k : Fin 36} (hready : s.ready = true) (hup : s.clusterUp = true)
include hready hup

/-- TRAIN of an OFF port with a role: TRAINING, the link layer anew (R319). -/
theorem exec_train_off (hask : s.portAsk k 1 0 0 = none) (hrole : s.roleOf k ≠ 0) (hoff : (s.port k).state = .off) :
    exec (.train k) s = .next (s.movePort k fun x => x.train.anew) := by
  refine congrArg Host.Outcome.next ((State.portCmd_own hready hup hask _).trans ?_)
  simp [hrole, hoff]

theorem exec_disable_own (hask : s.portAsk k 2 0 0 = none) : exec (.disable k) s = .next (s.movePort k fun x => x.dropTo .off .done) :=
  congrArg Host.Outcome.next (State.portCmd_own hready hup hask _)

theorem exec_retrain_up (hask : s.portAsk k 3 0 0 = none) (hstate : (s.port k).state = .up) : exec (.retrain k) s = .next (s.retrainPort k) := by
  refine congrArg Host.Outcome.next ((State.portCmd_own hready hup hask _).trans ?_)
  simp [hstate]

end

/-- A move of the spare that may begin: it is noted, and a receiver asks its peer (R316 steps 1 and 2). -/
theorem State.startSwap_begins {s : State} {k wave : Nat} {rx : Bool} (hstate : (s.port k).state = .up) (hspare : (s.port k).spare (b2n rx) ≠ noWave)
    (hfree : (s.port k).moving (b2n rx) = false) (hwave : bit ((s.port k).waves (b2n rx)) wave = true) :
    s.startSwap k (b2n rx) wave =
      (s.setPort k { s.port k with move := (s.port k).move ++ [⟨b2n rx, wave, false, 0⟩] }).emit (if rx then [.swapMsg k 0 wave 0] else []) := by
  have hbegins : ¬ ((s.port k).state ≠ .up ∨ (s.port k).spare (b2n rx) = noWave ∨ (s.port k).moving (b2n rx) = true ∨
      (!bit ((s.port k).waves (b2n rx)) wave) = true) := by
    simp [hstate, hspare, hfree, hwave]
  unfold State.startSwap
  dsimp only
  rw [if_neg hbegins]
  cases rx <;> rfl

/-- SWAP of a wavelength in use, with a spare that is free to take it: the move begins, and the command is DONE (R316, R317). -/
theorem exec_swap_begins {s : State} {k : Fin 36} (hready : s.ready = true) (hup : s.clusterUp = true) {wave : Fin 5} {rx : Bool}
    (hask : s.portAsk k 5 wave (b2n rx) = none) (hstate : (s.port k).state = .up)
    (hspare : (s.port k).spare (b2n rx) ≠ noWave) (hfree : (s.port k).moving (b2n rx) = false) (hwave : bit ((s.port k).waves (b2n rx)) wave = true) :
    exec (.swap k wave rx) s =
      .next ((s.setPort k { s.port k with move := (s.port k).move ++ [⟨b2n rx, wave, false, 0⟩], lastStatus := .done }).emit (if rx then [.swapMsg k 0 wave 0] else [])) := by
  refine congrArg Host.Outcome.next ((State.portCmd_own hready hup hask _).trans ?_)
  dsimp only
  rw [if_neg hspare, State.startSwap_begins hstate hspare hfree hwave]
  have hmoving : { s.port k with move := (s.port k).move ++ [⟨b2n rx, wave, false, 0⟩] } ≠ Port.reset := Port.ne_reset_of_eq hstate PortState.noConfusion
  exact congrArg (fun a : State => a.emit (if rx then [.swapMsg k 0 wave 0] else [])) (s.updPort_setPort k hmoving fun x => { x with lastStatus := .done })

/-- A port that enters RETRAIN is counted; past the limit of a second it is FAILED (R325). -/
theorem Port.enterRetrain_state (x : Port) (limit : Nat) :
    (x.enterRetrain limit).state = (if limit < x.inSecond + 1 then .failed else .retrain) ∧ (x.enterRetrain limit).retrains = satAdd 8 x.retrains 1 := by
  unfold Port.enterRetrain
  dsimp only
  split <;> exact ⟨rfl, rfl⟩

theorem State.retrainPort_state (s : State) (k : Nat) :
    ((s.retrainPort k).port k).state = (if s.links.retrainLimit < (s.port k).inSecond + 1 then .failed else .retrain) ∧
      ((s.retrainPort k).port k).retrains = satAdd 8 (s.port k).retrains 1 := by
  obtain ⟨hstate, hcount⟩ := (s.port k).enterRetrain_state s.links.retrainLimit
  have hlit : ((s.port k).enterRetrain s.links.retrainLimit).core ≠ .reset := by
    refine Port.core_ne_reset ?_
    rw [hstate]
    split <;> exact PortState.noConfusion
  have hcore := State.movePort_core (f := fun x => x.enterRetrain s.links.retrainLimit) hlit
  exact ⟨(congrArg Port.state hcore).trans hstate, (congrArg Port.retrains hcore).trans hcount⟩

/-- A port disabled that had settled on a version with its peer is OFF, with no peer of before (R325). -/
theorem State.disabled_state {s : State} {k : Nat} (hversion : (s.port k).version ≠ 0) :
    ((s.movePort k fun x => x.dropTo .off .done).port k).state = .off ∧ ((s.movePort k fun x => x.dropTo .off .done).port k).before = none := by
  have hsettled : ((s.port k).dropTo .off .done).core ≠ .reset := fun hreset => hversion (congrArg Port.version hreset :)
  have hcore := State.movePort_core (f := fun x => x.dropTo .off .done) hsettled
  exact ⟨congrArg Port.state hcore, congrArg Port.before hcore⟩

/-- The state with another map in force. -/
def State.withMap (s : State) (m : Store MapEntry) : State := { s with links := { s.links with map := m } }

@[simp] theorem State.withMap_port (s : State) (m : Store MapEntry) (k : Nat) : (s.withMap m).port k = s.port k := rfl
@[simp] theorem State.withMap_ports (s : State) (m : Store MapEntry) : (s.withMap m).links.ports = s.links.ports := rfl
@[simp] theorem State.withMap_map (s : State) (m : Store MapEntry) : (s.withMap m).links.map = m := rfl

/-- The map with the peer found on a port in the place of the one expected. -/
def State.remapped (s : State) (k : Nat) : Store MapEntry :=
  Store.set .unused s.links.map k { Store.get MapEntry.unused s.links.map k with peerPort := (s.port k).peerPort, peerSerial := (s.port k).peerSerial }

/-- ACCEPT_REMAP of a MISWIRED port whose partitions do not run: the peer found is in the map, the port is UP, and its partitions' LINK streams are moved (R324). -/
theorem exec_acceptRemap_idle {s : State} {k : Fin 36} (hready : s.ready = true) (hup : s.clusterUp = true) (hask : s.portAsk k 4 0 0 = none)
    (hstate : (s.port k).state = .miswired) (hidle : (s.port k).parts.all (fun p => (s.job p).run.isNone) = true) :
    exec (.acceptRemap k) s = .next ((s.port k).parts.foldl (fun (b : State) p => b.moveLinks p)
      ((s.withMap (s.remapped k)).movePort k fun y => { y with state := .up, lastStatus := .done })) := by
  have hnoRun : ¬ ((s.port k).parts.any fun p => (s.job p).run.isSome) = true := by
    simpa using hidle
  refine congrArg Host.Outcome.next ((State.portCmd_own hready hup hask _).trans ?_)
  dsimp only
  rw [if_neg (not_not_intro hstate), if_neg hnoRun]
  rfl

/-- Then the port is UP under the new map, whatever its partitions' streams do. -/
theorem State.moveLinks_remapped (s : State) (k : Nat) (m : Store MapEntry) (ps : List Nat) :
    let u := ps.foldl (fun (b : State) p => b.moveLinks p) ((s.withMap m).movePort k fun y => { y with state := .up, lastStatus := .done })
    (u.port k).state = .up ∧ u.links.map = m := by
  intro u
  have hup : { s.port k with state := .up, lastStatus := .done }.core ≠ .reset := Port.core_ne_reset PortState.noConfusion
  have hcore := State.movePort_core (s := s.withMap m) (f := fun y => { y with state := .up, lastStatus := .done }) hup
  have hmoved : KeepsPorts _ u := KeepsPorts.foldl State.moveLinks_keepsPorts ps _
  exact ⟨congrArg Port.state ((hmoved.core k (hcore ▸ hup)).trans hcore), hmoved.map.trans (State.movePort_map _ _ _)⟩

/-! ### TOPO_LOAD (R323) -/

theorem State.compareMap_map (s : State) (k : Nat) : (s.compareMap k).links.map = s.links.map := by
  unfold State.compareMap
  dsimp only
  split
  · split
    · rfl
    · exact s.movePort_map k _
  · split
    · exact s.movePort_map k _
    · rfl

/-- A port that is OFF stays so under any map. -/
theorem State.compareMap_off {s : State} {k : Nat} (h : (s.port k).state = .off) : s.compareMap k = s := by
  simp [State.compareMap, h]

/-- The comparison of every port leaves the map. -/
theorem State.compareMaps_map (s : State) (ks : List Nat) : (ks.foldl (fun (b : State) k => b.compareMap k) s).links.map = s.links.map :=
  foldl_keeps (g := fun a : State => a.links.map) (fun a k => a.compareMap_map k) ks s

/-- With every port OFF a new map changes no port. -/
theorem State.compareMaps_off {s : State} (h : ∀ n, (s.port n).state = .off) (m : Store MapEntry) (ks : List Nat) :
    ks.foldl (fun (b : State) k => b.compareMap k) (s.withMap m) = s.withMap m := by
  induction ks with
  | nil => rfl
  | cons k ks ih =>
    have hstands : (s.withMap m).compareMap k = s.withMap m := State.compareMap_off (by rw [State.withMap_port, h k])
    rw [List.foldl_cons, hstands, ih]

/-- A well formed map is put in force, and every port compared with it. -/
theorem exec_topoLoad_wellFormed {s : State} {fn : Fin 17} {q : Fin 8192} {ctx : Nat} {c : Cmd} {bs : List Byte} (hready : HostReady s fn q 0x30 ctx c) (hmap : mapOk bs = true) :
    exec (.topoLoad fn q (some bs)) s = .next (completes ((List.range 36).foldl (fun (b : State) k => b.compareMap k)
      ((started s fn q c).withMap (mapEntries bs))) fn q c .done 0 0) := by
  refine congrArg Host.Outcome.next ((State.hostCmd_ready _ hready).trans ?_)
  simp only [withHost, hmap, Bool.not_true, Bool.false_eq_true, if_false, finishCmd_ends]
  rfl

end Sys2Proof.Machine
end

section
/-! The statement on the port commands. -/

namespace Sys2Proof.Machine

/-- Settles O30: each command by the change of its port's state, which what follows that change keeps. The form in which the control cluster writes LNK_CMD itself, and the states from which TRAIN acts, are the model's choice (log 48, DESIGN CHOICE, and 49, DEDUCED). -/
theorem portCommandsAct : Obligations.PortCommandsAct := by
  intro k wave rx fn q ctx c bs s x
  refine ⟨fun hready hup => ⟨?train, ?disable, ?retrain, ?acceptRemap, ?swap⟩, ?topoLoad⟩
  case train =>
    intro hask hrole hoff
    obtain ⟨htrains, hport⟩ := State.movePort_trains (s := s) (k := k) (f := fun y => y.train.anew) (.inl rfl)
    exact ⟨_, exec_train_off hready hup hask hrole hoff, hport, htrains.streams, htrains.sec⟩
  case disable => exact fun hask _ hversion => ⟨_, exec_disable_own hready hup hask, State.disabled_state hversion⟩
  case retrain => exact fun hask hstate => ⟨_, exec_retrain_up hready hup hask hstate, s.retrainPort_state k⟩
  case acceptRemap => exact fun hask hstate hidle => ⟨_, exec_acceptRemap_idle hready hup hask hstate hidle, s.moveLinks_remapped k _ _⟩
  case swap =>
    intro hask hstate hspare hfree hwave
    refine ⟨_, exec_swap_begins hready hup hask hstate hspare hfree hwave, ?_⟩
    refine ⟨s.port_setPort k (Port.ne_reset_of_eq hstate PortState.noConfusion), ?_⟩
    cases rx <;> rfl
  case topoLoad =>
    intro hready hmap
    refine ⟨_, exec_topoLoad_wellFormed hready hmap, ?_, fun hoff => ?_⟩
    · rw [completes_links, State.compareMaps_map, State.withMap_map]
    · have hstarted : ∀ n, ((started s fn q c).port n).state = .off := fun n => by rw [started_port, hoff]
      rw [completes_links, State.compareMaps_off hstarted, State.withMap_ports, started_eq]

end Sys2Proof.Machine
end

section
/-! SUPPORT. Training and wavelengths (R316, R317, R319 to R325): what each step of a training does, and each step of a move of a spare. -/

namespace Sys2Proof.Machine

/-! ### Training (R319 to R325) -/

/-- A port with lock that has sent a HELLO: in TRAINING it goes to IDENT. -/
def Port.locks (x : Port) (h : Hello) : Port := { x with state := if x.state = PortState.training then .ident else x.state, locked := true, sent := some h }

theorem Port.locks_training {x : Port} (hstate : x.state = .training) (h : Hello) : x.locks h = { x with state := .ident, locked := true, sent := some h } := by
  rw [Port.locks, if_pos hstate]

/-- The lock of a port in TRAINING, with entropy for a nonce: IDENT, and HELLO leaves (R319 steps 1 and 2). -/
theorem exec_phyLock_training {s : State} {k : Fin 36} (hstate : (s.port k).state = .training) (hentropy : s.sec.entropyOk = true) :
    exec (.phyLock k) s = .next ((({ s with sec := s.sec.draw.2 } : State).movePort k fun y => y.locks (s.ownHello k s.sec.draw.1)).emit
      [.hello k (s.ownHello k s.sec.draw.1).bytes]) := by
  show execPhyLock k s = _
  have hlocks : ¬ (((s.port k).state ≠ .training ∧ ((s.port k).state ≠ .retrain ∨ (s.port k).locked = true)) ∨ s.sec.entropyOk = false) := by
    simp [hstate, hentropy]
  exact if_neg hlocks

/-- A HELLO that counts, heard in IDENT after this module's own, is answered with the PROOF over both (R319 steps 2 and 3). -/
theorem exec_hello_ident {s : State} {k : Fin 36} {own h : Hello} (hok : h.ok = true) (hsent : (s.port k).sent = some own) (hgot : (s.port k).got = none)
    (hstate : (s.port k).state = .ident) : exec (.hello k h) s =
      .next ((s.setPort k { s.port k with got := some h, peerSerial := h.serial, peerPort := h.port, peerVersions := h.versions, peerFw := h.fwVersion }).emit
        [.proof k (natBytes (proofTag (s.sec.keyOf classSlot) own h) 32)]) := by
  show execHello k h s = _
  simp only [execHello, hok, hsent, hgot, hstate, Bool.not_true, Bool.false_eq_true, true_or, if_true, if_false]

section
variable {s : State} {k : Fin 36} {own h : Hello} {tag : BitVec 256} (hsent : (s.port k).sent = some own) (hgot : (s.port k).got = some h) (hstate : (s.port k).state = .ident)
include hsent hgot hstate

/-- A PROOF that holds settles the port (R319 steps 4 to 6). -/
theorem exec_proof_holds (htag : tag.toNat = proofTag (s.sec.keyOf classSlot) h own) : exec (.proof k tag) s = .next (s.settlePort k h) := by
  show execProof k tag s = _
  simp [execProof, hsent, hgot, hstate, htag]

/-- One that fails leaves ID_FAIL (R322). -/
theorem exec_proof_fails (htag : tag.toNat ≠ proofTag (s.sec.keyOf classSlot) h own) :
    exec (.proof k tag) s = .next (s.movePort k fun y => { y with state := .idFail, lastStatus := .accessDenied }) := by
  show execProof k tag s = _
  simp [execProof, hsent, hgot, hstate, htag]

end

/-- Steps 5 and 6 of R319, out of a training, without a version in common. -/
theorem Port.settle_noVersion {x : Port} (hstate : x.state = .ident) {h : Hello} (hversion : pickVersion 7 h.versions = 0) (map : Store MapEntry) (serial k : Nat) :
    (x.settle map serial k h).state = .versionHeld ∧ (x.settle map serial k h).lastStatus = .versionUnsupported := by
  simp [Port.settle, hstate, hversion]

/-- With a version, but another peer than the map has: MISWIRED (R324). -/
theorem Port.settle_miswired {x : Port} {h : Hello} (hversion : pickVersion 7 h.versions ≠ 0) {map : Store MapEntry} {serial k : Nat}
    (hmap : mapMatches map serial k h.serial h.port = false) :
    (x.settle map serial k h).state = .miswired ∧ (x.settle map serial k h).lastStatus = .miswired := by
  simp [Port.settle, hversion, hmap]

/-- With a version and the peer of the map: UP. -/
theorem Port.settle_up {x : Port} (hstate : x.state = .ident) {h : Hello} (hversion : pickVersion 7 h.versions ≠ 0) {map : Store MapEntry} {serial k : Nat}
    (hmap : mapMatches map serial k h.serial h.port = true) :
    (x.settle map serial k h).state = .up ∧ (x.settle map serial k h).lastStatus = .done ∧ (x.settle map serial k h).version = pickVersion 7 h.versions ∧
      (x.settle map serial k h).peerSerial = h.serial := by
  simp [Port.settle, hstate, hversion, hmap]

/-- A port in IDENT with a peer whose PROOF holds, its link layer anew, settled as the versions and the map decide. -/
def State.settledPort (s : State) (k : Nat) (h : Hello) (y : Port) : Port :=
  { y.anew.settle s.links.map s.sec.fuses.serial k h with sent := y.sent, got := y.got }

theorem State.settlePort_ident {s : State} {k : Nat} (hstate : (s.port k).state = .ident) (h : Hello) : s.settlePort k h = s.movePort k (s.settledPort k h) := by
  have hnew : decide ((s.port k).state = .retrain ∧ (s.port k).before = some (h.serial, h.port)) = false := by simp [hstate]
  unfold State.settlePort
  simp only [hnew, Bool.false_eq_true, false_and, if_false]
  rfl

/-- What the port shows once it is settled, and not OFF, stands over what follows. -/
theorem State.settlePort_shows {s : State} {k : Nat} (hstate : (s.port k).state = .ident) {h : Hello} {z : Port}
    (hz : (s.port k).anew.settle s.links.map s.sec.fuses.serial k h = z) {st : PortState} (hst : z.state = st) (hlit : st ≠ .off) :
    ((s.settlePort k h).port k).state = st ∧ ((s.settlePort k h).port k).lastStatus = z.lastStatus ∧
      ((s.settlePort k h).port k).version = z.version ∧ ((s.settlePort k h).port k).peerSerial = z.peerSerial := by
  have hsettled : s.settledPort k h (s.port k) = { z with sent := (s.port k).sent, got := (s.port k).got } := by rw [State.settledPort, hz]
  have hcore := State.movePort_core (s := s) (k := k) (f := s.settledPort k h) (by rw [hsettled]; exact Port.core_ne_reset (hst ▸ hlit))
  rw [hsettled] at hcore
  rw [State.settlePort_ident hstate]
  exact ⟨(congrArg Port.state hcore :).trans hst, (congrArg Port.lastStatus hcore :), (congrArg Port.version hcore :), (congrArg Port.peerSerial hcore :)⟩

/-- A training that has no end in time is OFF with TIMEOUT (R320). -/
theorem exec_trainTimeout_training {s : State} {k : Fin 36} (hstate : (s.port k).state = .training ∨ (s.port k).state = .ident) :
    exec (.trainTimeout k) s = .next (s.movePort k fun y => { y with state := .off, lastStatus := .timeout }) := if_pos hstate

theorem exec_lossOfLock_up {s : State} {k : Fin 36} (hstate : (s.port k).state = .up) : exec (.lossOfLock k) s = .next (s.retrainPort k) := if_pos hstate

theorem exec_retrainWindowExpire_retrain {s : State} {k : Fin 36} (hstate : (s.port k).state = .retrain) :
    exec (.retrainWindowExpire k) s = .next (s.movePort k fun y => y.dropTo .failed .timeout) := if_pos hstate

/-- A port given a state and a status that are not both those of a port at reset shows them after all that follows. -/
theorem State.movePort_shows {s : State} {k : Nat} {f : Port → Port} {st : PortState} {last : Status} (hstate : (f (s.port k)).state = st)
    (hlast : (f (s.port k)).lastStatus = last) (hnot : st ≠ .off ∨ last ≠ .done) :
    ((s.movePort k f).port k).state = st ∧ ((s.movePort k f).port k).lastStatus = last := by
  have hlit : (f (s.port k)).core ≠ .reset := by
    intro hreset
    have hoff : (f (s.port k)).state = .off := congrArg Port.state hreset
    have hdone : (f (s.port k)).lastStatus = .done := congrArg Port.lastStatus hreset
    exact hnot.elim (fun h => h (hstate.symm.trans hoff)) fun h => h (hlast.symm.trans hdone)
  have hcore := State.movePort_core hlit
  exact ⟨(congrArg Port.state hcore).trans hstate, (congrArg Port.lastStatus hcore).trans hlast⟩

/-! ### Wavelengths (R316, R317) -/

theorem Port.takeOver_swaps (x : Port) (m : WaveMove) : (x.takeOver m).swaps = satAdd 8 x.swaps 1 := by
  unfold Port.takeOver
  dsimp only
  split <;> rfl

theorem Port.takeOver_move (x : Port) (m : WaveMove) : (x.takeOver m).move = x.move.filter fun n => decide (n ≠ m) := by
  unfold Port.takeOver
  dsimp only
  split <;> rfl

/-- A take-over on the transmitting side: the failing wavelength's share is on the spare, which is used up; the receiving side stands. -/
theorem Port.takeOver_transmit {x : Port} {m : WaveMove} (hdir : m.dir = 0) :
    (x.takeOver m).txWaves = setBits (setBits x.txWaves m.wave 1 0) x.txSpare 1 1 ∧ (x.takeOver m).txSpare = noWave ∧ (x.takeOver m).rxWaves = x.rxWaves := by
  simp [Port.takeOver, hdir, Port.waves, Port.spare]

/-- A swap is counted, so the port is not at reset. -/
theorem Port.takeOver_ne_reset (x : Port) (m : WaveMove) : x.takeOver m ≠ .reset := by
  intro hreset
  have hcount : satAdd 8 x.swaps 1 = 0 := (x.takeOver_swaps m).symm.trans (congrArg Port.swaps hreset)
  unfold satAdd at hcount
  omega

section
variable {s : State} {k : Fin 36} {wave : Fin 5}

/-- A window of an active wavelength with nothing counted starts the next second, and nothing else. -/
theorem exec_wavelengthWindow_clean (hstate : (s.port k).state = .up) (hwave : bit (s.port k).rxWaves wave = true) {cw : Nat} {lost : Bool}
    (hgood : s.links.failing 0 cw lost = false) :
    exec (.wavelengthWindow k wave 0 cw lost) s = .next (s.setPort k { s.port k with inSecond := 0 }) := by
  show execWavelengthWindow k wave 0 cw lost s = _
  simp [execWavelengthWindow, hstate, hwave, hgood]

/-- A window whose wavelength is lost, with a spare free to take it: on the port with its second begun the move begins, and the peer is asked (R316 step 1). -/
theorem exec_wavelengthWindow_lost (hstate : (s.port k).state = .up) (hwave : bit (s.port k).rxWaves wave = true) (hspare : (s.port k).spare 1 ≠ noWave)
    (hfree : (s.port k).moving 1 = false) (n cw : Nat) :
    ∃ a : State, exec (.wavelengthWindow k wave n cw true) s =
      .next ((a.setPort k { s.port k with inSecond := 0, move := (s.port k).move ++ [⟨1, wave, false, 0⟩] }).emit [.swapMsg k 0 wave 0]) := by
  have hmeasured : ¬ ((s.port k).state ≠ .up ∨ (!bit (s.port k).rxWaves wave) = true) := by simp [hstate, hwave]
  have hfails : ¬ (!s.links.failing n cw true) = true := by simp [Links.failing]
  let begun := s.setPort k { s.port k with inSecond := 0 }
  let a := if n = 0 then begun else begun.report clsCorrected srcLnk k .done noPart wave
  have hlinks : a.links = begun.links := by
    unfold a
    split
    · rfl
    · exact (State.report_noted _ _ _ _ _ _ _).links
  have hport : a.port k = { s.port k with inSecond := 0 } :=
    (State.port_eq_of_links hlinks k).trans (s.port_setPort k (Port.ne_reset_of_eq hstate PortState.noConfusion))
  have hbegins := State.startSwap_begins (s := a) (k := k) (wave := wave) (rx := true) (by rw [hport]; exact hstate) (by rw [hport]; exact hspare)
    (by rw [hport]; exact hfree) (by rw [hport]; exact hwave)
  rw [hport] at hbegins
  refine ⟨a, ?_⟩
  show execWavelengthWindow k wave n cw true s = _
  unfold execWavelengthWindow
  dsimp only
  rw [if_neg hmeasured, if_neg hfails, if_neg hspare]
  exact congrArg Host.Outcome.next hbegins

/-- A peer's request for a wavelength in use: the spare is started (R316 step 2). -/
theorem exec_swapReq_begins (hstate : (s.port k).state = .up) (hspare : (s.port k).txSpare ≠ noWave) (hfree : (s.port k).moving 0 = false)
    (hwave : bit (s.port k).txWaves wave = true) :
    exec (.swapReq k wave) s = .next (s.setPort k { s.port k with move := (s.port k).move ++ [⟨0, wave, false, 0⟩] }) :=
  congrArg Host.Outcome.next (State.startSwap_begins (rx := false) hstate hspare hfree hwave)

/-- The receiver's spare has lock: the frame 64 ahead is named (R316 steps 2 and 3). -/
theorem exec_spareWavelengthLock_asked {m : WaveMove} (hmove : (s.port k).move = [m]) (hdir : m.dir = 1) (hlocked : m.locked = false) :
    exec (.spareWavelengthLock k) s =
      .next ((s.setPort k { s.port k with move := [{ m with locked := true, boundary := ((s.port k).rxLseq + 64) % 16384 }] }).emit
        [.swapMsg k 1 m.wave (((s.port k).rxLseq + 64) % 16384)]) := by
  show execSpareWavelengthLock k s = _
  simp [execSpareWavelengthLock, hmove, hdir, hlocked]

/-- The transmitter hears the frame its peer has named (R316 step 3). -/
theorem exec_swapReady_asked {m : WaveMove} (hmove : (s.port k).move = [m]) (hdir : m.dir = 0) (hwave : m.wave = wave.val) (lseq : Fin 16384) :
    exec (.swapReady k wave lseq) s = .next (s.setPort k { s.port k with move := [{ m with locked := true, boundary := lseq }] }) := by
  show execSwapReady k wave lseq s = _
  simp [execSwapReady, hmove, hdir, hwave]

/-- At the frame named, on a 1.1 or 2.0 link, the spare takes over; the move is traced and reported (R316 step 4). -/
theorem exec_spareTakeover_due {m : WaveMove} {rx : Bool} (hmove : (s.port k).move = [m]) (hdir : m.dir = b2n rx) (hlocked : m.locked = true)
    (hversion : (s.port k).version ≠ 1) (hdue : lseqDist m.boundary (((if rx then (s.port k).rxLseq else (s.port k).txLseq) + 1) % 16384) < 8192) :
    Answers (exec (.spareTakeover k rx) s) fun u => u.port k = (s.port k).takeOver m := by
  have hfound : ((s.port k).move.find? fun n => decide (n.dir = b2n rx) && n.locked) = some m := by simp [hmove, hdir, hlocked]
  have hnow : ¬ ((s.port k).version ≠ 1 ∧ 8192 ≤ lseqDist m.boundary (((if rx then (s.port k).rxLseq else (s.port k).txLseq) + 1) % 16384)) :=
    fun h => absurd hdue (Nat.not_lt.2 h.2)
  have hexec : exec (.spareTakeover k rx) s =
      .next (((s.setPort k ((s.port k).takeOver m)).trace 0x0401 noPart 0 [k, m.dir, m.wave]).report clsDegraded srcLnk k .done noPart m.wave) := by
    show execSpareTakeover k rx s = _
    unfold execSpareTakeover
    simp only [hfound]
    rw [if_neg hnow, if_neg hversion]
  exact ⟨_, hexec, (State.port_eq_of_links (State.report_noted _ _ _ _ _ _ _).links k).trans (s.port_setPort k (Port.takeOver_ne_reset _ m))⟩

end

end Sys2Proof.Machine
end

section
/-! The statement on training and wavelengths. -/

namespace Sys2Proof.Machine

/-- Settles O31: training by the change of the port's state at each of its steps, wavelengths by the steps of a move. That a window begins the next second, that the take-over is named 64 frames ahead, and that a retrain window ends in TIMEOUT are the model's choices (log 50, DESIGN CHOICE, and 49, DEDUCED). -/
theorem portsTrainAndMoveWavelengths : Obligations.PortsTrainAndMoveWavelengths := by
  refine ⟨?training, ?waves⟩
  case training =>
    intro k own h tag s x
    refine ⟨?lock, fun hok hsent hgot hstate => exec_hello_ident hok hsent hgot hstate, ?proof, ?timeout, ?loss, ?window⟩
    case lock =>
      intro hstate hentropy n
      have hident := Port.locks_training hstate (s.ownHello k s.sec.draw.1)
      obtain ⟨htrains, hport⟩ := State.movePort_trains (s := { s with sec := s.sec.draw.2 }) (k := k) (f := fun y => y.locks (s.ownHello k s.sec.draw.1))
        (.inr (congrArg Port.state hident))
      exact ⟨_, exec_phyLock_training hstate hentropy, hport.trans hident, htrains.sec, congrArg (List.cons _) htrains.out⟩
    case proof =>
      intro hsent hgot hstate
      have hident : x.anew.state = .ident := hstate
      refine ⟨fun htag => ⟨fun hversion => ?_, fun hversion hmap => ?_, fun hversion hmap => ?_⟩, fun htag => ?_⟩
      · obtain ⟨hsettled, hlast⟩ := Port.settle_noVersion hident hversion s.links.map s.sec.fuses.serial k
        obtain ⟨hshown, hshownLast, -, -⟩ := State.settlePort_shows hstate rfl hsettled PortState.noConfusion
        exact ⟨_, exec_proof_holds hsent hgot hstate htag, hshown, hshownLast.trans hlast⟩
      · obtain ⟨hsettled, hlast⟩ := Port.settle_miswired (x := x.anew) hversion hmap
        obtain ⟨hshown, hshownLast, -, -⟩ := State.settlePort_shows hstate rfl hsettled PortState.noConfusion
        exact ⟨_, exec_proof_holds hsent hgot hstate htag, hshown, hshownLast.trans hlast⟩
      · obtain ⟨hsettled, hlast, hpicked, hpeer⟩ := Port.settle_up hident hversion hmap
        obtain ⟨hshown, hshownLast, hshownVersion, hshownPeer⟩ := State.settlePort_shows hstate rfl hsettled PortState.noConfusion
        exact ⟨_, exec_proof_holds hsent hgot hstate htag, hshown, hshownLast.trans hlast, hshownVersion.trans hpicked, hshownPeer.trans hpeer⟩
      · exact ⟨_, exec_proof_fails hsent hgot hstate htag, State.movePort_shows rfl rfl (.inl PortState.noConfusion)⟩
    case timeout => exact fun hstate => ⟨_, exec_trainTimeout_training hstate, State.movePort_shows rfl rfl (.inr Status.noConfusion)⟩
    case loss => exact fun hstate => ⟨_, exec_lossOfLock_up hstate, (s.retrainPort_state k).1⟩
    case window => exact fun hstate => ⟨_, exec_retrainWindowExpire_retrain hstate, State.movePort_shows rfl rfl (.inl PortState.noConfusion)⟩
  case waves =>
    intro k wave lseq rx n cw m s x
    refine ⟨fun hstate hwave => ⟨fun hgood => exec_wavelengthWindow_clean hstate hwave hgood, fun hspare hfree => ?asks⟩,
      fun hstate hspare hfree hwave => exec_swapReq_begins hstate hspare hfree hwave,
      fun hmove hdir hlocked => exec_spareWavelengthLock_asked hmove hdir hlocked,
      fun hmove hdir hwave => exec_swapReady_asked hmove hdir hwave lseq, ?takeover⟩
    case asks =>
      obtain ⟨a, hexec⟩ := exec_wavelengthWindow_lost hstate hwave hspare hfree n cw
      exact ⟨_, hexec, a.port_setPort k (Port.ne_reset_of_eq hstate PortState.noConfusion), _, rfl⟩
    case takeover =>
      intro hmove hdir hlocked hversion hdue
      obtain ⟨u, hexec, hport⟩ := exec_spareTakeover_due hmove hdir hlocked hversion hdue
      refine ⟨u, hexec, hport, ?_⟩
      rw [hport]
      exact ⟨by rw [Port.takeOver_move, hmove]; simp, x.takeOver_swaps m, fun hrx => Port.takeOver_transmit (by rw [hdir, hrx]; rfl)⟩

end Sys2Proof.Machine
end

section
/-! SUPPORT. Frames (R327 to R334): when a frame leaves, and what each kind that arrives does at and above the link layer. -/

namespace Sys2Proof.Machine

/-! ### Sending (R327 to R329, R336) -/

/-- A port that has sealed a frame, once the frame has left on a VC: its credits are spent, and it is kept for replay. -/
def Port.keeping (y : Port) (vc pkid : Nat) (bs : List Byte) : Port :=
  { y with spent := Store.upd 0 y.spent vc (· + frameUnits bs.length), replay := y.replay ++ [⟨y.txLseq, pkid, bs, 1⟩], txBytes := (y.txBytes + bs.length) % 2 ^ 64 }

theorem Port.keeping_ne_reset (y : Port) (vc pkid : Nat) (bs : List Byte) : y.keeping vc pkid bs ≠ .reset := fun hreset =>
  List.append_ne_nil_of_right_ne_nil y.replay (List.cons_ne_nil _ []) (congrArg Port.replay hreset)

section
variable {s : State} {k : Fin 36} {vc : Fin 8}

/-- A unit that carries its own data, sealed, with credits and replay room for its frame, leaves and is kept for replay. -/
theorem State.sendOne_sealed {v : OutUnit} {rest : List OutUnit} {bs : List Byte} {y : Port}
    (htake : takeUnit (fun u => decide (u.vc = vc.val) && !(s.port k).holds u.pkid) (s.port k).txQ = some (v, rest)) (hring : v.ring = none)
    (hseal : (s.setPort k { s.port k with txQ := rest }).sealUnit k v = some (bs, y)) (hcredits : frameUnits bs.length ≤ (s.port k).credits vc)
    (hroom : (s.port k).replayed + bs.length ≤ replayBytes) :
    s.sendOne k vc = some (((s.setPort k { s.port k with txQ := rest }).setPort k (y.keeping vc v.pkid bs)).emit [.fibre k bs]) := by
  have hfits : ¬ ((s.port k).credits vc < frameUnits bs.length ∨ replayBytes < (s.port k).replayed + bs.length) := by omega
  have hfill : (s.setPort k { s.port k with txQ := rest }).fillUnit v = (s.setPort k { s.port k with txQ := rest }, v) := by
    unfold State.fillUnit
    rw [hring]
  unfold State.sendOne
  dsimp only
  rw [htake]
  dsimp only
  rw [hfill]
  dsimp only
  rw [hseal]
  dsimp only
  rw [if_neg hfits, hring]
  rfl

/-- A port with no frame waiting has none to send. -/
theorem State.sendOne_empty (h : (s.port k).txQ = []) (vc : Nat) : s.sendOne k vc = none := by
  unfold State.sendOne
  dsimp only
  rw [h]
  rfl

section
variable (hstate : (s.port k).state = .up)
include hstate

/-- A VC of an UP port whose turn it is sends what it has. -/
theorem exec_frameTransmit_sends (hserve : (s.port k).mayServe vc = true) {u : State} (hsend : s.sendOne k vc = some u) :
    exec (.frameTransmit k vc) s = .next u := by
  show execFrameTransmit k vc s = _
  simp [execFrameTransmit, hstate, hserve, hsend]

/-- With nothing to send VC0 sends an IDLE frame. -/
theorem exec_frameTransmit_idle (hempty : (s.port k).txQ = []) : exec (.frameTransmit k 0) s = .next (s.sendIdle k) := by
  show execFrameTransmit k 0 s = _
  have hserve : (s.port k).mayServe 0 = true := rfl
  simp only [execFrameTransmit, hstate, Fin.val_zero, hserve, decide_true, Bool.true_or, Bool.not_true, Bool.or_self, Bool.false_eq_true, if_false,
    State.sendOne_empty hempty, if_true]

end
end

/-! ### Receiving (R328, R333, R334) -/

/-- A frame whose CRC fails is dropped, and a NAK is owed. -/
theorem State.linkLayer_badCrc {bs : List Byte} (hcrc : crcOk bs = false) (s : State) (k : Nat) :
    s.linkLayer k bs = (s.updPort k fun x => { x with nak := true }, none) := by
  simp [State.linkLayer, hcrc]

section
variable {s : State} {k : Fin 36} {frame : List Byte}

section
variable (hstate : (s.port k).state = .up)
include hstate

section
variable {fec : Nat} {u : State} (htype : crcOk frame = true → (Outer.ofWord (field frame 0 16)).type = 1)
include htype

/-- An UP port takes a frame as DATA unless its CRC holds and its TYPE is another's. -/
theorem takes_dataFrame : ¬ ((s.port k).state ≠ .up ∨
    (crcOk frame = true ∧ ((Outer.ofWord (field frame 0 16)).type = 0 ∨ (Outer.ofWord (field frame 0 16)).type = 2))) := by
  rintro (hdown | ⟨hcrc, hother⟩)
  · exact hdown hstate
  · have hdata := htype hcrc
    omega

/-- One that the link layer drops is gone. -/
theorem exec_dataFrameReceive_dropped (hlink : (s.updPort k fun x => { x with fecUe := satAdd 16 x.fecUe fec }).linkLayer k frame = (u, none)) :
    exec (.dataFrameReceive k frame fec) s = .next u := by
  show execDataFrameReceive k frame fec s = _
  unfold execDataFrameReceive
  dsimp only
  rw [if_neg (takes_dataFrame hstate htype), hlink]

/-- A DATA frame that passes the link layer is judged (Table 12.9). -/
theorem exec_dataFrameReceive_judged {o : Outer} (hlink : (s.updPort k fun x => { x with fecUe := satAdd 16 x.fecUe fec }).linkLayer k frame = (u, some o))
    (ho : o.type = 1) : exec (.dataFrameReceive k frame fec) s = .next (u.judgeData k o frame) := by
  show execDataFrameReceive k frame fec s = _
  unfold execDataFrameReceive
  dsimp only
  rw [if_neg (takes_dataFrame hstate htype), hlink]
  exact if_pos ho

end

/-- An IDLE frame says what its header says, and no more. -/
theorem exec_idleFrame_heard (htype : crcOk frame = true → (Outer.ofWord (field frame 0 16)).type = 0) :
    exec (.idleFrame k frame) s = .next (s.linkLayer k frame).1 := by
  have htaken : ¬ (((s.port k).state ≠ .up ∧ (s.port k).state ≠ .miswired) ∨ (crcOk frame = true ∧ (Outer.ofWord (field frame 0 16)).type ≠ 0)) := by
    rintro (⟨h, -⟩ | ⟨hcrc, h⟩)
    · exact h hstate
    · exact h (htype hcrc)
  exact if_neg htaken

end

/-- The nonce of the HELLO that has come from a peer; 0 before. -/
def Port.peerNonce (x : Port) : Nat := match x.got with
  | some h => h.nonce.toNat
  | none => 0

theorem Port.peerNonce_of_got {x : Port} {h : Hello} (hgot : x.got = some h) : x.peerNonce = h.nonce.toNat := by
  rw [Port.peerNonce, hgot]

/-- A control frame is counted; one whose length is wrong, or whose tag under the class link key and the count, counts as a failure too (R334). -/
theorem exec_ctrlFrame_heard {u : State} {o : Outer} (hstate : (s.port k).state = .up) (htype : (Outer.ofWord (field frame 0 16)).type = 2)
    (hlink : s.linkLayer k frame = (u, some o)) :
    let w := (u.updPort k fun y => { y with ctrlRx := y.ctrlRx + 1 }).owe k o.vc (frameUnits frame.length)
    exec (.ctrlFrame k frame) s = .next (if frame.length = o.frameLen ∧ Config.gcmTag (s.sec.keyOf classSlot)
      ((s.port k).peerSerial + (s.port k).peerNonce <<< 64 + (s.port k).ctrlRx <<< 320) (frame.take 16) (frameCipher frame) = frameTag frame then w else w.updPort k Port.countAuth) := by
  intro w
  have htaken : ¬ (((s.port k).state ≠ .up ∧ (s.port k).state ≠ .miswired) ∨ (crcOk frame = true ∧ (Outer.ofWord (field frame 0 16)).type ≠ 2)) := by
    rintro (⟨h, -⟩ | ⟨-, h⟩)
    · exact h hstate
    · exact h htype
  have hexec : exec (.ctrlFrame k frame) s = _ := if_neg htaken
  rw [hlink] at hexec
  refine hexec.trans ?_
  simp only [Bool.and_eq_true, decide_eq_true_eq]
  rfl

/-- KEY_READY for the next generation of an entry on a 2.0 link: the entry knows its peer ready, and entries that may go over do (R332). -/
theorem exec_keyReady_next {pkid : Fin 17} {kg : Fin 2} {e : PkidEntry} (hstate : (s.port k).state = .up) (hentry : (s.port k).entry pkid = some e)
    (hversion : (s.port k).version = 3) (hkg : kg.val = 1 - e.kg) :
    exec (.keyReady k pkid kg) s = .next ((s.setPort k ((s.port k).setEntry pkid (some e.peerReady))).rekeyPort k) := by
  show execKeyReady k pkid kg s = _
  simp [execKeyReady, hentry, hstate, hversion, hkg]

end

end Sys2Proof.Machine
end

section
/-! SUPPORT. Bindings (R330, R336, R340): PORT_BIND, the CONFIRM that completes it, and PORT_UNBIND. -/

namespace Sys2Proof.Machine

/-- A slot for a peer, held or derived, leaves the ports. -/
theorem State.bindSlot_links (s : State) (p serial : Nat) : (s.bindSlot p serial).1.links = s.links := by
  unfold State.bindSlot
  split
  · rfl
  · unfold State.deriveFor
    split
    · rfl
    · dsimp only
      split <;> rfl

/-- Arbitration leaves a port's entries and waiting frames, and Scarab. -/
theorem State.arbitrateNow_keeps {s : State} {k : Nat} (hstate : (s.port k).state ≠ .off) :
    ((s.arbitrateNow k).port k).entries = (s.port k).entries ∧ ((s.arbitrateNow k).port k).txQ = (s.port k).txQ ∧ (s.arbitrateNow k).sec = s.sec := by
  unfold State.arbitrateNow
  split
  · exact ⟨rfl, rfl, rfl⟩
  · have hport : (s.updPort k Port.arbitrate).port k = (s.port k).arbitrate := s.port_setPort k (Port.ne_reset hstate)
    rw [hport]
    exact ⟨rfl, rfl, rfl⟩

section
variable {s : State} {fn : Fin 17} {q : Fin 8192} {ctx : Nat} {c : Cmd} {k : Fin 36} {id p : Nat}
  (hp : bits c.entry.p0 0 4 = p) (hk : bits c.entry.p0 4 6 = k.val) (hid : bits c.entry.p0 10 5 = id) (hlow : 1 ≤ id) (hhigh : id ≤ 16)
include hp hk hid hlow hhigh

/-- PORT_BIND of a session's partition to a free entry of an UP port, with a slot for its peer: the entry is made and its CONFIRM waits to leave (R330 steps 1 to 3). -/
theorem exec_portBind_binds (hready : HostReady s fn q 0x32 ctx c) (hlive : (s.part p).live = true) (hsess : (s.part p).sess ≠ .closing)
    (hsecret : (s.part p).sessionSlot ≠ 0) (hstate : (s.port k).state = .up) (hfree : (s.port k).entry id = none) {b : State} {slot : Nat}
    (hslot : (started s fn q c).bindSlot p (s.port k).peerSerial = (b, .done, slot)) :
    exec (.portBind fn q) s = .next ((b.setPort k ((s.port k).bind id p slot (bits c.entry.p1 0 14) (bits c.entry.p1 16 15) (bits c.entry.p1 32 2)
      (fn, q, c.entry.seq))).arbitrateNow k) := by
  have hports : b.port k = s.port k := by
    have hlinks := (started s fn q c).bindSlot_links p (s.port k).peerSerial
    rw [hslot] at hlinks
    exact State.port_eq_of_links hlinks k
  have hnamed : ¬ (36 ≤ k.val ∨ id = 0 ∨ 16 < id) := by omega
  have hserved : ¬ ((!(s.part p).live) = true ∨ (s.part p).sess = .closing) := by simp [hlive, hsess]
  have hbinds : ¬ ((s.port k).state ≠ .up ∨ ((s.port k).entry id).isSome = true ∨ (s.part p).sessionSlot = 0) := by simp [hstate, hfree, hsecret]
  refine congrArg Host.Outcome.next ((State.hostCmd_ready _ hready).trans ?_)
  simp only [hp, hk, hid, started_port, started_part, if_neg hnamed, if_neg hserved, if_neg hbinds, hslot, ne_eq, not_true_eq_false, if_false, finishCmd_running,
    State.updPort, hports]

/-- PORT_UNBIND of an entry of its partition that waits for no CONFIRM: the entry is cleared (R340). -/
theorem exec_portUnbind_clears {e : PkidEntry} (hready : HostReady s fn q 0x33 ctx c) (hentry : (s.port k).entry id = some e) (hpart : e.part = p) (hasker : e.asker = none) :
    exec (.portUnbind fn q) s = .next (completes (((started s fn q c).unbind k id).notePort k .done) fn q c .done 0 0) := by
  have hnamed : ¬ (36 ≤ k.val ∨ id = 0 ∨ 16 < id) := by omega
  refine congrArg Host.Outcome.next ((State.hostCmd_ready _ hready).trans ?_)
  simp only [hp, hk, hid, started_port, if_neg hnamed, hentry, hpart, hasker, ne_eq, not_true_eq_false, if_false, finishCmd_ends]

end

/-- The entry that a binding makes, which waits for the peer's CONFIRM (R330 step 2). -/
theorem Port.entry_bind (x : Port) (id p slot rank modules mode : Nat) (asker : Nat × Nat × Nat) :
    (x.bind id p slot rank modules mode asker).entry id = some ⟨p, slot, 0, none, false, 0, 0, 0, [], rank, x.peerSerial, modules, mode, false, some asker⟩ :=
  Store.get_set_same _ _ (Option.some_ne_none _)

/-- The peer's CONFIRM for an entry whose command waits: authentic, the entry is confirmed and the command DONE; else the entry is cleared (R330 step 4). -/
theorem exec_confirm_asked {s b : State} {k : Fin 36} {frame : List Byte} {o : Outer} {e : PkidEntry} {w : Nat × Nat × Nat} (hstate : (s.port k).state = .up)
    (htype : (Outer.ofWord (field frame 0 16)).type = 1) (hseq : (Outer.ofWord (field frame 0 16)).seq = 0) (hlink : s.linkLayer k frame = (b, some o))
    (hentry : ((b.owe k o.vc (frameUnits frame.length)).port k).entry o.pkid = some e) (hopen : e.confirmed = false) (hasker : e.asker = some w) :
    let a := b.owe k o.vc (frameUnits frame.length)
    let good := s.frameOk k e.slot o frame = true ∧ (Inner.ofWord (field (s.frameBody k e.slot o frame) 0 16)).kind = FrameKind.control.code ∧ o.len = 1
    (good → exec (.confirm k frame) s =
      .next (((a.updPort k fun y => y.setEntry o.pkid (some { e with confirmed := true, asker := none })).notePort k .done).complete w.1 w.2.1 w.2.2 .done 0 0)) ∧
    (¬ good → exec (.confirm k frame) s =
      .next ((((a.updPort k Port.countAuth).unbind k o.pkid).notePort k .digestMismatch).complete w.1 w.2.1 w.2.2 .digestMismatch 0 0)) := by
  intro a good
  have htaken : ¬ ((s.port k).state ≠ .up ∨ (crcOk frame = true ∧ ((Outer.ofWord (field frame 0 16)).type ≠ 1 ∨ (Outer.ofWord (field frame 0 16)).seq ≠ 0))) := by
    simp [hstate, htype, hseq]
  have hjudged : (s.frameOk k e.slot o frame && decide ((Inner.ofWord (field (s.frameBody k e.slot o frame) 0 16)).kind = FrameKind.control.code ∧ o.len = 1)) = decide good := by
    rw [Bool.eq_iff_iff]
    simp [good]
  have hexec : exec (.confirm k frame) s = _ := if_neg htaken
  rw [hlink] at hexec
  dsimp only at hexec
  rw [hentry] at hexec
  dsimp only at hexec
  rw [hopen, hjudged, hasker] at hexec
  refine ⟨fun hgood => ?_, fun hbad => ?_⟩ <;> rw [hexec]
  · rw [decide_eq_true hgood]
    rfl
  · rw [decide_eq_false hbad]
    rfl

end Sys2Proof.Machine
end

section
/-! The statement on frames and bindings. -/

namespace Sys2Proof.Machine

/-- Settles O32: frames by what the link layer passes up, bindings by their commands. The IDLE frame with nothing waiting, the CONFIRM of 64 zero bytes on VC0 with SEQ 0, and a control frame of a wrong length counted as a failed tag, are the model's choices (log 51, DEDUCED). -/
theorem framesAndBindings : Obligations.FramesAndBindings := by
  refine ⟨?frames, ?bindings⟩
  case frames =>
    intro k vc frame bs fec v rest y pkid kg e o h s x z type hstate
    refine ⟨?sealed, fun u hserve hsend => exec_frameTransmit_sends hstate hserve hsend, fun hempty => exec_frameTransmit_idle hstate hempty,
      fun hcrc => ⟨?dataDropped, ?idleDropped⟩, fun u _ htype hlink ho => exec_dataFrameReceive_judged hstate (fun _ => htype) hlink ho,
      fun u _ htype hlink => exec_dataFrameReceive_dropped hstate (fun _ => htype) hlink, ?idle, ?badLength, ?control,
      fun hentry hversion hkg => exec_keyReady_next hstate hentry hversion hkg⟩
    case sealed =>
      intro hserve htake hring hseal hcredits hroom
      have hport := (s.setPort k { x with txQ := rest }).port_setPort k (y.keeping_ne_reset vc v.pkid bs)
      exact ⟨_, exec_frameTransmit_sends hstate hserve (State.sendOne_sealed htake hring hseal hcredits hroom), rfl,
        (congrArg Port.replay hport :), (congrArg Port.txQ hport :), rfl⟩
    case dataDropped => exact exec_dataFrameReceive_dropped hstate (fun h => by simp [hcrc] at h) (z.linkLayer_badCrc hcrc k)
    case idleDropped =>
      rw [exec_idleFrame_heard hstate (fun h => by simp [hcrc] at h), State.linkLayer_badCrc hcrc]
    case idle =>
      intro w _ htype hlink
      rw [exec_idleFrame_heard hstate (fun _ => htype), hlink]
    case badLength =>
      intro u _ htype hlink hlength
      rw [exec_ctrlFrame_heard hstate htype hlink, if_neg fun hgood => hlength hgood.1]
    case control =>
      intro u _ htype hlink hlength hgot passes w
      rw [exec_ctrlFrame_heard hstate htype hlink, Port.peerNonce_of_got hgot]
      by_cases hpasses : passes
      · rw [if_pos ⟨hlength, hpasses⟩, if_pos hpasses]
      · rw [if_neg fun hgood => hpasses hgood.2, if_neg hpasses]
  case bindings =>
    intro fn q ctx c k id e frame o s a p
    refine ⟨?bind, fun b w hstate _ htype hseq hlink hentry hopen hasker => exec_confirm_asked hstate htype hseq hlink hentry hopen hasker,
      fun hready hk hid hlow hhigh hentry hpart hasker => exec_portUnbind_clears rfl hk hid hlow hhigh hready hentry hpart hasker⟩
    intro hready hk hid hlow hhigh hlive hsess hsecret hstate hfree b slot hslot
    refine ⟨_, exec_portBind_binds rfl hk hid hlow hhigh hready hlive hsess hsecret hstate hfree hslot, ?_⟩
    let made := (s.port k).bind id p slot (bits c.entry.p1 0 14) (bits c.entry.p1 16 15) (bits c.entry.p1 32 2) (fn, q, c.entry.seq)
    have hmade : made.state ≠ .off := by
      rw [show made.state = .up from hstate]
      exact PortState.noConfusion
    have hport : (b.setPort k made).port k = made := b.port_setPort k (Port.ne_reset hmade)
    obtain ⟨hentries, hframes, hsec⟩ := State.arbitrateNow_keeps (s := b.setPort k made) (k := k) (by rwa [hport])
    rw [hport] at hentries hframes
    exact ⟨(congrArg (fun m => Store.get none m id) hentries).trans (Port.entry_bind _ _ _ _ _ _ _ _), hframes, hsec⟩

end Sys2Proof.Machine
end

section
/-! SUPPORT. Laws of the collective state (R345 to R347): what a partition's part reads as after a write, and which parts are not at reset; its collectives by name (GROUP, SEQ, plane). -/

namespace Sys2Proof.Machine

/-! ### A partition's part -/

/-- A partition's part reads as an update leaves it, when that is not the part at reset. -/
theorem State.collPart_updColl (s : State) (p : Nat) {f : CollPart → CollPart} (h : f (s.coll.part p) ≠ .reset) : (s.updColl p f).coll.part p = f (s.coll.part p) :=
  Store.get_set_same _ _ h

/-- Another partition's part reads as before. -/
theorem State.collPart_updColl_ne (s : State) {p k : Nat} (f : CollPart → CollPart) (h : p ≠ k) : (s.updColl k f).coll.part p = s.coll.part p :=
  Store.get_set_ne _ _ h

/-- Two updates of a part are one. -/
theorem State.updColl_updColl (s : State) (p : Nat) {f : CollPart → CollPart} (g : CollPart → CollPart) (h : f (s.coll.part p) ≠ .reset) :
    (s.updColl p f).updColl p g = s.updColl p fun c => g (f c) := by
  have hread := s.collPart_updColl p h
  have hwrite : Store.set .reset (s.updColl p f).coll.parts p (g (f (s.coll.part p))) = Store.set .reset s.coll.parts p (g (f (s.coll.part p))) :=
    Store.set_set _ _ _ h
  calc (s.updColl p f).updColl p g
      = { s with coll := ⟨s.coll.flags, Store.set .reset (s.updColl p f).coll.parts p (g ((s.updColl p f).coll.part p))⟩ } := rfl
    _ = s.updColl p fun c => g (f c) := by
      rw [hread, hwrite]
      rfl

/-- Updates that agree on the part as it stands are one. -/
theorem State.updColl_congr (s : State) (p : Nat) {f g : CollPart → CollPart} (h : f (s.coll.part p) = g (s.coll.part p)) : s.updColl p f = s.updColl p g := by
  simp only [State.updColl, Coll.updPart, h]

/-- States with the same collectives show the same part. -/
theorem State.collPart_congr {s u : State} (h : u.coll = s.coll) (p : Nat) : u.coll.part p = s.coll.part p := congrArg (fun c : Coll => c.part p) h

/-- A part whose rank table is loaded is not at reset. -/
theorem CollPart.ne_reset_of_ranks {c : CollPart} (h : 0 < c.ranks) : c ≠ .reset := by
  rintro rfl
  exact Nat.lt_irrefl 0 h

/-- A part that holds a collective is not at reset. -/
theorem CollPart.ne_reset_of_insts {c : CollPart} (h : c.insts ≠ []) : c ≠ .reset := by
  rintro rfl
  exact h rfl

/-- A part that receives a chunk is not at reset. -/
theorem CollPart.ne_reset_of_incoming {c : CollPart} (h : c.incoming ≠ []) : c ≠ .reset := by
  rintro rfl
  exact h rfl

/-- A part with a group table is not at reset. -/
theorem CollPart.ne_reset_of_groups {c : CollPart} (h : c.groups ≠ []) : c ≠ .reset := by
  rintro rfl
  exact h rfl

theorem CollPart.groups_ne_nil {c : CollPart} {n : Nat} {g : Group} (h : c.group n = some g) : c.groups ≠ [] :=
  List.ne_nil_of_mem (List.mem_of_find?_eq_some h)

theorem CollPart.groups_ne_nil_of_groupAs {c : CollPart} {n : Nat} {cp : Bool} {g : Group} (h : c.groupAs n cp = some g) : c.groups ≠ [] := by
  obtain ⟨_, hgroup, _⟩ := Option.map_eq_some_iff.1 h
  exact CollPart.groups_ne_nil hgroup

/-! ### Collectives by name -/

/-- Two collectives of one name: GROUP, SEQ and plane. -/
abbrev Inst.SameName (i j : Inst) : Prop := i.group = j.group ∧ i.seq = j.seq ∧ i.cp = j.cp

/-- A collective found has the name asked for. -/
theorem CollPart.inst_name {c : CollPart} {group seq : Nat} {cp : Bool} {i : Inst} (h : c.inst group seq cp = some i) : i.group = group ∧ i.seq = seq ∧ i.cp = cp := by
  simpa using List.find?_some h

theorem CollPart.insts_ne_nil {c : CollPart} {group seq : Nat} {cp : Bool} {i : Inst} (h : c.inst group seq cp = some i) : c.insts ≠ [] :=
  List.ne_nil_of_mem (List.mem_of_find?_eq_some h)

/-- Setting a collective leaves as many of them. -/
theorem CollPart.setInst_insts_ne_nil {c : CollPart} (h : c.insts ≠ []) (i : Inst) : (c.setInst i).insts ≠ [] := by
  simpa [CollPart.setInst] using h

/-- Setting the collective that was just added to a part which held none of its name changes nothing. -/
theorem CollPart.setInst_added {c : CollPart} {i : Inst} (h : c.inst i.group i.seq i.cp = none) :
    ({ c with insts := c.insts ++ [i] } : CollPart).setInst i = { c with insts := c.insts ++ [i] } := by
  have hothers : c.insts.map (fun x => if x.group = i.group ∧ x.seq = i.seq ∧ x.cp = i.cp then i else x) = c.insts := by
    refine (List.map_congr_left fun x hx => ?_).trans (List.map_id' _)
    have hname := List.find?_eq_none.1 h x hx
    exact if_neg (by simpa using hname)
  simp [CollPart.setInst, hothers]

/-- Of two collectives of one name set one after the other the second stands. -/
theorem CollPart.setInst_setInst (c : CollPart) {i j : Inst} (h : j.SameName i) : (c.setInst i).setInst j = c.setInst j := by
  obtain ⟨hgroup, hseq, hcp⟩ := h
  simp only [CollPart.setInst, List.map_map, hgroup, hseq, hcp]
  refine congrArg (fun l => ({ c with insts := l } : CollPart)) (List.map_congr_left fun x _ => ?_)
  by_cases hname : x.group = i.group ∧ x.seq = i.seq ∧ x.cp = i.cp
  · simp [hname]
  · simp [hname]

end Sys2Proof.Machine
end

section
/-! SUPPORT. What a stop and the end of a record leave of the collectives (R63, R361): a partition's part but for its data plane. -/

namespace Sys2Proof.Machine

/-! ### Operations that leave the collectives -/

theorem State.report_coll (s : State) (cls source unit : Nat) (st : Status) (part detail : Nat) : (s.report cls source unit st part detail).coll = s.coll :=
  (s.report_noted cls source unit st part detail).coll

theorem State.flushQueue_coll (s : State) (i : Nat) : (s.flushQueue i).coll = s.coll := by
  unfold State.flushQueue
  dsimp only
  split
  · rfl
  · split <;> rfl

theorem State.flushMany_coll (s : State) (is : List Nat) : (s.flushMany is).coll = s.coll := foldl_keeps State.flushQueue_coll is s

theorem State.complete_coll (s : State) (fn q seq : Nat) (st : Status) (r0 r1 : Nat) : (s.complete fn q seq st r0 r1).coll = s.coll := by
  rw [State.complete_eq]

theorem completes_coll (s : State) (fn q : Nat) (c : Cmd) (st : Status) (r0 r1 : Nat) : (completes s fn q c st r0 r1).coll = s.coll :=
  s.complete_coll _ _ _ _ _ _

theorem State.cancelFill_coll (s : State) (p : Nat) : (s.cancelFill p).coll = s.coll := by
  unfold State.cancelFill
  split
  · rfl
  · rw [State.complete_coll, State.updSnap_coll]
    exact foldl_keeps (g := State.coll) (fun a k => a.updPort_coll k _) _ s

/-! ### The core of a part -/

/-- A part without its data plane: what the cancellation of its collectives leaves (R361). -/
def CollPart.core (c : CollPart) : CollPart := { c with insts := [], frames := [], incoming := [], lastStatus := .done }

theorem CollPart.cancelled_core (c : CollPart) : c.cancelled.core = c.core := rfl

theorem CollPart.dropInst_core (c : CollPart) (i : Inst) : (c.dropInst i).core = c.core := rfl

theorem CollPart.ne_reset_of_core {c : CollPart} (h : c.core ≠ .reset) : c ≠ .reset := by
  rintro rfl
  exact h rfl

/-- From s to u partition p's part, once not at reset, keeps its core. -/
def KeepsCore (p : Nat) (s u : State) : Prop := (s.coll.part p).core ≠ .reset → (u.coll.part p).core = (s.coll.part p).core

theorem KeepsCore.of_coll {p : Nat} {s u : State} (h : u.coll = s.coll) : KeepsCore p s u := fun _ => congrArg CollPart.core (State.collPart_congr h p)

theorem KeepsCore.trans {p : Nat} {s t u : State} (h : KeepsCore p s t) (k : KeepsCore p t u) : KeepsCore p s u := by
  intro hcore
  have hfirst := h hcore
  exact (k (by rwa [hfirst])).trans hfirst

theorem KeepsCore.foldl {α : Type} {p : Nat} {f : State → α → State} (hf : ∀ a x, KeepsCore p a (f a x)) (xs : List α) (s : State) : KeepsCore p s (xs.foldl f s) := by
  induction xs generalizing s with
  | nil => exact .of_coll rfl
  | cons x xs ih => exact (hf s x).trans (ih _)

theorem KeepsCore.ite {p : Nat} {c : Prop} [Decidable c] {s a b : State} (ha : KeepsCore p s a) (hb : KeepsCore p s b) : KeepsCore p s (if c then a else b) := by
  split
  · exact ha
  · exact hb

/-- An update of any part that keeps cores. -/
theorem State.updColl_keepsCore (p : Nat) (s : State) (k : Nat) {f : CollPart → CollPart} (hf : ∀ c, (f c).core = c.core) : KeepsCore p s (s.updColl k f) := by
  intro hcore
  by_cases hpk : p = k
  · subst hpk
    rw [s.collPart_updColl p (CollPart.ne_reset_of_core (by rwa [hf])), hf]
  · rw [s.collPart_updColl_ne f hpk]

theorem State.stopRun_keepsCore (p : Nat) (s : State) (k : Nat) (st : Status) : KeepsCore p s (s.stopRun k st) := by
  unfold State.stopRun
  dsimp only
  split
  · exact .of_coll rfl
  · split
    · exact .of_coll rfl
    · exact (s.updColl_keepsCore p k CollPart.cancelled_core).trans (.of_coll (State.flushMany_coll _ _))

theorem State.stageFault_keepsCore (p : Nat) (s : State) (t : Nat) (st : Status) (recIdx unit : Nat) : KeepsCore p s (s.stageFault t st recIdx unit) := by
  unfold State.stageFault
  dsimp only
  split
  · exact .of_coll rfl
  · split
    · exact .of_coll rfl
    · refine KeepsCore.trans (.of_coll ?_) (State.stopRun_keepsCore p _ _ _)
      split
      · exact State.report_coll _ _ _ _ _ _ _
      · rfl

/-- A record that ends, whatever its status. -/
theorem State.finish_keepsCore (p : Nat) (s : State) (t u : Nat) (f : InFlight) (st : Status) : KeepsCore p s (s.finish t u f st) := by
  unfold State.finish
  have hleft : ∀ y, KeepsCore p s (s.setTile t y) := fun _ => .of_coll rfl
  exact .ite (hleft _) ((hleft _).trans (State.stageFault_keepsCore p _ _ _ _ _))

/-- The records of a collective that end together. -/
theorem State.endRecords_keepsCore (p : Nat) (s : State) (k : Nat) (i : Inst) (rs : List (Nat × InFlight)) (st : Status) : KeepsCore p s (s.endRecords k i rs st) := by
  have hended : KeepsCore p s (rs.foldl (fun (a : State) r => a.finish r.1 unitCol r.2 st) (s.updColl k fun c => c.dropInst i)) :=
    (s.updColl_keepsCore p k fun c => c.dropInst_core i).trans (KeepsCore.foldl (fun a r => a.finish_keepsCore p _ _ _ _) _ _)
  unfold State.endRecords
  dsimp only
  split
  · exact hended
  · exact hended.trans (State.updColl_keepsCore p _ k fun _ => rfl)

end Sys2Proof.Machine
end

section
/-! SUPPORT. Aborts and the census (R359 to R361): what an ABORT, a CENSUS, a CENSUS_RESULT and the end of a count leave. -/

namespace Sys2Proof.Machine

section
variable {s : State} {p : Fin 16}

/-- An ABORT that names CANCELLED and the present step: every later collective of the partition is CANCELLED (R361). -/
theorem State.abortStep_faultRx {step : Nat} {r : Run} (hrun : (s.job p).run = some r) (hphase : r.phase = .step) (hstep : (s.job p).step.stepNum = step) :
    ((s.abortStep p step).coll.part p).faultRx = true := by
  let marked := s.updColl p fun c => { c with faultRx := true }
  have hmarked : marked.coll.part p = { s.coll.part p with faultRx := true } :=
    s.collPart_updColl p fun h => Bool.noConfusion (congrArg CollPart.faultRx h)
  have hcore : (marked.coll.part p).core ≠ .reset := by
    rw [hmarked]
    exact fun h => Bool.noConfusion (congrArg CollPart.faultRx h)
  have hkeeps : KeepsCore p marked (s.abortStep p step) := by
    simp only [State.abortStep, hrun, hphase, hstep, decide_true, Bool.and_self, Bool.not_true, Bool.false_eq_true, if_false]
    refine KeepsCore.trans ?_ (.of_coll (State.cancelFill_coll _ _))
    have hended : ∀ rs : List (Nat × InFlight), KeepsCore p marked (rs.foldl (fun (a : State) r => a.finish r.1 unitCol r.2 .cancelled) marked) :=
      fun rs => KeepsCore.foldl (fun a r => a.finish_keepsCore p _ _ _ _) rs marked
    split
    · exact hended _
    · exact (hended _).trans (State.updColl_keepsCore p _ p fun _ => rfl)
  calc ((s.abortStep p step).coll.part p).faultRx
      = (marked.coll.part p).faultRx := (congrArg CollPart.faultRx (hkeeps hcore) :)
    _ = true := congrArg CollPart.faultRx hmarked

variable {group : Fin 1024} {seq : Nat} {cp : Bool} {g : Group} {i : Inst} {m : Mismatch}

/-- While a local contributor is missing the count goes on (R360 step 2). -/
theorem State.censusTry_waits (hctrl : i.ctrl = none) (hentered : i.entered.length ≠ g.loc) : s.censusTry p i g = s := by
  simp [State.censusTry, hctrl, hentered]

/-- The first ABORT of a collective that nothing has entered: it is held with its mismatch, and counted later (R360). -/
theorem State.abortInst_new (hgroup : (s.coll.part p).groupAs group cp = some g) (hnew : (s.coll.part p).inst group seq cp = none) (hloc : 0 < g.loc)
    (rank digest sr sl sd : Nat) :
    ∃ os, s.abortInst p group seq cp rank digest sr sl sd =
      (s.emit os).updColl p fun y => { y with insts := y.insts ++ [{ Inst.start group seq cp with mismatch := some ⟨0, sr, sl, sd, false, []⟩ }] } := by
  apply Exists.intro
  simp only [State.abortInst, hgroup, hnew, Option.getD_none]
  refine (if_neg (by simp [Inst.start])).trans (Eq.trans (State.censusTry_waits rfl (Nat.ne_of_lt hloc)) (State.updColl_congr _ _ ?_))
  exact if_neg (by simp [hnew])

/-- A CENSUS at the lowest rank while others have not answered: the answer is noted (R360 step 2). -/
theorem State.addCensus_waits {rank digest lidx : Nat} (hmismatch : i.mismatch = some m) (hwaits : ∃ r ∈ g.ranks, r ≠ rank ∧ ∀ x ∈ m.census, x.1 ≠ r) :
    s.addCensus p i g rank digest lidx =
      s.putInst p { i with mismatch := some { m with census := m.census.filter (fun x => decide (x.1 ≠ rank)) ++ [(rank, digest, lidx)] } } := by
  obtain ⟨r, hr, hother, hsilent⟩ := hwaits
  have hcounting : ¬ ((g.ranks.all fun r => (m.census.filter (fun x => decide (x.1 ≠ rank)) ++ [(rank, digest, lidx)]).any fun x => decide (x.1 = r)) = true) := by
    intro hall
    obtain ⟨x, hx, hxr⟩ := List.any_eq_true.1 (List.all_eq_true.1 hall r hr)
    have hxr := of_decide_eq_true hxr
    obtain hx | hx := List.mem_append.1 hx
    · exact hsilent x (List.mem_filter.1 hx).1 hxr
    · exact hother (hxr.symm.trans (congrArg Prod.fst (List.mem_singleton.1 hx)))
  simp only [State.addCensus, hmismatch]
  exact if_neg hcounting

/-- A CENSUS header of a collective whose mismatch is being counted: its answer joins the others. -/
theorem exec_censusHeader_waits {rank digest lidx : Nat} (hgroup : (s.coll.part p).groupAs group cp = some g) (hlow : g.ranks.headD 0 = (s.coll.part p).self)
    (hrank : rank ∈ g.ranks) (hinst : (s.coll.part p).inst group seq cp = some i) (hmismatch : i.mismatch = some m)
    (hwaits : ∃ r ∈ g.ranks, r ≠ rank ∧ ∀ x ∈ m.census, x.1 ≠ r) :
    exec (.censusHeader p group seq cp rank digest lidx) s =
      .next (s.putInst p { i with mismatch := some { m with census := m.census.filter (fun x => decide (x.1 ≠ rank)) ++ [(rank, digest, lidx)] } }) := by
  have hsome : ((s.coll.part p).inst group seq cp).isSome = true := by simp [hinst]
  have hheld : s.updColl p (fun y => if (y.inst group seq cp).isSome then y.setInst i else { y with insts := y.insts ++ [i] }) = s.updColl p fun y => y.setInst i :=
    s.updColl_congr p (if_pos hsome)
  have hne : (s.coll.part p).setInst i ≠ .reset := CollPart.ne_reset_of_insts (CollPart.setInst_insts_ne_nil (CollPart.insts_ne_nil hinst) i)
  show execCensusHeader p group seq cp rank digest lidx s = _
  simp only [execCensusHeader, hgroup, hlow, hrank, and_self, if_true, hinst, Option.getD_some, hmismatch, Option.isSome_some, State.addCensus_waits hmismatch hwaits]
  rw [hheld]
  exact congrArg Host.Outcome.next ((s.updColl_updColl p _ hne).trans (s.updColl_congr p ((s.coll.part p).setInst_setInst ⟨rfl, rfl, rfl⟩)))

/-- The end of this module's count: its CENSUS goes to the group's lowest rank (R360 step 2). -/
theorem exec_censusTimeout_answers (hgroup : (s.coll.part p).groupAs group cp = some g) (hinst : (s.coll.part p).inst group seq cp = some i)
    (hmismatch : i.mismatch = some m) (hsent : m.censusSent = false) (hown : i.own.isSome = true) (hlow : g.ranks.headD 0 ≠ (s.coll.part p).self) :
    let dg := if cp then i.own.getD 0 else i.localMajor
    exec (.censusTimeout p group seq cp) s = .next ((s.putInst p { i with mismatch := some { m with own := dg, censusSent := true } }).emit
      [.census (g.ranks.headD 0) group seq cp (s.coll.part p).self dg (if m.suspectRank = (s.coll.part p).self then m.suspectLidx else 0xFF)]) := by
  obtain ⟨hgroupOf, hseqOf, hcpOf⟩ := CollPart.inst_name hinst
  show execCensusTimeout p group seq cp s = _
  simp only [execCensusTimeout, State.inst, hinst, hgroup, hmismatch, hsent, hown, Bool.not_false, Bool.and_self, if_true, State.sendCensus, Bool.false_eq_true, if_false, hlow, hgroupOf, hseqOf, hcpOf]

/-- The end of a control-plane collective leaves its partition's part without it and without its chunks on their way (R344). -/
theorem State.endCp_coll (s : State) (p : Nat) (i : Inst) (st : Status) :
    (s.endCp p i st).coll = (s.updColl p fun c => { c.dropInst i with
      cpLast := st, incoming := c.incoming.filter fun x => !decide (x.header.cp = true ∧ x.header.group = i.group ∧ x.header.seq = i.seq) }).coll := by
  unfold State.endCp
  dsimp only
  split
  · exact State.complete_coll _ _ _ _ _ _ _
  · rfl

/-- CENSUS_RESULT ends the collective that it names (R360 step 4). -/
theorem exec_censusResult_ends (hinst : (s.coll.part p).inst group seq cp = some i) (major rank lidx count : Nat) :
    exec (.censusResult p group seq cp major rank lidx count) s = .next (s.endMismatch p i major rank lidx count) := by
  show execCensusResult p group seq cp major rank lidx count s = _
  simp only [execCensusResult, State.inst, hinst]

/-- What CENSUS_RESULT writes to COL_ERR (R360 step 4, Table 13.9). -/
def CollPart.noteResult (c : CollPart) (i : Inst) (major rank lidx count : Nat) : CollPart :=
  { c with aborted := c.aborted || !i.cp, errSeq := i.seq % 65536, errGroup := i.group, errRank := rank, errLidx := lidx, errCount := Nat.min count 0x3FFF,
           own := (i.mismatch.map Mismatch.own).getD (i.own.getD 0), majority := major }

/-- The end of a collective by its census keeps what the result wrote. -/
theorem State.endMismatch_noted (hinsts : (s.coll.part p).insts ≠ []) (major rank lidx count : Nat) :
    let noted := (s.coll.part p).noteResult i major rank lidx count
    let v := (s.endMismatch p i major rank lidx count).coll.part p
    v.aborted = noted.aborted ∧ v.errSeq = noted.errSeq ∧ v.errGroup = noted.errGroup ∧ v.errRank = noted.errRank ∧ v.errLidx = noted.errLidx ∧
      v.errCount = noted.errCount ∧ v.majority = noted.majority := by
  intro noted v
  let recorded := s.updColl p fun c => c.noteResult i major rank lidx count
  have hrecorded : recorded.coll.part p = noted := s.collPart_updColl p (CollPart.ne_reset_of_insts hinsts)
  by_cases hplane : i.cp = true
  · have hends : s.endMismatch p i major rank lidx count = recorded.endCp p i .descMismatch := if_pos hplane
    have hended := recorded.collPart_updColl p (f := fun c => { c.dropInst i with
      cpLast := .descMismatch, incoming := c.incoming.filter fun x => !decide (x.header.cp = true ∧ x.header.group = i.group ∧ x.header.seq = i.seq) })
      fun h => Status.noConfusion (congrArg CollPart.cpLast h)
    have hv := (congrArg (fun a : State => a.coll.part p) hends).trans ((State.collPart_congr (recorded.endCp_coll p i .descMismatch) p).trans hended)
    rw [hrecorded] at hv
    simp only [v, hv]
    exact ⟨rfl, rfl, rfl, rfl, rfl, rfl, rfl⟩
  · have haborted : noted.aborted = true := by simp [noted, CollPart.noteResult, hplane]
    have hcore : (recorded.coll.part p).core ≠ .reset := by
      rw [hrecorded]
      exact fun h => Bool.noConfusion (haborted.symm.trans (congrArg CollPart.aborted h :))
    have hdata : s.endMismatch p i major rank lidx count = recorded.endRecords p i (recorded.instRecords p i.group i.seq) .descMismatch := if_neg hplane
    have hkeeps : v.core = noted.core := by
      rw [← hrecorded, ← recorded.endRecords_keepsCore p p i (recorded.instRecords p i.group i.seq) .descMismatch hcore, ← hdata]
    exact ⟨(congrArg CollPart.aborted hkeeps :), (congrArg CollPart.errSeq hkeeps :), (congrArg CollPart.errGroup hkeeps :), (congrArg CollPart.errRank hkeeps :),
      (congrArg CollPart.errLidx hkeeps :), (congrArg CollPart.errCount hkeeps :), (congrArg CollPart.majority hkeeps :)⟩

end

end Sys2Proof.Machine
end

section
/-! SUPPORT. The fence exchange (R156, R364): a message leaves the ports alone changed, and a fence header that arrives changes the partition's exchange. -/

namespace Sys2Proof.Machine

/-! ### Messages -/

/-- From s to u only the ports may change. -/
structure Sends (s u : State) : Prop where
  eq : u = { s with links := u.links }

theorem Sends.refl (s : State) : Sends s s := ⟨rfl⟩

theorem Sends.trans {s t u : State} (h : Sends s t) (k : Sends t u) : Sends s u :=
  ⟨k.eq.trans (congrArg (fun (a : State) => { a with links := u.links }) h.eq)⟩

theorem Sends.foldl {α : Type} {f : State → α → State} (hf : ∀ a x, Sends a (f a x)) (xs : List α) (s : State) : Sends s (xs.foldl f s) := by
  induction xs generalizing s with
  | nil => exact .refl s
  | cons x xs ih => exact (hf s x).trans (ih _)

theorem Sends.tiles {s u : State} (h : Sends s u) : u.tiles = s.tiles := (congrArg State.tiles h.eq :)
theorem Sends.coll {s u : State} (h : Sends s u) : u.coll = s.coll := (congrArg State.coll h.eq :)

theorem State.sendUnit_sends (s : State) (p r c vc : Nat) (i : Inner) (data : List Line) : Sends s (s.sendUnit p r c vc i data) := by
  unfold State.sendUnit
  dsimp only
  split
  · exact .refl s
  · split
    · exact .refl s
    · exact ⟨rfl⟩

theorem State.fenceDown_sends (s : State) (p word : Nat) : Sends s (s.fenceDown p word) :=
  Sends.foldl (fun a _ => a.sendUnit_sends _ _ _ _ _ _) _ s

/-! ### The exchange -/

/-- The word of this module leaves of its own state the exchange changed alone. -/
theorem State.fenceUp_sends (s : State) (p : Nat) (fault : Bool) : ∃ x, Sends (s.updColl p fun c => { c with fence := x }) (s.fenceUp p fault) := by
  unfold State.fenceUp
  dsimp only
  split
  · exact ⟨_, State.sendUnit_sends _ _ _ _ _ _ _⟩
  · exact ⟨_, State.fenceDown_sends _ _ _⟩

/-- A try of the exchange, made or not, leaves the tiles, and of a part whose rank table is loaded all but the exchange. -/
theorem State.fenceTry_keeps {s : State} {p : Nat} (hranks : 0 < (s.coll.part p).ranks) :
    (s.fenceTry p).tiles = s.tiles ∧ ∃ x, (s.fenceTry p).coll.part p = { s.coll.part p with fence := x } := by
  unfold State.fenceTry
  dsimp only
  split
  · obtain ⟨x, hsends⟩ := s.fenceUp_sends p false
    exact ⟨hsends.tiles, x, (State.collPart_congr hsends.coll p).trans (s.collPart_updColl p (CollPart.ne_reset_of_ranks hranks))⟩
  · exact ⟨rfl, (s.coll.part p).fence, rfl⟩

/-- Before the fence is reached here the exchange waits. -/
theorem State.fenceTry_waits {s : State} {p : Nat} (h : s.fenceReached p = false) : s.fenceTry p = s := by
  simp [State.fenceTry, h]

section
variable {s : State} {p : Fin 16} {rank word : Nat}

/-- A child's word is kept until the fence is reached here (R364). -/
theorem exec_fenceHeaderReceive_child (hchild : (treeChildren (s.coll.part p).pod (s.coll.part p).all (s.coll.part p).self).contains rank = true)
    (hfence : s.fenceReached p = false) :
    Answers (exec (.fenceHeaderReceive p rank word) s) fun u =>
      (u.coll.part p).fence.up = (s.coll.part p).fence.up.filter (fun u => decide (u.1 ≠ rank)) ++ [(rank, word)] ∧ u.links = s.links := by
  let up := (s.coll.part p).fence.up.filter (fun (u : Nat × Nat) => decide (u.1 ≠ rank)) ++ [(rank, word)]
  let heard := s.updColl p fun c => { c with fence := { (s.coll.part p).fence with up := up } }
  have hpart : heard.coll.part p = { s.coll.part p with fence := { (s.coll.part p).fence with up := up } } := by
    refine s.collPart_updColl p fun h => ?_
    have hup : up = [] := (congrArg (fun c : CollPart => c.fence.up) h :)
    exact List.append_ne_nil_of_right_ne_nil _ (List.cons_ne_nil _ _) hup
  have hwaits : heard.fenceReached p = false := by
    rw [← hfence]
    show (_ && _ && (heard.coll.part p).insts.all _) = _
    rw [hpart]
    rfl
  refine ⟨heard, congrArg Host.Outcome.next ((if_pos hchild).trans (State.fenceTry_waits hwaits)), ?_, rfl⟩
  rw [hpart]

/-- The parent's word is the result, and goes down to the children (R364). -/
theorem exec_fenceHeaderReceive_parent (hchild : (treeChildren (s.coll.part p).pod (s.coll.part p).all (s.coll.part p).self).contains rank = false)
    (hparent : treeParent (s.coll.part p).pod (s.coll.part p).all (s.coll.part p).self = some rank) (hresult : (s.coll.part p).fence.result = none) :
    Answers (exec (.fenceHeaderReceive p rank word) s) fun u => (u.coll.part p).fence.result = some word ∧ u.tiles = s.tiles := by
  let told := s.updColl p fun c => { c with fence := { (s.coll.part p).fence with result := some word } }
  have hpart : told.coll.part p = { s.coll.part p with fence := { (s.coll.part p).fence with result := some word } } :=
    s.collPart_updColl p fun h => Option.some_ne_none word (congrArg (fun c : CollPart => c.fence.result) h :)
  have hdown := told.fenceDown_sends p word
  have hexec : s.fenceHear p rank word = told.fenceDown p word := by
    simp only [State.fenceHear, hchild, hparent, hresult, Bool.false_eq_true, if_false, if_true]
    rfl
  refine ⟨told.fenceDown p word, congrArg Host.Outcome.next hexec, ?_, hdown.tiles⟩
  rw [State.collPart_congr hdown.coll, hpart]

end

end Sys2Proof.Machine
end

section
/-! The statement on aborts, the census and the fence headers. -/

namespace Sys2Proof.Machine

/-- Settles O35: header by header. That an ABORT acts in the present step only, the fields of CENSUS and CENSUS_RESULT, and the fence word, are the model's choices (log 55 and 56, DESIGN CHOICE). -/
theorem abortsCensusAndFences : Obligations.AbortsCensusAndFences := by
  intro p group seq rank digest sr sl sd lidx major count word cp g i m s c
  refine ⟨fun r hrun hphase hstep => ⟨_, rfl, State.abortStep_faultRx hrun hphase hstep⟩, ?mismatch, ?census, ?result,
    fun hgroup hinst hmismatch hsent hown hlow => exec_censusTimeout_answers hgroup hinst hmismatch hsent hown hlow, exec_fenceHeaderReceive_child, exec_fenceHeaderReceive_parent⟩
  case mismatch =>
    intro hgroup hnew hloc
    obtain ⟨os, hheld⟩ := State.abortInst_new hgroup hnew hloc rank digest sr sl sd
    refine ⟨_, congrArg Host.Outcome.next hheld, ?_, rfl⟩
    rw [(s.emit os).collPart_updColl p (CollPart.ne_reset_of_insts (List.append_ne_nil_of_right_ne_nil _ (List.cons_ne_nil _ _)))]
    rfl
  case census =>
    intro hgroup hlow hrank hinst hmismatch hwaits
    have hne := CollPart.setInst_insts_ne_nil (CollPart.insts_ne_nil hinst)
    exact ⟨_, exec_censusHeader_waits hgroup hlow hrank hinst hmismatch hwaits, congrArg CollPart.insts (s.collPart_updColl p (CollPart.ne_reset_of_insts (hne _))), rfl⟩
  case result =>
    intro hinst
    obtain ⟨hgroup, hseq, hcp⟩ := CollPart.inst_name hinst
    have hnoted := State.endMismatch_noted (s := s) (p := p) (i := i) (CollPart.insts_ne_nil hinst) major rank lidx count
    simp only [CollPart.noteResult, hgroup, hseq, hcp] at hnoted
    exact ⟨_, exec_censusResult_ends hinst major rank lidx count, hnoted⟩

end Sys2Proof.Machine
end

section
/-! SUPPORT. Chunks (R354 to R357, R363): the advance of a chunk by one step, and the parts of a chunk that arrives. -/

namespace Sys2Proof.Machine

/-! ### The advance of a chunk (R354) -/

/-- Every row that moves a chunk on advances the chunk of its operation. -/
theorem exec_colRow {e : (Fin 16 → Fin 1024 → Nat → Bool → Nat → Nat → Instr) × Nat} (he : e ∈ colRows) (p : Fin 16) (group : Fin 1024) (seq : Nat) (cp : Bool)
    (origin chunk : Nat) (s : State) : exec (e.1 p group seq cp origin chunk) s = .next (s.advance e.2 p group seq cp origin chunk) := by
  simp only [colRows, List.mem_cons, List.not_mem_nil, or_false] at he
  rcases he with rfl | rfl | rfl | rfl | rfl <;> rfl

section
variable {s a : State} {p group seq origin chunk : Nat} {cp : Bool} {i : Inst} {g : Group} {d : ColDesc} {own : ChunkData} {fl : Flags} {m : Moved}
  (hinst : s.inst p group seq cp = some i) (hgroup : (s.coll.part p).groupAs group cp = some g) (hdesc : i.desc = some d)
  (hopen : i.open_ g = true) (hchunk : d.hasChunk g origin chunk = true) (hturn : i.inTurn origin chunk = true)
  (hown : (if (i.chunk origin chunk).stage = 0 then s.ownChunk p i d g origin chunk else (s, Status.done, (i.chunk origin chunk).data, (0 : Flags))) = (a, .done, own, fl))
  (hstep : i.stepChunk d ((s.coll.part p).geo g) g (s.coll.part p).self origin chunk own = some m)
  (hports : (m.sends.all fun x => !(s.portsTo p x.rank true).isEmpty) = true)
include hinst hgroup hdesc hopen hchunk hturn hown hstep hports

/-- A chunk in its turn whose step delivers nothing here: its sends leave, and the collective settles. -/
theorem State.advance_sends (hwrite : m.write = none) :
    let b := m.sends.foldl (fun (a : State) x => a.sendChunk p i d g x) a
    s.advance d.op p group seq cp origin chunk =
      ({ b with coll := b.coll.raiseFlags (d.wire g origin chunk % 3) (fl ||| m.flags ||| 0) }).settleInst p m.inst d g := by
  intro b
  simp only [State.advance, hinst, hgroup, hdesc, hopen, hchunk, hturn, decide_true, Bool.and_self, Bool.not_true, Bool.false_eq_true, if_false, hown, ne_eq,
    not_true_eq_false, hstep, hports, hwrite, b]

/-- A chunk in its turn whose step delivers it here: its sends leave, the data lands, and the collective settles with its statistics. -/
theorem State.advance_lands {data : ChunkData} {u : State} {landed : Flags} (hwrite : m.write = some data)
    (hland : (m.sends.foldl (fun (a : State) x => a.sendChunk p i d g x) a).landChunk p i d g data = (u, .done, landed)) :
    s.advance d.op p group seq cp origin chunk = ({ u with coll := u.coll.raiseFlags (d.wire g origin chunk % 3) (fl ||| m.flags ||| landed) }).settleInst p
      { m.inst with stats := combineStats m.inst.stats data.stats } d g := by
  simp only [State.advance, hinst, hgroup, hdesc, hopen, hchunk, hturn, decide_true, Bool.and_self, Bool.not_true, Bool.false_eq_true, if_false, hown, ne_eq,
    not_true_eq_false, hstep, hports, hwrite, hland]

end

/-- BARRIER settles its collective (R364). -/
theorem exec_barrier_settles {s : State} {p : Fin 16} {group : Fin 1024} {seq : Nat} {cp : Bool} {i : Inst} {g : Group} {d : ColDesc}
    (hinst : s.inst p group seq cp = some i) (hgroup : (s.coll.part p).groupAs group cp = some g) (hdesc : i.desc = some d) (hop : d.op = opBarrier) :
    exec (.barrier p group seq cp) s = .next (s.settleInst p i d g) := by
  show execBarrier p group seq cp s = _
  simp only [execBarrier, hinst, hgroup, hdesc, hop, if_true]

/-! ### Parts of a chunk that arrive (R356, R357, R363) -/

/-- With no frame waiting nothing joins a chunk. -/
theorem CollPart.absorb_noFrames {c : CollPart} (h : c.frames = []) : c.absorb = c := by
  simp [CollPart.absorb, h]

theorem CollPart.insts_ne_nil_of_enteredInst {c : CollPart} {h : ChunkHeader} {i : Inst} (hi : c.enteredInst h = some i) : c.insts ≠ [] := by
  obtain ⟨_, hinst, _⟩ := Option.bind_eq_some_iff.1 hi
  exact CollPart.insts_ne_nil hinst

theorem CollPart.incoming_ne_nil_of_canClose {c : CollPart} {e : Incoming × ColFrame} (h : c.canClose = some e) : c.incoming ≠ [] := by
  obtain ⟨_, hx, _⟩ := List.exists_of_findSome?_eq_some h
  exact List.ne_nil_of_mem hx

section
variable {s : State} {p : Fin 16} {f : ColFrame} {i : Inst}

/-- The one waiting frame opens a chunk of an entered collective whose digest agrees: the chunk waits for its payload (R357, R359). -/
theorem exec_chunkOpenReceive_opens (hframes : (s.coll.part p).frames = [f]) (hcan : (s.coll.part p).canOpen f = true) (hlost : f.lost = false)
    (hheader : headerOk f.bytes = true) (hop : (ChunkHeader.ofBytes f.bytes).op ≠ 0xF3) (hinst : (s.coll.part p).enteredInst (.ofBytes f.bytes) = some i)
    (hown : i.own = some (ChunkHeader.ofBytes f.bytes).digest) (hunits : (ChunkHeader.ofBytes f.bytes).units ≠ 0) :
    exec (.chunkOpenReceive p) s = .next (s.updColl p fun c =>
      { c with frames := [], incoming := c.incoming ++ [⟨f.port, f.ext, .ofBytes f.bytes, f.bytes.take 56, true, []⟩] }) := by
  let opened := fun c : CollPart => ({ c with incoming := c.incoming ++ [⟨f.port, f.ext, .ofBytes f.bytes, f.bytes.take 56, true, []⟩] } : CollPart)
  let taken : CollPart := { s.coll.part p with frames := (s.coll.part p).frames.erase f }
  have hnone : (s.coll.part p).frames.erase f = [] := by simp [hframes]
  have htaken : taken ≠ .reset := CollPart.ne_reset_of_insts (c := taken) (CollPart.insts_ne_nil_of_enteredInst hinst)
  have hpart : (s.updColl p fun y => { y with frames := y.frames.erase f }).coll.part p = taken := s.collPart_updColl p htaken
  have hfound : taken.enteredInst (.ofBytes f.bytes) = some i := hinst
  have habsorb : (opened taken).absorb = opened taken := CollPart.absorb_noFrames hnone
  have hopened : opened taken ≠ .reset := CollPart.ne_reset_of_insts (c := opened taken) (CollPart.insts_ne_nil_of_enteredInst hinst)
  have hjudged : s.openChunk p f = s.updColl p fun y => (opened { y with frames := y.frames.erase f }).absorb := by
    simp only [State.openChunk, hlost, hheader, hop, hunits, hpart, hfound, hown, Bool.not_true, Bool.false_eq_true, if_false, ne_eq, not_true_eq_false]
    exact s.updColl_updColl p _ htaken
  show execChunkOpenReceive p s = _
  simp only [execChunkOpenReceive, hframes, List.find?_cons, hcan, hjudged]
  refine congrArg Host.Outcome.next ((s.updColl_updColl p _ (habsorb.symm ▸ hopened)).trans (s.updColl_congr p ?_))
  have hdone : (opened taken).absorb.absorb = { opened taken with frames := [] } := by
    rw [habsorb, habsorb]
    simp only [opened, taken, hnone]
  exact hdone

variable {x : Incoming}

/-- A closing part whose payload is whole is checked (R363). -/
theorem exec_chunkCloseReceive_closes (habsorb : (s.coll.part p).absorb = s.coll.part p) (hcan : (s.coll.part p).canClose = some (x, f)) :
    exec (.chunkCloseReceive p) s = .next ((s.updColl p CollPart.absorb).closeChunk p x f) := by
  have hpart : (s.updColl p CollPart.absorb).coll.part p = s.coll.part p :=
    (s.collPart_updColl p (habsorb.symm ▸ CollPart.ne_reset_of_incoming (CollPart.incoming_ne_nil_of_canClose hcan))).trans habsorb
  show execChunkCloseReceive p s = _
  simp only [execChunkCloseReceive, hpart, hcan]

/-- The CRC of a received chunk in its closing part (R363). -/
abbrev Incoming.crcHolds (x : Incoming) (f : ColFrame) : Prop := field f.bytes 56 8 = crc64 (x.front ++ (x.units.map twordBytes).flatten)

/-- A chunk whose opening part passed and whose CRC holds joins its collective. -/
theorem State.closeChunk_good (hok : x.ok = true) (hcrc : x.crcHolds f) :
    s.closeChunk p x f = (s.updColl p fun y => { y with frames := y.frames.erase f, incoming := y.incoming.erase x }).acceptChunk p x := by
  simp [State.closeChunk, hok, hcrc]

/-- A data-plane chunk whose CRC fails counts, taints the epoch, and joins its collective all the same. -/
theorem State.closeChunk_bad (hok : x.ok = true) (hcrc : ¬ x.crcHolds f) (hplane : x.header.cp = false) :
    s.closeChunk p x f = ((s.updColl p fun y => { y with frames := y.frames.erase f, incoming := y.incoming.erase x }).updColl p fun y =>
      { y with crcFail := satAdd 16 y.crcFail 1, taint := y.taint || true }).acceptChunk p x := by
  simp [State.closeChunk, hok, hcrc, hplane]

/-- A chunk that joins its collective leaves of a part whose rank table is loaded all but its collectives. -/
theorem State.acceptChunk_keeps (hranks : 0 < (s.coll.part p).ranks) (x : Incoming) :
    ∃ l, (s.acceptChunk p x).coll.part p = { s.coll.part p with insts := l } := by
  unfold State.acceptChunk
  dsimp only
  split
  · split
    · exact ⟨_, rfl⟩
    · exact ⟨_, s.collPart_updColl p (CollPart.ne_reset_of_ranks hranks)⟩
  · exact ⟨_, rfl⟩

/-- A failed CRC shows in COL_INTEG and in the epoch's taint (R363). -/
theorem State.closeChunk_bad_counts (hok : x.ok = true) (hcrc : ¬ x.crcHolds f) (hplane : x.header.cp = false) (hranks : 0 < (s.coll.part p).ranks) :
    ((s.closeChunk p x f).coll.part p).crcFail = satAdd 16 (s.coll.part p).crcFail 1 ∧ ((s.closeChunk p x f).coll.part p).taint = true := by
  let taken := s.updColl p fun y => { y with frames := y.frames.erase f, incoming := y.incoming.erase x }
  let counted := taken.updColl p fun y => { y with crcFail := satAdd 16 y.crcFail 1, taint := y.taint || true }
  have htaken := s.collPart_updColl p (f := fun y => { y with frames := y.frames.erase f, incoming := y.incoming.erase x }) (CollPart.ne_reset_of_ranks hranks)
  have htakenRanks : 0 < (taken.coll.part p).ranks := by rwa [htaken]
  have hcounted := taken.collPart_updColl p (f := fun y => { y with crcFail := satAdd 16 y.crcFail 1, taint := y.taint || true }) (CollPart.ne_reset_of_ranks htakenRanks)
  have hcountedRanks : 0 < (counted.coll.part p).ranks := by rwa [hcounted]
  obtain ⟨l, hl⟩ := State.acceptChunk_keeps hcountedRanks x
  rw [State.closeChunk_bad hok hcrc hplane, hl, hcounted, htaken]
  exact ⟨rfl, Bool.or_true _⟩

end

end Sys2Proof.Machine
end

section
/-! The statement on chunks. -/

namespace Sys2Proof.Machine

/-- Settles O34: the rows that move a chunk on by one lemma for what its step delivers, the parts that arrive each by its own. That a closing part is 56 zeros and its CRC, and a payload padded to 64 B, is the model's choice (log 53, DESIGN CHOICE); the receive path rests on log 54 (DEDUCED). -/
theorem chunksMoveOnAndArrive : Obligations.ChunksMoveOnAndArrive := by
  refine ⟨?move, ?arrive⟩
  case move =>
    intro p group seq cp origin chunk i g d s c hinst hgroup hdesc
    refine ⟨?rows, exec_barrier_settles hinst hgroup hdesc⟩
    intro e he hop hopen hchunk hturn a own fl m hown hstep hports b
    rw [exec_colRow he, ← hop]
    exact ⟨fun hwrite => congrArg Host.Outcome.next (State.advance_sends hinst hgroup hdesc hopen hchunk hturn hown hstep hports hwrite),
      fun data u landed hwrite hland => congrArg Host.Outcome.next (State.advance_lands hinst hgroup hdesc hopen hchunk hturn hown hstep hports hwrite hland)⟩
  case arrive =>
    intro p f x i s c h
    refine ⟨?opens, ?closes⟩
    case opens =>
      intro hframes hcan hlost hheader hop hinst hown hunits
      have hpart := s.collPart_updColl p (f := fun c => { c with frames := [], incoming := c.incoming ++ [⟨f.port, f.ext, h, f.bytes.take 56, true, []⟩] })
        (CollPart.ne_reset_of_incoming (List.append_ne_nil_of_right_ne_nil _ (List.cons_ne_nil _ _)))
      exact ⟨_, exec_chunkOpenReceive_opens hframes hcan hlost hheader hop hinst hown hunits, congrArg CollPart.incoming hpart, congrArg CollPart.frames hpart, rfl⟩
    case closes =>
      intro habsorb hcan hok
      have hexec := exec_chunkCloseReceive_closes habsorb hcan
      refine ⟨fun hcrc => hexec.trans (congrArg Host.Outcome.next (State.closeChunk_good hok hcrc)), fun hcrc hplane hranks => ⟨_, hexec, ?_⟩⟩
      have hpart : (s.updColl p CollPart.absorb).coll.part p = c := (s.collPart_updColl p (habsorb.symm ▸ CollPart.ne_reset_of_ranks hranks)).trans habsorb
      have hcounts := State.closeChunk_bad_counts (s := s.updColl p CollPart.absorb) hok hcrc hplane (by rwa [hpart])
      rwa [hpart] at hcounts

end Sys2Proof.Machine
end

section
/-! SUPPORT. Entry of collectives (R347, R351, R352): the first contributor of a collective, and the records of a tile's COL unit. -/

namespace Sys2Proof.Machine

/-! ### The first contributor of a collective (R347, R352) -/

/-- A part with a new collective of a group; a group that runs as one flat ring is noted (R354). -/
def CollPart.joined (c : CollPart) (g : Group) (made : Inst) : CollPart := { c with insts := c.insts ++ [made], flatSeen := c.flatSeen || (ringsOf c.pod g.ranks).2 }

theorem CollPart.joined_ne_reset (c : CollPart) (g : Group) (made : Inst) : c.joined g made ≠ .reset :=
  CollPart.ne_reset_of_insts (List.append_ne_nil_of_right_ne_nil _ (List.cons_ne_nil _ _))

/-- The first contributor of a collective makes it, with what f adds to it; it agrees with itself, and nothing is counted. -/
theorem State.joinInst_first {s : State} {p group seq glid : Nat} {cp : Bool} {g : Group} {e : Entered} {f : Inst → Inst} {made : Inst}
    (hnew : (s.coll.part p).inst group seq cp = none) (hmade : f { Inst.start group seq cp with stats := neutralStats glid, entered := [e] } = made)
    (hname : made.group = group ∧ made.seq = seq ∧ made.cp = cp) (hown : made.own = some e.digest) (hagrees : made.mismatch = none) :
    s.joinInst p group seq cp g glid e f = s.updColl p fun c => c.joined g made := by
  have hset : ((s.coll.part p).joined g made).setInst made = (s.coll.part p).joined g made := by
    have hfree : (s.coll.part p).inst made.group made.seq made.cp = none := by
      obtain ⟨hgroup, hseq, hcp⟩ := hname
      rwa [hgroup, hseq, hcp]
    exact CollPart.setInst_added (c := { s.coll.part p with flatSeen := (s.coll.part p).flatSeen || (ringsOf (s.coll.part p).pod g.ranks).2 }) hfree
  have hput : (s.updColl p fun c => c.joined g made).putInst p made = s.updColl p fun c => c.joined g made :=
    (s.updColl_updColl p _ (CollPart.joined_ne_reset _ g made)).trans (s.updColl_congr p hset)
  have hcount : ∀ a : State, a.censusTry p made g = a := by simp [State.censusTry, hagrees]
  simp only [Inst.start] at hmade
  simp only [State.joinInst, hnew, Option.getD_none, Option.isSome_none, Bool.false_eq_true, if_false, Inst.start, List.nil_append, hmade, hown, if_true]
  exact (hcount _).trans hput

/-! ### Records of the COL unit (R351, R352) -/

/-- Record i of a tile of partition p has the descriptor d, spelt v, free of poison; d passes its check, and names by group g and count seq a collective that nothing has entered, that there is room for and that no ABORT forbids. -/
structure FirstEntry (s : State) (x : Tile) (p : Nat) (i : Issued) (v : Nat) (d : ColDesc) (g : Group) (seq : Nat) : Prop where
  words : wordsNat ((x.mem.spWords (bits i.a 0 22) 16).map TWord.bits) = v
  desc : ColDesc.ofBits v = d
  clean : (x.mem.spWords (bits i.a 0 22) 16).any TWord.poison = false
  check : d.check x (s.colEnv p d.group (match (s.job p).image with | some im => im.vaSize | none => 0) (s.job p).space) = .done
  group : (s.coll.part p).group d.group = some g
  count : Store.get 0 (s.coll.part p).seqs (256 * d.group + d.lidx) = seq
  fresh : (s.coll.part p).inst d.group seq false = none
  room : s.coll.inFlight < 256
  live : (s.coll.part p).faultRx = false

/-- The contributor that a record brings to its collective (R352, R359). -/
def Entered.ofRecord (t : Nat) (i : Issued) (v : Nat) (d : ColDesc) (g : Group) (seq : Nat) : Entered := ⟨d.lidx, t, i.idx, v, instDigest v g.digest seq false⟩

/-- The collective that its first record makes. -/
def Inst.ofRecord (t : Nat) (i : Issued) (v : Nat) (d : ColDesc) (g : Group) (seq : Nat) : Inst :=
  { Inst.start d.group seq false with stats := neutralStats d.glid, entered := [.ofRecord t i v d g seq] }

/-- A part with the count of a contributor at n (R347). -/
def CollPart.counted (c : CollPart) (k n : Nat) : CollPart := { c with seqs := Store.set 0 c.seqs k n }

/-- The state once the lone record of a tile's COL unit has entered as the first. -/
def State.entered (s : State) (t : Nat) (x : Tile) (p : Nat) (i : Issued) (v : Nat) (d : ColDesc) (g : Group) (seq : Nat) : State :=
  (s.setTile t (x.setUnit unitCol ⟨[⟨i, .done, 1, d.lidx + 256 * colKey d.group seq⟩], []⟩)).updColl p fun c =>
    (c.counted (256 * d.group + d.lidx) (seq + 1)).joined g (.ofRecord t i v d g seq)

section
variable {s : State} {t : Fin 156} {p : Nat} {i : Issued} {v : Nat} {d : ColDesc} {g : Group} {seq : Nat}

/-- The lone record of a tile's COL unit enters its collective as the first. -/
theorem State.enterCol_first {x : Tile} (hx : x ≠ .reset) (hunit : x.unit unitCol = ⟨[], [i]⟩) (hpart : x.part = some p) (h : FirstEntry s x p i v d g seq) :
    (s.setTile t x).enterCol t = some (s.entered t x p i v d g seq) := by
  let a := s.setTile t (x.setUnit unitCol ⟨[⟨i, .done, 1, d.lidx + 256 * colKey d.group seq⟩], []⟩)
  let next := a.updColl p fun c => c.counted (256 * d.group + d.lidx) (seq + 1)
  have hcounted : (s.coll.part p).counted (256 * d.group + d.lidx) (seq + 1) ≠ .reset := CollPart.ne_reset_of_groups (CollPart.groups_ne_nil (c := s.coll.part p) h.group)
  have hnew : (next.coll.part p).inst d.group seq false = none := by
    rw [a.collPart_updColl p hcounted]
    exact h.fresh
  have hjoin : next.joinInst p d.group seq false g d.glid (.ofRecord t i v d g seq) id = next.updColl p fun c => c.joined g (.ofRecord t i v d g seq) :=
    State.joinInst_first hnew rfl ⟨rfl, rfl, rfl⟩ rfl rfl
  have htile : (s.setTile t x).tile t = x := s.tile_setTile t hx
  have hcheck : ∀ n, n = (match (s.job p).image with | some im => im.vaSize | none => 0) → d.check x ((s.setTile t x).colEnv p d.group n ((s.setTile t x).job p).space) = .done := by
    rintro _ rfl
    exact h.check
  have hlive : ¬ (s.coll.part p).faultRx = true := by simp [h.live]
  have hwaits : ¬ (16 ≤ 0 ∨ True ∧ 256 ≤ s.coll.inFlight ∨ False) := by simp [Nat.not_le.2 h.room]
  simp only [State.enterCol, htile, hunit, hpart, h.words, h.desc]
  rw [hcheck _ ?size]
  case size => rfl
  simp only [h.clean, Bool.false_eq_true, and_false, if_false, ne_eq, not_true_eq_false, State.setTile_coll, h.group, h.count, h.fresh, List.filter_nil, List.length_nil,
    List.any_nil, Option.isNone_none, if_neg hwaits, if_neg hlive, List.nil_append, State.setTile_setTile _ _ _ hx]
  exact congrArg some (hjoin.trans (a.updColl_updColl p _ hcounted))

/-- A COL record issued to a free unit is entered at once, where it can be. -/
theorem exec_col_pumps (h : AtRecord s t recCol i) (hunit : (s.tile t).unit unitCol = ⟨[], []⟩) :
    exec (.col t) s = .next (State.pumpCol 1 (s.setTile t ((pastRecord (s.tile t)).setUnit unitCol ⟨[], [i]⟩)) t) := by
  have hrun := State.running_of_dispatching h.1
  have hpast : pastRecord (s.tile t) ≠ .reset := Tile.ne_reset (by simpa using hrun)
  have hqueued : (pastRecord (s.tile t)).setUnit unitCol ⟨[], [i]⟩ ≠ .reset := Tile.ne_reset (by simpa using hrun)
  have hfree : (pastRecord (s.tile t)).unit unitCol = ⟨[], []⟩ := by simpa [Tile.unit] using hunit
  show execCol t s = _
  simp only [execCol, State.take_at h, State.updTile_eq, State.tile_setTile _ _ hpast, State.setTile_setTile _ _ _ hpast, hfree, List.nil_append,
    State.tile_setTile _ _ hqueued]
  rw [Tile.unit_setUnit _ _ (by simp [UnitState.idle])]
  rfl

theorem pastRecord_part (x : Tile) : (pastRecord x).part = x.part := by
  unfold pastRecord Tile.takeToken
  split <;> rfl

/-- COL: the first record of a collective, issued to a free unit. -/
theorem exec_col_enters (h : AtRecord s t recCol i) (hpart : (s.tile t).part = some p) (hunit : (s.tile t).unit unitCol = ⟨[], []⟩)
    (hentry : FirstEntry s ((pastRecord (s.tile t)).setUnit unitCol ⟨[], [i]⟩) p i v d g seq) :
    exec (.col t) s = .next (s.entered t ((pastRecord (s.tile t)).setUnit unitCol ⟨[], [i]⟩) p i v d g seq) := by
  have hqueued : (pastRecord (s.tile t)).setUnit unitCol ⟨[], [i]⟩ ≠ .reset := Tile.ne_reset (by simpa using State.running_of_dispatching h.1)
  rw [exec_col_pumps h hunit, State.pumpCol,
    State.enterCol_first hqueued (Tile.unit_setUnit _ _ (by simp [UnitState.idle])) ((pastRecord_part _).trans hpart) hentry]
  rfl

/-- What the first record leaves in its tile's unit and in its partition's part. -/
theorem State.entered_shows {x : Tile} (hrun : x.stage.state = .running) :
    ((s.entered t x p i v d g seq).tile t).unit unitCol = ⟨[⟨i, .done, 1, d.lidx + 256 * colKey d.group seq⟩], []⟩ ∧
      (s.entered t x p i v d g seq).coll.part p = ((s.coll.part p).counted (256 * d.group + d.lidx) (seq + 1)).joined g (.ofRecord t i v d g seq) := by
  let y := x.setUnit unitCol ⟨[⟨i, .done, 1, d.lidx + 256 * colKey d.group seq⟩], []⟩
  have htile : (s.entered t x p i v d g seq).tile t = y := s.tile_setTile t (Tile.ne_reset hrun)
  exact ⟨(congrArg (fun z : Tile => z.unit unitCol) htile).trans (Tile.unit_setUnit _ _ (by simp [UnitState.idle])),
    (s.setTile t y).collPart_updColl p (CollPart.joined_ne_reset _ _ _)⟩

end

/-! ### The end of a record (R352) -/

/-- A unit with nothing waiting enters nothing. -/
theorem State.pumpAll_idle {s : State} (h : ∀ n, ((s.tile n).unit unitCol).queue = []) : s.pumpAll = s := by
  refine List.foldl_fixed' (fun t => ?_) _
  rw [h t]
  rfl

section
variable {s : State} {t : Fin 156} {p : Nat} {f : InFlight}

/-- A tile once the lone record of its COL unit has left with its signal (R49). -/
def Tile.colDone (x : Tile) (f : InFlight) : Tile := (x.setUnit unitCol .idle).signalOf f.issued

theorem Tile.signalOf_units (x : Tile) (i : Issued) : (x.signalOf i).units = x.units := by
  unfold Tile.signalOf
  split <;> rfl

theorem Tile.signalOf_stage (x : Tile) (i : Issued) : (x.signalOf i).stage = x.stage := by
  unfold Tile.signalOf
  split <;> rfl

theorem Tile.colDone_unit {x : Tile} (h : Alone x unitCol f) : (x.colDone f).unit unitCol = .idle := by
  have hunits : (x.colDone f).units = (x.setUnit unitCol .idle).units := Tile.signalOf_units _ _
  exact (congrArg (fun m => Store.get UnitState.idle m unitCol) hunits).trans h.2

theorem Tile.colDone_disp (x : Tile) (f : InFlight) : (x.colDone f).disp = (x.signalOf f.issued).disp := by
  unfold Tile.colDone Tile.signalOf
  split <;> rfl

/-- The lone record of a COL unit ends DONE. -/
theorem State.finish_col_done (h : Alone (s.tile t) unitCol f) : s.finish t unitCol f .done = s.setTile t ((s.tile t).colDone f) := by
  simp [State.finish, h.1, Tile.noteStatus, Tile.colDone, UnitState.idle]

/-- What the completion of a record whose collective is whole leaves before the other records go on: the tile past its record, DONE shown, and the collective gone when no record of it is left. -/
theorem State.completeCol_done (hpart : (s.tile t).part = some p) (halone : Alone (s.tile t) unitCol f) (hstatus : s.colStatus p f = some .done)
    (hranks : 0 < (s.coll.part p).ranks) :
    ∃ a : State, s.completeCol t = a.pumpAll.fenceTry p ∧ a.tiles = (s.setTile t ((s.tile t).colDone f)).tiles ∧
      0 < (a.coll.part p).ranks ∧ (a.coll.part p).lastStatus = .done := by
  let b := (s.setTile t ((s.tile t).colDone f)).updColl p fun c => { c with lastStatus := .done }
  have hb : b.coll.part p = { s.coll.part p with lastStatus := .done } := State.collPart_updColl _ p (CollPart.ne_reset_of_ranks hranks)
  have hbRanks : 0 < (b.coll.part p).ranks := by rwa [hb]
  have hbDone : (b.coll.part p).lastStatus = .done := by rw [hb]
  simp only [State.completeCol, halone.1, hpart, hstatus, if_true, State.finish_col_done halone]
  refine ⟨_, rfl, ?_⟩
  split
  · split
    next i _ =>
      have hdropped := b.collPart_updColl p (f := fun c => c.dropInst i) (CollPart.ne_reset_of_ranks hbRanks)
      exact ⟨rfl, (congrArg CollPart.ranks hdropped).symm ▸ hbRanks, (congrArg CollPart.lastStatus hdropped).trans hbDone⟩
    next => exact ⟨rfl, hbRanks, hbDone⟩
  · exact ⟨rfl, hbRanks, hbDone⟩

/-- COL's completion, when no record waits behind: the record leaves with its signal, and DONE is shown. -/
theorem exec_colRecordComplete_done (hrun : (s.tile t).stage.state = .running) (hpart : (s.tile t).part = some p) (hranks : 0 < (s.coll.part p).ranks)
    (halone : Alone (s.tile t) unitCol f) (hidle : ∀ n, ((s.tile n).unit unitCol).queue = []) (hstatus : s.colStatus p f = some .done) :
    Answers (exec (.colRecordComplete t) s) fun u => u.tile t = (s.tile t).colDone f ∧ (u.coll.part p).lastStatus = .done := by
  obtain ⟨a, hexec, htiles, haRanks, haDone⟩ := State.completeCol_done hpart halone hstatus hranks
  have hdone : (s.tile t).colDone f ≠ .reset := Tile.ne_reset ((congrArg Stage.state (Tile.signalOf_stage _ _)).trans hrun)
  have htile : ∀ n, a.tile n = (s.setTile t ((s.tile t).colDone f)).tile n := fun n => congrArg (fun m => Store.get Tile.reset m n) htiles
  have hquiet : ∀ n, ((a.tile n).unit unitCol).queue = [] := by
    intro n
    rw [htile n]
    by_cases hn : n = t
    · rw [hn, s.tile_setTile t hdone, Tile.colDone_unit halone]
      rfl
    · rw [s.tile_setTile_ne _ hn, hidle n]
  rw [State.pumpAll_idle hquiet] at hexec
  obtain ⟨hfenceTiles, x, hfence⟩ := State.fenceTry_keeps haRanks
  refine ⟨_, congrArg Host.Outcome.next hexec, ?_, ?_⟩
  · exact (congrArg (fun m => Store.get Tile.reset m t) hfenceTiles).trans ((htile t).trans (s.tile_setTile t hdone))
  · rw [hfence]
    exact haDone

end

end Sys2Proof.Machine
end

section
/-! SUPPORT. Collectives by host command (R344 to R346): CTRL_COLL, RANKS_LOAD and GROUPS_LOAD. -/

namespace Sys2Proof.Machine

/-- A table filled from index 0 up reads as what it was filled with. -/
theorem Store.get_filled {α : Type} [DecidableEq α] {d : α} (f : Nat → α) {n r : Nat} (h : r < n) :
    Store.get d ((List.range n).foldl (fun m k => Store.set d m k (f k)) []) r = f r := by
  have hwf : ∀ k, Store.wf d ((List.range k).foldl (fun m k => Store.set d m k (f k)) []) = true := by
    intro k
    induction k with
    | zero => rfl
    | succ k ih =>
      rw [List.range_succ, List.foldl_append]
      exact Store.wf_set _ ih _ _
  induction n with
  | zero => exact absurd h (Nat.not_lt_zero r)
  | succ n ih =>
    rw [List.range_succ, List.foldl_append]
    by_cases hr : r = n
    · subst hr
      exact Store.get_set_wf _ (hwf r) r _
    · exact (Store.get_set_ne _ _ hr).trans (ih (by omega))

/-- Malformed control-plane calls (R344, Table 15.8). -/
def CpCall.bad (x : CpCall) : Bool :=
  decide (x.op ≠ opBarrier ∧ x.op ≠ opBroadcast ∧ x.op ≠ opAllGather) || decide (1048576 < x.len) ||
    (if x.op = opBarrier then decide (x.len ≠ 0) else decide (x.len = 0)) || (decide (x.op ≠ opBroadcast) && decide (x.root ≠ 0))

theorem CpCall.bad_eq_false {x : CpCall} (h : (x.op = opBarrier ∧ x.len = 0 ∧ x.root = 0) ∨ (x.op = opAllGather ∧ 0 < x.len ∧ x.len ≤ 1048576 ∧ x.root = 0) ∨
    (x.op = opBroadcast ∧ 0 < x.len ∧ x.len ≤ 1048576)) : x.bad = false := by
  rcases h with ⟨hop, hlen, hroot⟩ | ⟨hop, hpos, hmax, hroot⟩ | ⟨hop, hpos, hmax⟩
  · simp [CpCall.bad, hop, hlen, hroot]
  · simp [CpCall.bad, hop, hroot, hmax, Nat.ne_of_gt hpos]
  · simp [CpCall.bad, hop, hmax, Nat.ne_of_gt hpos]

/-- The collective that a control-plane call makes (R344). -/
def Inst.ofCall (x : CpCall) (group seq : Nat) (g : Group) (bs : List Byte) : Inst :=
  { Inst.start group seq true with entered := [⟨0, 0, 0, x.word group, instDigest (x.word group) g.digest seq true⟩], ctrl := some x, bytes := bs.take x.len }

/-- SERIAL and POD of each rank of a table (R345). -/
def rankTable (bs : List Byte) (n : Nat) : Store (Nat × Nat) :=
  (List.range n).foldl (fun (m : Store (Nat × Nat)) r => Store.set (0, 0) m r (field bs (16 * r) 8, field bs (16 * r + 8) 2)) []

theorem get_rankTable (bs : List Byte) {n r : Nat} (h : r < n) : Store.get (0, 0) (rankTable bs n) r = (field bs (16 * r) 8, field bs (16 * r + 8) 2) :=
  Store.get_filled (fun r => (field bs (16 * r) 8, field bs (16 * r + 8) 2)) h

section
variable {s : State} {fn : Fin 17} {q : Fin 8192} {ctx : Nat} {cmd : Cmd} {bs : List Byte} {p : Nat} (hp : fnPart fn = p)
include hp

/-- CTRL_COLL: a good call makes its collective with the next SEQ of its group (R344). -/
theorem exec_ctrlColl_enters {x : CpCall} {group seq : Nat} {g : Group} (hready : HostReady s fn q 0x36 ctx cmd) (hx : CpCall.ofEntry cmd.entry fn q = x)
    (hnamed : bits cmd.entry.p0 8 10 = group) (hseq : Store.get 0 (s.coll.part p).cpSeqs group = seq) (hgood : x.bad = false)
    (hgroup : (s.coll.part p).groupAs group true = some g) (hroot : x.root < g.ranks.length) (hroom : ((s.coll.part p).insts.filter Inst.cp).length < 4)
    (hnew : (s.coll.part p).inst group seq true = none) :
    exec (.ctrlColl fn q (some bs)) s = .next ((started s fn q cmd).updColl p fun c =>
      ({ c with cpSeqs := Store.set 0 c.cpSeqs group (seq + 1) } : CollPart).joined g (.ofCall x group seq g bs)) := by
  let counted := fun c : CollPart => ({ c with cpSeqs := Store.set 0 c.cpSeqs group (seq + 1) } : CollPart)
  let a := started s fn q cmd
  have hcounted : counted (a.coll.part p) ≠ .reset := CollPart.ne_reset_of_groups (c := counted _) (CollPart.groups_ne_nil_of_groupAs (c := s.coll.part p) hgroup)
  have hfree : ((a.updColl p counted).coll.part p).inst group seq true = none := by
    rw [a.collPart_updColl p hcounted]
    exact hnew
  have hjoin : (a.updColl p counted).joinInst p group seq true g 0xFFF ⟨0, 0, 0, x.word group, instDigest (x.word group) g.digest seq true⟩
      (fun i => { i with ctrl := some x, bytes := bs.take x.len }) = (a.updColl p counted).updColl p fun c => c.joined g (.ofCall x group seq g bs) :=
    State.joinInst_first hfree rfl ⟨rfl, rfl, rfl⟩ rfl rfl
  have hcoll : (started s fn q cmd).coll = s.coll := rfl
  have htaken : ¬ (x.bad = true) := by simp [hgood]
  unfold CpCall.bad at htaken
  refine congrArg Host.Outcome.next ((State.hostCmd_ready _ hready).trans ?_)
  simp only [hp, hx, hnamed, if_neg htaken, hcoll, hgroup, if_neg (Nat.not_le.2 hroot), if_neg (Nat.not_le.2 hroom), withHost, hseq, finishCmd_running]
  exact hjoin.trans (a.updColl_updColl p _ hcounted)

/-- RANKS_LOAD: a good table is in force at once (R345). -/
theorem exec_ranksLoad_loads {n self : Nat} (hready : HostReady s fn q 0x34 ctx cmd) (hn : bits cmd.entry.p1 0 15 = n) (hself : bits cmd.entry.p1 16 15 = self)
    (hin : self < n) (hmax : n ≤ 16384) (hzero : ∀ r, r < n → zeroBytes bs (16 * r + 10) 6 = true) :
    exec (.ranksLoad fn q (some bs)) s =
      .next (completes ((started s fn q cmd).updColl p fun z => { z with ranks := n, self := self, table := rankTable bs n }) fn q cmd .done 0 0) := by
  have hall : ((List.range n).all fun r => zeroBytes bs (16 * r + 10) 6) = true := List.all_eq_true.2 fun r hr => hzero r (List.mem_range.1 hr)
  have hgood : ¬ (n = 0 ∨ 16384 < n ∨ n ≤ self ∨ (!(List.range n).all fun r => zeroBytes bs (16 * r + 10) 6) = true) := by
    rw [hall]
    simp
    omega
  refine congrArg Host.Outcome.next ((State.hostCmd_ready _ hready).trans ?_)
  simp only [hp, hn, hself, withHost, if_neg hgood, finishCmd_ends]
  rfl

/-- GROUPS_LOAD of a good table: in force at once with no run in progress, and held for the boundary in one (R346). -/
theorem exec_groupsLoad_judged {gs : List Group} (hready : HostReady s fn q 0x35 ctx cmd)
    (htable : groupTable (bs.take cmd.entry.p1) (s.coll.part p).ranks (s.coll.part p).self = some gs) :
    ((s.job p).run = none → exec (.groupsLoad fn q (some bs)) s =
      .next (completes ((started s fn q cmd).updColl p fun z => { z with groups := gs, pendingGroups := none }) fn q cmd .done 0 0)) ∧
    ((s.job p).run.isSome = true → exec (.groupsLoad fn q (some bs)) s =
      .next (completes ((started s fn q cmd).updColl p fun z => { z with pendingGroups := some gs }) fn q cmd .deferred 0 0)) := by
  have hstarted : (started s fn q cmd).coll = s.coll ∧ (started s fn q cmd).job p = s.job p := ⟨rfl, rfl⟩
  have hexec : exec (.groupsLoad fn q (some bs)) s = .next (finishCmd fn q cmd.entry.seq
      (if (s.job p).run.isSome then ends ((started s fn q cmd).updColl p fun z => { z with pendingGroups := some gs }) .deferred
       else ends ((started s fn q cmd).updColl p fun z => { z with groups := gs, pendingGroups := none }) .done)) := by
    refine congrArg Host.Outcome.next ((State.hostCmd_ready _ hready).trans ?_)
    simp only [hp, withHost, hstarted, htable]
  refine ⟨fun hidle => ?_, fun hbusy => ?_⟩
  · rw [hexec, hidle]
    rfl
  · rw [hexec, if_pos hbusy]
    rfl

end

end Sys2Proof.Machine
end

section
/-! The statement on the entry of collectives and their tables. -/

namespace Sys2Proof.Machine

/-- Settles O33: records by their unit, calls and tables by their commands. That RANKS_LOAD acts at once, and the descriptor of a control-plane call, are the model's choices (log 55, DESIGN CHOICE). -/
theorem collectivesAreEntered : Obligations.CollectivesAreEntered := by
  intro t fn q ctx cmd bs s i p g c
  refine ⟨?record, ?completion, fun hp => ⟨?call, ?ranks, fun gs hready htable => exec_groupsLoad_judged hp hready htable⟩⟩
  case record =>
    intro hat hpart hunit y ws v d k seq hclean hcheck hgroup hnew hroom hlive
    have hentry : FirstEntry s y p i v d g seq := ⟨rfl, rfl, hclean, hcheck, hgroup, rfl, hnew, hroom, hlive⟩
    have hrun : y.stage.state = .running := by simpa [y] using State.running_of_dispatching hat.1
    obtain ⟨htile, hcoll⟩ := State.entered_shows (s := s) (t := t) (p := p) (i := i) (v := v) (d := d) (g := g) (seq := seq) hrun
    exact ⟨_, exec_col_enters hat hpart hunit hentry, htile, congrArg CollPart.seqs hcoll, congrArg CollPart.insts hcoll⟩
  case completion =>
    intro f hrun hpart hranks halone hidle hstatus
    obtain ⟨u, hexec, htile, hdone⟩ := exec_colRecordComplete_done hrun hpart hranks halone hidle hstatus
    exact ⟨u, hexec, (congrArg Tile.disp htile).trans (Tile.colDone_disp _ _), (congrArg (fun x : Tile => x.unit unitCol) htile).trans (Tile.colDone_unit halone), hdone⟩
  case call =>
    intro x group seq hready hgood hgroup hroot hroom hnew
    have hcoll := (started s fn q cmd).collPart_updColl p (f := fun c =>
      ({ c with cpSeqs := Store.set 0 c.cpSeqs group (seq + 1) } : CollPart).joined g (.ofCall x group seq g bs)) (CollPart.joined_ne_reset _ _ _)
    exact ⟨_, exec_ctrlColl_enters hp hready rfl rfl rfl (CpCall.bad_eq_false hgood) hgroup hroot hroom hnew, congrArg CollPart.cpSeqs hcoll, congrArg CollPart.insts hcoll⟩
  case ranks =>
    intro n self hready hin hmax hzero
    have hloaded := (started s fn q cmd).collPart_updColl p (f := fun z => { z with ranks := n, self := self, table := rankTable bs n })
      (CollPart.ne_reset_of_ranks (Nat.zero_lt_of_lt hin))
    have hcoll := (State.collPart_congr (completes_coll _ fn q cmd .done 0 0) p).trans hloaded
    refine ⟨_, exec_ranksLoad_loads hp hready rfl rfl hin hmax hzero, congrArg CollPart.ranks hcoll, congrArg CollPart.self hcoll, fun r hr => ?_⟩
    have hrank := (congrArg (fun z : CollPart => Store.get (0, 0) z.table r) hcoll).trans (get_rankTable bs hr)
    exact ⟨congrArg Prod.fst hrank, congrArg Prod.snd hrank⟩

end Sys2Proof.Machine
end

section
/-! SUPPORT. What every command keeps: the queue of commands, the power cap, the bits of ANTI_ROLLBACK that are blown, and the canonical form of the memory. -/

namespace Sys2Proof.Machine

/-- Every bit of ANTI_ROLLBACK blown in f is blown in g (R434). -/
def Fuses.Grows (f g : Fuses) : Prop := ∀ i, i < 64 → bit f.antiRollback i = true → bit g.antiRollback i = true

@[simp] theorem Fuses.Grows.refl (f : Fuses) : f.Grows f := fun _ _ hb => hb

theorem Fuses.Grows.trans {f g k : Fuses} (h : f.Grows g) (h' : g.Grows k) : f.Grows k := fun i hi hb => h' i hi (h i hi hb)

/-- From s to u the queue and the power cap stand, no fuse of ANTI_ROLLBACK is lost, and a memory in canonical form stays so. -/
structure Steady (s u : State) : Prop where
  pending : u.pending = s.pending
  cap : u.pwr.cap = s.pwr.cap
  fuses : s.sec.fuses.Grows u.sec.fuses
  mem : Memory.wf s.hbm = true → Memory.wf u.hbm = true

@[simp] theorem Steady.refl (s : State) : Steady s s := ⟨rfl, rfl, .refl _, id⟩

variable {s t u : State}

theorem Steady.trans (h : Steady s t) (k : Steady t u) : Steady s u :=
  ⟨k.pending.trans h.pending, k.cap.trans h.cap, h.fuses.trans k.fuses, fun w => k.mem (h.mem w)⟩

/-- What is calm is steady. -/
theorem Calm.steady (h : Calm s u) : Steady s u := ⟨h.pending, congrArg Power.cap h.pwr, h.fuses ▸ .refl _, h.mem⟩

theorem Steady.calm (h : Steady s t) (k : Calm t u) : Steady s u := h.trans k.steady

/-- An update of fields: the queue is that of before, and of power, keys and memory what is claimed holds. -/
@[simp] theorem Steady.fields (h : Steady s t) {o d b w ti st sy m pl k pa jo li co re sn fl fw hi ma vi}
    (hw : w.cap = t.pwr.cap) (hk : t.sec.fuses.Grows k.fuses) (hm : Memory.wf t.hbm = true → Memory.wf m = true) :
    Steady s ⟨t.pending, o, d, b, w, ti, st, sy, m, pl, k, pa, jo, li, co, re, sn, fl, fw, hi, ma, vi⟩ :=
  h.trans ⟨rfl, hw, hk, hm⟩

@[simp] theorem Steady.ite_iff {c : Prop} [Decidable c] : Steady s (if c then t else u) ↔ (c → Steady s t) ∧ (¬c → Steady s u) := by
  split <;> simp [*]

/-- A fold of steady steps is steady. -/
@[simp] theorem Steady.foldl {α : Type} {f : State → α → State} {xs : List α} (h : Steady s t) (hf : ∀ a x, Steady a (f a x)) : Steady s (xs.foldl f t) := by
  induction xs generalizing t with
  | nil => exact h
  | cons x xs ih => exact ih (h.trans (hf t x))

/-- A fold that carries a state and something beside it. -/
@[simp] theorem Steady.foldl_fst {α β : Type} {f : State × β → α → State × β} {xs : List α} {r : State × β} (h : Steady s r.1) (hf : ∀ a x, Steady a.1 (f a x).1) :
    Steady s (xs.foldl f r).1 := by
  induction xs generalizing r with
  | nil => exact h
  | cons x xs ih => exact ih (h.trans (hf r x))

/-- An update that leaves the queue, power, keys and memory alone. -/
theorem Steady.rest (h : Steady s t) {o d b ti st sy pl pa jo li co re sn fl fw hi ma vi} :
    Steady s ⟨t.pending, o, d, b, t.pwr, ti, st, sy, t.hbm, pl, t.sec, pa, jo, li, co, re, sn, fl, fw, hi, ma, vi⟩ := h.fields rfl (.refl _) id

/-- Either branch of a condition. -/
theorem Steady.ite {c : Prop} [Decidable c] (ht : Steady s t) (hu : Steady s u) : Steady s (if c then t else u) := by
  split
  · exact ht
  · exact hu

/-! ### The power cap in the operations of power -/

@[simp] theorem Power.startClks_cap (p : Power) (ns : List Nat) : (p.startClks ns).cap = p.cap := by
  unfold Power.startClks
  refine foldl_keeps (g := Power.cap) (fun a n => ?_) ns p
  rfl

@[simp] theorem Power.startNext_cap (p : Power) (b : Bool) : (p.startNext b).cap = p.cap := by
  unfold Power.startNext
  refine foldl_keeps (g := Power.cap) (fun a i => ?_) _ _
  simp only [Power.setRail]
  split <;> rfl

@[simp] theorem Power.relax_cap (p : Power) (rs : List (Nat × Nat)) : (p.relax rs).cap = p.cap := by
  unfold Power.relax
  refine foldl_keeps (g := Power.cap) (fun a r => ?_) rs p
  rfl

@[simp] theorem Power.fall_cap (p : Power) (rs : List (Nat × Nat)) : (p.fall rs).cap = p.cap := by
  unfold Power.fall
  simp only
  split <;> exact p.relax_cap rs

@[simp] theorem Power.ask_cap (p : Power) (cause level : Nat) : (p.ask cause level).cap = p.cap := by
  unfold Power.ask
  simp only
  split <;> rfl

@[simp] theorem Power.sample_cap (p : Power) (x : Nat) : (p.sample x).cap = p.cap := by
  unfold Power.sample
  simp only
  split
  · rfl
  · split
    · split <;> rfl
    · rfl

@[simp] theorem Power.startClk_cap (p : Power) (n : Nat) : (p.startClk n).cap = p.cap := rfl
@[simp] theorem Power.stopClk_cap (p : Power) (n : Nat) : (p.stopClk n).cap = p.cap := rfl
@[simp] theorem Power.setRail_cap (p : Power) (i : Nat) (r : Rail) : (p.setRail i r).cap = p.cap := rfl
@[simp] theorem Power.railFault_cap (p : Power) (i cause expired : Nat) : (p.railFault i cause expired).cap = p.cap := rfl
@[simp] theorem Power.force_cap (p : Power) (cause : Nat) : (p.force cause).cap = p.cap := rfl
@[simp] theorem Power.standby_cap (p : Power) : p.standby.cap = p.cap := rfl

/-! ### The fuses in the operations of Scarab -/

@[simp] theorem Sec.failSlot_fuses (k : Sec) (i : Nat) : (k.failSlot i).fuses = k.fuses := by
  unfold Sec.failSlot
  simp only
  split <;> rfl

@[simp] theorem Sec.zeroize_fuses (k : Sec) (i : Nat) : (k.zeroize i).fuses = k.fuses := by
  unfold Sec.zeroize
  split <;> rfl

@[simp] theorem Sec.revokeSlot_fuses (k : Sec) (i : Nat) : (k.revokeSlot i).fuses = k.fuses := by
  unfold Sec.revokeSlot
  simp only
  split <;> rfl

@[simp] theorem Sec.generate_fuses (k : Sec) (i kind owner epoch : Nat) : (k.generate i kind owner epoch).1.fuses = k.fuses := by
  unfold Sec.generate
  simp only [apply_ite Prod.fst, apply_ite Sec.fuses]
  simp [Sec.setSlot, Sec.draw2]

@[simp] theorem Sec.importSlot_fuses (k : Sec) (kem dst kind owner epoch : Nat) (w : Wrapped) : (k.importSlot kem dst kind owner epoch w).1.fuses = k.fuses := by
  unfold Sec.importSlot
  simp only [apply_ite Prod.fst, apply_ite Sec.fuses]
  simp [Sec.setSlot]

@[simp] theorem Sec.exportSlot_fuses (k : Sec) (i : Nat) (e : PeerEvidence) (ownFw ownEv : BitVec 256) : (k.exportSlot i e ownFw ownEv).1.fuses = k.fuses := by
  unfold Sec.exportSlot
  simp only [apply_ite Prod.fst, apply_ite Sec.fuses]
  simp [Sec.draw]

@[simp] theorem Sec.transition_fuses (k : Sec) (target : LcState) (token : BitVec 256) (b : Bool) : (k.transition target token b).1.fuses = k.fuses := by
  unfold Sec.transition
  split
  · rfl
  · split
    · rfl
    · simp only [apply_ite Prod.fst, apply_ite Sec.fuses, ite_self]

@[simp] theorem Sec.phase1_fuses (k : Sec) (failed : List Nat) : (k.phase1 failed).fuses = k.fuses :=
  foldl_keeps (g := Sec.fuses) Sec.failSlot_fuses failed _

theorem Sec.setAttestRec_fuses (k : Sec) (r : AttestRec) : (k.setAttestRec r).fuses = k.fuses := by
  unfold Sec.setAttestRec
  split <;> rfl

theorem Sec.sign_fuses {k k' : Sec} {i : Nat} (h : k.sign = .signed k' i) : k'.fuses = k.fuses := by
  unfold Sec.sign at h
  split at h
  · cases h
  · split at h
    · cases h
    · simp only at h
      split at h
      · cases h
        rfl
      · split at h
        · cases h
        · cases h
          exact Sec.setAttestRec_fuses _ _

/-- A wipe blows every bit of ANTI_ROLLBACK (R282). -/
theorem Fuses.scrapWipe_grows (f : Fuses) : f.Grows f.scrapWipe := by
  intro i hi _
  have h : ∀ i < 64, bit (2 ^ 64 - 1) i = true := by decide
  exact h i hi

theorem bit_eq_testBit (v i : Nat) : bit v i = v.testBit i := by
  rw [bit, Nat.testBit_eq_decide_div_mod_eq, Nat.shiftRight_eq_div_pow]

/-- Setting one bit clears none. -/
theorem bit_setBits_of_bit {v i : Nat} (h : bit v i = true) (n : Nat) : bit (setBits v n 1 1) i = true := by
  rw [bit_eq_testBit] at h ⊢
  rw [testBit_setBits]
  split
  · have hi : i - n = 0 := by omega
    rw [hi]
    rfl
  · exact h

/-- Raising the floor unblows no bit (R436). -/
theorem raiseFloor_grows (f : Fuses) (svn : Nat) : f.Grows (raiseFloor f svn) := by
  intro i _ hb
  unfold raiseFloor
  generalize f.antiRollback = v at hb
  simp only
  generalize List.range svn = is
  induction is generalizing v with
  | nil => exact hb
  | cons n is ih =>
    refine ih _ ?_
    dsimp only
    split
    · exact bit_setBits_of_bit hb n
    · exact hb

/-! ### The form of the memory in its operations -/

@[simp] theorem Hbm.fields_wf {h : Hbm} (hw : Memory.wf h = true) {gr ct ve fe pa r1 r2 he de ps wa lp gs ls fr ra re rl ru rc pe ce ue tp tf u c b} :
    Memory.wf ⟨gr, h.lines, ct, ve, fe, h.lost, pa, r1, r2, he, de, ps, wa, lp, gs, ls, fr, ra, re, rl, ru, rc, pe, ce, ue, tp, tf, u, c, b⟩ = true := hw

@[simp] theorem Hbm.setGran_wf {h : Hbm} (hw : Memory.wf h = true) {g : Nat} {x : Gran} : Memory.wf (h.setGran g x) = true := hw

@[simp] theorem Hbm.updPart_wf {h : Hbm} (hw : Memory.wf h = true) {p : Nat} {f : MprPart → MprPart} : Memory.wf (h.updPart p f) = true := hw

@[simp] theorem Hbm.carve_wf {h : Hbm} (hw : Memory.wf h = true) {p g slot : Nat} {fw : Bool} : Memory.wf (h.carve p g slot fw) = true := by
  unfold Hbm.carve
  simp only
  split
  · exact hw
  · split <;> exact hw

@[simp] theorem Hbm.wipe_wf {h : Hbm} (hw : Memory.wf h = true) {g : Nat} : Memory.wf (h.wipe g) = true := by
  unfold Hbm.wipe
  simp only
  split
  · exact hw
  · split <;> exact hw

@[simp] theorem Hbm.wipeGone_wf {h : Hbm} (hw : Memory.wf h = true) {g : Nat} : Memory.wf (h.wipeGone g) = true := by
  unfold Hbm.wipeGone
  split
  · exact hw
  · exact wipe_wf hw

@[simp] theorem Hbm.stage_wf {h : Hbm} (hw : Memory.wf h = true) {p g : Nat} : Memory.wf (h.stage p g) = true := by
  unfold Hbm.stage
  split <;> exact hw

@[simp] theorem Hbm.unstage_wf {h : Hbm} (hw : Memory.wf h = true) {g : Nat} : Memory.wf (h.unstage g) = true := by
  unfold Hbm.unstage
  simp only
  split <;> exact hw

theorem Hbm.loadNext_wf {h : Hbm} (hw : Memory.wf h = true) {p slot : Nat} : Memory.wf (h.loadNext p slot) = true := by
  unfold Hbm.loadNext
  split <;> exact hw

@[simp] theorem Hbm.rekey_wf {h : Hbm} (hw : Memory.wf h = true) {p slot : Nat} : Memory.wf (h.rekey p slot) = true := by
  unfold Hbm.rekey
  split
  · exact hw
  · exact fields_wf (loadNext_wf hw)

@[simp] theorem Hbm.sessionRekey_wf {h : Hbm} (hw : Memory.wf h = true) {p slot : Nat} : Memory.wf (h.sessionRekey p slot) = true := fields_wf (loadNext_wf hw)

@[simp] theorem Hbm.revoke_wf {h : Hbm} (hw : Memory.wf h = true) {p : Nat} : Memory.wf (h.revoke p) = true := hw

@[simp] theorem Hbm.startPass_wf {h k : Hbm} (hw : Memory.wf h = true) (hk : h.startPass = some k) : Memory.wf k = true := by
  simp only [Hbm.startPass, Option.bind_eq_bind, Option.bind_eq_some_iff] at hk
  obtain ⟨i, _, ⟨x, rest⟩, _, hk⟩ := hk
  simp only at hk
  split at hk <;> cases hk <;> exact hw

/-- A fold keeps the form that each of its steps keeps. -/
theorem Hbm.foldl_wf {α : Type} {f : Hbm → α → Hbm} (hf : ∀ h x, Memory.wf h = true → Memory.wf (f h x) = true) (xs : List α) {h : Hbm} (hw : Memory.wf h = true) :
    Memory.wf (xs.foldl f h) = true := by
  induction xs generalizing h with
  | nil => exact hw
  | cons x xs ih => exact ih (hf h x hw)

@[simp] theorem Hbm.markPhase3_wf {h : Hbm} (hw : Memory.wf h = true) : Memory.wf h.markPhase3 = true :=
  fields_wf (foldl_wf (fun _ _ h => setGran_wf h) _ (foldl_wf (fun _ _ h => setGran_wf h) _ hw))

theorem Hbm.trainFail_wf {x : Hbm × Bool} (hw : Memory.wf x.1 = true) (c : Nat) : Memory.wf (trainFail x c).1 = true := by
  unfold trainFail
  simp only
  split
  · exact hw
  · split
    · exact hw
    · split <;> exact hw

/-- Either branch of a condition on a state with something beside it. -/
theorem Steady.ite_fst {α : Type} {c : Prop} [Decidable c] {a b : State × α} (ha : Steady s a.1) (hb : Steady s b.1) : Steady s (if c then a else b).1 := by
  split
  · exact ha
  · exact hb

/-- A fold of steps that may fail, each steady when it does not, and none taken once one has failed. -/
theorem Steady.foldl_option {α : Type} {f : Option State → α → Option State} {xs : List α} (hf : ∀ a x b, f (some a) x = some b → Steady a b)
    (hn : ∀ x, f none x = none) (hr : xs.foldl f (some t) = some u) (h : Steady s t) : Steady s u := by
  induction xs generalizing t with
  | nil => exact Option.some.inj hr ▸ h
  | cons x xs ih =>
    rw [List.foldl_cons] at hr
    cases hx : f (some t) x with
    | none =>
      rw [hx, List.foldl_fixed' hn] at hr
      cases hr
    | some a => exact ih (hx ▸ hr) (h.trans (hf t x a hx))

/-- A fold of steps that may fail, each steady when it does not. -/
theorem Steady.foldl_bind {α : Type} {f : State → α → Option State} {xs : List α} (hf : ∀ a x b, f a x = some b → Steady a b)
    (hr : xs.foldl (fun (acc : Option State) x => acc.bind fun a => f a x) (some t) = some u) (h : Steady s t) : Steady s u :=
  Steady.foldl_option hf (fun _ => rfl) hr h

/-- A state with something beside it. -/
theorem Steady.pair {α : Type} {b : α} (h : Steady s u) : Steady s (u, b).1 := h

/-- A state taken out of what a call left. -/
theorem Steady.of_fst {α : Type} {r : State × α} {a : State} {b : α} (hr : r = (a, b)) (h : Steady s r.1) : Steady s a := by
  subst hr
  exact h

@[simp] theorem Steady.emit (h : Steady s t) {os} : Steady s (t.emit os) :=
  h.calm (State.emit_calm _ _)

@[simp] theorem Steady.abortAll (h : Steady s t) {p} : Steady s (t.abortAll p) := by
  unfold State.abortAll
  simp [h]

@[simp] theorem Steady.updColl (h : Steady s t) {p f} : Steady s (t.updColl p f) := by
  unfold State.updColl
  simp [h]

@[simp] theorem Steady.putInst (h : Steady s t) {p i} : Steady s (t.putInst p i) := by
  unfold State.putInst
  simp [h]

@[simp] theorem Steady.toMembers (h : Steady s t) {p g f} : Steady s (t.toMembers p g f) := by
  unfold State.toMembers
  simp [h]

@[simp] theorem Steady.withHif (h : Steady s t) {hv} : Steady s (t.withHif hv) :=
  h.calm (State.withHif_calm t _)

@[simp] theorem Steady.settleHif (h : Steady s t) {hv} : Steady s (t.settleHif hv) :=
  h.calm (State.settleHif_calm _ _)

@[simp] theorem Steady.complete (h : Steady s t) {fn q seq st r0 r1} : Steady s (t.complete fn q seq st r0 r1) :=
  h.calm (State.complete_calm _ _ _ _ _ _ _)

@[simp] theorem Steady.endCp (h : Steady s t) {p i st} : Steady s (t.endCp p i st) := by
  unfold State.endCp
  split <;> simp [h]

@[simp] theorem Steady.setTile (h : Steady s t) {tile x} : Steady s (t.setTile tile x) :=
  h.calm (State.setTile_calm _ _ _)

@[simp] theorem Steady.trace (h : Steady s t) {point part sev args} : Steady s (t.trace point part sev args) :=
  h.calm (State.trace_calm _ _ _ _ _)

@[simp] theorem Steady.report (h : Steady s t) {cls source unit st part detail} : Steady s (t.report cls source unit st part detail) :=
  h.calm (State.report_calm _ _ _ _ _ _ _)

@[simp] theorem Steady.setJob (h : Steady s t) {p x} : Steady s (t.setJob p x) :=
  h.calm (State.setJob_calm _ _ _)

@[simp] theorem Steady.updTile (h : Steady s t) {tile f} : Steady s (t.updTile tile f) :=
  h.calm (State.updTile_calm _ _ _)

@[simp] theorem Steady.updTiles (h : Steady s t) {ts f} : Steady s (t.updTiles ts f) :=
  h.calm (State.updTiles_calm _ _ _)

@[simp] theorem Steady.setPort (h : Steady s t) {k x} : Steady s (t.setPort k x) :=
  h.calm (State.setPort_calm _ _ _)

@[simp] theorem Steady.updPort (h : Steady s t) {k f} : Steady s (t.updPort k f) :=
  h.calm (State.updPort_calm _ _ _)

@[simp] theorem Steady.flushQueue (h : Steady s t) {i} : Steady s (t.flushQueue i) :=
  h.calm (State.flushQueue_calm _ _)

@[simp] theorem Steady.flushMany (h : Steady s t) {is} : Steady s (t.flushMany is) :=
  h.calm (State.flushMany_calm _ _)

@[simp] theorem Steady.stopRun (h : Steady s t) {p st} : Steady s (t.stopRun p st) :=
  h.calm (State.stopRun_calm _ _ _)

@[simp] theorem Steady.stageFault (h : Steady s t) {tile st recIdx unit} : Steady s (t.stageFault tile st recIdx unit) :=
  h.calm (State.stageFault_calm _ _ _ _ _)

@[simp] theorem Steady.finish (h : Steady s t) {tile un f st} : Steady s (t.finish tile un f st) := by
  unfold State.finish
  simp [h]

@[simp] theorem Steady.endRecords (h : Steady s t) {p i rs st} : Steady s (t.endRecords p i rs st) := by
  unfold State.endRecords
  simp [h]

@[simp] theorem Steady.endMismatch (h : Steady s t) {p i major rank lidx count} : Steady s (t.endMismatch p i major rank lidx count) := by
  unfold State.endMismatch
  simp [h]

@[simp] theorem Steady.concludeCensus (h : Steady s t) {p i g m} : Steady s (t.concludeCensus p i g m) := by
  unfold State.concludeCensus
  simp [h]

@[simp] theorem Steady.addCensus (h : Steady s t) {p i g rank digest lidx} : Steady s (t.addCensus p i g rank digest lidx) := by
  unfold State.addCensus
  split <;> simp [h]

@[simp] theorem Steady.sendCensus (h : Steady s t) {p i g} : Steady s (t.sendCensus p i g) := by
  unfold State.sendCensus
  split <;> simp [h]

@[simp] theorem Steady.censusTry (h : Steady s t) {p i g} : Steady s (t.censusTry p i g) := by
  unfold State.censusTry
  simp [h]

@[simp] theorem Steady.abortInst (h : Steady s t) {p group seq cp rank digest susRank susLidx susDigest} : Steady s (t.abortInst p group seq cp rank digest susRank susLidx susDigest) := by
  unfold State.abortInst
  dsimp only
  split
  · exact h
  · split
    · exact h
    · exact h.emit.updColl.censusTry

@[simp] theorem Steady.setSnap (h : Steady s t) {p x} : Steady s (t.setSnap p x) :=
  h.calm (State.setSnap_calm _ _ _)

@[simp] theorem Steady.updSnap (h : Steady s t) {p f} : Steady s (t.updSnap p f) :=
  h.calm (State.updSnap_calm _ _ _)

@[simp] theorem Steady.cancelFill (h : Steady s t) {p} : Steady s (t.cancelFill p) :=
  h.calm (State.cancelFill_calm _ _)

@[simp] theorem Steady.abortStep (h : Steady s t) {p step} : Steady s (t.abortStep p step) := by
  unfold State.abortStep
  dsimp only
  have hcut := (h.updColl (p := p) (f := fun c => { c with faultRx := true }))
  refine .ite h.cancelFill (.cancelFill (.ite ?_ (.updColl ?_)))
  all_goals exact hcut.foldl fun a r => .finish (.refl a)

@[simp] theorem Steady.acceptChunk (h : Steady s t) {p x} : Steady s (t.acceptChunk p x) := by
  unfold State.acceptChunk
  simp only
  (repeat' split) <;> simp [h]

@[simp] theorem Steady.setPart (h : Steady s t) {p x} : Steady s (t.setPart p x) :=
  h.calm (State.setPart_calm _ _ _)

@[simp] theorem Steady.updPart (h : Steady s t) {p f} : Steady s (t.updPart p f) :=
  h.calm (State.updPart_calm _ _ _)

@[simp] theorem Steady.acceptOwner (h : Steady s t) {p hv} : Steady s (t.acceptOwner p hv) := by
  unfold State.acceptOwner
  simp [h]

@[simp] theorem Steady.readLines (h : Steady s t) {o p space k va n} : Steady s (State.readLines o p space k t va n).1 :=
  h.calm (State.readLines_calm _ _ _ _ _ _ _)

@[simp] theorem Steady.vaRead (h : Steady s t) {o p space va n} : Steady s (t.vaRead o p space va n).s :=
  h.calm (State.vaRead_calm _ _ _ _ _ _)

theorem Steady.contribution (h : Steady s t) {p e block c} : Steady s (t.contribution p e block c).s := by
  have hread : ∀ {p i sp a n}, Steady s (t.colRead p i sp a n).s := by
    intro p i sp a n
    unfold State.colRead
    split
    · exact h
    · exact h.vaRead
  exact hread

/-- The fold that gathers the local contributors' chunks. -/
theorem Steady.foldl_addLocal {p red block c} {es : List Entered} {acc : ColGot} (h : Steady s acc.s) : Steady s (es.foldl (State.addLocal p red block c) acc).s := by
  induction es generalizing acc with
  | nil => exact h
  | cons e es ih => exact ih h.contribution

@[simp] theorem Steady.ownChunk (h : Steady s t) {p i d g origin c} : Steady s (t.ownChunk p i d g origin c).1 := by
  unfold State.ownChunk
  dsimp only
  split
  · exact Steady.foldl_addLocal h
  · split
    · exact h
    · split
      · exact h
      · split
        · exact h
        · exact h.contribution

@[simp] theorem Steady.sendUnit (h : Steady s t) {p r c vc i data} : Steady s (t.sendUnit p r c vc i data) := by
  unfold State.sendUnit
  simp only
  (repeat' split) <;> simp [h]

@[simp] theorem Steady.sendChunk (h : Steady s t) {p i d g x} : Steady s (t.sendChunk p i d g x) := by
  unfold State.sendChunk
  exact (h.sendUnit.foldl fun a fr => (Steady.refl a).sendUnit).sendUnit

@[simp] theorem Steady.writeLines (h : Steady s t) {o p space k va ws} : Steady s (State.writeLines o p space k t va ws).1 :=
  h.calm (State.writeLines_calm _ _ _ _ _ _ _)

@[simp] theorem Steady.vaWrite (h : Steady s t) {o p space va ws} : Steady s (t.vaWrite o p space va ws).s :=
  h.calm (State.vaWrite_calm _ _ _ _ _ _)

@[simp] theorem Steady.labelRange (h : Steady s t) {p space va n label} : Steady s (t.labelRange p space va n label) :=
  h.calm (State.labelRange_calm _ _ _ _ _ _)

@[simp] theorem Steady.colWrite (h : Steady s t) {p e block c data} : Steady s (t.colWrite p e block c data).1 := by
  unfold State.colWrite
  simp only
  split <;> simp [h]

@[simp] theorem Steady.landChunk (h : Steady s t) {p i d g data} : Steady s (t.landChunk p i d g data).1 := by
  unfold State.landChunk
  split
  · exact h.emit
  · dsimp only
    have hfold := h.foldl_fst (r := (t, Status.done, (0 : Flags))) (xs := i.targets d g (t.coll.part p).self data.origin)
      (f := fun acc e => ((acc.1.colWrite p e.1 e.2 data.chunk data).1, if acc.2.1 = .done then (acc.1.colWrite p e.1 e.2 data.chunk data).2.1 else acc.2.1,
        acc.2.2 ||| (acc.1.colWrite p e.1 e.2 data.chunk data).2.2)) fun a e => (Steady.refl a.1).colWrite
    exact hfold.rest

@[simp] theorem Steady.sendTree (h : Steady s t) {p i d src dst word} : Steady s (t.sendTree p i d src dst word) := by
  unfold State.sendTree
  simp [h]

@[simp] theorem Steady.treeDown (h : Steady s t) {p i d g word} : Steady s (t.treeDown p i d g word) := by
  unfold State.treeDown
  simp [h]

@[simp] theorem Steady.treeTry (h : Steady s t) {p i d g} : Steady s (t.treeTry p i d g).1 := by
  unfold State.treeTry
  simp only
  (repeat' split) <;> simp [h]

@[simp] theorem Steady.updJob (h : Steady s t) {p f} : Steady s (t.updJob p f) :=
  h.calm (State.updJob_calm _ _ _)

@[simp] theorem Steady.postStats (h : Steady s t) {p i w} : Steady s (t.postStats p i w) := by
  unfold State.postStats
  exact (h.foldl fun a e => (Steady.refl a).updTile).updJob

@[simp] theorem Steady.settleInst (h : Steady s t) {p i d g} : Steady s (t.settleInst p i d g) := by
  have hs := h.treeTry (p := p) (i := i) (d := d) (g := g)
  unfold State.settleInst
  dsimp only
  generalize t.treeTry p i d g = r at hs
  obtain ⟨a, i1⟩ := r
  have hput : ∀ {x : State × Inst}, Steady s x.1 → Steady s (if (x.2.cp && x.2.whole d g) = true then (x.1.putInst p x.2).endCp p x.2 .done else x.1.putInst p x.2) := fun hx =>
    .ite hx.putInst.endCp hx.putInst
  refine hput ?_
  split
  · split
    · exact hs.postStats
    · exact hs
  · exact hs

@[simp] theorem Steady.advance (h : Steady s t) {op p group seq cp origin c} : Steady s (t.advance op p group seq cp origin c) := by
  unfold State.advance
  dsimp only
  generalize t.inst p group seq cp = o, (t.coll.part p).groupAs group cp = o'
  match o, o' with
  | none, _ => exact h
  | some _, none => exact h
  | some i, some g =>
    dsimp only
    generalize i.desc = o
    cases o with
    | none => exact h
    | some d =>
      dsimp only
      generalize hr : (if (i.chunk origin c).stage = 0 then t.ownChunk p i d g origin c else (t, Status.done, (i.chunk origin c).data, (0 : Flags))) = r
      have hs : Steady s r.1 := hr ▸ .ite_fst h.ownChunk h
      refine .ite h (.ite hs.putInst ?_)
      generalize Inst.stepChunk _ _ _ _ _ _ _ _ = o
      cases o with
      | none => exact h
      | some m =>
        have hsends : Steady s (m.sends.foldl (fun (a : State) x => a.sendChunk p i d g x) r.1) := hs.foldl fun a x => .sendChunk (.refl a)
        refine .ite h ?_
        cases m.write with
        | none => exact .ite (.putInst hsends.rest) (.settleInst hsends.rest)
        | some data => exact .ite (.putInst (.rest hsends.landChunk)) (.settleInst (.rest hsends.landChunk))

@[simp] theorem Steady.copyIn (h : Steady s t) {n i} : Steady s (State.copyIn n t i) := by
  induction n generalizing t with
  | zero => exact h
  | succ n ih =>
    unfold State.copyIn
    dsimp only
    split
    · exact h
    · split
      · exact h
      · split
        · exact ih (.foldl h.setTile.rest fun a _ => .report (.trace (.refl a)))
        · exact h

@[simp] theorem Steady.chooseIn (h : Steady s t) {tile} : Steady s (t.chooseIn tile) := by
  unfold State.chooseIn
  dsimp only
  (repeat' split) <;> simp [h]

theorem Steady.cut {i} (hr : t.cut i = some u) (h : Steady s t) : Steady s u := by
  unfold State.cut at hr
  dsimp only at hr
  split at hr
  · obtain ⟨id, _, rfl⟩ := Option.map_eq_some_iff.1 hr
    exact h.setPort
  · cases hr

@[simp] theorem Steady.cutSome (h : Steady s t) {n i} : Steady s (State.cutSome n t i) := by
  induction n generalizing t with
  | zero => exact h
  | succ n ih =>
    unfold State.cutSome
    split
    next hcut => exact ih (Steady.cut hcut h)
    next => exact h

@[simp] theorem Steady.cutAll (h : Steady s t) {i} : Steady s (t.cutAll i) := by
  unfold State.cutAll
  exact h.cutSome

@[simp] theorem Steady.afterLanding (h : Steady s t) {i} : Steady s (t.afterLanding i) := by
  unfold State.afterLanding
  dsimp only
  have hg : Steady s { t with streams := t.streams.grant i } := h.rest
  split
  · exact hg.chooseIn.copyIn
  · exact hg.cutAll

@[simp] theorem Steady.treeReport (h : Steady s t) {pc slot level dpa} : Steady s (t.treeReport pc slot level dpa) :=
  h.calm (State.treeReport_calm _ _ _ _ _)

@[simp] theorem Steady.treeFault (h : Steady s t) {pc slot level dpa} : Steady s (t.treeFault pc slot level dpa) :=
  h.calm (State.treeFault_calm _ _ _ _ _)

@[simp] theorem Steady.afterLane (h : Steady s t) {o dpa} (hm : Memory.wf t.hbm = true → Memory.wf o.h = true) : Steady s (t.afterLane o dpa) :=
  h.calm (State.afterLane_calm t o dpa hm)

@[simp] theorem Steady.follow (h : Steady s t) : Steady s t.follow := by
  unfold State.follow
  split <;> simp [h]

@[simp] theorem Steady.endRun (h : Steady s t) {p st} : Steady s (t.endRun p st) :=
  h.calm (State.endRun_calm _ _ _)

@[simp] theorem Steady.toRelease (h : Steady s t) {p} : Steady s (t.toRelease p) := by
  unfold State.toRelease
  simp only
  (repeat' split) <;> simp [h]

@[simp] theorem Steady.toMaintenance (h : Steady s t) {p} : Steady s (t.toMaintenance p) := by
  unfold State.toMaintenance
  simp [h]

@[simp] theorem Steady.afterSnapshot (h : Steady s t) {p} : Steady s (t.afterSnapshot p) := by
  unfold State.afterSnapshot
  split <;> simp [h]

@[simp] theorem Steady.answer (h : Steady s t) {st body} : Steady s (t.answer st body) := by
  unfold State.answer
  simp [h]

@[simp] theorem Steady.refusal (h : Steady s t) {kind code} : Steady s (t.refusal kind code) := by
  unfold State.refusal
  simp [h]

@[simp] theorem Steady.answerCode (h : Steady s t) {kind code data} : Steady s (t.answerCode kind code data) := by
  unfold State.answerCode
  simp [h]

@[simp] theorem Steady.refill (h : Steady s t) {p} : Steady s (t.refill p) := by
  unfold State.refill
  exact h.foldl fun a g => (Steady.refl a).fields rfl (.refl _) fun hw => Hbm.zeroGran_wf hw g

@[simp] theorem Steady.putStream (h : Steady s t) {p l stream} : Steady s (t.putStream p l stream).1 := by
  unfold State.putStream
  refine h.foldl_fst fun a q => ?_
  dsimp only
  split
  · exact .refl _
  · exact (Steady.refl a.1).vaWrite

@[simp] theorem Steady.setSys (h : Steady s t) {n x} : Steady s (t.setSys n x) :=
  h.calm (State.setSys_calm _ _ _)

@[simp] theorem Steady.updSys (h : Steady s t) {n f} : Steady s (t.updSys n f) :=
  h.calm (State.updSys_calm _ _ _)

@[simp] theorem Steady.putPrograms (h : Steady s t) {p d} : Steady s (t.putPrograms p d) := by
  unfold State.putPrograms
  refine h.foldl fun a i => ?_
  split
  · exact (Steady.refl a).updSys
  · exact .refl a

@[simp] theorem Steady.putLabels (h : Steady s t) {p d} : Steady s (t.putLabels p d) := by
  unfold State.putLabels
  refine (h.foldl fun a i => (Steady.refl a).labelRange).foldl fun a l => ?_
  split
  · exact (Steady.refl a).updTile
  · exact .refl a

@[simp] theorem Steady.draw (h : Steady s t) : Steady s (t.draw).2 := by
  unfold State.draw
  simp [h]

@[simp] theorem Steady.putStreams (h : Steady s t) {p d} : Steady s (t.putStreams p d) := by
  unfold State.putStreams
  simp [h]

@[simp] theorem Steady.loadRegion (h : Steady s t) {p tile r} : Steady s (t.loadRegion p tile r) := by
  unfold State.loadRegion
  simp [h]

@[simp] theorem Steady.loadCommitted (h : Steady s t) {p} : Steady s (t.loadCommitted p) := by
  unfold State.loadCommitted
  dsimp only
  split
  · exact h
  · refine h.foldl fun a l => ?_
    split
    · exact (Steady.refl a).foldl fun b r => (Steady.refl b).loadRegion
    · exact .refl a

@[simp] theorem Steady.putSched (h : Steady s t) {p d} : Steady s (t.putSched p d) := by
  unfold State.putSched
  exact h.updJob.putStreams.putLabels.putPrograms.updPart.updJob.loadCommitted

/-- The text of applyCopy is opened with openStates held as a variable, which keeps the kernel from computing the count of the records. -/
@[simp] theorem Steady.applyCopy (h : Steady s t) {p serial epoch nonce l recs} : Steady s (t.applyCopy p serial epoch nonce l recs).1 := by
  obtain ⟨f, hf⟩ : ∃ f, f = State.openStates := ⟨_, rfl⟩
  have he : @State.applyCopy = @State.applyCopy := rfl
  conv at he =>
    rhs
    delta State.applyCopy
  rw [he]
  beta_reduce
  rw [← hf]
  dsimp only
  refine .ite_fst (.pair (.refill h.updSnap)) (.ite_fst (.pair (.putStream (.refill h.updSnap))) ?_)
  exact .ite_fst (.pair (.putStream (.refill h.updSnap))) (.pair (.putSched (.putStream (.refill h.updSnap))))

@[simp] theorem Steady.arbitrateNow (h : Steady s t) {k} : Steady s (t.arbitrateNow k) := by
  unfold State.arbitrateNow
  simp [h]

@[simp] theorem Steady.rangeBytes (h : Steady s t) {p space va n} : Steady s (t.rangeBytes p space va n).1 := by
  unfold State.rangeBytes
  exact .ite_fst h.vaRead (.ite_fst h.vaRead h.vaRead)

@[simp] theorem Steady.areaBytes (h : Steady s t) {p mirror off n} : Steady s (t.areaBytes p mirror off n).1 := by
  unfold State.areaBytes
  (repeat' split) <;> simp [h]

@[simp] theorem Steady.areaPut (h : Steady s t) {p mirror off bs} : Steady s (t.areaPut p mirror off bs).1 := by
  unfold State.areaPut
  (repeat' split) <;> simp [h]

@[simp] theorem Steady.areaPutAll (h : Steady s t) {p mirror recs} : Steady s (t.areaPutAll p mirror recs).1 := by
  unfold State.areaPutAll
  refine h.foldl_fst fun a bs => ?_
  dsimp only
  split
  · exact .refl _
  · exact (Steady.refl a.1).areaPut

@[simp] theorem Steady.areaRecords (h : Steady s t) {p mirror c} : Steady s (t.areaRecords p mirror c).1 := by
  unfold State.areaRecords
  refine h.foldl_fst fun a _ => ?_
  dsimp only
  split
  · exact .refl _
  · split
    · exact (Steady.refl a.1).areaBytes
    · exact (Steady.refl a.1).areaBytes.areaBytes

@[simp] theorem Steady.askFlush (h : Steady s t) {p scope i} : Steady s (t.askFlush p scope i) := by
  unfold State.askFlush
  simp [h]

@[simp] theorem Steady.sendFence (h : Steady s t) {p src dst word} : Steady s (t.sendFence p src dst word) := by
  unfold State.sendFence
  simp [h]

@[simp] theorem Steady.fenceDown (h : Steady s t) {p word} : Steady s (t.fenceDown p word) := by
  unfold State.fenceDown
  simp [h]

@[simp] theorem Steady.fenceUp (h : Steady s t) {p fault} : Steady s (t.fenceUp p fault) := by
  unfold State.fenceUp
  simp only
  split <;> simp [h]

@[simp] theorem Steady.faultEnd (h : Steady s t) {p peers} : Steady s (t.faultEnd p peers) := by
  unfold State.faultEnd
  dsimp only
  split
  · exact h
  · refine .follow (.endRun (.setJob (.updTiles (.rest (.ite ?_ h.rest)))))
    exact .fenceUp (.abortAll h.rest)

@[simp] theorem Steady.endAll (h : Steady s t) {st peers} : Steady s (t.endAll st peers) := by
  unfold State.endAll
  exact h.foldl fun a p => (Steady.refl a).stopRun.faultEnd

@[simp] theorem Steady.lose (h : Steady s t) : Steady s t.lose := by
  unfold State.lose
  exact h.fields rfl (.refl _) fun _ => Memory.wf_reset

@[simp] theorem Steady.shutDown (h : Steady s t) {cause unit source hardware entry} : Steady s (t.shutDown cause unit source hardware entry) := by
  have htrip : Steady s { t with pwr := { t.pwr with thermtrip := t.pwr.thermtrip || thermal cause, mainOpen := t.pwr.mainOpen || hardware } } := h.fields rfl (.refl _) id
  have hstandby : ∀ {a : State}, Steady s a → Steady s { a with pwr := a.pwr.standby } := fun ha => ha.fields rfl (.refl _) id
  unfold State.shutDown
  dsimp only
  exact .ite h (.emit (hstandby (.lose (.ite (.ite htrip.emit.report htrip.emit) (.endAll (.ite htrip.emit.report htrip.emit))))))

@[simp] theorem Steady.beginPhase1 (h : Steady s t) : Steady s t.beginPhase1 := by
  unfold State.beginPhase1
  simp [h]

@[simp] theorem Steady.warmReset (h : Steady s t) : Steady s t.warmReset := by
  unfold State.warmReset
  exact .beginPhase1 (h.lose.fields rfl (.refl _) id)

@[simp] theorem Steady.levelOuts (h : Steady s t) {old} : Steady s (t.levelOuts old) := by
  unfold State.levelOuts
  simp [h]

@[simp] theorem Steady.askLevel (h : Steady s t) {cause level unit hardware} : Steady s (t.askLevel cause level unit hardware) := by
  unfold State.askLevel
  simp [h]

@[simp] theorem Steady.badDoorbell (h : Steady s t) {fn} : Steady s (t.badDoorbell fn) := by
  unfold State.badDoorbell
  simp [h]

@[simp] theorem Steady.enableFn (h : Steady s t) {fn} : Steady s (t.enableFn fn) := by
  unfold State.enableFn
  simp [h]

@[simp] theorem Steady.cancelRun (h : Steady s t) {fn ctx} : Steady s (t.cancelRun fn ctx) := by
  unfold State.cancelRun
  refine h.foldl fun a p => ?_
  dsimp only
  split
  · exact .ite (.setJob (.refl a)) (.refl a)
  · exact .refl a

@[simp] theorem Steady.killFn (h : Steady s t) {fn} : Steady s (t.killFn fn) := by
  unfold State.killFn
  exact (h.foldl fun a c => (Steady.refl a).cancelRun).settleHif

@[simp] theorem Steady.disableFn (h : Steady s t) {fn} : Steady s (t.disableFn fn) := by
  unfold State.disableFn
  simp [h]

@[simp] theorem Steady.windowWrite (h : Steady s t) {p off v} : Steady s (t.windowWrite p off v) := by
  unfold State.windowWrite
  split <;> simp [h]

@[simp] theorem Steady.bar0Write (h : Steady s t) {w} : Steady s (t.bar0Write w) := by
  unfold State.bar0Write
  split <;> simp [h]

@[simp] theorem Steady.hbmRead (h : Steady s t) {o key dpa bar4 f} : Steady s (t.hbmRead o key dpa bar4 f).1 :=
  h.calm (State.hbmRead_calm _ _ _ _ _ _)

@[simp] theorem Steady.bar4Lines (h : Steady s t) {fn off n} : Steady s (t.bar4Lines fn off n).1 := by
  unfold State.bar4Lines
  refine h.foldl_fst fun a i => ?_
  split
  · exact .refl _
  · exact (Steady.refl a.1).hbmRead

theorem Steady.startRekey {p} (hr : t.startRekey p = some u) (h : Steady s t) : Steady s u :=
  h.calm (State.startRekey_calm hr)

theorem Steady.hbmWrite {o key dpa bar4 ws f r} (hr : t.hbmWrite o key dpa bar4 ws f = some r) (h : Steady s t) : Steady s r.1 :=
  h.calm (State.hbmWrite_calm hr)

@[simp] theorem Steady.bar4Put (h : Steady s t) {fn line bs} : Steady s (t.bar4Put fn line bs) := by
  unfold State.bar4Put
  refine h.foldl fun a i => ?_
  split
  · exact .refl a
  · split
    next hw => exact Steady.hbmWrite hw (.refl a)
    · exact .refl a

@[simp] theorem Steady.takeSlot (h : Steady s t) {p i} : Steady s (t.takeSlot p i) := by
  unfold State.takeSlot
  simp [h]

@[simp] theorem Steady.generateFor (h : Steady s t) {p kind} : Steady s (t.generateFor p kind).1 := by
  unfold State.generateFor
  simp only
  (repeat' split) <;> simp [h]

@[simp] theorem Steady.deriveFor (h : Steady s t) {p src kind epoch ctx} : Steady s (t.deriveFor p src kind epoch ctx).1 := by
  unfold State.deriveFor
  split
  · exact h
  · dsimp only
    split
    · exact h
    · exact Steady.takeSlot (h.fields rfl (Sec.derive_fuses _ _ _ _ _ _ _ ▸ .refl _) id)

@[simp] theorem Steady.dropSlot (h : Steady s t) {p i} : Steady s (t.dropSlot p i) := by
  unfold State.dropSlot
  simp [h]

@[simp] theorem Steady.sayReady (h : Steady s t) {k} : Steady s (t.sayReady k) := by
  unfold State.sayReady
  simp [h]

theorem Steady.linkRekey {p session} (hr : t.linkRekey p session = some u) (h : Steady s t) : Steady s u := by
  unfold State.linkRekey at hr
  obtain ⟨a, ha, rfl⟩ := Option.map_eq_some_iff.1 hr
  refine .foldl (Steady.foldl_bind ?_ ha h) fun c k => .updPort (.sayReady (.refl c))
  intro b serial c hc
  dsimp only at hc
  split at hc
  · cases hc
  · obtain rfl := Option.some.inj hc
    exact .foldl (.deriveFor (.refl b)) fun c k => .updPort (.refl c)

@[simp] theorem Steady.memberRekey (h : Steady s t) {p session again} : Steady s (t.memberRekey p session again).1 := by
  have hre : ∀ {a : State} {m}, Steady s a → Steady s { a with hbm := a.hbm.sessionRekey p m } := fun ha => ha.fields rfl (.refl _) fun hw => Hbm.sessionRekey_wf hw
  unfold State.memberRekey
  dsimp only
  refine .ite_fst h.dropSlot (.ite_fst h.dropSlot ?_)
  split
  · exact h.dropSlot
  next hl => exact .pair (.updPart (.rest (hre (Steady.linkRekey hl (.deriveFor h.deriveFor)))))

@[simp] theorem Steady.beginRekey (h : Steady s t) {p} : Steady s (t.beginRekey p).1 := by
  unfold State.beginRekey
  simp only
  split <;> simp [h]

theorem Steady.bindQueue {p place b stream d level} (hr : t.bindQueue p place b stream d level = some u) (h : Steady s t) : Steady s u := by
  unfold State.bindQueue at hr
  split at hr
  · cases hr
  · split at hr
    · split at hr
      · cases hr
      · split at hr <;> cases hr
        exact h.rest
    · cases hr
      exact h.rest

@[simp] theorem Steady.bindSlot (h : Steady s t) {p serial} : Steady s (t.bindSlot p serial).1 := by
  unfold State.bindSlot
  split <;> simp [h]

theorem Steady.bindStreams {p place b} (hr : t.bindStreams p place b = some u) (h : Steady s t) : Steady s u := by
  unfold State.bindStreams at hr
  refine Steady.foldl_option (fun b n c hc => ?_) (fun n => ?_) hr h
  · split at hc
    · exact Option.some.inj hc ▸ .refl b
    · exact Steady.foldl_bind (fun x v y hy => Steady.bindQueue hy (.refl x)) hc (.refl b)
  · split
    · rfl
    · exact List.foldl_fixed' (fun _ => rfl) _

@[simp] theorem Steady.blindOpen (h : Steady s t) {p f} : Steady s (t.blindOpen p f) := by
  unfold State.blindOpen
  simp only
  split <;> simp [h]

@[simp] theorem Steady.heldFlushes (h : Steady s t) {p} : Steady s (t.heldFlushes p) := by
  unfold State.heldFlushes
  simp [h]

@[simp] theorem Steady.boundaryFlush (h : Steady s t) {p} : Steady s (t.boundaryFlush p) := by
  unfold State.boundaryFlush
  refine ((h.foldl fun a n => ?_).flushMany).heldFlushes
  dsimp only
  split
  · exact (Steady.refl a).updTile
  · exact (Steady.refl a).updTile.trace

@[simp] theorem Steady.setChan (h : Steady s t) {c x} : Steady s (t.setChan c x) := by
  unfold State.setChan
  simp [h]

@[simp] theorem Steady.setReq (h : Steady s t) {c i r} : Steady s (t.setReq c i r) := by
  unfold State.setReq
  simp [h]

@[simp] theorem Steady.endReq (h : Steady s t) {c i r} : Steady s (t.endReq c i r) := by
  unfold State.endReq
  simp [h]

@[simp] theorem Steady.refuse (h : Steady s t) {c i r dst st} : Steady s (t.refuse c i r dst st) := by
  unfold State.refuse
  dsimp only
  split
  · exact h.setChan.endReq
  · exact h.setChan.endReq.stageFault

@[simp] theorem Steady.busError (h : Steady s t) {c i} : Steady s (t.busError c i) := by
  unfold State.busError
  simp only
  split <;> simp [h]

@[simp] theorem Steady.drawNonce (h : Steady s t) : Steady s (t.drawNonce).2 := by
  unfold State.drawNonce
  exact h.fields rfl (.refl _) id

@[simp] theorem Steady.stateStream (h : Steady s t) {p l} : Steady s (t.stateStream p l).1 := by
  unfold State.stateStream
  refine h.foldl_fst fun a r => ?_
  dsimp only
  split
  · exact .refl _
  · exact (Steady.refl a.1).rangeBytes

@[simp] theorem Steady.makeRecords (h : Steady s t) {p nonce l program} : Steady s (t.makeRecords p nonce l program).1 := by
  unfold State.makeRecords
  simp only
  split <;> simp [h]

@[simp] theorem Steady.capture (h : Steady s t) {p} : Steady s (t.capture p).1 := by
  unfold State.capture
  split
  · exact h
  · dsimp only
    refine .ite_fst (.pair h.updSnap) (.ite_fst (.pair h.updSnap) ?_)
    generalize hr : State.makeRecords _ _ _ _ _ = r
    have hs : Steady s r.1 := hr ▸ .makeRecords (.updSnap h.drawNonce)
    exact .ite_fst (.pair hs.updSnap) (.ite_fst (.pair hs.areaPutAll.updSnap) (.pair hs.areaPutAll.updSnap))

@[simp] theorem Steady.scrapWipe (h : Steady s t) : Steady s t.scrapWipe := by
  unfold State.scrapWipe
  exact h.fields rfl (Fuses.scrapWipe_grows _) id

@[simp] theorem Steady.reply (h : Steady s t) {st data} : Steady s (t.reply st data) := by
  unfold State.reply
  simp [h]

@[simp] theorem Steady.tckReply (h : Steady s t) {tck st body} : Steady s (t.tckReply tck st body) := by
  unfold State.tckReply
  simp [h]

@[simp] theorem Steady.changeState (h : Steady s t) {target tck} : Steady s (t.changeState target tck) := by
  unfold State.changeState
  have hk : ∀ c : Prop, [Decidable c] → (if c then t.sec else t.sec.zeroizeAll).fuses = t.sec.fuses := fun c _ => by split <;> rfl
  have hs : ∀ k : Sec, k.fuses = t.sec.fuses → ∀ f, Steady s { t with sec := { k with fuses := k.fuses.blowState target }, flash := f } := fun k hk f =>
    h.fields rfl (fun i hi hb => by simpa [hk, Fuses.blowState] using hb) id
  dsimp only
  split
  · exact (hs _ (hk _) _).scrapWipe.tckReply.warmReset
  · exact (hs _ (hk _) _).tckReply.warmReset

@[simp] theorem Steady.clearPorts (h : Steady s t) {p} : Steady s (t.clearPorts p).1 := by
  unfold State.clearPorts
  refine h.foldl_fst fun a k => ?_
  dsimp only
  split
  · exact .refl _
  · exact (Steady.refl a.1).setPort

@[simp] theorem Steady.failCp (h : Steady s t) {p group seq} : Steady s (t.failCp p group seq) := by
  unfold State.failCp
  split <;> simp [h]

@[simp] theorem Steady.closeChunk (h : Steady s t) {p x f} : Steady s (t.closeChunk p x f) := by
  unfold State.closeChunk
  dsimp only
  have hs := h.updColl (p := p) (f := fun y => { y with frames := y.frames.erase f, incoming := y.incoming.erase x })
  exact .ite (.failCp (.ite hs.updColl hs)) (.acceptChunk (.ite hs.updColl hs))

@[simp] theorem Steady.freeLink (h : Steady s t) {p slot} : Steady s (t.freeLink p slot) := by
  unfold State.freeLink
  simp [h]

@[simp] theorem Steady.closeGens (h : Steady s t) {k} : Steady s (t.closeGens k) := by
  unfold State.closeGens
  exact h.foldl fun a c => (Steady.refl a).updPort.freeLink

@[simp] theorem Steady.opticalClocks (h : Steady s t) : Steady s t.opticalClocks := by
  unfold State.opticalClocks
  split
  · exact h.fields (Power.startClks_cap _ _) (.refl _) id
  · exact h.fields rfl (.refl _) id

@[simp] theorem Steady.jobFault (h : Steady s t) {cls source unit st p detail} : Steady s (t.jobFault cls source unit st p detail) :=
  h.calm (State.jobFault_calm _ _ _ _ _ _ _)

@[simp] theorem Steady.judgePort (h : Steady s t) {k old p} : Steady s (t.judgePort k old p) := by
  unfold State.judgePort
  simp [h]

@[simp] theorem Steady.rekeyPort (h : Steady s t) {k} : Steady s (t.rekeyPort k) := by
  unfold State.rekeyPort
  simp [h]

@[simp] theorem Steady.endTraining (h : Steady s t) {k} : Steady s (t.endTraining k) := by
  unfold State.endTraining
  simp only
  split <;> simp [h]

@[simp] theorem Steady.portMoved (h : Steady s t) {k old} : Steady s (t.portMoved k old) := by
  have hclk : Steady s (t.trace 0x0400 noPart 0 [k, old.state.code, (t.port k).state.code]).opticalClocks := h.trace.opticalClocks
  unfold State.portMoved
  dsimp only
  refine .ite h (.endTraining (.ite (.rekeyPort (.sayReady ?_)) ?_))
  all_goals exact .foldl (.ite hclk.rest hclk) fun a p => .judgePort (.refl a)

@[simp] theorem Steady.movePort (h : Steady s t) {k f} : Steady s (t.movePort k f) := by
  unfold State.movePort
  simp [h]

@[simp] theorem Steady.compareMap (h : Steady s t) {k} : Steady s (t.compareMap k) := by
  unfold State.compareMap
  simp [h]

@[simp] theorem Steady.fenceTry (h : Steady s t) {p} : Steady s (t.fenceTry p) := by
  unfold State.fenceTry
  simp [h]

@[simp] theorem Steady.startMismatch (h : Steady s t) {p i g susRank susLidx susDigest} : Steady s (t.startMismatch p i g susRank susLidx susDigest).1 := by
  unfold State.startMismatch
  split <;> simp [h]

@[simp] theorem Steady.joinInst (h : Steady s t) {p group seq cp g glid e f} : Steady s (t.joinInst p group seq cp g glid e f) := by
  unfold State.joinInst
  dsimp only
  refine .censusTry (.putInst ?_)
  split
  · exact h.rest
  · exact .startMismatch h.rest

theorem Steady.enterCol {tile} (hr : t.enterCol tile = some u) (h : Steady s t) : Steady s u := by
  have hput : ∀ {x : Tile}, Steady s (t.setTile tile x) := h.setTile
  unfold State.enterCol at hr
  dsimp only at hr
  split at hr
  · rcases ite_eq_iff.1 hr with ⟨_, hu⟩ | ⟨_, hr⟩
    · exact Option.some.inj hu ▸ hput
    · split at hr
      · exact Option.some.inj hr ▸ hput
      · obtain ⟨_, hu⟩ := Option.ite_none_left_eq_some.1 hr
        exact Option.some.inj hu ▸ .joinInst (.rest hput)
  · cases hr

@[simp] theorem Steady.pumpCol (h : Steady s t) {n i} : Steady s (State.pumpCol n t i) := by
  induction n generalizing t with
  | zero => exact h
  | succ n ih =>
    unfold State.pumpCol
    split
    next he => exact ih (Steady.enterCol he h)
    next => exact h

@[simp] theorem Steady.pumpAll (h : Steady s t) : Steady s t.pumpAll := by
  unfold State.pumpAll
  exact h.foldl fun a t => (Steady.refl a).pumpCol

@[simp] theorem Steady.completeCol (h : Steady s t) {tile} : Steady s (t.completeCol tile) := by
  have hfin : ∀ {f x l}, Steady s { t.finish tile unitCol f x with coll := l } := .rest h.finish
  unfold State.completeCol
  dsimp only
  split
  · split
    · exact h
    · refine .fenceTry (.pumpAll (.ite (.ite ?_ hfin) ?_))
      · split
        · exact hfin
        · exact hfin
      · split
        · exact .ite hfin h.endRecords
        · exact hfin
  · exact h

@[simp] theorem Steady.occupy (h : Steady s t) {tile un f} : Steady s (t.occupy tile un f) := by
  unfold State.occupy
  simp [h]

@[simp] theorem Steady.startMxe (h : Steady s t) {tile i} : Steady s (t.startMxe tile i) := by
  unfold State.startMxe
  exact h.draw.setTile.occupy

@[simp] theorem Steady.startVec (h : Steady s t) {tile i} : Steady s (t.startVec tile i) := by
  unfold State.startVec
  dsimp only
  split
  · exact h.setTile.updJob.occupy
  · exact h.setTile.occupy

@[simp] theorem Steady.startDma (h : Steady s t) {tile i} : Steady s (t.startDma tile i) := by
  unfold State.startDma
  simp [h]

@[simp] theorem Steady.startSend (h : Steady s t) {tile i} : Steady s (t.startSend tile i) := by
  unfold State.startSend
  dsimp only
  split
  · exact h.occupy
  · split
    · exact h.occupy
    · split
      · exact h.occupy
      · exact h.setTile.occupy.rest

@[simp] theorem Steady.startRecv (h : Steady s t) {tile i} : Steady s (t.startRecv tile i) := by
  unfold State.startRecv
  dsimp only
  exact .ite h.occupy (.ite h.occupy h.setTile.occupy.chooseIn)

@[simp] theorem Steady.startUnit (h : Steady s t) {tile un i} : Steady s (t.startUnit tile un i) := by
  unfold State.startUnit
  simp [h]

@[simp] theorem Steady.pump (h : Steady s t) {tile un} : Steady s (t.pump tile un) := by
  unfold State.pump
  simp only
  split <;> simp [h]

@[simp] theorem Steady.completeUnit (h : Steady s t) {tile un st} : Steady s (t.completeUnit tile un st) := by
  unfold State.completeUnit
  split <;> simp [h]

@[simp] theorem Steady.copiesAcked (h : Steady s t) : Steady s t.copiesAcked := by
  unfold State.copiesAcked
  refine h.foldl fun a p => ?_
  have hb : ∀ {c : Prop} [Decidable c] {f : SnapPart → SnapPart}, Steady a (if c then a.updSnap p f else a) := .ite (.updSnap (.refl a)) (.refl a)
  dsimp only
  split
  · exact .ite hb.updSnap.complete hb
  · exact hb

@[simp] theorem Steady.ctrlRead (h : Steady s t) {v after} (ha : Steady t after) : Steady s (t.ctrlRead v after) := by
  unfold State.ctrlRead
  split
  · exact (h.trans ha).emit
  · exact h

@[simp] theorem Steady.readPlace (h : Steady s t) {c a words f} : Steady s (t.readPlace c a words f).1 := by
  unfold State.readPlace
  split
  · exact h
  · exact h
  · split <;> exact h
  · split
    · exact h
    · dsimp only
      split
      · exact h
      · split
        · exact h.hbmRead
        · exact h.vaRead
  · exact h
  · split
    · exact h
    · exact h.hbmRead

@[simp] theorem Steady.decryptSource (h : Steady s t) {c r f} : Steady s (t.decryptSource c r f).1 := by
  unfold State.decryptSource
  dsimp only
  split
  · exact h
  · refine .ite_fst (.ite_fst (.pair h.readPlace) ?_) (.ite_fst (.ite_fst (.pair h.readPlace) (.ite_fst (.pair h.readPlace) ?_)) h.readPlace)
    · split
      · exact .pair (.labelRange (.acceptOwner h.readPlace))
      · exact .pair h.readPlace
    · generalize openRecord _ _ _ = r
      split
      · exact .pair h.readPlace
      · exact .pair h.readPlace

@[simp] theorem Steady.owe (h : Steady s t) {k vc n} : Steady s (t.owe k vc n) := by
  unfold State.owe
  simp [h]

@[simp] theorem Steady.land (h : Steady s t) {n k vc} : Steady s (State.land n t k vc) := by
  induction n generalizing t with
  | zero => exact h
  | succ n ih =>
    unfold State.land
    dsimp only
    split
    · exact h
    · split
      · exact ih h.setPort
      · exact ih h.setPort
      · split
        · exact h
        · split
          · exact ih h.setPort.rest
          · exact h

@[simp] theorem Steady.landAll (h : Steady s t) {k} : Steady s (t.landAll k) := by
  unfold State.landAll
  exact h.foldl fun a vc => (Steady.refl a).land

@[simp] theorem Steady.lossFault (h : Steady s t) {k p} : Steady s (t.lossFault k p) := by
  unfold State.lossFault
  split <;> simp [h]

@[simp] theorem Steady.hearQueue (h : Steady s t) {k p o i data units} : Steady s (t.hearQueue k p o i data units) := by
  unfold State.hearQueue
  split
  · dsimp only
    refine .ite (.ite (.landAll (.updPort ?_)) (.owe ?_)) h.updPort.owe.lossFault
    all_goals exact .ite h.updPort.rest h
  · exact h.updPort.owe.lossFault

@[simp] theorem Steady.hearSystem (h : Steady s t) {p i data} : Steady s (t.hearSystem p i data) := by
  fun_cases State.hearSystem
  case case1 => exact h
  case case2 => exact h
  case case3 => exact .areaPut h.updSnap
  case case4 => exact h.updSnap
  case case5 => exact h

@[simp] theorem Steady.deliver (h : Steady s t) {k p o body} : Steady s (t.deliver k p o body) := by
  unfold State.deliver
  simp only
  split <;> simp [h]

theorem Steady.take {tile op r} (hr : t.take tile op = some r) (h : Steady s t) : Steady s r.1 := by
  unfold State.take at hr
  dsimp only at hr
  split at hr <;> cases hr
  exact h.setTile

@[simp] theorem Steady.issue (h : Steady s t) {tile un i} : Steady s (t.issue tile un i) := by
  unfold State.issue
  simp [h]

@[simp] theorem Steady.dispatch (h : Steady s t) {tile op un} : Steady s (t.dispatch tile op un) := by
  unfold State.dispatch
  split
  · exact h
  next ht => exact (Steady.take ht h).issue

@[simp] theorem Steady.dispatchVec (h : Steady s t) {tile o} : Steady s (t.dispatchVec tile o) := by
  unfold State.dispatchVec
  simp [h]

@[simp] theorem Steady.haltHere (h : Steady s t) {c st} : Steady s (t.haltHere c st) := by
  unfold State.haltHere
  simp [h]

@[simp] theorem Steady.dmaStep (h : Steady s t) {c op f} (hf : ∀ i, Steady t (f i)) : Steady s (t.dmaStep c op f) := by
  unfold State.dmaStep
  simp [h, h.trans (hf _)]

@[simp] theorem Steady.doMove (h : Steady s t) {c i} : Steady s (t.doMove c i) := by
  unfold State.doMove
  simp only
  (repeat' split) <;> simp [h]

@[simp] theorem Steady.drainTo (h : Steady s t) {p c recs} : Steady s (t.drainTo p c recs) := by
  unfold State.drainTo
  simp only
  split <;> simp [h]

@[simp] theorem Steady.finishRemoval (h : Steady s t) {p} : Steady s (t.finishRemoval p) := by
  unfold State.finishRemoval
  dsimp only
  split
  · exact h
  · refine Steady.follow (Steady.foldl ?_ fun a w => (Steady.refl a).complete)
    split
    · exact h.updTiles.rest.complete
    · exact h.updTiles.rest

@[simp] theorem Steady.drained (h : Steady s t) {p} : Steady s (t.drained p) := by
  have hwiped : ∀ {a : State} {xs gs : List Nat}, Steady s a →
      Steady s { a with sec := xs.foldl (fun (k : Sec) i => k.zeroize i) a.sec, hbm := gs.foldl (fun (h : Hbm) g => h.wipeGone g) a.hbm } := fun {a xs gs} ha =>
    ha.fields rfl ((foldl_keeps (g := Sec.fuses) Sec.zeroize_fuses xs a.sec).symm ▸ .refl _) (Hbm.foldl_wf (fun _ _ hw => Hbm.wipeGone_wf hw) gs)
  have hgone : ∀ {a : State} {xs gs : List Nat}, Steady s a →
      Steady s { a with sec := xs.foldl (fun (k : Sec) i => k.zeroize i) a.sec, hbm := (gs.foldl (fun (h : Hbm) g => h.wipeGone g) a.hbm).updPart p fun mp => { mp with gone := true } } :=
    fun {a xs gs} ha => ha.fields rfl ((foldl_keeps (g := Sec.fuses) Sec.zeroize_fuses xs a.sec).symm ▸ .refl _) fun hw => Hbm.updPart_wf (Hbm.foldl_wf (fun _ _ hw => Hbm.wipeGone_wf hw) gs hw)
  unfold State.drained
  dsimp only
  generalize (t.part p).removal = o
  cases o with
  | none => exact h
  | some r =>
    dsimp only
    generalize hs : State.setPart _ _ _ = a
    have ha : Steady s a := hs ▸ h.setPart
    generalize (a.job p).run = o
    cases o with
    | none => exact .ite (.finishRemoval (hgone ha)) (hwiped ha)
    | some q => exact .ite (.finishRemoval (hgone ha.updJob.endRun)) (hwiped ha.updJob.endRun)

@[simp] theorem Steady.emitReplay (h : Steady s t) {k} : Steady s (t.emitReplay k) := by
  unfold State.emitReplay
  simp [h]

@[simp] theorem Steady.sealOwner (h : Steady s t) {p j va label payload} : Steady s (t.sealOwner p j va label payload).1 := by
  unfold State.sealOwner
  simp only
  split <;> simp [h]

@[simp] theorem Steady.encryptDest (h : Steady s t) {c r ws} : Steady s (t.encryptDest c r ws).1 := by
  unfold State.encryptDest
  split
  · exact h
  · dsimp only
    refine .ite_fst (.ite_fst h h.drawNonce) (.ite_fst (.ite_fst h ?_) h)
    split
    next hs => exact (congrArg Prod.fst hs) ▸ h.sealOwner
    next hs => exact (congrArg Prod.fst hs) ▸ h.sealOwner

@[simp] theorem Steady.endBinds (h : Steady s t) {p} : Steady s (t.endBinds p) := by
  unfold State.endBinds
  simp [h]

@[simp] theorem Steady.endCtrl (h : Steady s t) {p} : Steady s (t.endCtrl p) := by
  unfold State.endCtrl
  simp [h]

theorem Steady.endFill {p mirror} (hr : t.endFill p mirror = some u) (h : Steady s t) : Steady s u := by
  revert hr
  fun_cases State.endFill
  case case1 hput _ _ _ hrecs _ _ _ _ _ =>
    intro hu
    obtain rfl := Option.some.inj hu
    have hs := Steady.of_fst hrecs (.areaRecords (.of_fst hput (.areaPut h.areaBytes)))
    exact .ite hs.updSnap hs.updSnap
  case case2 => exact nofun
  case case3 => exact nofun

@[simp] theorem Steady.failPhase (h : Steady s t) {cause} : Steady s (t.failPhase cause) := by
  have hf : ∀ {b}, Steady s { t with boot := b, pwr := { t.pwr with state := .halted } } := h.fields rfl (.refl _) id
  unfold State.failPhase
  dsimp only
  exact .emit (.report hf)

@[simp] theorem Steady.reportSlot (h : Steady s t) {i} : Steady s (t.reportSlot i) := by
  unfold State.reportSlot
  simp [h]

@[simp] theorem Steady.passPhase (h : Steady s t) : Steady s t.passPhase := by
  unfold State.passPhase
  simp [h]

@[simp] theorem Steady.endPhase1 (h : Steady s t) {failed} : Steady s (t.endPhase1 failed) := by
  unfold State.endPhase1
  split
  · exact .failPhase (.ite h h.scrapWipe)
  · have hslots : Steady s (failed.foldl (fun (a : State) i => a.reportSlot i) { t with sec := t.sec.phase1 failed, flash := t.flash.startUp }) :=
      .foldl (h.fields rfl (Sec.phase1_fuses _ _ ▸ .refl _) id) fun a i => .reportSlot (.refl a)
    dsimp only
    refine .ite hslots.failPhase ?_
    split
    · exact .passPhase (.foldl hslots.rest fun a r => .trace (.report (.refl a)))
    · exact .failPhase (.foldl hslots.rest fun a r => .trace (.report (.refl a)))

@[simp] theorem Steady.endPhase3 (h : Steady s t) {pcs} : Steady s (t.endPhase3 pcs) := by
  have htrain : Memory.wf t.hbm = true → Memory.wf (pcs.foldl Hbm.trainFail (t.hbm, false)).1 = true := by
    suffices hfold : ∀ (cs : List Nat) (x : Hbm × Bool), Memory.wf x.1 = true → Memory.wf (cs.foldl Hbm.trainFail x).1 = true from hfold pcs (t.hbm, false)
    intro cs
    induction cs with
    | nil => exact fun _ hw => hw
    | cons c cs ih => exact fun x hw => ih _ (Hbm.trainFail_wf hw c)
  unfold State.endPhase3
  dsimp only
  have hreport : ∀ rs : List Nat, Steady s (rs.foldl (fun (a : State) c => a.report clsDegraded srcMpr c .tagFail noPart 0)
      { t with hbm := (pcs.foldl Hbm.trainFail (t.hbm, false)).1 }) := fun rs => .foldl (h.fields rfl (.refl _) htrain) fun a c => .report (.refl a)
  exact .ite (hreport _).failPhase (.passPhase ((hreport _).fields rfl (.refl _) fun hw => Hbm.markPhase3_wf hw))

@[simp] theorem Steady.endPhase4 (h : Steady s t) {failed} : Steady s (t.endPhase4 failed) := by
  unfold State.endPhase4
  simp [h]

@[simp] theorem Steady.endSend (h : Steady s t) {tile st} : Steady s (t.endSend tile st) := by
  unfold State.endSend
  simp [h]

@[simp] theorem Steady.entryError (h : Steady s t) {i} : Steady s (t.entryError i) := by
  unfold State.entryError
  dsimp only
  refine .ite h (.jobFault (.foldl (.updTiles (.foldl h.rest fun a i => .rest (.updTile (.refl a)))) fun a r => ?_))
  split
  · exact .finish (.refl a)
  · exact .refl a

@[simp] theorem Steady.removePart (h : Steady s t) {p asker create} : Steady s (t.removePart p asker create) := by
  have hchans : ∀ {a : State}, Steady s a → Steady s ((List.range 48).foldl (fun (a : State) n =>
      if !(a.sysChan n).fw && decide ((a.sysChan n).part = p) then a.setSys n { a.sysChan n with chan := (a.sysChan n).chan.stop } else a) a) := fun ha =>
    ha.foldl fun b n => .ite (.setSys (.refl b)) (.refl b)
  have hrevoke : ∀ {a : State} {xs : List Nat} {sn f}, Steady s a → Steady s { a with hbm := a.hbm.revoke p, sec := xs.foldl (fun (k : Sec) i => k.revokeSlot i) a.sec, snaps := sn, flash := f } :=
    fun {a xs _ _} ha => ha.fields rfl ((foldl_keeps (g := Sec.fuses) Sec.revokeSlot_fuses xs a.sec).symm ▸ .refl _) fun hw => Hbm.revoke_wf hw
  unfold State.removePart
  dsimp only
  refine .updPart (.clearPorts (.endBinds (hrevoke ?_)))
  have hab : Steady s (if (t.setPart p { t.part p with sess := .closing, removal := some ⟨.drain, 0, 0, asker.toList, create⟩ }).multi p = true then
      (t.setPart p { t.part p with sess := .closing, removal := some ⟨.drain, 0, 0, asker.toList, create⟩ }).abortAll p
      else t.setPart p { t.part p with sess := .closing, removal := some ⟨.drain, 0, 0, asker.toList, create⟩ }) := .ite h.setPart.abortAll h.setPart
  split
  · exact .complete (hchans (.updTiles (.endCtrl (.flushMany (.stopRun hab.rest)))))
  · exact hchans (.updTiles (.endCtrl (.flushMany (.stopRun hab.rest))))

@[simp] theorem Steady.failOpen (h : Steady s t) {p asker st} : Steady s (t.failOpen p asker st) := by
  unfold State.failOpen
  simp [h]

@[simp] theorem Steady.failTile (h : Steady s t) {tile} : Steady s (t.failTile tile) := by
  unfold State.failTile
  simp [h]

@[simp] theorem Steady.fenceHear (h : Steady s t) {p rank word} : Steady s (t.fenceHear p rank word) := by
  unfold State.fenceHear
  simp only
  (repeat' split) <;> simp [h]

@[simp] theorem Steady.sendRecords (h : Steady s t) {p ports vc fill c recs} : Steady s (t.sendRecords p ports vc fill c recs) := by
  unfold State.sendRecords
  refine h.foldl fun a i => ?_
  dsimp only
  split
  · exact .refl a
  · split
    · exact .refl a
    · exact .updPort (.refl a)

@[simp] theorem Steady.fillOut (h : Steady s t) {p serial epoch rank asker} : Steady s (t.fillOut p serial epoch rank asker).1 := by
  unfold State.fillOut
  dsimp only
  split
  · refine .ite_fst h (.ite_fst h ?_)
    split
    next hs => exact .pair (.updSnap (.sendRecords (.of_fst hs h.areaRecords)))
    next hs => exact .of_fst hs h.areaRecords
  · exact h

@[simp] theorem Steady.popRing (h : Steady s t) {n i} : Steady s ((State.popRing n t i).1) := by
  induction n generalizing t with
  | zero => exact h
  | succ n ih =>
    unfold State.popRing
    dsimp only
    exact ih (.foldl h.rest fun a _ => .report (.trace (.refl a)))

@[simp] theorem Steady.fillUnit (h : Steady s t) {un} : Steady s (t.fillUnit un).1 := by
  unfold State.fillUnit
  split <;> simp [h]

@[simp] theorem Steady.fillWith (h : Steady s t) {p serial epoch put recs} : Steady s (t.fillWith p serial epoch put recs).1 := by
  have hput : ∀ f, Steady s (if put = true then (t.updSnap p f).areaPutAll p false recs else (t.updSnap p f, Status.done)).1 := fun f => .ite_fst h.updSnap.areaPutAll h.updSnap
  unfold State.fillWith
  dsimp only
  exact .ite_fst (.pair (.updSnap (hput _))) (.pair (.updSnap (hput _)))

@[simp] theorem Steady.filled (h : Steady s t) {k : Sec} (hk : k.fuses = t.sec.fuses) {owner i st} : Steady s (t.filled k owner i st) := by
  have hset : Steady s { t with sec := k } := h.fields rfl (hk ▸ .refl _) id
  unfold State.filled
  exact .ite hset.takeSlot hset

@[simp] theorem Steady.forceDown (h : Steady s t) {cause unit source hardware} : Steady s (t.forceDown cause unit source hardware) := by
  have hf : Steady s { t with pwr := t.pwr.force cause } := h.fields rfl (.refl _) id
  unfold State.forceDown
  exact .shutDown hf

@[simp] theorem Steady.sample (h : Steady s t) {p regs} : Steady s (t.sample p regs) := by
  unfold State.sample
  simp [h]

@[simp] theorem Steady.freshView (h : Steady s t) {p} : Steady s (t.freshView p) := by
  unfold State.freshView
  simp [h]

theorem Steady.finishCmd {fn q seq} {r : State × CmdEnd} (h : Steady s r.1) : Steady s (Machine.finishCmd fn q seq r) := by
  obtain ⟨u, e⟩ := r
  cases e with
  | done st r0 r1 => exact h.complete
  | running => exact h

@[simp] theorem Steady.hostCmd (h : Steady s t) {fn q op f} (hf : ∀ a c x, Steady a (f a c x).1) : Steady s (t.hostCmd fn q op f) := by
  rcases t.hostCmd_cases fn q op f with he | ⟨c, x, _, _, ⟨st, he⟩ | he⟩ <;> rw [he]
  · exact h
  · exact (h.calm (.ofHif t _)).complete
  · exact ((h.calm (.ofHif t _)).trans (hf _ c x.ctx)).finishCmd

@[simp] theorem Steady.fwCmd (h : Steady s t) {fn q op mine f} (hf : ∀ a c, Steady a (f a c).1) : Steady s (t.fwCmd fn q op mine f) := by
  unfold State.fwCmd
  split
  · exact h
  · exact .ite h (.ite (.hostCmd h.trace fun a _ _ => .refl a) (.hostCmd h fun a d _ => .trace (hf a d)))

@[simp] theorem Steady.grantPort (h : Steady s t) {e k credits} : Steady s (t.grantPort e k credits) := by
  unfold State.grantPort
  simp only
  split <;> simp [h]

@[simp] theorem Steady.inject (h : Steady s t) {n i} : Steady s (State.inject n t i) := by
  induction n generalizing t with
  | zero => exact h
  | succ n ih =>
    unfold State.inject
    dsimp only
    split
    · exact h
    · split
      · exact ih h.setTile.rest
      · exact h

@[simp] theorem Steady.grantTile (h : Steady s t) {e tile credits} : Steady s (t.grantTile e tile credits) := by
  unfold State.grantTile
  dsimp only
  split
  · exact h.rest
  · exact .ite h.setTile.inject h.rest

@[simp] theorem Steady.retrainPort (h : Steady s t) {k} : Steady s (t.retrainPort k) := by
  unfold State.retrainPort
  simp [h]

@[simp] theorem Steady.hearPort (h : Steady s t) {k o} : Steady s (t.hearPort k o) := by
  unfold State.hearPort
  dsimp only
  have hs : Steady s ((if o.nak = true then (t.updPort k fun x => x.hearHeader o).emitReplay k else t.updPort k fun x => x.hearHeader o).copiesAcked.rekeyPort k) := .rekeyPort (.copiesAcked (.ite (.emitReplay h.updPort) h.updPort))
  exact .ite hs.retrainPort hs

@[simp] theorem Steady.heldOr (h : Steady s t) {m busy now} (hn : Steady t (now t).1) : Steady s (t.heldOr m busy now).1 := by
  unfold State.heldOr
  split
  · simp [h]
  · exact h.trans hn

@[simp] theorem Steady.readImage (h : Steady s t) {p maps va} : Steady s (t.readImage p maps va).1 := by
  unfold State.readImage
  simp only
  (repeat' split) <;> simp [h]

@[simp] theorem Steady.loadTile (h : Steady s t) {p l tile} : Steady s (t.loadTile p l tile) := by
  unfold State.loadTile
  simp only
  (repeat' split) <;> simp [h]

theorem Steady.placeImage {p va space hv body place pol} (hr : t.placeImage p va space hv body place pol = some u) (h : Steady s t) : Steady s u := by
  unfold State.placeImage at hr
  split at hr
  · cases hr
  next hb =>
    obtain rfl := Option.some.inj hr
    refine .sample (.rest (.updPart (.foldl (.updTiles (.setJob (Steady.bindStreams hb h.rest))) fun a l => ?_)))
    split
    · exact .updTile (.loadTile (.refl a))
    · exact .refl a

@[simp] theorem Steady.imageLoad (h : Steady s t) {p ctx fn va blk body} : Steady s (t.imageLoad p ctx fn va blk body).1 := by
  unfold State.imageLoad
  dsimp only
  refine .ite_fst h (.ite_fst h.readImage (.ite_fst h.readImage (.ite_fst h.readImage ?_)))
  split
  · exact h.readImage
  next hp => exact Steady.placeImage hp h.readImage

@[simp] theorem Steady.importFor (h : Steady s t) {p kem kind w} : Steady s (t.importFor p kem kind w).1 := by
  unfold State.importFor
  simp only
  (repeat' split) <;> simp [h]

@[simp] theorem Steady.ingestOne (h : Steady s t) {p maps va} : Steady s (t.ingestOne p maps va).1 := by
  unfold State.ingestOne
  dsimp only
  refine .ite_fst h (.ite_fst h.vaRead (.ite_fst h.vaRead (.ite_fst h.vaRead.vaRead ?_)))
  split
  · exact .ite_fst (.acceptOwner (.vaWrite (.labelRange h.vaRead.vaRead))) (.vaWrite (.labelRange h.vaRead.vaRead))
  · exact h.vaRead.vaRead

@[simp] theorem Steady.ingestMany (h : Steady s t) {n p maps va} : Steady s (State.ingestMany n t p maps va).1 := by
  induction n generalizing t va with
  | zero => exact h
  | succ n ih =>
    unfold State.ingestMany
    dsimp only
    split
    · exact h.ingestOne
    · exact ih h.ingestOne

@[simp] theorem Steady.interim (h : Steady s t) {r st step outcome} : Steady s (t.interim r st step outcome) := by
  unfold State.interim
  simp [h]

@[simp] theorem Steady.lossColl (h : Steady s t) {k p ms} : Steady s (t.lossColl k p ms) := by
  unfold State.lossColl
  simp [h]

@[simp] theorem Steady.loseFrames (h : Steady s t) {k p n ms} : Steady s (t.loseFrames k p n ms) := by
  unfold State.loseFrames
  simp [h]

@[simp] theorem Steady.judgeData (h : Steady s t) {k o bs} : Steady s (t.judgeData k o bs) := by
  unfold State.judgeData
  dsimp only
  split
  · exact .owe h.updPort
  · split
    · exact .owe h.updPort
    · exact .ite (.owe h.updPort) (.ite (.owe h.updPort) (.deliver (.loseFrames (.closeGens h.updPort))))

@[simp] theorem Steady.lineWrite (h : Steady s t) {o key dpa ws f} : Steady s (t.lineWrite o key dpa ws f) := by
  unfold State.lineWrite
  refine .ite ?_ h
  split
  next hw => exact .emit (Steady.hbmWrite hw h)
  next => exact h

@[simp] theorem Steady.linkLayer (h : Steady s t) {k bs} : Steady s (t.linkLayer k bs).1 := by
  unfold State.linkLayer
  dsimp only
  exact .ite_fst (.pair h.updPort) (.ite_fst (.pair (.hearPort h.updPort)) (.ite_fst (.pair (.updPort (.hearPort h.updPort))) (.pair (.updPort (.hearPort h.updPort)))))

@[simp] theorem Steady.setSource (h : Steady s t) {src} : Steady s (t.setSource src) := by
  unfold State.setSource
  simp [h]

@[simp] theorem Steady.localSource (h : Steady s t) : Steady s t.localSource := by
  unfold State.localSource
  simp [h]

@[simp] theorem Steady.loseWave (h : Steady s t) {k wave} : Steady s (t.loseWave k wave) := by
  unfold State.loseWave
  simp [h]

@[simp] theorem Steady.maintCmd (h : Steady s t) {fn q req f} (hf : ∀ a n, Steady a (f a n).1) : Steady s (t.maintCmd fn q req f) := by
  unfold State.maintCmd
  split
  · exact .ite (.hostCmd h fun a d _ => hf a (bits d.entry.p0 16 16)) h
  · exact h

@[simp] theorem Steady.mantis (h : Steady s t) {ph f} (hf : Steady t (f t)) : Steady s (t.mantis ph f) := by
  unfold State.mantis
  simp [h, h.trans hf]

@[simp] theorem Steady.moveLinks (h : Steady s t) {p} : Steady s (t.moveLinks p) := by
  unfold State.moveLinks
  split
  · exact h
  · refine h.foldl fun a i => ?_
    dsimp only
    split
    · exact .refl a
    · refine .ite (.refl a) ?_
      split
      · exact .refl a
      · split
        · exact .refl a
        · exact .cutAll (.rest (.updPort (.refl a)))

@[simp] theorem Steady.mprCmd (h : Steady s t) {f} (hf : Memory.wf t.hbm = true → Memory.wf (f t.hbm) = true) : Steady s (t.mprCmd f) := by
  unfold State.mprCmd
  exact .ite (h.fields rfl (.refl _) hf) h

@[simp] theorem Steady.newStep (h : Steady s t) {p} : Steady s (t.newStep p) := by
  unfold State.newStep
  dsimp only
  exact .updTiles (.moveLinks (.foldl h.rest fun a k => .ite (.updPort (.refl a)) (.refl a)))

@[simp] theorem Steady.stopAll (h : Steady s t) {st} : Steady s (t.stopAll st) :=
  h.calm (State.stopAll_calm _ _)

@[simp] theorem Steady.noSpare (h : Steady s t) {tile} : Steady s (t.noSpare tile) := by
  unfold State.noSpare
  simp [h]

@[simp] theorem Steady.notePort (h : Steady s t) {k st} : Steady s (t.notePort k st) := by
  unfold State.notePort
  simp [h]

@[simp] theorem Steady.noteSession (h : Steady s t) {p st} : Steady s (t.noteSession p st) := by
  unfold State.noteSession
  simp [h]

@[simp] theorem Steady.noteUtil (h : Steady s t) {utils} : Steady s (t.noteUtil utils) := by
  unfold State.noteUtil
  simp [h]

@[simp] theorem Steady.treeHear (h : Steady s t) {p hv} : Steady s (t.treeHear p hv) := by
  unfold State.treeHear
  simp only
  (repeat' split) <;> simp [h]

@[simp] theorem Steady.remoteMismatch (h : Steady s t) {p i hv} : Steady s (t.remoteMismatch p i hv) := by
  unfold State.remoteMismatch
  split
  · exact h
  · exact h.startMismatch.putInst.censusTry

@[simp] theorem Steady.openChunk (h : Steady s t) {p f} : Steady s (t.openChunk p f) := by
  have hs := h.updColl (p := p) (f := fun y => { y with frames := y.frames.erase f })
  unfold State.openChunk
  dsimp only
  refine .ite ?_ (.ite (.blindOpen hs.updColl) (.ite hs.fenceHear ?_))
  · split
    · exact hs.updColl
    · exact hs.blindOpen
  · split
    · exact .ite hs.treeHear hs
    · exact .ite hs.remoteMismatch (.ite hs.treeHear hs.updColl)

@[simp] theorem Steady.openKem (h : Steady s t) {p} : Steady s (t.openKem p).1 := by
  unfold State.openKem
  simp [h]

@[simp] theorem Steady.openMemory (h : Steady s t) {p} : Steady s (t.openMemory p).1 := by
  have hcarved : ∀ {a : State}, Steady s a → ∀ (xs ys : List Nat) (m : Nat),
      Steady s { a with hbm := ys.foldl (fun (h : Hbm) g => h.stage p g) (xs.foldl (fun (h : Hbm) g => h.carve p g m false) a.hbm) } := fun ha xs ys m =>
    ha.fields rfl (.refl _) fun hw => Hbm.foldl_wf (fun _ _ hw => Hbm.stage_wf hw) _ (Hbm.foldl_wf (fun _ _ hw => Hbm.carve_wf hw) _ hw)
  unfold State.openMemory
  dsimp only
  exact .ite_fst (.pair h.deriveFor) (.ite_fst (.pair (.deriveFor h.deriveFor)) (.ite_fst (.pair (.updPart (.deriveFor h.deriveFor))) (.pair (hcarved (.updPart (.deriveFor h.deriveFor)) _ _ _))))

@[simp] theorem Steady.openPart (h : Steady s t) {bs} : Steady s (t.openPart bs) := by
  unfold State.openPart
  exact .freshView (.updTiles h.rest)

@[simp] theorem Steady.openSession (h : Steady s t) {p} : Steady s (t.openSession p).1 := by
  have hdraw : Steady s { t with sec := t.sec.draw.2 } := h.fields rfl (.refl _) id
  unfold State.openSession
  dsimp only
  exact .ite_fst (.pair h) (.pair (.updPart (.generateFor (.updPart hdraw))))

@[simp] theorem Steady.tryArm (h : Steady s t) {p} : Steady s (t.tryArm p) := by
  unfold State.tryArm
  simp [h]

@[simp] theorem Steady.ownerImport (h : Steady s t) {p bs} : Steady s (t.ownerImport p bs).1 := by
  unfold State.ownerImport
  dsimp only
  split
  · exact h
  · split
    · exact h.importFor
    · split
      · exact h.importFor.dropSlot
      · exact h.importFor.updPart.tryArm

@[simp] theorem Steady.portCmd (h : Steady s t) {k action wave dir f} (hf : ∀ a, Steady a (f a).1) : Steady s (t.portCmd k action wave dir f) := by
  unfold State.portCmd
  refine .ite h ?_
  split
  · refine .hostCmd h fun a _ _ => ?_
    have ha := hf a
    generalize f a = r at ha
    obtain ⟨b, e⟩ := r
    cases e with
    | some st => exact ha
    | none => exact .ite_fst ha (.pair (.updPort (t := b) ha))
  · exact h.trans (hf t)

@[simp] theorem Steady.powerOff (h : Steady s t) : Steady s t.powerOff := by
  have hf : Steady s { t with pwr := t.pwr.force 0x10 } := h.fields rfl (.refl _) id
  unfold State.powerOff
  exact .ite h (.shutDown hf)

@[simp] theorem Steady.powerOn (h : Steady s t) : Steady s (t.powerOn).1 := by
  have hup : ∀ {a : State}, Steady s a → ∀ n, Steady s { a with pwr := { a.pwr with level := n, thermtrip := false } } := fun ha _ => ha.fields rfl (.refl _) id
  unfold State.powerOn
  dsimp only
  exact .ite_fst h (.ite_fst h (.ite_fst h (.beginPhase1 (.levelOuts (hup (.ite h.emit h) _)))))

@[simp] theorem Steady.rebind (h : Steady s t) {p tile un} : Steady s (t.rebind p tile un) := by
  unfold State.rebind
  dsimp only
  split
  · exact h
  · exact .loadTile (.updTile (.updTile (.rest h.setJob)))

@[simp] theorem Steady.regWrite (h : Steady s t) {reg v} : Steady s (t.regWrite reg v) := by
  have hhbm : ∀ m, (Memory.wf t.hbm = true → Memory.wf m = true) → Steady s { t with hbm := m } := fun m hm => h.fields rfl (.refl _) hm
  cases reg with
  | mprWeevilCfg => exact hhbm _ id
  | mprRemapCfg => exact hhbm _ id
  | mprScrub => exact hhbm _ id
  | mprGranSel => exact hhbm _ id
  | mprEcc => exact hhbm _ id
  | secSlotSel => exact h.fields rfl (.refl _) id
  | secSlotErr => exact h.fields rfl (.refl _) id
  | pwrRailSel => exact h.fields rfl (.refl _) id
  | clkIdleCfg => exact h.fields rfl (.refl _) id
  | _ => simp [State.regWrite, h]

@[simp] theorem Steady.rekeyStep (h : Steady s t) {p r} : Steady s (t.rekeyStep p r) := by
  unfold State.rekeyStep
  simp [h]

@[simp] theorem Steady.rekeySnapped (h : Steady s t) {p} : Steady s (t.rekeySnapped p) := by
  unfold State.rekeySnapped
  split <;> simp [h]

@[simp] theorem Steady.rekeyed (h : Steady s t) {p} : Steady s (t.rekeyed p) := by
  unfold State.rekeyed
  split
  · exact h
  · exact .ite h (.rekeyStep (.dropSlot h.updSnap))

@[simp] theorem Steady.releaseRecord (h : Steady s t) {p form recipient nonce i maps va n} : Steady s (t.releaseRecord p form recipient nonce i maps va n).1 := by
  unfold State.releaseRecord
  simp only
  (repeat' split) <;> simp [h]

@[simp] theorem Steady.releaseMany (h : Steady s t) {n p form recipient nonce i maps src dst} : Steady s (State.releaseMany n t p form recipient nonce i maps src dst).1 := by
  induction n generalizing t i src dst with
  | zero => exact h
  | succ n ih =>
    unfold State.releaseMany
    dsimp only
    split
    · exact h.releaseRecord
    · split
      · exact h.releaseRecord.vaWrite
      · exact ih h.releaseRecord.vaWrite

@[simp] theorem Steady.release (h : Steady s t) {p maps src dst n form recipient} : Steady s (t.release p maps src dst n form recipient).1 := by
  unfold State.release
  simp only
  (repeat' split) <;> simp [h]

@[simp] theorem Steady.releaseStep (h : Steady s t) {p} : Steady s (t.releaseStep p) := by
  unfold State.releaseStep
  dsimp only
  split
  · refine .setJob (.foldl (.ite h.newStep.loadCommitted h.newStep) fun a l => ?_)
    split
    · exact .updTile (.refl a)
    · exact .refl a
  · exact h

theorem Steady.replaceTile {tile} (hr : t.replaceTile tile = some u) (h : Steady s t) : Steady s u := by
  unfold State.replaceTile at hr
  split at hr
  · cases hr
  · obtain rfl := Option.some.inj hr
    split
    · exact .rebind h.rest
    · exact h.rest

@[simp] theorem Steady.resetFn (h : Steady s t) {fn} : Steady s (t.resetFn fn) := by
  unfold State.resetFn
  simp [h]

@[simp] theorem Steady.traceFormats (h : Steady s t) {p a b words} : Steady s (t.traceFormats p a b words) := by
  unfold State.traceFormats
  exact .foldl (.foldl h fun a w => .trace (.refl a)) fun a c => .trace (.refl a)

@[simp] theorem Steady.toSnapshot (h : Steady s t) {p eligible} : Steady s (t.toSnapshot p eligible) := by
  unfold State.toSnapshot
  exact .ite h.toMaintenance (.ite h.updJob h.setSnap.trace.toMaintenance)

@[simp] theorem Steady.resolve (h : Steady s t) {p r w} : Steady s (t.resolve p r w) := by
  unfold State.resolve
  dsimp only
  have hs : Steady s ({ t with coll := t.coll.setPart p { t.coll.part p with fence := .none } }.updTiles (t.tilesOf p) fun x => { x with stage := x.stage.toIdle }) := .updTiles h.rest
  refine .ite (.faultEnd hs.stopRun) (.ite (.toMaintenance (.boundaryFlush ?_)) (.ite ?_ ?_))
  · exact .ite (.traceFormats hs.setJob) (.interim (.traceFormats hs.setJob))
  · exact .ite (.toRelease (.boundaryFlush (.interim (.traceFormats hs.setJob)))) (.toSnapshot (.boundaryFlush (.interim (.traceFormats hs.setJob))))
  · exact .ite (.toRelease (.boundaryFlush (.interim (.loadCommitted (.traceFormats hs.setJob))))) (.toSnapshot (.boundaryFlush (.interim (.loadCommitted (.traceFormats hs.setJob)))))

@[simp] theorem Steady.restart (h : Steady s t) {cause unit st} : Steady s (t.restart cause unit st) := by
  unfold State.restart
  exact .ite h (.trace (.rest h.report.stopAll))

@[simp] theorem Steady.restoreFrom (h : Steady s t) {p serial epoch root} : Steady s (t.restoreFrom p serial epoch root).1 := by
  have hrecs : ∀ {f mirror c r}, (t.updJob p f).areaRecords p mirror c = r → Steady s r.1 := fun hr => hr ▸ .areaRecords h.updJob
  fun_cases State.restoreFrom
  case case1 => exact h
  case case2 hr _ => exact hrecs hr
  case case3 hr _ _ _ _ _ => exact hrecs hr
  case case4 hr _ _ _ _ _ _ => exact hrecs hr
  case case5 hr _ _ _ _ _ _ _ _ hc _ =>
    have hs := Steady.of_fst hc (.applyCopy (hrecs hr))
    exact .pair (.ite (.updJob hs.updSnap) hs.updSnap)
  case case6 hr _ _ _ _ _ _ => exact hrecs hr

@[simp] theorem Steady.retirePc (h : Steady s t) {c dead} : Steady s (t.retirePc c dead) := by
  unfold State.retirePc
  have hr : Steady s { t with hbm := (t.hbm.retire c dead).1 } := h.fields rfl (.refl _) fun hw => Hbm.retire_wf hw c dead
  exact .ite hr.report.stopAll hr

@[simp] theorem Steady.testTile (h : Steady s t) {tile pass} : Steady s (t.testTile tile pass).1 := by
  unfold State.testTile
  split
  · exact h
  next hr => exact .ite_fst (.pair (.updTile (Steady.replaceTile hr h))) (.pair (.failTile (Steady.replaceTile hr h)))

@[simp] theorem Steady.swapOut (h : Steady s t) {tile} : Steady s (t.swapOut tile).1 := by
  unfold State.swapOut
  split
  · exact h
  next hr => exact Steady.replaceTile hr h

@[simp] theorem Steady.runMaint (h : Steady s t) {m} : Steady s (t.runMaint m) := by
  unfold State.runMaint
  simp [h]

@[simp] theorem Steady.scrubLimit (h : Steady s t) {c} : Steady s (t.scrubLimit c) := by
  unfold State.scrubLimit
  simp [h]

@[simp] theorem Steady.sendIdle (h : Steady s t) {k} : Steady s (t.sendIdle k) := by
  unfold State.sendIdle
  simp [h]

theorem Steady.sendOne {k vc} (hr : t.sendOne k vc = some u) (h : Steady s t) : Steady s u := by
  unfold State.sendOne at hr
  dsimp only at hr
  split at hr
  · cases hr
  · split at hr
    · cases hr
    · split at hr
      · cases hr
      · obtain rfl := Option.some.inj hr
        split
        · exact .cutAll (.emit (.setPort (.fillUnit h.setPort)))
        · exact .emit (.setPort (.fillUnit h.setPort))

theorem Steady.writePlace {c a ws f r} (hr : t.writePlace c a ws f = some r) (h : Steady s t) : Steady s r.1 := by
  unfold State.writePlace at hr
  split at hr
  case h_1 =>
    split at hr
    · exact Option.some.inj hr ▸ .pair h.updSys
    · exact Option.some.inj hr ▸ .pair h.updTile
  case h_2 => exact Option.some.inj hr ▸ .pair h.updTile
  case h_3 =>
    split at hr
    · exact Option.some.inj hr ▸ .pair h.updTile
    · exact Option.some.inj hr ▸ h
  case h_4 =>
    split at hr
    · exact Option.some.inj hr ▸ h
    next p _ =>
      have hl : ∀ {n l}, Steady s (if isSys c = true then t else t.labelRange p (t.chanSpace c) a.addr n l) := .ite h h.labelRange
      dsimp only at hr
      split at hr
      · exact Option.some.inj hr ▸ .pair hl
      · split at hr
        · exact Steady.hbmWrite hr hl
        · exact Option.some.inj hr ▸ .pair (.vaWrite hl)
  case h_5 => exact Option.some.inj hr ▸ .pair h.rest
  case h_6 =>
    split at hr
    · exact Option.some.inj hr ▸ h
    · split at hr
      · exact Steady.hbmWrite hr h
      · dsimp only at hr
        split at hr
        next hw => exact Steady.hbmWrite hr (Steady.hbmWrite hw h)
        next => exact Steady.hbmWrite hr h

@[simp] theorem Steady.serveWrite (h : Steady s t) {c i f} : Steady s (t.serveWrite c i f) := by
  unfold State.serveWrite
  dsimp only
  split
  · exact h
  · split
    · exact h
    next r _ _ ws _ =>
      have hx : Steady s (if r.dst.xform = 0 then (t, Status.done, ws) else t.encryptDest c r ws).1 := .ite_fst h h.encryptDest
      refine .ite h (.ite (.refuse hx) ?_)
      split
      · exact h
      next hw => exact .ite (.refuse (Steady.writePlace hw hx)) (.endReq (.setChan (Steady.writePlace hw hx)))

@[simp] theorem Steady.servo (h : Steady s t) {off} : Steady s (t.servo off) := by
  unfold State.servo
  simp [h]

@[simp] theorem Steady.setGrant (h : Steady s t) {open_ rights} : Steady s (t.setGrant open_ rights) := by
  unfold State.setGrant
  exact .warmReset (h.fields rfl (.refl _) id)

@[simp] theorem Steady.settleFn (h : Steady s t) {fn} : Steady s (t.settleFn fn) := by
  unfold State.settleFn
  simp [h]

@[simp] theorem Steady.settlePort (h : Steady s t) {k hv} : Steady s (t.settlePort k hv) := by
  unfold State.settlePort
  simp [h]

@[simp] theorem Steady.slotCmd (h : Steady s t) {f} (hf : Steady t (f t).1) : Steady s (t.slotCmd f) := by
  unfold State.slotCmd
  split
  · exact (h.trans hf).answer
  · exact h

/-- The state that a signature leaves, when there is one. -/
def Signed.after (s : State) : Signed → State
  | .made a _ _ => a
  | .waits => s
  | .refused a _ => a

theorem Steady.sign (h : Steady s t) {digest} : Steady s ((t.sign digest).after t) := by
  unfold State.sign
  split
  · exact h
  · split
    next hs => exact h.fields rfl (Sec.sign_fuses hs ▸ .refl _) id
    next => exact h
    next =>
      have hsec : t.sec.fuses.Grows (if t.sec.attestRec.valid then t.sec else { t.sec with recordFail := true }).fuses := by
        split <;> exact .refl _
      dsimp only [Signed.after]
      exact .report (h.fields rfl hsec id)

theorem Steady.of_sign {digest} {o : Signed} (ho : t.sign digest = o) (h : Steady s t) : Steady s (o.after t) := ho ▸ h.sign

theorem Steady.spdm {req r} (hr : t.spdm req = some r) (h : Steady s t) : Steady s r.1 := by
  unfold State.spdm at hr
  split at hr
  · exact Option.some.inj hr ▸ h
  · dsimp only at hr
    split at hr
    · exact Option.some.inj hr ▸ h
    · split at hr
      · exact Option.some.inj hr ▸ h
      · split at hr
        next hs =>
          obtain rfl := Option.some.inj hr
          exact Steady.of_sign hs h
        next => cases hr
        next hs =>
          obtain rfl := Option.some.inj hr
          exact Steady.of_sign hs h

@[simp] theorem Steady.startCopies (h : Steady s t) {p} : Steady s (t.startCopies p) := by
  fun_cases State.startCopies
  case case1 => exact h.updSnap
  case case2 hs => exact .updSnap (.sendRecords (.of_fst hs (.areaRecords h.updSnap)))
  case case3 hs => exact .updSnap (.of_fst hs (.areaRecords h.updSnap))
  case case4 => exact h.updSnap

@[simp] theorem Steady.startSwap (h : Steady s t) {k dir wave} : Steady s (t.startSwap k dir wave) := by
  unfold State.startSwap
  simp [h]

@[simp] theorem Steady.stopCore (h : Steady s t) {f how} : Steady s (t.stopCore f how) := by
  unfold State.stopCore
  exact h.fields (by dsimp only; split <;> rfl) (.refl _) id

@[simp] theorem Steady.takeLabel (h : Steady s t) {c a n} : Steady s (t.takeLabel c a n) := by
  unfold State.takeLabel
  (repeat' split) <;> simp [h]

@[simp] theorem Steady.tileError (h : Steady s t) {tile} : Steady s (t.tileError tile) := by
  unfold State.tileError
  split <;> simp [h]

@[simp] theorem Steady.tileOp (h : Steady s t) {tile word top} : Steady s (t.tileOp tile word top) := by
  unfold State.tileOp
  simp [h]

@[simp] theorem Steady.tokenTag (h : Steady s t) : Steady s (t.tokenTag).2 := by
  unfold State.tokenTag
  exact h.fields rfl (.refl _) id

@[simp] theorem Steady.unbind (h : Steady s t) {k id} : Steady s (t.unbind k id) := by
  unfold State.unbind
  dsimp only
  split
  · exact h
  · refine .arbitrateNow ?_
    split
    · exact .ite h.setPort.freeLink h.setPort.freeLink.freeLink
    · exact h.setPort.freeLink

@[simp] theorem Steady.updCtx (h : Steady s t) {fn ctx g} : Steady s (t.updCtx fn ctx g) := by
  unfold State.updCtx
  simp only
  split <;> simp [h]

@[simp] theorem Steady.updObjs (h : Steady s t) {fn g} : Steady s (t.updObjs fn g) := by
  unfold State.updObjs
  simp [h]

@[simp] theorem Steady.zeroPage (h : Steady s t) {p dpa} : Steady s (t.zeroPage p dpa) := by
  unfold State.zeroPage
  refine h.foldl fun a i => ?_
  split
  next hw => exact Steady.hbmWrite hw (.refl a)
  next => exact .refl a

/-- What a command answers next, if it answers, is steady. -/
def Keeps (s : State) (r : Result) : Prop := ∀ u, r = .next u → Steady s u

@[simp] theorem Keeps.next_iff : Keeps s (.next u) ↔ Steady s u := ⟨fun h => h u rfl, fun h _ he => Host.Outcome.next.inj he ▸ h⟩

theorem Keeps.next (h : Steady s u) : Keeps s (.next u) := Keeps.next_iff.2 h

@[simp] theorem Keeps.fault {f : Fault} : Keeps s (.fault f) := fun _ he => nomatch he

@[simp] theorem Keeps.ite_iff {c : Prop} [Decidable c] {r q : Result} : Keeps s (if c then r else q) ↔ (c → Keeps s r) ∧ (¬c → Keeps s q) := by
  split <;> simp [*]

@[simp] theorem Steady.ends (h : Steady s t) {st} : Steady s (Machine.ends t st).1 := h

@[simp] theorem Steady.withHost (h : Steady s t) {b f} (hf : ∀ bs, Steady s (f bs).1) : Steady s (Machine.withHost t b f).1 := by
  unfold Machine.withHost
  split
  · exact h
  · exact hf _

theorem Steady.setPwr (h : Steady s t) {w b} (hw : w.cap = t.pwr.cap) : Steady s { t with pwr := w, boot := b } := h.fields hw (.refl _) id

theorem Steady.setHbm (h : Steady s t) {m l} (hm : Memory.wf t.hbm = true → Memory.wf m = true) : Steady s { t with hbm := m, pageLabels := l } := h.fields rfl (.refl _) hm

theorem Steady.setSec (h : Steady s t) {k} (hk : k.fuses = t.sec.fuses) : Steady s { t with sec := k } := h.fields rfl (hk ▸ .refl _) id

@[simp] theorem execCol_keeps {t} : Keeps s (execCol t s) := by
  unfold execCol
  split
  · simp
  next hi => exact .next (.pumpCol (.updTile (Steady.take hi (.refl s))))

@[simp] theorem execAllReduce_keeps {p group seq cp origin chunk} : Keeps s (execAllReduce p group seq cp origin chunk s) := by
  unfold execAllReduce
  simp

@[simp] theorem execReduceScatter_keeps {p group seq cp origin chunk} : Keeps s (execReduceScatter p group seq cp origin chunk s) := by
  unfold execReduceScatter
  simp

@[simp] theorem execAllGather_keeps {p group seq cp origin chunk} : Keeps s (execAllGather p group seq cp origin chunk s) := by
  unfold execAllGather
  simp

@[simp] theorem execBroadcast_keeps {p group seq cp origin chunk} : Keeps s (execBroadcast p group seq cp origin chunk s) := by
  unfold execBroadcast
  simp

@[simp] theorem execAllToAll_keeps {p group seq cp origin chunk} : Keeps s (execAllToAll p group seq cp origin chunk s) := by
  unfold execAllToAll
  simp

@[simp] theorem execBarrier_keeps {p group seq cp} : Keeps s (execBarrier p group seq cp s) := by
  unfold execBarrier
  (repeat' split) <;> simp

@[simp] theorem execChunkOpenReceive_keeps {p} : Keeps s (execChunkOpenReceive p s) := by
  unfold execChunkOpenReceive
  dsimp only
  (repeat' split) <;> simp

@[simp] theorem execChunkCloseReceive_keeps {p} : Keeps s (execChunkCloseReceive p s) := by
  unfold execChunkCloseReceive
  dsimp only
  (repeat' split) <;> simp

@[simp] theorem execAbort_keeps {p group seq cp status rank digest susRank susLidx susDigest} : Keeps s (execAbort p group seq cp status rank digest susRank susLidx susDigest s) := by
  unfold execAbort
  simp

@[simp] theorem execCensusHeader_keeps {p group seq cp rank digest lidx} : Keeps s (execCensusHeader p group seq cp rank digest lidx s) := by
  unfold execCensusHeader
  dsimp only
  (repeat' split) <;> simp

@[simp] theorem execCensusResult_keeps {p group seq cp major rank lidx count} : Keeps s (execCensusResult p group seq cp major rank lidx count s) := by
  unfold execCensusResult
  split <;> simp

@[simp] theorem execCensusTimeout_keeps {p group seq cp} : Keeps s (execCensusTimeout p group seq cp s) := by
  unfold execCensusTimeout
  dsimp only
  (repeat' split) <;> simp

@[simp] theorem execFenceHeaderReceive_keeps {p rank word} : Keeps s (execFenceHeaderReceive p rank word s) := by
  unfold execFenceHeaderReceive
  simp

@[simp] theorem execColRecordComplete_keeps {t} : Keeps s (execColRecordComplete t s) := by
  unfold execColRecordComplete
  simp

@[simp] theorem execCtrlColl_keeps {fn q host} : Keeps s (execCtrlColl fn q host s) := by
  unfold execCtrlColl
  refine .next (.hostCmd (.refl s) fun a c x => ?_)
  dsimp only
  refine .ite_fst (.ends (.refl a)) ?_
  split
  · exact .ends (.refl a)
  · exact .ite_fst (.ends (.refl a)) (.ite_fst (.ends (.refl a)) (.withHost (.refl a) fun bs => .pair (.joinInst (.updColl (.refl a)))))

@[simp] theorem execRanksLoad_keeps {fn q host} : Keeps s (execRanksLoad fn q host s) := by
  unfold execRanksLoad
  refine .next (.hostCmd (.refl s) fun a c x => ?_)
  dsimp only
  refine .withHost (.refl a) fun bs => ?_
  (repeat' split) <;> simp

@[simp] theorem execGroupsLoad_keeps {fn q host} : Keeps s (execGroupsLoad fn q host s) := by
  unfold execGroupsLoad
  refine .next (.hostCmd (.refl s) fun a c x => ?_)
  dsimp only
  refine .withHost (.refl a) fun bs => ?_
  (repeat' split) <;> simp

@[simp] theorem execMove_keeps {c} : Keeps s (execMove c s) := by
  unfold execMove
  refine .next (.dmaStep (.refl s) fun i => ?_)
  simp

@[simp] theorem execDmaLoop_keeps {c} : Keeps s (execDmaLoop c s) := by
  unfold execDmaLoop
  refine .next (.dmaStep (.refl s) fun i => ?_)
  simp

@[simp] theorem execWait_keeps {c} : Keeps s (execWait c s) := by
  unfold execWait
  refine .next (.dmaStep (.refl s) fun i => ?_)
  simp

@[simp] theorem execSignal_keeps {c} : Keeps s (execSignal c s) := by
  unfold execSignal
  refine .next (.dmaStep (.refl s) fun i => ?_)
  simp

@[simp] theorem execEndProgram_keeps {c} : Keeps s (execEndProgram c s) := by
  unfold execEndProgram
  refine .next (.dmaStep (.refl s) fun i => ?_)
  simp

@[simp] theorem execDmaReadReturn_keeps {c i fetch} : Keeps s (execDmaReadReturn c i fetch s) := by
  unfold execDmaReadReturn
  dsimp only
  split
  · simp
  next r _ =>
    have hs : Steady s (if r.src.xform = 0 then s.readPlace c r.src r.words fetch else s.decryptSource c r fetch).1 := .ite_fst (.readPlace (.refl s)) (.decryptSource (.refl s))
    rw [Keeps.ite_iff, Keeps.ite_iff]
    refine ⟨fun _ => .next (.refl s), fun _ => ⟨fun _ => .next (.refuse hs), fun _ => .next ?_⟩⟩
    exact .ite (.serveWrite (.setReq (.takeLabel hs))) (.setReq (.takeLabel hs))

@[simp] theorem execDmaWriteComplete_keeps {c i fetch} : Keeps s (execDmaWriteComplete c i fetch s) := by
  unfold execDmaWriteComplete
  simp

@[simp] theorem execDmaProgramComplete_keeps {c} : Keeps s (execDmaProgramComplete c s) := by
  unfold execDmaProgramComplete
  dsimp only
  (repeat' split) <;> simp

@[simp] theorem execDmaBusError_keeps {c i} : Keeps s (execDmaBusError c i s) := by
  unfold execDmaBusError
  simp

@[simp] theorem execDmaLineTimeout_keeps {c i} : Keeps s (execDmaLineTimeout c i s) := by
  unfold execDmaLineTimeout
  simp

@[simp] theorem execDmaRetry_keeps {c i} : Keeps s (execDmaRetry c i s) := by
  unfold execDmaRetry
  dsimp only
  split
  · simp
  · rw [Keeps.ite_iff]
    exact ⟨fun _ => .next (.refl s), fun _ => .next (.trace (.setReq (.setChan (.refl s))))⟩

@[simp] theorem execDma_keeps {t} : Keeps s (execDma t s) := by
  unfold execDma
  simp

@[simp] theorem execStart_keeps {n pc} : Keeps s (execStart n pc s) := by
  unfold execStart
  simp

@[simp] theorem execStop_keeps {n} : Keeps s (execStop n s) := by
  unfold execStop
  simp

@[simp] theorem execDmaSysBindWrite_keeps {n value} : Keeps s (execDmaSysBindWrite n value s) := by
  unfold execDmaSysBindWrite
  simp

@[simp] theorem execSnapshot_keeps {p} : Keeps s (execSnapshot p s) := by
  unfold execSnapshot
  dsimp only
  split
  · simp
  · rw [Keeps.ite_iff]
    refine ⟨fun _ => .next (.refl s), fun _ => .next ?_⟩
    exact .ite (.afterSnapshot (.rekeySnapped (.startCopies (.capture (.refl s))))) (.afterSnapshot (.capture (.refl s)))

@[simp] theorem execSnapshotRequest_keeps {p} : Keeps s (execSnapshotRequest p s) := by
  unfold execSnapshotRequest
  simp

@[simp] theorem execMirrorFillCheck_keeps {p} : Keeps s (execMirrorFillCheck p s) := by
  unfold execMirrorFillCheck
  split
  next hf => exact .next (Steady.endFill hf (.refl s))
  · split
    next hf => exact .next (Steady.endFill hf (.refl s))
    next => exact .next (.refl s)

@[simp] theorem execFlashDrainComplete_keeps {p} : Keeps s (execFlashDrainComplete p s) := by
  fun_cases execFlashDrainComplete
  case case1 => exact .next (.refl s)
  case case2 hr => exact .next (.drainTo (.of_fst hr (.areaRecords (.refl s))))
  case case3 hr => exact .next (.report (.updSnap (.of_fst hr (.areaRecords (.refl s)))))
  case case4 => exact .next (.updSnap (.refl s))

@[simp] theorem execSnapConfig_keeps {fn q} : Keeps s (execSnapConfig fn q s) := by
  unfold execSnapConfig
  refine .next (.hostCmd (.refl s) fun a c x => ?_)
  dsimp only
  (repeat' split) <;> simp

@[simp] theorem execSnapHold_keeps {fn q} : Keeps s (execSnapHold fn q s) := by
  unfold execSnapHold
  refine .next (.hostCmd (.refl s) fun a c x => ?_)
  dsimp only
  (repeat' split) <;> simp

@[simp] theorem execCensus_keeps {fn q} : Keeps s (execCensus fn q s) := by
  unfold execCensus
  refine .next (.hostCmd (.refl s) fun a c x => ?_)
  simp

@[simp] theorem execFill_keeps {fn q} : Keeps s (execFill fn q s) := by
  unfold execFill
  refine .next (.hostCmd (.refl s) fun a c x => ?_)
  dsimp only
  (repeat' split) <;> simp

@[simp] theorem execFillCheck_keeps {fn q} : Keeps s (execFillCheck fn q s) := by
  obtain ⟨f, hf⟩ : ∃ f, f = State.areaRecords := ⟨_, rfl⟩
  unfold execFillCheck
  rw [← hf]
  refine .next (.hostCmd (.refl s) fun a c x => ?_)
  have hrec : ∀ {p b n}, Steady a (f a p b n).1 := hf ▸ .areaRecords (.refl a)
  dsimp only
  split
  · exact .ends (.refl a)
  · refine .ite_fst (.ends (.refl a)) ?_
    split
    next hr => exact .ends (.fillWith (.of_fst hr hrec))
    next hr => exact .ends (.updSnap (.of_fst hr hrec))

@[simp] theorem execRestore_keeps {fn q host} : Keeps s (execRestore fn q host s) := by
  unfold execRestore
  refine .next (.hostCmd (.refl s) fun a c x => ?_)
  exact .withHost (.refl a) fun bs => .ite_fst (.ends (.refl a)) (.ends (.updSnap (.restoreFrom (.refl a))))

@[simp] theorem execFlashRead_keeps {fn q host} : Keeps s (execFlashRead fn q host s) := by
  unfold execFlashRead
  refine .next (.hostCmd (.refl s) fun a c x => ?_)
  dsimp only
  refine .withHost (.refl a) fun bs => ?_
  (repeat' split) <;> simp

@[simp] theorem execHifEnable_keeps {fn} : Keeps s (execHifEnable fn s) := by
  unfold execHifEnable
  simp

@[simp] theorem execHifDisable_keeps {fn} : Keeps s (execHifDisable fn s) := by
  unfold execHifDisable
  simp

@[simp] theorem execSqTailDoorbell_keeps {fn q tail entries} : Keeps s (execSqTailDoorbell fn q tail entries s) := by
  unfold execSqTailDoorbell
  dsimp only
  (repeat' split) <;> simp

@[simp] theorem execCqHeadDoorbell_keeps {fn q head} : Keeps s (execCqHeadDoorbell fn q head s) := by
  unfold execCqHeadDoorbell
  dsimp only
  (repeat' split) <;> simp

@[simp] theorem execCqInterruptTimer_keeps {fn q} : Keeps s (execCqInterruptTimer fn q s) := by
  unfold execCqInterruptTimer
  dsimp only
  (repeat' split) <;> simp

@[simp] theorem execFenceWaitSatisfied_keeps {fn q} : Keeps s (execFenceWaitSatisfied fn q s) := by
  unfold execFenceWaitSatisfied
  dsimp only
  (repeat' split) <;> simp

@[simp] theorem execCtxCreate_keeps {fn q} : Keeps s (execCtxCreate fn q s) := by
  unfold execCtxCreate
  refine .next (.hostCmd (.refl s) fun a c x => ?_)
  dsimp only
  (repeat' split) <;> simp

@[simp] theorem execCtxDestroy_keeps {fn q} : Keeps s (execCtxDestroy fn q s) := by
  unfold execCtxDestroy
  refine .next (.settleFn (.hostCmd (.refl s) fun a c x => ?_))
  dsimp only
  refine .ite_fst (.ends (.refl a)) ?_
  split
  · exact .ends (.refl a)
  · exact .pair (.rest (.refl a))

@[simp] theorem execCtxKill_keeps {fn q} : Keeps s (execCtxKill fn q s) := by
  unfold execCtxKill
  refine .next (.settleFn (.hostCmd (.refl s) fun a c x => ?_))
  dsimp only
  refine .ite_fst (.ends (.refl a)) ?_
  split
  · exact .ends (.refl a)
  · exact .pair (.rest (.cancelRun (.refl a)))

@[simp] theorem execSqCreate_keeps {fn q} : Keeps s (execSqCreate fn q s) := by
  unfold execSqCreate
  refine .next (.hostCmd (.refl s) fun a c x => ?_)
  dsimp only
  (repeat' split) <;> simp

@[simp] theorem execSqDestroy_keeps {fn q} : Keeps s (execSqDestroy fn q s) := by
  unfold execSqDestroy
  refine .next (.settleFn (.hostCmd (.refl s) fun a c x => ?_))
  dsimp only
  split
  · exact .ends (.refl a)
  · exact .ite_fst (.ends (.refl a)) (.pair (.rest (.refl a)))

@[simp] theorem execCqCreate_keeps {fn q} : Keeps s (execCqCreate fn q s) := by
  unfold execCqCreate
  refine .next (.hostCmd (.refl s) fun a c x => ?_)
  dsimp only
  (repeat' split) <;> simp

@[simp] theorem execCqDestroy_keeps {fn q} : Keeps s (execCqDestroy fn q s) := by
  unfold execCqDestroy
  refine .next (.hostCmd (.refl s) fun a c x => ?_)
  dsimp only
  (repeat' split) <;> simp

@[simp] theorem execMemAlloc_keeps {fn q} : Keeps s (execMemAlloc fn q s) := by
  unfold execMemAlloc
  refine .next (.hostCmd (.refl s) fun a c x => ?_)
  dsimp only
  refine .ite_fst (.ends (.refl a)) ?_
  split
  · refine .pair (.updCtx (.updObjs (.foldl (.refl a) fun b k => ?_)))
    split
    · exact .zeroPage (.refl b)
    · exact .refl b
  · exact .ends (.refl a)

@[simp] theorem execMemFree_keeps {fn q} : Keeps s (execMemFree fn q s) := by
  unfold execMemFree
  refine .next (.hostCmd (.refl s) fun a c x => ?_)
  dsimp only
  split
  · exact .ends (.refl a)
  · exact .ite_fst (.ends (.updObjs (.updCtx (.refl a)))) (.ends (.updCtx (.refl a)))

@[simp] theorem execMemMap_keeps {fn q} : Keeps s (execMemMap fn q s) := by
  unfold execMemMap
  refine .next (.hostCmd (.refl s) fun a c x => ?_)
  dsimp only
  (repeat' split) <;> simp

@[simp] theorem execMemUnmap_keeps {fn q} : Keeps s (execMemUnmap fn q s) := by
  unfold execMemUnmap
  refine .next (.hostCmd (.refl s) fun a c x => ?_)
  dsimp only
  (repeat' split) <;> simp

@[simp] theorem execMemExport_keeps {fn q} : Keeps s (execMemExport fn q s) := by
  unfold execMemExport
  refine .next (.hostCmd (.refl s) fun a c x => ?_)
  dsimp only
  (repeat' split) <;> simp

@[simp] theorem execMemImport_keeps {fn q} : Keeps s (execMemImport fn q s) := by
  unfold execMemImport
  refine .next (.hostCmd (.refl s) fun a c x => ?_)
  dsimp only
  (repeat' split) <;> simp

@[simp] theorem execFenceCreate_keeps {fn q} : Keeps s (execFenceCreate fn q s) := by
  unfold execFenceCreate
  refine .next (.hostCmd (.refl s) fun a c x => ?_)
  dsimp only
  (repeat' split) <;> simp

@[simp] theorem execFenceDestroy_keeps {fn q} : Keeps s (execFenceDestroy fn q s) := by
  unfold execFenceDestroy
  refine .next (.hostCmd (.refl s) fun a c x => ?_)
  (repeat' split) <;> simp

@[simp] theorem execFenceExport_keeps {fn q} : Keeps s (execFenceExport fn q s) := by
  unfold execFenceExport
  refine .next (.hostCmd (.refl s) fun a c x => ?_)
  dsimp only
  (repeat' split) <;> simp

@[simp] theorem execFenceImport_keeps {fn q} : Keeps s (execFenceImport fn q s) := by
  unfold execFenceImport
  refine .next (.hostCmd (.refl s) fun a c x => ?_)
  dsimp only
  (repeat' split) <;> simp

@[simp] theorem execHostNop_keeps {fn q} : Keeps s (execHostNop fn q s) := by
  unfold execHostNop
  refine .next (.hostCmd (.refl s) fun a c x => ?_)
  simp

@[simp] theorem execStageCopy_keeps {fn q host} : Keeps s (execStageCopy fn q host s) := by
  unfold execStageCopy
  refine .next (.hostCmd (.refl s) fun a c x => ?_)
  dsimp only
  refine .ite_fst (.ends (.refl a)) (.ite_fst (.ends (.refl a)) (.ite_fst ?_ (.withHost (.refl a) fun bs => .ends (.vaWrite (.refl a)))))
  exact .ite_fst (.ends (.vaRead (.refl a))) (.ite_fst (.ends (.vaRead (.refl a))) (.ends (.emit (.vaRead (.refl a)))))

@[simp] theorem execHostReservedOpcode_keeps {fn q} : Keeps s (execHostReservedOpcode fn q s) := by
  unfold execHostReservedOpcode
  (repeat' split) <;> simp

@[simp] theorem execQuery_keeps {fn q host} : Keeps s (execQuery fn q host s) := by
  unfold execQuery
  refine .next (.hostCmd (.refl s) fun a c x => ?_)
  exact .ite_fst (.ends (.refl a)) (.withHost (.refl a) fun bs => .ends (.emit (.refl a)))

@[simp] theorem execFwInfo_keeps {fn q} : Keeps s (execFwInfo fn q s) := by
  unfold execFwInfo
  refine .next (.hostCmd (.refl s) fun a c x => ?_)
  simp

@[simp] theorem execFwWrite_keeps {fn q host} : Keeps s (execFwWrite fn q host s) := by
  unfold execFwWrite
  refine .next (.fwCmd (.refl s) fun a c => ?_)
  dsimp only
  (repeat' split) <;> simp

@[simp] theorem execFwVerify_keeps {fn q} : Keeps s (execFwVerify fn q s) := by
  unfold execFwVerify
  refine .next (.fwCmd (.refl s) fun a c => ?_)
  dsimp only
  (repeat' split) <;> simp

@[simp] theorem execNextReset_keeps {fn q} : Keeps s (execNextReset fn q s) := by
  unfold execNextReset
  refine .next (.fwCmd (.refl s) fun a c => ?_)
  (repeat' split) <;> simp

@[simp] theorem execNow_keeps {fn q} : Keeps s (execNow fn q s) := by
  unfold execNow
  dsimp only
  have hn : Steady s (s.fwCmd fn q 0x63 (fun c => decide (c.entry.p0 = 1)) fun a _ => if a.nowStatus = .accessDenied then (a, .accessDenied, 0, 0)
      else ({ a with fwm := a.fwm.arm (decide (a.nowStatus = .deferred)) }, a.nowStatus, 0, 0)) := .fwCmd (.refl s) fun a c => .ite_fst (.refl a) (.pair (.rest (.refl a)))
  exact .next (.ite hn.warmReset hn)

@[simp] theorem execCancel_keeps {fn q} : Keeps s (execCancel fn q s) := by
  unfold execCancel
  refine .next (.fwCmd (.refl s) fun a c => ?_)
  simp

@[simp] theorem execFwCommit_keeps {fn q stuck} : Keeps s (execFwCommit fn q stuck s) := by
  unfold execFwCommit
  refine .next (.fwCmd (.refl s) fun a c => ?_)
  dsimp only
  split
  · exact .refl a
  next b _ =>
    have hrise : Steady a { a with sec := { a.sec with fuses := raiseFloor a.sec.fuses a.fwm.hdr.svn } } := (Steady.refl a).fields rfl (raiseFloor_grows _ _) id
    exact .ite_fst (.pair (.refl a)) (.ite_fst (.pair (.report (.refl a))) (.pair (.rest (.ite (.trace hrise) (.refl a)))))

@[simp] theorem execLogRead_keeps {fn q} : Keeps s (execLogRead fn q s) := by
  unfold execLogRead
  refine .next (.hostCmd (.refl s) fun a c x => ?_)
  dsimp only
  (repeat' split) <;> simp

@[simp] theorem execTraceCfg_keeps {fn q} : Keeps s (execTraceCfg fn q s) := by
  unfold execTraceCfg
  refine .next (.hostCmd (.refl s) fun a c x => ?_)
  simp

@[simp] theorem execTraceRateSummary_keeps {point} : Keeps s (execTraceRateSummary point s) := by
  unfold execTraceRateSummary
  simp

@[simp] theorem execTimeCfg_keeps {fn q} : Keeps s (execTimeCfg fn q s) := by
  unfold execTimeCfg
  refine .next (.hostCmd (.refl s) fun a c x => ?_)
  (repeat' split) <;> simp

@[simp] theorem execTimeSet_keeps {fn q} : Keeps s (execTimeSet fn q s) := by
  unfold execTimeSet
  refine .next (.hostCmd (.refl s) fun a c x => ?_)
  dsimp only
  exact .ite_fst (.ends (.refl a)) (.ends (.setSource (.trace (.rest (.refl a)))))

@[simp] theorem execTimeRead_keeps {fn q} : Keeps s (execTimeRead fn q s) := by
  unfold execTimeRead
  refine .next (.hostCmd (.refl s) fun a c x => ?_)
  simp

@[simp] theorem execCoreWatchdogExpire_keeps {core} : Keeps s (execCoreWatchdogExpire core s) := by
  unfold execCoreWatchdogExpire
  simp

@[simp] theorem execHeartbeatLost_keeps : Keeps s (execHeartbeatLost s) := by
  unfold execHeartbeatLost
  simp

@[simp] theorem execClusterStateError_keeps : Keeps s (execClusterStateError s) := by
  unfold execClusterStateError
  simp

@[simp] theorem execBar0WriteApply_keeps : Keeps s (execBar0WriteApply s) := by
  unfold execBar0WriteApply
  split <;> simp

@[simp] theorem execCoarsenBoundary_keeps {utils} : Keeps s (execCoarsenBoundary utils s) := by
  unfold execCoarsenBoundary
  dsimp only
  rw [Keeps.ite_iff]
  exact ⟨fun _ => .next (.refl s), fun _ => .next (.noteUtil (.foldl (.rest (.refl s)) fun a p => .ite (.sample (.refl a)) (.refl a)))⟩

@[simp] theorem execMctpControl_keeps {cmd data} : Keeps s (execMctpControl cmd data s) := by
  unfold execMctpControl
  (repeat' split) <;> simp

@[simp] theorem execPldmSensorRead_keeps {type_ sensor reading} : Keeps s (execPldmSensorRead type_ sensor reading s) := by
  unfold execPldmSensorRead
  refine .next (.mantis (.refl s) ?_)
  (repeat' split) <;> simp

@[simp] theorem execSpdmRequest_keeps {secured req} : Keeps s (execSpdmRequest secured req s) := by
  unfold execSpdmRequest
  rw [Keeps.ite_iff, Keeps.ite_iff]
  refine ⟨fun _ => .next (.refl s), fun _ => ⟨fun _ => .next (.refusal (.emit (.refl s))), fun _ => ?_⟩⟩
  split
  next hs => exact .next (.emit (t := _) (Steady.spdm hs (.refl s)))
  next => exact .next (.refl s)

@[simp] theorem execFaultRead_keeps : Keeps s (execFaultRead s) := by
  unfold execFaultRead
  refine .next (.mantis (.refl s) ?_)
  simp

@[simp] theorem execPldmLogRead_keeps {seq count} : Keeps s (execPldmLogRead seq count s) := by
  unfold execPldmLogRead
  refine .next (.mantis (.refl s) ?_)
  simp

@[simp] theorem execInventory_keeps : Keeps s (execInventory s) := by
  unfold execInventory
  simp

@[simp] theorem execSetdasa_keeps : Keeps s (execSetdasa s) := by
  unfold execSetdasa
  simp

@[simp] theorem execEntdaa_keeps {addr} : Keeps s (execEntdaa addr s) := by
  unfold execEntdaa
  simp

@[simp] theorem execFwUpdateComponent_keeps {offset data} : Keeps s (execFwUpdateComponent offset data s) := by
  unfold execFwUpdateComponent
  refine .next (.mantis (.refl s) ?_)
  simp

@[simp] theorem execActivateFirmware_keeps : Keeps s (execActivateFirmware s) := by
  unfold execActivateFirmware
  dsimp only
  have hn : Steady s (s.mantis 0 fun a => if !a.updateMode then a.answerCode 1 pldmNotInUpdate [] else a.reply (verifyImage a.sec.fuses a.fwTest (a.fwm.image false)).2 []) :=
    .mantis (.refl s) (.ite (.answerCode (.refl s)) (.reply (.refl s)))
  exact .next (.ite hn.warmReset hn)

@[simp] theorem execPtpSync_keeps {k origin correction} : Keeps s (execPtpSync k origin correction s) := by
  unfold execPtpSync
  dsimp only
  rw [Keeps.ite_iff]
  exact ⟨fun _ => .next (.refl s), fun _ => .next (.servo (.setSource (.rest (.refl s))))⟩

@[simp] theorem execPtpDelayReq_keeps {k data} : Keeps s (execPtpDelayReq k data s) := by
  unfold execPtpDelayReq
  simp

@[simp] theorem execPtpDelayResp_keeps {k received} : Keeps s (execPtpDelayResp k received s) := by
  unfold execPtpDelayResp
  split <;> simp

@[simp] theorem execPtpAnnounce_keeps {k set domain} : Keeps s (execPtpAnnounce k set domain s) := by
  unfold execPtpAnnounce
  simp

@[simp] theorem execAnnounceTimeout_keeps : Keeps s (execAnnounceTimeout s) := by
  unfold execAnnounceTimeout
  simp

@[simp] theorem execHoldoverExpire_keeps : Keeps s (execHoldoverExpire s) := by
  unfold execHoldoverExpire
  simp

@[simp] theorem execPpsPulse_keeps {width} : Keeps s (execPpsPulse width s) := by
  unfold execPpsPulse
  simp

@[simp] theorem execPpsMiss_keeps : Keeps s (execPpsMiss s) := by
  unfold execPpsMiss
  simp

@[simp] theorem execSyncInterval_keeps {announce} : Keeps s (execSyncInterval announce s) := by
  unfold execSyncInterval
  refine .next (.foldl (.refl s) fun a k => ?_)
  exact .ite (.refl a) (.ite (.emit (.rest (.refl a))) (.emit (.refl a)))

@[simp] theorem execHbmRead_keeps {origin key dpa fetch} : Keeps s (execHbmRead origin key dpa fetch s) := by
  unfold execHbmRead
  simp

@[simp] theorem execHbmFullWrite_keeps {origin key dpa data fetch} : Keeps s (execHbmFullWrite origin key dpa data fetch s) := by
  unfold execHbmFullWrite
  simp

@[simp] theorem execHbmPartialWrite_keeps {origin key dpa data fetch} : Keeps s (execHbmPartialWrite origin key dpa data fetch s) := by
  unfold execHbmPartialWrite
  rw [Keeps.ite_iff]
  exact ⟨fun _ => .next (.lineWrite (.refl s)), fun _ => .fault⟩

@[simp] theorem execCarve_keeps {p g slot fw} : Keeps s (execCarve p g slot fw s) := by
  unfold execCarve
  exact .next (.mprCmd (.refl s) fun hw => Hbm.carve_wf hw)

@[simp] theorem execWipe_keeps {g} : Keeps s (execWipe g s) := by
  unfold execWipe
  exact .next (.mprCmd (.refl s) fun hw => Hbm.wipe_wf hw)

@[simp] theorem execStage_keeps {p g} : Keeps s (execStage p g s) := by
  unfold execStage
  exact .next (.mprCmd (.refl s) fun hw => Hbm.stage_wf hw)

@[simp] theorem execUnstage_keeps {g} : Keeps s (execUnstage g s) := by
  unfold execUnstage
  exact .next (.mprCmd (.refl s) fun hw => Hbm.unstage_wf hw)

@[simp] theorem execRekey_keeps {p slot} : Keeps s (execRekey p slot s) := by
  unfold execRekey
  exact .next (.mprCmd (.refl s) fun hw => Hbm.rekey_wf hw)

@[simp] theorem execMprSessionRekey_keeps {p slot} : Keeps s (execMprSessionRekey p slot s) := by
  unfold execMprSessionRekey
  exact .next (.mprCmd (.refl s) fun hw => Hbm.sessionRekey_wf hw)

@[simp] theorem execMprRevoke_keeps {p} : Keeps s (execMprRevoke p s) := by
  unfold execMprRevoke
  exact .next (.mprCmd (.refl s) fun hw => Hbm.revoke_wf hw)

@[simp] theorem execRetire_keeps {pc} : Keeps s (execRetire pc s) := by
  unfold execRetire
  simp

@[simp] theorem execMprTest_keeps {pc errors} : Keeps s (execMprTest pc errors s) := by
  unfold execMprTest
  exact .next (.mprCmd (.refl s) id)

@[simp] theorem execWeevilPassStart_keeps : Keeps s (execWeevilPassStart s) := by
  unfold execWeevilPassStart
  split
  next hp => exact .next (.setHbm (.refl s) fun hw => Hbm.startPass_wf hw hp)
  next => exact .next (.refl s)

@[simp] theorem execFillPassEnd_keeps {g} : Keeps s (execFillPassEnd g s) := by
  unfold execFillPassEnd
  dsimp only
  split
  · exact .next (.refl s)
  next k hp =>
    have hs : Steady s { s with hbm := { k with lastStatus := .done }, pageLabels := Store.clear s.pageLabels (512 * g.val) 512 } :=
      .setHbm (.refl s) fun hw => Hbm.fields_wf (Hbm.fillEnd_wf hw hp)
    exact .next hs.tryArm

@[simp] theorem execWipePassEnd_keeps {g} : Keeps s (execWipePassEnd g s) := by
  unfold execWipePassEnd
  dsimp only
  split
  · exact .next (.refl s)
  next k hp =>
    have hs : Steady s { s with hbm := { k with lastStatus := .done }, pageLabels := Store.clear s.pageLabels (512 * g.val) 512 } :=
      .setHbm (.refl s) fun hw => Hbm.fields_wf (Hbm.wipeEnd_wf hw hp)
    exact .next (.ite hs.finishRemoval hs)

@[simp] theorem execRekeyPassEnd_keeps {p} : Keeps s (execRekeyPassEnd p s) := by
  unfold execRekeyPassEnd
  dsimp only
  split
  · exact .next (.refl s)
  next k old session hp =>
    have hs : Steady s { s with hbm := { k with lastStatus := .done } } := .setHbm (.refl s) fun hw => Hbm.fields_wf (Hbm.rekeyEnd_wf hw hp)
    exact .next (.ite hs.dropSlot.updPart.rekeyed hs.dropSlot.updPart)

@[simp] theorem execMigratePassEnd_keeps {pc unreadable} : Keeps s (execMigratePassEnd pc unreadable s) := by
  unfold execMigratePassEnd
  split
  · exact .next (.refl s)
  next k hp =>
    have hs : Steady s { s with hbm := { k with lastStatus := .done } } := .setHbm (.refl s) fun hw => Hbm.fields_wf (Hbm.migrateEnd_wf hw hp)
    exact .next hs.report

@[simp] theorem execRetirementResume_keeps : Keeps s (execRetirementResume s) := by
  unfold execRetirementResume
  split
  next hp => exact .next (.setHbm (.refl s) fun hw => Hbm.resume_wf hw hp)
  next => exact .next (.refl s)

@[simp] theorem execScrubLine_keeps {dpa found} : Keeps s (execScrubLine dpa found s) := by
  have hset : ∀ {m : Hbm}, (Memory.wf s.hbm = true → Memory.wf m = true) → Steady s { s with hbm := m } := fun hm => .setHbm (.refl s) hm
  have hfresh : ∀ {b : Bool} {ce ue}, Memory.wf s.hbm = true → Memory.wf (if b = true then { s.hbm with pcCe := ce, pcUe := ue } else s.hbm) = true := fun {b _ _} hw => by
    cases b <;> exact hw
  fun_cases execScrubLine
  case case1 => exact .next (.refl s)
  case case2 => exact .next (.refl s)
  case case3 => exact .next (hset hfresh)
  case case4 => exact .next (.scrubLimit (.report (hset fun hw => Hbm.fields_wf (hfresh hw))))
  case case5 h1 _ _ h2 h3 s1 s2 =>
    have hs : Steady s s1 := .trace (hset fun hw => Hbm.fields_wf (Hbm.putLine_wf (hfresh hw) _ _))
    exact .next (.scrubLimit (.ite hs.jobFault hs.report))
  case case6 => exact .next (hset hfresh)
  case case7 h2 =>
    have hs : Steady s { s with hbm := h2 } := hset hfresh
    exact .next hs.treeFault

@[simp] theorem execPcUnresponsive_keeps {pc} : Keeps s (execPcUnresponsive pc s) := by
  unfold execPcUnresponsive
  simp

@[simp] theorem execStackRecalRun_keeps {stack} : Keeps s (execStackRecalRun stack s) := by
  unfold execStackRecalRun
  simp

@[simp] theorem execGenerate_keeps {slot kind owner epoch} : Keeps s (execGenerate slot kind owner epoch s) := by
  unfold execGenerate
  refine .next (.slotCmd (.refl s) ?_)
  simp

@[simp] theorem execDerive_keeps {src dst kind owner epoch context} : Keeps s (execDerive src dst kind owner epoch context s) := by
  unfold execDerive
  exact .next (.slotCmd (.refl s) (.pair (.filled (.refl s) (Sec.derive_fuses _ _ _ _ _ _ _))))

@[simp] theorem execKemKeygen_keeps {slot} : Keeps s (execKemKeygen slot s) := by
  unfold execKemKeygen
  refine .next (.slotCmd (.refl s) ?_)
  simp

@[simp] theorem execImportKey_keeps {kem dst kind owner epoch wrapped} : Keeps s (execImportKey kem dst kind owner epoch wrapped s) := by
  unfold execImportKey
  refine .next (.slotCmd (.refl s) ?_)
  simp

@[simp] theorem execExportSlot_keeps {slot peer ownEvidence} : Keeps s (execExportSlot slot peer ownEvidence s) := by
  unfold execExportSlot
  refine .next (.slotCmd (.refl s) ?_)
  simp

@[simp] theorem execSlotRevoke_keeps {slot} : Keeps s (execSlotRevoke slot s) := by
  unfold execSlotRevoke
  refine .next (.slotCmd (.refl s) ?_)
  simp

@[simp] theorem execZeroize_keeps {slot} : Keeps s (execZeroize slot s) := by
  unfold execZeroize
  refine .next (.slotCmd (.refl s) ?_)
  dsimp only
  (repeat' split) <;> simp

@[simp] theorem execSlotSweep_keeps {slot} : Keeps s (execSlotSweep slot s) := by
  unfold execSlotSweep
  rw [Keeps.ite_iff]
  have hs : Steady s ({ s with sec := s.sec.failSlot slot }.reportSlot slot) := .reportSlot (.setSec (.refl s) (Sec.failSlot_fuses _ _))
  exact ⟨fun _ => .next (.ite hs.stopAll hs), fun _ => .next (.refl s)⟩

@[simp] theorem execGenRoot_keeps : Keeps s (execGenRoot s) := by
  unfold execGenRoot
  have hroot : Steady s { s with sec := { s.sec.draw.2 with fuses := { s.sec.draw.2.fuses with udr := s.sec.draw.1 } } } := (Steady.refl s).fields rfl (fun i hi hb => hb) id
  simp [hroot]

@[simp] theorem execEntropyHealthFail_keeps : Keeps s (execEntropyHealthFail s) := by
  unfold execEntropyHealthFail
  simp

@[simp] theorem execEntropyHealthRecover_keeps : Keeps s (execEntropyHealthRecover s) := by
  unfold execEntropyHealthRecover
  simp

@[simp] theorem execLcTransition_keeps {target token tck secured} : Keeps s (execLcTransition target token tck secured s) := by
  unfold execLcTransition
  simp

@[simp] theorem execDebugNonce_keeps {tck} : Keeps s (execDebugNonce tck s) := by
  unfold execDebugNonce
  have hn : ∀ v : BitVec 256, Steady s { s with sec := { s.sec.draw.2 with nonce := some v } } := fun v => .setSec (.refl s) rfl
  simp [hn]

@[simp] theorem execDebugCert_keeps {tck cert} : Keeps s (execDebugCert tck cert s) := by
  unfold execDebugCert
  have hn : ∀ r st, Steady s { s with sec := { s.sec with nonce := none, dbgReason := r, dbgStatus := st } } := fun r st => .setSec (.refl s) rfl
  simp [hn]

@[simp] theorem execDebugClose_keeps {tck} : Keeps s (execDebugClose tck s) := by
  unfold execDebugClose
  simp

@[simp] theorem execDebugNonceExpire_keeps : Keeps s (execDebugNonceExpire s) := by
  unfold execDebugNonceExpire
  simp

@[simp] theorem execSubtreeBuildComplete_keeps {layer} : Keeps s (execSubtreeBuildComplete layer s) := by
  unfold execSubtreeBuildComplete
  simp

@[simp] theorem execSecMboxDb_keeps {value request} : Keeps s (execSecMboxDb value request s) := by
  unfold execSecMboxDb
  simp

@[simp] theorem execTrain_keeps {k} : Keeps s (execTrain k s) := by
  unfold execTrain
  refine .next (.portCmd (.refl s) fun a => ?_)
  dsimp only
  (repeat' split) <;> simp

@[simp] theorem execDisable_keeps {k} : Keeps s (execDisable k s) := by
  unfold execDisable
  refine .next (.portCmd (.refl s) fun a => ?_)
  simp

@[simp] theorem execRetrain_keeps {k} : Keeps s (execRetrain k s) := by
  unfold execRetrain
  refine .next (.portCmd (.refl s) fun a => ?_)
  (repeat' split) <;> simp

@[simp] theorem execAcceptRemap_keeps {k} : Keeps s (execAcceptRemap k s) := by
  unfold execAcceptRemap
  refine .next (.portCmd (.refl s) fun a => ?_)
  dsimp only
  refine .ite_fst (.pair (.refl a)) (.ite_fst (.pair (.rest (.movePort (.rest (.refl a))))) (.pair (.foldl (.movePort (.rest (.refl a))) fun b p => .moveLinks (.refl b))))

@[simp] theorem execSwap_keeps {k wave receive} : Keeps s (execSwap k wave receive s) := by
  unfold execSwap
  refine .next (.portCmd (.refl s) fun a => ?_)
  simp

@[simp] theorem execWavelengthWindow_keeps {k wave symbols codewords lost} : Keeps s (execWavelengthWindow k wave symbols codewords lost s) := by
  unfold execWavelengthWindow
  simp

@[simp] theorem execSwapReq_keeps {k wave} : Keeps s (execSwapReq k wave s) := by
  unfold execSwapReq
  simp

@[simp] theorem execSpareWavelengthLock_keeps {k} : Keeps s (execSpareWavelengthLock k s) := by
  unfold execSpareWavelengthLock
  dsimp only
  (repeat' split) <;> simp

@[simp] theorem execSwapReady_keeps {k wave lseq} : Keeps s (execSwapReady k wave lseq s) := by
  unfold execSwapReady
  simp

@[simp] theorem execSpareTakeover_keeps {k receive} : Keeps s (execSpareTakeover k receive s) := by
  unfold execSpareTakeover
  dsimp only
  split
  · simp
  · rw [Keeps.ite_iff]
    refine ⟨fun _ => .next (.refl s), fun _ => .next (.ite (.retrainPort ?_) ?_)⟩
    all_goals exact .report (.trace (.setPort (.refl s)))

@[simp] theorem execPhyLock_keeps {k} : Keeps s (execPhyLock k s) := by
  unfold execPhyLock
  have hdraw : Steady s { s with sec := s.sec.draw.2 } := .setSec (.refl s) rfl
  dsimp only
  rw [Keeps.ite_iff]
  exact ⟨fun _ => .next (.refl s), fun _ => .next (.emit hdraw.movePort)⟩

@[simp] theorem execHello_keeps {k msg} : Keeps s (execHello k msg s) := by
  unfold execHello
  dsimp only
  (repeat' split) <;> simp

@[simp] theorem execProof_keeps {k tag} : Keeps s (execProof k tag s) := by
  unfold execProof
  dsimp only
  (repeat' split) <;> simp

@[simp] theorem execTrainTimeout_keeps {k} : Keeps s (execTrainTimeout k s) := by
  unfold execTrainTimeout
  simp

@[simp] theorem execLossOfLock_keeps {k} : Keeps s (execLossOfLock k s) := by
  unfold execLossOfLock
  simp

@[simp] theorem execRetrainWindowExpire_keeps {k} : Keeps s (execRetrainWindowExpire k s) := by
  unfold execRetrainWindowExpire
  simp

@[simp] theorem execFrameTransmit_keeps {k vc} : Keeps s (execFrameTransmit k vc s) := by
  unfold execFrameTransmit
  dsimp only
  rw [Keeps.ite_iff]
  refine ⟨fun _ => .next (.refl s), fun _ => ?_⟩
  split
  next hs => exact .next (Steady.sendOne hs (.refl s))
  next => simp

@[simp] theorem execDataFrameReceive_keeps {k frame fec} : Keeps s (execDataFrameReceive k frame fec s) := by
  unfold execDataFrameReceive
  dsimp only
  rw [Keeps.ite_iff]
  refine ⟨fun _ => .next (.refl s), fun _ => ?_⟩
  split
  next hl => exact .next (.of_fst hl (.linkLayer (.updPort (.refl s))))
  next hl =>
    have hs := Steady.of_fst hl (.linkLayer (.updPort (.refl s)))
    rw [Keeps.ite_iff]
    exact ⟨fun _ => .next hs.judgeData, fun _ => .next (.owe hs.updPort)⟩

@[simp] theorem execIdleFrame_keeps {k frame} : Keeps s (execIdleFrame k frame s) := by
  unfold execIdleFrame
  simp

@[simp] theorem execCtrlFrame_keeps {k frame} : Keeps s (execCtrlFrame k frame s) := by
  unfold execCtrlFrame
  dsimp only
  rw [Keeps.ite_iff]
  refine ⟨fun _ => .next (.refl s), fun _ => ?_⟩
  split
  next hl => exact .next (.of_fst hl (.linkLayer (.refl s)))
  next hl =>
    have hs := Steady.of_fst hl (.linkLayer (.refl s))
    exact .next (.ite (.owe hs.updPort) (.updPort (.owe hs.updPort)))

@[simp] theorem execKeyReady_keeps {k pkid kg} : Keeps s (execKeyReady k pkid kg s) := by
  unfold execKeyReady
  dsimp only
  (repeat' split) <;> simp

@[simp] theorem execTopoLoad_keeps {fn q host} : Keeps s (execTopoLoad fn q host s) := by
  unfold execTopoLoad
  refine .next (.hostCmd (.refl s) fun a c x => ?_)
  exact .withHost (.refl a) fun bs => .ite_fst (.ends (.refl a)) (.ends (.foldl (.rest (.refl a)) fun b k => .compareMap (.refl b)))

@[simp] theorem execPortBind_keeps {fn q} : Keeps s (execPortBind fn q s) := by
  unfold execPortBind
  refine .next (.hostCmd (.refl s) fun a c x => ?_)
  dsimp only
  refine .ite_fst (.ends (.refl a)) (.ite_fst (.ends (.notePort (.refl a))) (.ite_fst (.ends (.notePort (.refl a))) ?_))
  exact .ite_fst (.ends (.notePort (.bindSlot (.refl a)))) (.pair (.arbitrateNow (.updPort (.bindSlot (.refl a)))))

@[simp] theorem execConfirm_keeps {k frame} : Keeps s (execConfirm k frame s) := by
  unfold execConfirm
  dsimp only
  rw [Keeps.ite_iff]
  refine ⟨fun _ => .next (.refl s), fun _ => ?_⟩
  split
  next hl => exact .next (.of_fst hl (.linkLayer (.refl s)))
  next hl =>
    have hs := Steady.of_fst hl (.linkLayer (.refl s))
    split
    · exact .next (.updPort hs.owe)
    · rw [Keeps.ite_iff]
      refine ⟨fun _ => .next (.updPort hs.owe), fun _ => .next ?_⟩
      split
      · exact .complete (.notePort (.ite (.updPort hs.owe) (.unbind (.updPort hs.owe))))
      · exact .notePort (.ite (.updPort hs.owe) (.unbind (.updPort hs.owe)))

@[simp] theorem execPortUnbind_keeps {fn q} : Keeps s (execPortUnbind fn q s) := by
  unfold execPortUnbind
  refine .next (.hostCmd (.refl s) fun a c x => ?_)
  dsimp only
  refine .ite_fst (.ends (.refl a)) ?_
  split
  · exact .ends (.notePort (.refl a))
  · refine .ite_fst (.ends (.notePort (.refl a))) (.ends ?_)
    split
    · exact .complete (.notePort (.unbind (.refl a)))
    · exact .notePort (.unbind (.refl a))

@[simp] theorem execTileUncorrectableError_keeps {t} : Keeps s (execTileUncorrectableError t s) := by
  unfold execTileUncorrectableError
  simp

@[simp] theorem execTileReplacement_keeps {t} : Keeps s (execTileReplacement t s) := by
  unfold execTileReplacement
  dsimp only
  rw [Keeps.ite_iff]
  refine ⟨fun _ => .next (.refl s), fun _ => ?_⟩
  split
  next hr => exact .next (Steady.replaceTile hr (.refl s))
  next => exact .next (.noSpare (.refl s))

@[simp] theorem execTileTest_keeps {fn q pass} : Keeps s (execTileTest fn q pass s) := by
  unfold execTileTest
  refine .next (.maintCmd (.refl s) fun a n => ?_)
  (repeat' split) <;> simp

@[simp] theorem execTileReplace_keeps {fn q} : Keeps s (execTileReplace fn q s) := by
  unfold execTileReplace
  refine .next (.maintCmd (.refl s) fun a n => ?_)
  (repeat' split) <;> simp

@[simp] theorem execPcTest_keeps {fn q errors} : Keeps s (execPcTest fn q errors s) := by
  unfold execPcTest
  refine .next (.maintCmd (.refl s) fun a n => ?_)
  simp

@[simp] theorem execPcRetire_keeps {fn q} : Keeps s (execPcRetire fn q s) := by
  unfold execPcRetire
  refine .next (.maintCmd (.refl s) fun a n => ?_)
  (repeat' split) <;> simp

@[simp] theorem execStackRecal_keeps {fn q} : Keeps s (execStackRecal fn q s) := by
  unfold execStackRecal
  refine .next (.maintCmd (.refl s) fun a n => ?_)
  (repeat' split) <;> simp

@[simp] theorem execLaneCal_keeps {fn q} : Keeps s (execLaneCal fn q s) := by
  unfold execLaneCal
  refine .next (.maintCmd (.refl s) fun a n => ?_)
  (repeat' split) <;> simp

@[simp] theorem execSensorCal_keeps {fn q} : Keeps s (execSensorCal fn q s) := by
  unfold execSensorCal
  refine .next (.maintCmd (.refl s) fun a n => ?_)
  simp

@[simp] theorem execPartCreate_keeps {fn q host} : Keeps s (execPartCreate fn q host s) := by
  unfold execPartCreate
  refine .next (.hostCmd (.refl s) fun a c x => .withHost (.refl a) fun bs => ?_)
  have hopen := (Steady.refl a).openPart (bs := bs)
  dsimp only
  generalize a.openPart bs = a1 at hopen
  generalize (PartRecord.ofBytes bs).part = p
  refine .ite_fst (.ends (.refl a)) ?_
  have hsession : Steady a (if (a1.part p).origin = true then a1.openSession p else (a1, Status.done)).1 := .ite_fst hopen.openSession hopen
  generalize (if (a1.part p).origin = true then a1.openSession p else (a1, Status.done)) = r2 at hsession
  have hmem : Steady a (if ((r2.1.openKem p).1.part p).origin = true then (r2.1.openKem p).1.openMemory p else ((r2.1.openKem p).1, Status.done)).1 :=
    .ite_fst hsession.openKem.openMemory hsession.openKem
  exact .ite_fst (.pair hsession.failOpen) (.ite_fst (.pair hsession.openKem.failOpen) (.ite_fst (.pair hmem.failOpen) (.ends hmem.noteSession)))

@[simp] theorem execPartRemove_keeps {fn q} : Keeps s (execPartRemove fn q s) := by
  unfold execPartRemove
  refine .next (.hostCmd (.refl s) fun a c x => ?_)
  dsimp only
  (repeat' split) <;> simp

@[simp] theorem execRemovalDrainEnd_keeps {p} : Keeps s (execRemovalDrainEnd p s) := by
  unfold execRemovalDrainEnd
  split <;> simp

@[simp] theorem execEvidence_keeps {fn q host} : Keeps s (execEvidence fn q host s) := by
  unfold execEvidence
  dsimp only
  rw [Keeps.ite_iff]
  refine ⟨fun _ => .next (.refl s), fun _ => .next (.hostCmd (.refl s) fun a c x => .withHost (.refl a) fun bs => .ite_fst (.pair (.refl a)) ?_)⟩
  have hsign : ∀ {d o}, a.sign d = o → Steady a (o.after a) := fun ho => Steady.of_sign ho (.refl a)
  split
  next => exact .ends (.refl a)
  next ho => exact .ends (hsign ho)
  next ho => exact .pair (.emit (.updPart (hsign ho)))

@[simp] theorem execSessionJoin_keeps {fn q peer wrapped origin sessionId} : Keeps s (execSessionJoin fn q peer wrapped origin sessionId s) := by
  unfold execSessionJoin
  refine .next (.hostCmd (.refl s) fun a c x => ?_)
  dsimp only
  refine .ite_fst (.ends (.refl a)) (.ite_fst (.ite_fst (.pair (.failOpen (.importFor (.refl a)))) ?_) (.ite_fst (.ends (.refl a)) (.ite_fst (.ends (.refl a)) (.ite_fst (.ends (.importFor (.refl a))) (.ends (.memberRekey (.importFor (.refl a))))))))
  exact .ite_fst (.pair (.failOpen (.openMemory (.updPart (.importFor (.refl a)))))) (.ends (.openMemory (.updPart (.importFor (.refl a)))))

@[simp] theorem execOwnerImport_keeps {fn q host} : Keeps s (execOwnerImport fn q host s) := by
  unfold execOwnerImport
  refine .next (.hostCmd (.refl s) fun a c x => ?_)
  exact .withHost (.refl a) fun bs => .ends (.noteSession (.ownerImport (.refl a)))

@[simp] theorem execSessionRekey_keeps {fn q} : Keeps s (execSessionRekey fn q s) := by
  unfold execSessionRekey
  refine .next (.hostCmd (.refl s) fun a c x => ?_)
  dsimp only
  (repeat' split) <;> simp

@[simp] theorem execImageLoad_keeps {fn q host body} : Keeps s (execImageLoad fn q host body s) := by
  unfold execImageLoad
  refine .next (.hostCmd (.refl s) fun a c x => ?_)
  exact .withHost (.refl a) fun bs => .ends (.noteSession (.imageLoad (.refl a)))

@[simp] theorem execRun_keeps {fn q} : Keeps s (execRun fn q s) := by
  unfold execRun
  refine .next (.hostCmd (.refl s) fun a c x => ?_)
  dsimp only
  (repeat' split) <;> simp

@[simp] theorem execIngest_keeps {fn q} : Keeps s (execIngest fn q s) := by
  unfold execIngest
  refine .next (.hostCmd (.refl s) fun a c x => ?_)
  dsimp only
  (repeat' split) <;> simp

@[simp] theorem execRelease_keeps {fn q} : Keeps s (execRelease fn q s) := by
  unfold execRelease
  refine .next (.hostCmd (.refl s) fun a c x => ?_)
  simp

@[simp] theorem execAonRailGood_keeps : Keeps s (execAonRailGood s) := by
  have hgood : Steady s { s with
      boot := ⟨some 0, false, none⟩
      pwr := { ((s.pwr.startClk 1).startClk 15).setRail 0 ⟨.good, 800, 0, 0, 0⟩ with aon := true, state := .standby, level := s.pwr.askedLevel, reversed := false } } := .setPwr (.refl s) rfl
  unfold execAonRailGood
  rw [Keeps.ite_iff]
  exact ⟨fun _ => .next (.refl s), fun _ => .next (.ite (.setPwr hgood.report rfl) hgood)⟩

@[simp] theorem execPwrReqRise_keeps : Keeps s (execPwrReqRise s) := by
  unfold execPwrReqRise
  simp

@[simp] theorem execPwrReqFall_keeps : Keeps s (execPwrReqFall s) := by
  unfold execPwrReqFall
  simp

@[simp] theorem execPowerOn_keeps : Keeps s (execPowerOn s) := by
  unfold execPowerOn
  simp

@[simp] theorem execPowerOff_keeps : Keeps s (execPowerOff s) := by
  unfold execPowerOff
  simp

@[simp] theorem execRailGood_keeps {rail mv da} : Keeps s (execRailGood rail mv da s) := by
  unfold execRailGood
  simp

@[simp] theorem execPhaseComplete_keeps {work} : Keeps s (execPhaseComplete work s) := by
  unfold execPhaseComplete
  (repeat' split) <;> simp

@[simp] theorem execControlClusterRelease_keeps : Keeps s (execControlClusterRelease s) := by
  unfold execControlClusterRelease
  simp

@[simp] theorem execPhase3Start_keeps : Keeps s (execPhase3Start s) := by
  unfold execPhase3Start
  refine .next (.ite ?_ (.refl s))
  exact (Steady.refl s).fields (Power.startClks_cap _ _) (.refl _) fun _ => Memory.wf_reset

@[simp] theorem execPhase4Start_keeps : Keeps s (execPhase4Start s) := by
  unfold execPhase4Start
  simp

@[simp] theorem execClockWakeComplete_keeps {clk} : Keeps s (execClockWakeComplete clk s) := by
  unfold execClockWakeComplete
  dsimp only
  rw [Keeps.ite_iff]
  refine ⟨fun _ => .next (.setPwr (.refl s) ?_), fun _ => .next (.refl s)⟩
  split
  · rfl
  · split
    · exact Power.startClks_cap _ _
    · rfl

@[simp] theorem execCoreGateTimer_keeps {fld} : Keeps s (execCoreGateTimer fld s) := by
  unfold execCoreGateTimer
  simp

@[simp] theorem execCorePllOffTimer_keeps {fld} : Keeps s (execCorePllOffTimer fld s) := by
  unfold execCorePllOffTimer
  simp

@[simp] theorem execHbmSelfRefreshTimer_keeps {stack} : Keeps s (execHbmSelfRefreshTimer stack s) := by
  unfold execHbmSelfRefreshTimer
  dsimp only
  rw [Keeps.ite_iff]
  refine ⟨fun _ => .next (.setPwr (.refl s) ?_), fun _ => .next (.refl s)⟩
  split <;> rfl

@[simp] theorem execMgmtIdleTimer_keeps : Keeps s (execMgmtIdleTimer s) := by
  unfold execMgmtIdleTimer
  exact .next (.ite (.setPwr (.refl s) rfl) (.refl s))

@[simp] theorem execCkptflashIdleTimer_keeps : Keeps s (execCkptflashIdleTimer s) := by
  unfold execCkptflashIdleTimer
  exact .next (.setPwr (.refl s) (Power.stopClk_cap _ _))

@[simp] theorem execPllLockLoss_keeps {clk} : Keeps s (execPllLockLoss clk s) := by
  unfold execPllLockLoss
  simp

@[simp] theorem execAonCrystalFail_keeps : Keeps s (execAonCrystalFail s) := by
  unfold execAonCrystalFail
  simp

@[simp] theorem execInputOvervoltage_keeps : Keeps s (execInputOvervoltage s) := by
  unfold execInputOvervoltage
  simp

@[simp] theorem execInputOvercurrent_keeps : Keeps s (execInputOvercurrent s) := by
  unfold execInputOvercurrent
  simp

@[simp] theorem execInputUndervoltage_keeps : Keeps s (execInputUndervoltage s) := by
  unfold execInputUndervoltage
  simp

@[simp] theorem execEmergencyTrigger_keeps {cause reading} : Keeps s (execEmergencyTrigger cause reading s) := by
  unfold execEmergencyTrigger
  (repeat' split) <;> simp

@[simp] theorem execEmergencyLevelFall_keeps {readings} : Keeps s (execEmergencyLevelFall readings s) := by
  unfold execEmergencyLevelFall
  simp

@[simp] theorem execHardwareThermalTrip_keeps : Keeps s (execHardwareThermalTrip s) := by
  unfold execHardwareThermalTrip
  simp

@[simp] theorem execLeakNAssert_keeps : Keeps s (execLeakNAssert s) := by
  unfold execLeakNAssert
  simp

@[simp] theorem execPwrBrakeNAssert_keeps : Keeps s (execPwrBrakeNAssert s) := by
  unfold execPwrBrakeNAssert
  simp

@[simp] theorem execLeakNDeassert_keeps : Keeps s (execLeakNDeassert s) := by
  unfold execLeakNDeassert
  simp

@[simp] theorem execPwrBrakeNDeassert_keeps : Keeps s (execPwrBrakeNDeassert s) := by
  unfold execPwrBrakeNDeassert
  simp

@[simp] theorem execCapControlSample_keeps {projected} : Keeps s (execCapControlSample projected s) := by
  unfold execCapControlSample
  simp

@[simp] theorem execPcieL1Entry_keeps : Keeps s (execPcieL1Entry s) := by
  unfold execPcieL1Entry
  exact .next (.setPwr (.refl s) rfl)

@[simp] theorem execThermalTripRearm_keeps : Keeps s (execThermalTripRearm s) := by
  unfold execThermalTripRearm
  simp

@[simp] theorem execPwrEmergRead_keeps : Keeps s (execPwrEmergRead s) := by
  unfold execPwrEmergRead
  simp

@[simp] theorem execQsend_keeps {t} : Keeps s (execQsend t s) := by
  unfold execQsend
  simp

@[simp] theorem execQrecv_keeps {t} : Keeps s (execQrecv t s) := by
  unfold execQrecv
  simp

@[simp] theorem execLockRequest_keeps {i} : Keeps s (execLockRequest i s) := by
  unfold execLockRequest
  split <;> simp

@[simp] theorem execLockGrant_keeps {i} : Keeps s (execLockGrant i s) := by
  unfold execLockGrant
  split <;> simp

@[simp] theorem execPacketLanding_keeps {entry landing} : Keeps s (execPacketLanding entry landing s) := by
  fun_cases execPacketLanding
  case case1 => exact .next (.refl s)
  case case2 _ _ onTile s1 s2 _ =>
    have htile : ∀ {a g}, Steady s a → Steady s (onTile a g) := fun ha => .ite ha.updTile ha
    clear_value onTile
    have h1 : Steady s s1 := .rest (.refl s)
    have h2 : Steady s s2 := htile h1
    exact .next (.entryError (htile h2))
  case case3 _ _ onTile s1 s2 _ s3 _ =>
    have htile : ∀ {a g}, Steady s a → Steady s (onTile a g) := fun ha => .ite ha.updTile ha
    clear_value onTile
    have h1 : Steady s s1 := .rest (.refl s)
    have h2 : Steady s s2 := htile h1
    have h3 : Steady s s3 := .ite (.report (htile h2)) h2
    exact .next (.rest (htile h3))
  case case4 _ _ onTile s1 s2 _ s3 _ _ _ _ s4 _ =>
    have htile : ∀ {a g}, Steady s a → Steady s (onTile a g) := fun ha => .ite ha.updTile ha
    clear_value onTile
    have h1 : Steady s s1 := .rest (.refl s)
    have h2 : Steady s s2 := htile h1
    have h3 : Steady s s3 := .ite (.report (htile h2)) h2
    have h4 : Steady s s4 := .ite (htile h3) h3
    exact .next (.afterLanding h4.rest)

@[simp] theorem execCreditReturn_keeps {t} : Keeps s (execCreditReturn t s) := by
  fun_cases execCreditReturn
  case case1 => exact .next (.refl s)
  case case2 => exact .next (.rest (.refl s))
  case case3 => exact .next (.inject (.updTile (.rest (.refl s))))
  case case4 => exact .next (.rest (.refl s))
  case case5 => exact .next (.rest (.refl s))
  case case6 => exact .next (.landAll (.updPort (.rest (.refl s))))

@[simp] theorem execQsendComplete_keeps {t} : Keeps s (execQsendComplete t s) := by
  unfold execQsendComplete
  dsimp only
  (repeat' split) <;> simp

@[simp] theorem execQrecvComplete_keeps {t} : Keeps s (execQrecvComplete t s) := by
  unfold execQrecvComplete
  dsimp only
  (repeat' split) <;> simp

@[simp] theorem execFlushNotice_keeps {i} : Keeps s (execFlushNotice i s) := by
  unfold execFlushNotice
  (repeat' split) <;> simp

@[simp] theorem execLevelQueueFlush_keeps {entry} : Keeps s (execLevelQueueFlush entry s) := by
  unfold execLevelQueueFlush
  simp

@[simp] theorem execFlushEntry_keeps {entry} : Keeps s (execFlushEntry entry s) := by
  unfold execFlushEntry
  simp

@[simp] theorem execFlushStream_keeps {entry} : Keeps s (execFlushStream entry s) := by
  unfold execFlushStream
  simp

@[simp] theorem execFlushPartition_keeps {p} : Keeps s (execFlushPartition p s) := by
  unfold execFlushPartition
  simp

@[simp] theorem execStreamEntryError_keeps {entry} : Keeps s (execStreamEntryError entry s) := by
  unfold execStreamEntryError
  simp

@[simp] theorem execQueStData0Read_keeps : Keeps s (execQueStData0Read s) := by
  unfold execQueStData0Read
  simp

@[simp] theorem execQueEpErrRead_keeps {t} : Keeps s (execQueEpErrRead t s) := by
  unfold execQueEpErrRead
  simp

@[simp] theorem execQueStErrRead_keeps : Keeps s (execQueStErrRead s) := by
  unfold execQueStErrRead
  simp

@[simp] theorem execMprEccRead_keeps : Keeps s (execMprEccRead s) := by
  unfold execMprEccRead
  exact .next (.ctrlRead (.refl s) (.setHbm (.refl s) id))

@[simp] theorem execMprErrRead_keeps : Keeps s (execMprErrRead s) := by
  unfold execMprErrRead
  exact .next (.ctrlRead (.refl s) (.setHbm (.refl s) id))

@[simp] theorem execMprPerrRead_keeps {p} : Keeps s (execMprPerrRead p s) := by
  unfold execMprPerrRead
  exact .next (.ctrlRead (.refl s) (.setHbm (.refl s) fun hw => Hbm.updPart_wf hw))

@[simp] theorem execLnkErrRead_keeps {k} : Keeps s (execLnkErrRead k s) := by
  unfold execLnkErrRead
  simp

@[simp] theorem execLnkErr2Read_keeps {k} : Keeps s (execLnkErr2Read k s) := by
  unfold execLnkErr2Read
  simp

@[simp] theorem execColIntegRead_keeps {p} : Keeps s (execColIntegRead p s) := by
  unfold execColIntegRead
  simp

@[simp] theorem execResFaultStatusRead_keeps : Keeps s (execResFaultStatusRead s) := by
  unfold execResFaultStatusRead
  simp

@[simp] theorem execResFaultData0Read_keeps : Keeps s (execResFaultData0Read s) := by
  unfold execResFaultData0Read
  simp

@[simp] theorem execResSnapStatusRead_keeps {p} : Keeps s (execResSnapStatusRead p s) := by
  unfold execResSnapStatusRead
  simp

@[simp] theorem execFwmStatusRead_keeps : Keeps s (execFwmStatusRead s) := by
  unfold execFwmStatusRead
  simp

@[simp] theorem execFwmTimeStatusRead_keeps : Keeps s (execFwmTimeStatusRead s) := by
  unfold execFwmTimeStatusRead
  simp

@[simp] theorem execRegisterWrite_keeps {reg value} : Keeps s (execRegisterWrite reg value s) := by
  cases reg with
  | bar0 fn off => exact .next (.ite (.rest (.refl s)) (.refl s))
  | _ => exact .next (.ite (.regWrite (.refl s)) (.refl s))

@[simp] theorem execBar4Access_keeps {fn offset data len} : Keeps s (execBar4Access fn offset data len s) := by
  unfold execBar4Access
  dsimp only
  rw [Keeps.ite_iff]
  refine ⟨fun _ => .next (.emit (.refl s)), fun _ => ?_⟩
  cases data with
  | none => exact .next (.emit (.bar4Lines (.refl s)))
  | some b => exact .next (.bar4Put (.bar4Lines (.refl s)))

@[simp] theorem execWarmReset_keeps : Keeps s (execWarmReset s) := by
  unfold execWarmReset
  simp

@[simp] theorem execConventionalReset_keeps : Keeps s (execConventionalReset s) := by
  unfold execConventionalReset
  simp

@[simp] theorem execPfFlr_keeps : Keeps s (execPfFlr s) := by
  unfold execPfFlr
  dsimp only
  rw [Keeps.ite_iff]
  exact ⟨fun _ => .next (.refl s), fun _ => .next (.rest (.foldl (.refl s) fun a f => .resetFn (.killFn (.refl a))))⟩

@[simp] theorem execVfFlr_keeps {vf} : Keeps s (execVfFlr vf s) := by
  unfold execVfFlr
  simp

@[simp] theorem execTdiError_keeps {vf} : Keeps s (execTdiError vf s) := by
  unfold execTdiError
  dsimp only
  rw [Keeps.ite_iff]
  exact ⟨fun _ => .next (.refl s), fun _ => .next (.rest (.resetFn (.killFn (.refl s))))⟩

@[simp] theorem execStopInterface_keeps {vf} : Keeps s (execStopInterface vf s) := by
  unfold execStopInterface
  simp

@[simp] theorem execDoeMessage_keeps {kind req data} : Keeps s (execDoeMessage kind req data s) := by
  unfold execDoeMessage
  rw [Keeps.ite_iff]
  refine ⟨fun _ => .next (.refl s), fun _ => ?_⟩
  cases kind with
  | spdm =>
    dsimp only
    split
    next hs => exact .next (.emit (Steady.spdm hs (.refl s)))
    next => exact .next (.refl s)
  | ideKm => exact .next (.emit (.refl s))
  | tdisp => exact .next (.emit (.refl s))
  | other => exact .next (.refl s)

@[simp] theorem execAtsInvalidation_keeps {fn tag} : Keeps s (execAtsInvalidation fn tag s) := by
  unfold execAtsInvalidation
  simp

@[simp] theorem execStepEnd_keeps {t} : Keeps s (execStepEnd t s) := by
  unfold execStepEnd
  rw [Keeps.ite_iff]
  refine ⟨fun _ => ?_, fun _ => .next (.refl s)⟩
  split
  · exact .next (.refl s)
  next hi =>
    have hs : Steady s _ := Steady.take hi (.refl s)
    dsimp only
    split
    · exact .next (.fenceTry hs.updTile)
    · exact .next hs.updTile

@[simp] theorem execRunFaultEnd_keeps {p} : Keeps s (execRunFaultEnd p s) := by
  unfold execRunFaultEnd
  split <;> simp

@[simp] theorem execStepWatchdogExpire_keeps {p} : Keeps s (execStepWatchdogExpire p s) := by
  unfold execStepWatchdogExpire
  split <;> simp

@[simp] theorem execStepFenceResolve_keeps {p} : Keeps s (execStepFenceResolve p s) := by
  unfold execStepFenceResolve
  (repeat' split) <;> simp

@[simp] theorem execDeferredMaintenanceRun_keeps {p} : Keeps s (execDeferredMaintenanceRun p s) := by
  unfold execDeferredMaintenanceRun
  simp

@[simp] theorem execStepRelease_keeps {p} : Keeps s (execStepRelease p s) := by
  unfold execStepRelease
  split <;> simp

@[simp] theorem execNop_keeps {t} : Keeps s (execNop t s) := by
  unfold execNop
  split
  · exact .next (.refl s)
  next hi => exact .next (.updTile (Steady.take hi (.refl s)))

@[simp] theorem execLoop_keeps {t} : Keeps s (execLoop t s) := by
  unfold execLoop
  simp

@[simp] theorem execMxe_keeps {t} : Keeps s (execMxe t s) := by
  unfold execMxe
  simp

@[simp] theorem execMxeComplete_keeps {t} : Keeps s (execMxeComplete t s) := by
  unfold execMxeComplete
  simp

@[simp] theorem execTload_keeps {t word} : Keeps s (execTload t word s) := by
  unfold execTload
  simp

@[simp] theorem execTstore_keeps {t word} : Keeps s (execTstore t word s) := by
  unfold execTstore
  simp

@[simp] theorem execTfill_keeps {t word} : Keeps s (execTfill t word s) := by
  unfold execTfill
  simp

@[simp] theorem execTtrans_keeps {t word} : Keeps s (execTtrans t word s) := by
  unfold execTtrans
  simp

@[simp] theorem execTadd_keeps {t word} : Keeps s (execTadd t word s) := by
  unfold execTadd
  simp

@[simp] theorem execTsub_keeps {t word} : Keeps s (execTsub t word s) := by
  unfold execTsub
  simp

@[simp] theorem execTmul_keeps {t word} : Keeps s (execTmul t word s) := by
  unfold execTmul
  simp

@[simp] theorem execTfma_keeps {t word} : Keeps s (execTfma t word s) := by
  unfold execTfma
  simp

@[simp] theorem execTmax_keeps {t word} : Keeps s (execTmax t word s) := by
  unfold execTmax
  simp

@[simp] theorem execTmin_keeps {t word} : Keeps s (execTmin t word s) := by
  unfold execTmin
  simp

@[simp] theorem execTexp_keeps {t word} : Keeps s (execTexp t word s) := by
  unfold execTexp
  simp

@[simp] theorem execTlog_keeps {t word} : Keeps s (execTlog t word s) := by
  unfold execTlog
  simp

@[simp] theorem execTrsqrt_keeps {t word} : Keeps s (execTrsqrt t word s) := by
  unfold execTrsqrt
  simp

@[simp] theorem execTrecip_keeps {t word} : Keeps s (execTrecip t word s) := by
  unfold execTrecip
  simp

@[simp] theorem execTmma_keeps {t word} : Keeps s (execTmma t word s) := by
  unfold execTmma
  simp

@[simp] theorem execTcmp_keeps {t word} : Keeps s (execTcmp t word s) := by
  unfold execTcmp
  simp

@[simp] theorem execTsig_keeps {t word} : Keeps s (execTsig t word s) := by
  unfold execTsig
  simp

@[simp] theorem execTend_keeps {t word} : Keeps s (execTend t word s) := by
  unfold execTend
  simp

@[simp] theorem execTileInstructionDiscard_keeps {t word} : Keeps s (execTileInstructionDiscard t word s) := by
  unfold execTileInstructionDiscard
  simp

@[simp] theorem execCopy_keeps {t} : Keeps s (execCopy t s) := by
  unfold execCopy
  simp

@[simp] theorem execNeg_keeps {t} : Keeps s (execNeg t s) := by
  unfold execNeg
  simp

@[simp] theorem execAbs_keeps {t} : Keeps s (execAbs t s) := by
  unfold execAbs
  simp

@[simp] theorem execScale_keeps {t} : Keeps s (execScale t s) := by
  unfold execScale
  simp

@[simp] theorem execRelu_keeps {t} : Keeps s (execRelu t s) := by
  unfold execRelu
  simp

@[simp] theorem execAdd_keeps {t} : Keeps s (execAdd t s) := by
  unfold execAdd
  simp

@[simp] theorem execSub_keeps {t} : Keeps s (execSub t s) := by
  unfold execSub
  simp

@[simp] theorem execMul_keeps {t} : Keeps s (execMul t s) := by
  unfold execMul
  simp

@[simp] theorem execMax_keeps {t} : Keeps s (execMax t s) := by
  unfold execMax
  simp

@[simp] theorem execMin_keeps {t} : Keeps s (execMin t s) := by
  unfold execMin
  simp

@[simp] theorem execAxpby_keeps {t} : Keeps s (execAxpby t s) := by
  unfold execAxpby
  simp

@[simp] theorem execFma_keeps {t} : Keeps s (execFma t s) := by
  unfold execFma
  simp

@[simp] theorem execExp_keeps {t} : Keeps s (execExp t s) := by
  unfold execExp
  simp

@[simp] theorem execLog_keeps {t} : Keeps s (execLog t s) := by
  unfold execLog
  simp

@[simp] theorem execRsqrt_keeps {t} : Keeps s (execRsqrt t s) := by
  unfold execRsqrt
  simp

@[simp] theorem execRecip_keeps {t} : Keeps s (execRecip t s) := by
  unfold execRecip
  simp

@[simp] theorem execSqrt_keeps {t} : Keeps s (execSqrt t s) := by
  unfold execSqrt
  simp

@[simp] theorem execDiv_keeps {t} : Keeps s (execDiv t s) := by
  unfold execDiv
  simp

@[simp] theorem execGelu_keeps {t} : Keeps s (execGelu t s) := by
  unfold execGelu
  simp

@[simp] theorem execSilu_keeps {t} : Keeps s (execSilu t s) := by
  unfold execSilu
  simp

@[simp] theorem execRsum_keeps {t} : Keeps s (execRsum t s) := by
  unfold execRsum
  simp

@[simp] theorem execRsumsq_keeps {t} : Keeps s (execRsumsq t s) := by
  unfold execRsumsq
  simp

@[simp] theorem execRmax_keeps {t} : Keeps s (execRmax t s) := by
  unfold execRmax
  simp

@[simp] theorem execRmin_keeps {t} : Keeps s (execRmin t s) := by
  unfold execRmin
  simp

@[simp] theorem execRamax_keeps {t} : Keeps s (execRamax t s) := by
  unfold execRamax
  simp

@[simp] theorem execCsum_keeps {t} : Keeps s (execCsum t s) := by
  unfold execCsum
  simp

@[simp] theorem execSoftmax_keeps {t} : Keeps s (execSoftmax t s) := by
  unfold execSoftmax
  simp

@[simp] theorem execSoftmaxBwd_keeps {t} : Keeps s (execSoftmaxBwd t s) := by
  unfold execSoftmaxBwd
  simp

@[simp] theorem execLnorm_keeps {t} : Keeps s (execLnorm t s) := by
  unfold execLnorm
  simp

@[simp] theorem execRmsnorm_keeps {t} : Keeps s (execRmsnorm t s) := by
  unfold execRmsnorm
  simp

@[simp] theorem execLnormBwd_keeps {t} : Keeps s (execLnormBwd t s) := by
  unfold execLnormBwd
  simp

@[simp] theorem execRmsnormBwd_keeps {t} : Keeps s (execRmsnormBwd t s) := by
  unfold execRmsnormBwd
  simp

@[simp] theorem execMenc1_keeps {t} : Keeps s (execMenc1 t s) := by
  unfold execMenc1
  simp

@[simp] theorem execMdec1_keeps {t} : Keeps s (execMdec1 t s) := by
  unfold execMdec1
  simp

@[simp] theorem execMenc2_keeps {t} : Keeps s (execMenc2 t s) := by
  unfold execMenc2
  simp

@[simp] theorem execMdec2_keeps {t} : Keeps s (execMdec2 t s) := by
  unfold execMdec2
  simp

@[simp] theorem execOptim_keeps {t} : Keeps s (execOptim t s) := by
  unfold execOptim
  simp

@[simp] theorem execGstat_keeps {t} : Keeps s (execGstat t s) := by
  unfold execGstat
  simp

@[simp] theorem execVecComplete_keeps {t} : Keeps s (execVecComplete t s) := by
  unfold execVecComplete
  simp

@[simp] theorem execVecModeWrite_keeps {t value} : Keeps s (execVecModeWrite t value s) := by
  unfold execVecModeWrite
  simp

@[simp] theorem execVecClearComplete_keeps {t} : Keeps s (execVecClearComplete t s) := by
  unfold execVecClearComplete
  dsimp only
  (repeat' split) <;> simp

/-- What the loss of the AON domain leaves of the queue, the cap, the fuses and the memory (R463). -/
structure Lost (s u : State) : Prop where
  pending : u.pending = s.pending
  cap : u.pwr.cap = 4200
  phase : u.boot.phase = none
  fuses : u.sec.fuses = s.sec.fuses
  mem : Memory.wf u.hbm = true

theorem Lost.coldLoss : Lost s s.coldLoss := ⟨rfl, rfl, rfl, rfl, Memory.wf_reset⟩

theorem execRailFault_cases {rail cause expired} (he : execRailFault rail cause expired s = .next u) : Steady s u ∨ Lost s u := by
  have hs : Steady s { s with pwr := s.pwr.railFault rail cause expired } := .setPwr (.refl s) rfl
  unfold execRailFault at he
  dsimp only at he
  split at he
  · split at he
    · exact .inr (Host.Outcome.next.inj he ▸ .coldLoss)
    · exact .inl (Host.Outcome.next.inj he ▸ .ite hs.askLevel hs.forceDown)
  · exact .inl (Host.Outcome.next.inj he ▸ .refl s)

theorem execSetPwrCap_cases {w : BitVec 16} (he : execSetPwrCap w s = .next u) :
    Steady s u ∨ (capLegal w.toNat = true ∧ Steady { s with pwr := { s.pwr with cap := w.toNat } } u) := by
  unfold execSetPwrCap at he
  split at he
  · exact .inl (Host.Outcome.next.inj he ▸ .refl s)
  · split at he
    · exact .inl (Host.Outcome.next.inj he ▸ .reply (.refl s))
    · split at he
      · exact .inr ⟨‹_›, Host.Outcome.next.inj he ▸ .reply (.refl _)⟩
      · exact .inl (Host.Outcome.next.inj he ▸ .refusal (.reply (.refl s)))

/-- Every command is steady but SET_PWR_CAP with a legal value, which writes the cap, and the commands that lose the AON domain. -/
theorem exec_cases (c : Instr) (he : exec c s = .next u) :
    Steady s u ∨ Lost s u ∨ ∃ w, c = .setPwrCap w ∧ capLegal w.toNat = true ∧ Steady { s with pwr := { s.pwr with cap := w.toNat } } u := by
  cases c with
  | setPwrCap w => exact (execSetPwrCap_cases he).imp_right fun hw => .inr ⟨w, rfl, hw⟩
  | railFault rail cause expired => exact (execRailFault_cases he).imp_right .inl
  | moduleRemoval => exact .inr (.inl (Host.Outcome.next.inj he ▸ .coldLoss))
  | coldReset => exact .inr (.inl (Host.Outcome.next.inj he ▸ .coldLoss))
  | reversedPolarity => exact .inr (.inl (Host.Outcome.next.inj he ▸ ⟨rfl, rfl, rfl, rfl, Memory.wf_reset⟩))
  | _ => exact .inl ((by simp [exec] : Keeps s (exec _ s)) u he)

end Sys2Proof.Machine
end

section
/-! The whole machine, over every command and step: the queue, the invariant, the power cap, the rollback floor; and what reset holds. -/

namespace Sys2Proof.Machine

variable {s u : State}

/-- The floor is at most the number of a bit that is not blown (R434). -/
theorem Fuses.floor_le_of_unblown {f : Fuses} {n : Nat} (hn : n < 63) (hb : bit f.antiRollback n = false) : f.floor ≤ n := by
  unfold Fuses.floor
  cases hf : (List.range 63).find? fun i => !bit f.antiRollback i with
  | none =>
    have hall := List.find?_eq_none.1 hf n (List.mem_range.2 hn)
    simp [hb] at hall
  | some m =>
    obtain ⟨_, _, hlow⟩ := List.find?_range_eq_some.1 hf
    refine Nat.le_of_not_lt fun hlt => ?_
    simpa [hb] using hlow n hlt

theorem Fuses.floor_le (f : Fuses) : f.floor ≤ 63 := by
  unfold Fuses.floor
  cases hf : (List.range 63).find? fun i => !bit f.antiRollback i with
  | none => exact Nat.le_refl 63
  | some m => exact Nat.le_of_lt (List.mem_range.1 (List.mem_of_find?_eq_some hf))

/-- The floor is 63 or the number of a bit that is not blown. -/
theorem Fuses.floor_unblown (f : Fuses) : f.floor = 63 ∨ (f.floor < 63 ∧ bit f.antiRollback f.floor = false) := by
  unfold Fuses.floor
  cases hf : (List.range 63).find? fun i => !bit f.antiRollback i with
  | none => exact .inl rfl
  | some m => exact .inr ⟨List.mem_range.1 (List.mem_of_find?_eq_some hf), by simpa using List.find?_some hf⟩

/-- More blown bits, no lower floor. -/
theorem Fuses.Grows.floor_le {f g : Fuses} (h : f.Grows g) : f.floor ≤ g.floor := by
  rcases g.floor_unblown with h63 | ⟨hlt, hg⟩
  · exact h63 ▸ f.floor_le
  · refine Fuses.floor_le_of_unblown hlt ?_
    cases hf : bit f.antiRollback g.floor with
    | false => rfl
    | true => exact absurd (h _ (by omega) hf) (by simp [hg])

/-- A step is that of the command in front, or the passing of time. -/
theorem step_cases (he : step s = .next u) :
    (s.pending = [] ∧ u = s.idle) ∨ ∃ c rest, s.pending = c :: rest ∧ exec c { s with pending := rest } = .next u := by
  unfold step at he
  split at he
  next hp => exact .inl ⟨hp, (Host.Outcome.next.inj he).symm⟩
  next c rest hp => exact .inr ⟨c, rest, hp, he⟩

theorem State.idle_steady (s : State) : Steady s s.idle := by
  unfold State.idle
  exact .ite (.rest (.refl s)) (.refl s)

/-- What a command leaves of the queue. -/
theorem exec_pending (c : Instr) (he : exec c s = .next u) : u.pending = s.pending := by
  rcases exec_cases c he with h | h | ⟨w, _, _, h⟩
  · exact h.pending
  · exact h.pending
  · exact h.pending

/-- No command unblows a bit of ANTI_ROLLBACK. -/
theorem exec_fuses (c : Instr) (he : exec c s = .next u) : s.sec.fuses.Grows u.sec.fuses := by
  rcases exec_cases c he with h | h | ⟨w, _, _, h⟩
  · exact h.fuses
  · exact h.fuses ▸ .refl _
  · exact h.fuses

/-- A command keeps the invariant. -/
theorem exec_ok (c : Instr) (hs : Ok s) (he : exec c s = .next u) : Ok u := by
  obtain ⟨hcap, hmem⟩ := hs
  rcases exec_cases c he with h | h | ⟨w, _, hw, h⟩
  · exact ⟨by simpa [CapOk, h.cap] using hcap, h.mem hmem⟩
  · exact ⟨by rw [CapOk, h.cap]; rfl, h.mem⟩
  · exact ⟨by simpa [CapOk, h.cap] using hw, h.mem hmem⟩

/-- Settles O53: no command but SET_PWR_CAP and the cold losses touches the cap, and every write to memory keeps its canonical form. -/
theorem everyStepKeepsTheInvariant : Obligations.EveryStepKeepsTheInvariant := by
  intro s u hs he
  rcases step_cases he with ⟨_, rfl⟩ | ⟨c, rest, _, he⟩
  · exact ⟨by simpa [CapOk, s.idle_steady.cap] using hs.1, s.idle_steady.mem hs.2⟩
  · exact exec_ok (s := { s with pending := rest }) c hs he

/-- Settles O54. -/
theorem everyStepTakesOneCommand : Obligations.EveryStepTakesOneCommand := by
  intro s u he
  rcases step_cases he with ⟨hp, rfl⟩ | ⟨c, rest, hp, he⟩
  · rw [s.idle_steady.pending, hp, List.tail_nil]
  · rw [exec_pending c he, hp, List.tail_cons]

/-- Settles O55. -/
theorem onlyMantisWritesTheCap : Obligations.OnlyMantisWritesTheCap := by
  intro c s u he
  rcases exec_cases c he with h | h | ⟨w, hc, hw, h⟩
  · exact .inl h.cap
  · exact .inr (.inr ⟨h.cap, h.phase⟩)
  · exact .inr (.inl ⟨w, hc, hw, h.cap⟩)

/-- Settles O56: a bit that is not blown after the step was not blown before, and the floor is the lowest of them. -/
theorem rollbackFloorNeverFalls : Obligations.RollbackFloorNeverFalls := by
  intro s u he
  have hg : s.sec.fuses.Grows u.sec.fuses := by
    rcases step_cases he with ⟨_, rfl⟩ | ⟨c, rest, _, he⟩
    · exact s.idle_steady.fuses
    · exact exec_fuses (s := { s with pending := rest }) c he
  exact ⟨hg, hg.floor_le⟩

/-- Settles O51. -/
theorem stepTakesTheFrontCommand : Obligations.StepTakesTheFrontCommand := fun _ _ _ => ⟨rfl, rfl⟩

/-- Settles O52: the values of reset, read off. -/
theorem resetHoldsTheStatedValues : Obligations.ResetHoldsTheStatedValues := by
  refine ⟨⟨rfl, rfl⟩, rfl, rfl, rfl, rfl, rfl, rfl, rfl, rfl, rfl, rfl, rfl, rfl, rfl, rfl, rfl, rfl, rfl, rfl, rfl, rfl, rfl, rfl, rfl, rfl, rfl, fun p => rfl⟩

end Sys2Proof.Machine
end

section
/-! SUPPORT. The boot control block, the rollback floor in verification, and posted completions (R405, R409, R412, R431, R432, R435); the obligations on them. -/

namespace Sys2Proof.Machine

/-! ### The boot control block (R432) -/

/-- GEN of the first copy, 0 when it is not valid. -/
theorem Fwm.setBcb_cases (f : Fwm) (active : Bool) (pending : Option Bool) (tries : Nat) :
    ∃ b : Bcb, b.active = active ∧ b.pending = pending ∧ b.tries = tries ∧ b.valid = true ∧ (f.bcb0.valid = true → f.bcb0.gen < b.gen) ∧
      (f.bcb1.valid = true → f.bcb1.gen < b.gen) ∧
      (f.setBcb active pending tries = { f with bcb0 := b } ∨ (f.bcb0.valid = true ∧ f.setBcb active pending tries = { f with bcb1 := b })) := by
  refine ⟨⟨max (if f.bcb0.valid then f.bcb0.gen else 0) (if f.bcb1.valid then f.bcb1.gen else 0) + 1, active, pending, tries, true⟩, rfl, rfl, rfl, rfl, ?_, ?_, ?_⟩
  · intro h
    simp only [h, if_true]
    omega
  · intro h
    simp only [h, if_true]
    omega
  · unfold Fwm.setBcb
    dsimp only
    cases h0 : f.bcb0.valid
    · exact .inl rfl
    · cases h1 : f.bcb1.valid
      · exact .inr ⟨rfl, rfl⟩
      · simp only [Bool.not_true, Bool.false_eq_true, if_false, if_true]
        split
        · exact .inl rfl
        · exact .inr ⟨trivial, rfl⟩

/-- Settles O45: the new block's GEN exceeds that of every valid copy, so it is the one in force. -/
theorem bootControlBlockInForce : Obligations.BootControlBlockInForce := by
  intro f active pending tries
  obtain ⟨b, ha, hp, ht, hv, h0, h1, hset | ⟨hvalid, hset⟩⟩ := f.setBcb_cases active pending tries
  · have hb : (f.setBcb active pending tries).bcb = b := by
      rw [hset]
      unfold Fwm.bcb
      cases h : f.bcb1.valid
      · simp [hv]
      · have := h1 h
        simp [hv, Nat.lt_asymm this]
    simp only [hb]
    exact ⟨ha, hp, ht, hv, h0, h1, .inr (by rw [hset]), by rw [hset], by rw [hset], by rw [hset]⟩
  · have hb : (f.setBcb active pending tries).bcb = b := by
      rw [hset]
      unfold Fwm.bcb
      simp [hv, hvalid, h0 hvalid]
    simp only [hb]
    exact ⟨ha, hp, ht, hv, h0, h1, .inl (by rw [hset]), by rw [hset], by rw [hset], by rw [hset]⟩

/-! ### The rollback floor in verification (R431 step 6, R435) -/

theorem svnStatus_done_iff (svn floor : Nat) : svnStatus svn floor = .done ↔ floor ≤ svn ∧ svn ≤ 63 := by
  unfold svnStatus
  split
  · simp only [reduceCtorEq, false_iff]
    omega
  · split
    · simp only [true_iff]
      omega
    · simp only [reduceCtorEq, false_iff]
      omega

/-- How verification ends: before step 6, at it, or with no failing step. -/
theorem verifyImage_cases (fz : Fuses) (fwTest : Bool) (image : List Byte) :
    (∃ n st, verifyImage fz fwTest image = (n, st) ∧ n ≠ 0 ∧ n ≠ 6 ∧ st ≠ .done) ∨
    ((FwHeader.ofBytes image).keysel = 0 ∧ svnStatus (FwHeader.ofBytes image).svn fz.floor ≠ .done ∧ verifyImage fz fwTest image = (6, svnStatus (FwHeader.ofBytes image).svn fz.floor)) ∨
    (((FwHeader.ofBytes image).keysel = 0 → svnStatus (FwHeader.ofBytes image).svn fz.floor = .done) ∧ verifyImage fz fwTest image = (0, .done)) := by
  fun_cases verifyImage fz fwTest image
  case case6 hsix => exact .inr (.inl ⟨hsix.1, hsix.2, rfl⟩)
  case case7 hsix => exact .inr (.inr ⟨fun hk => not_not.1 fun hne => hsix ⟨hk, hne⟩, rfl⟩)
  all_goals exact .inl ⟨_, _, rfl, by decide, by decide, by decide⟩

/-- Of the fuses, a test image is verified against FW_AUTH and the state alone. -/
theorem verifyImage_of_test {fz : Fuses} {fwTest : Bool} {image : List Byte} (h : (FwHeader.ofBytes image).keysel = 1) (floor : Nat) :
    verifyImage { fz with antiRollback := floor } fwTest image = verifyImage fz fwTest image := by
  have hstate : ({ fz with antiRollback := floor } : Fuses).state = fz.state := rfl
  simp [verifyImage, h, hstate]

/-- A firmware command keeps the fuses if what it does keeps them, started on the same firmware and fuses. -/
theorem State.fwCmd_fuses (s : State) (fn q op : Nat) (mine : Cmd → Bool) {f : State → Cmd → State × Status × Nat × Nat}
    (hf : ∀ a d, a.fwm = s.fwm → a.sec = s.sec → (f a d).1.sec.fuses = s.sec.fuses) : (s.fwCmd fn q op mine f).sec.fuses = s.sec.fuses := by
  unfold State.fwCmd
  split
  · rfl
  · split
    · rfl
    · split
      · exact (State.hostCmd_calm _ fn q op fun a _ _ => Calm.refl a).fuses
      · rcases s.hostCmd_cases fn q op _ with h | ⟨c, x, _, _, ⟨st, h⟩ | h⟩ <;> rw [h]
        · exact (State.complete_calm _ _ _ _ _ _ _).fuses
        · exact (State.complete_calm _ _ _ _ _ _ _).fuses.trans (hf _ _ rfl rfl)

/-- Settles O57: only step 6 reads the floor, and a commit of a test image raises nothing. -/
theorem rollbackFloorJudgesProductionImages : Obligations.RollbackFloorJudgesProductionImages := by
  intro fz fwTest image
  refine ⟨fun hprod hstep => ?_, fun hprod hdone => ?_, fun htest => ⟨?_, verifyImage_of_test htest⟩, fun fn q stuck s u htest hu => ?_⟩
  · have hstatus : (verifyImage fz fwTest image).2 = svnStatus (FwHeader.ofBytes image).svn fz.floor ∧ 
        ((verifyImage fz fwTest image).2 ≠ .done → (verifyImage fz fwTest image).1 = 6) := by
      rcases verifyImage_cases fz fwTest image with ⟨n, st, hr, h0, h6, _⟩ | ⟨_, _, hr⟩ | ⟨hok, hr⟩
      · rw [hr] at hstep
        exact absurd hstep (by simp [h0, h6])
      · simp [hr]
      · simp [hr, hok hprod]
    obtain ⟨hst, hsix⟩ := hstatus
    refine ⟨hst ▸ svnStatus_done_iff _ _, fun hlow => ?_, fun hfloor hhigh => ?_⟩
    · have hdenied : (verifyImage fz fwTest image).2 = .accessDenied := by rw [hst, svnStatus, if_pos hlow]
      exact Prod.ext (hsix (by simp [hdenied])) hdenied
    · have hfull : (verifyImage fz fwTest image).2 = .counterExhausted := by
        rw [hst, svnStatus, if_neg (Nat.not_lt.2 hfloor), if_neg (Nat.not_le.2 hhigh)]
      exact Prod.ext (hsix (by simp [hfull])) hfull
  · rcases verifyImage_cases fz fwTest image with ⟨_, st, hr, _, _, hne⟩ | ⟨_, hne, hr⟩ | ⟨hok, _⟩
    · exact absurd ((congrArg Prod.snd hr).symm.trans hdone) hne
    · exact absurd ((congrArg Prod.snd hr).symm.trans hdone) hne
    · exact (svnStatus_done_iff _ _).1 (hok hprod)
  · rcases verifyImage_cases fz fwTest image with ⟨n, _, hr, _, h6, _⟩ | ⟨hprod, _, _⟩ | ⟨_, hr⟩
    · exact hr ▸ h6
    · exact absurd (hprod.symm.trans htest) (by decide)
    · exact hr ▸ by decide
  · obtain rfl := Host.Outcome.next.inj hu
    refine s.fwCmd_fuses fn q 0x64 anyCmd fun a d hfwm hsec => ?_
    have hstays : ¬(a.fwm.hdr.keysel = 0 ∧ a.sec.fuses.floor < a.fwm.hdr.svn ∧ (a.sec.fuses.state = .manufacture ∨ a.sec.fuses.state = .deployed)) :=
      fun h => htest (hfwm ▸ h.1)
    simp only [hstays, decide_false, Bool.false_and, Bool.false_eq_true, if_false]
    split
    · rw [hsec]
    · split <;> rw [hsec]

/-! ### Posting a completion (R405, R409, R412) -/


theorem Fn.ne_reset_of_sq {f : Fn} {q : Nat} {x : Sq} (h : f.sq q = some x) : f ≠ .reset := by
  rintro rfl
  cases h

theorem Hif.fn_setFn (h : Hif) (n : Nat) {f : Fn} (hf : f ≠ .reset) : (h.setFn n f).fn n = f := Store.get_set_same h.fns n hf

theorem Fn.sq_setSq (f : Fn) (q : Nat) (x : Sq) : (f.setSq q (some x)).sq q = some x := Store.get_set_same f.sqs q (Option.some_ne_none x)

theorem Objs.ne_reset_of_fence {o : Objs} {i : Nat} {f : Fence} (h : Store.get none o.fences i = some f) : o ≠ .reset := by
  rintro rfl
  cases h

theorem Hif.obj_setObj (h : Hif) (p : Nat) {o : Objs} (ho : o ≠ .reset) : (h.setObj p o).obj p = o := Store.get_set_same h.objs p ho

/-- With nothing held, a completion takes the next slot at once. -/
theorem Cq.post_of_room {y : Cq} (fn : Nat) (c : Completion) (hempty : y.waiting = []) (hroom : y.used < 2 ^ y.log2) : y.post fn c = y.push fn c := by
  have hy : { y with waiting := [] } = y := by rw [← hempty]
  simp [Cq.post, Cq.drain, hempty, hy, Nat.not_le.2 hroom]

theorem Hif.fn_sweep (h : Hif) (p n : Nat) : (h.sweep p).fn n = h.fn n := rfl

theorem Fn.sq_setCq (f : Fn) (k q : Nat) (y : Option Cq) : (f.setCq k y).sq q = f.sq q := rfl

/-- A completion of a live context goes to the queue its submission queue names, and leaves that one as it is. -/
theorem Hif.post_of_room {h : Hif} {fn q : Nat} {x : Sq} {d : Ctx} {y : Cq} (c : Completion) (hx : (h.fn fn).sq q = some x) (hd : (h.fn fn).ctx x.ctx = some d)
    (hlive : d.dying = false) (hy : (h.fn fn).cq x.cq = some y) (hempty : y.waiting = []) (hroom : y.used < 2 ^ y.log2) :
    (h.post fn q c).2 = (y.push fn c).2 ∧ ((h.post fn q c).1.fn fn).sq q = some x := by
  have hpost : h.post fn q c = (h.setFn fn ((h.fn fn).setCq x.cq (some (y.push fn c).1)), (y.push fn c).2) := by
    simp [Hif.post, hx, hd, hlive, hy, Cq.post_of_room fn c hempty hroom]
  have hsq : ((h.fn fn).setCq x.cq (some (y.push fn c).1)).sq q = some x := hx
  rw [hpost]
  exact ⟨rfl, by rw [Hif.fn_setFn _ _ (Fn.ne_reset_of_sq hsq), hsq]⟩

/-- The queue when its only command has ended with a completion, which the window keeps (R410). -/
def Sq.ended (x : Sq) (c : Completion) : Sq := { x with cmds := [], window := x.window.map fun w => if w.1 = c.seq then (c.seq, some c) else w }

/-- The only command of a queue leaves it, and its completion posts. -/
theorem Hif.finish_eq {h : Hif} {fn q : Nat} {x : Sq} {c : Cmd} {e : Completion} (hx : (h.fn fn).sq q = some x) (hc : x.cmds = [c]) (hsig : c.entry.sigEn = false)
    (he : e = ⟨c.entry.cmdId, e.status, false, x.head, c.entry.seq, e.r0, e.r1⟩) :
    let r := (h.setFn fn ((h.fn fn).setSq q (some (x.ended e)))).post fn q e
    h.finish fn q c.entry.seq e.status e.r0 e.r1 = (r.1.sweep (objSpace fn), r.2) := by
  rw [he]
  simp [Hif.finish, hx, hc, hsig, Sq.ended]

/-- Settles O43: the command's completion is the one pushed and the one its window keeps; a fence moves up or not at all. -/
theorem completionsArePosted : Obligations.CompletionsArePosted := by
  intro h fn q x c d y st r0 r1 p i v f
  refine ⟨fun hx hc hsig hd hlive hy hempty hroom => ?_, fun hf => ⟨fun hstands hrise => ?_, fun hstays => ?_⟩⟩
  · let e : Completion := ⟨c.entry.cmdId, st, false, x.head, c.entry.seq, r0, r1⟩
    have hsq := (h.fn fn).sq_setSq q (x.ended e)
    have hfn := h.fn_setFn fn (Fn.ne_reset_of_sq hsq)
    obtain ⟨houts, hkept⟩ := Hif.post_of_room (h := h.setFn fn ((h.fn fn).setSq q (some (x.ended e)))) e (by rw [hfn, hsq]) (by rw [hfn]; exact hd) hlive
      (by rw [hfn]; exact hy) hempty hroom
    rw [Hif.finish_eq (e := e) hx hc hsig rfl]
    refine ⟨houts.trans ?_, ?_⟩
    · simp [Cq.push, e]
    · exact hkept
  · have hgo : h.signal p i v = (h.setObj p { h.obj p with fences := Store.set none (h.obj p).fences i (some { f with value := v }) }, fenceOuts { f with value := v }) := by
      simp [Hif.signal, hf, hstands, Nat.not_le.2 hrise]
    have hset : Store.get none (Store.set none (h.obj p).fences i (some { f with value := v })) i = some { f with value := v } :=
      Store.get_set_same _ _ (Option.some_ne_none _)
    rw [hgo, Hif.obj_setObj _ _ (Objs.ne_reset_of_fence hset)]
    exact ⟨hset, rfl⟩
  · simp [Hif.signal, hf, hstays]

end Sys2Proof.Machine
end

section
/-! SUPPORT. What the host commands leave alone (R410, R413, R418); the obligation on it. -/

namespace Sys2Proof.Machine

/-! ### What the host commands leave alone (R410, R413, R418) -/

/-- From s to u nothing but the host interface and what leaves the module differs. -/
def RestStands (s u : State) : Prop := ∃ h o, u = { s with hif := h, out := o }

theorem RestStands.refl (s : State) : RestStands s s := ⟨s.hif, s.out, rfl⟩

theorem RestStands.trans {s t u : State} (h : RestStands s t) (k : RestStands t u) : RestStands s u := by
  obtain ⟨_, _, rfl⟩ := h
  obtain ⟨h, o, rfl⟩ := k
  exact ⟨h, o, rfl⟩

theorem RestStands.ofHif (s : State) (h : Hif) : RestStands s { s with hif := h } := ⟨h, s.out, rfl⟩

theorem RestStands.withHif (s : State) (r : Hif × List Out) : RestStands s (s.withHif r) := ⟨r.1, _, rfl⟩

theorem RestStands.settleHif (s : State) (r : Hif × List Out) : RestStands s (s.settleHif r) := ⟨_, _, s.settleHif_eq r⟩

theorem RestStands.complete (s : State) (fn q seq : Nat) (st : Status) (r0 r1 : Nat) : RestStands s (s.complete fn q seq st r0 r1) :=
  ⟨_, _, s.complete_eq fn q seq st r0 r1⟩

theorem RestStands.updCtx (s : State) (fn ctx : Nat) (g : Ctx → Ctx) : RestStands s (s.updCtx fn ctx g) := by
  unfold State.updCtx
  dsimp only
  split
  · exact .ofHif s _
  · exact .refl s

theorem RestStands.updObjs (s : State) (fn : Nat) (g : Objs → Objs) : RestStands s (s.updObjs fn g) := .ofHif s _

theorem RestStands.foldl {α : Type} {f : State → α → State} (hf : ∀ a x, RestStands a (f a x)) (xs : List α) (s : State) : RestStands s (xs.foldl f s) := by
  induction xs generalizing s with
  | nil => exact .refl s
  | cons x xs ih => exact (hf s x).trans (ih _)

theorem RestStands.ite {c : Prop} [Decidable c] {s : State} {a b : State × CmdEnd} (ha : RestStands s a.1) (hb : RestStands s b.1) : RestStands s (if c then a else b).1 := by
  split
  · exact ha
  · exact hb

theorem RestStands.finishCmd {s : State} {r : State × CmdEnd} (fn q seq : Nat) (h : RestStands s r.1) : RestStands s (finishCmd fn q seq r) := by
  obtain ⟨u, e⟩ := r
  cases e with
  | done st r0 r1 => exact h.trans (.complete u fn q seq st r0 r1)
  | running => exact h

/-- A host command leaves alone what its effect leaves alone. -/
theorem RestStands.hostCmd (s : State) (fn q op : Nat) {f : State → Cmd → Nat → State × CmdEnd} (hf : ∀ a c x, RestStands a (f a c x).1) : RestStands s (s.hostCmd fn q op f) := by
  rcases s.hostCmd_cases fn q op f with h | ⟨c, x, _, _, ⟨st, h⟩ | h⟩ <;> rw [h]
  · exact .refl s
  · exact (RestStands.ofHif s _).trans (.complete _ _ _ _ _ _ _)
  · exact (RestStands.ofHif s _).trans (.finishCmd _ _ _ (hf _ _ _))

/-- Whatever a command answers next, the rest stands. -/
def OnlyHost (s : State) (r : Result) : Prop := ∀ u, r = .next u → RestStands s u

theorem OnlyHost.next {s u : State} (h : RestStands s u) : OnlyHost s (.next u) := by
  rintro _ ⟨⟩
  exact h

theorem OnlyHost.ite {c : Prop} [Decidable c] {s : State} {a b : Result} (ha : OnlyHost s a) (hb : OnlyHost s b) : OnlyHost s (if c then a else b) := by
  split
  · exact ha
  · exact hb

theorem execCtxCreate_rest (fn : Fin 17) (q : Fin 8192) (s : State) : OnlyHost s (execCtxCreate fn q s) := by
  refine .next (.hostCmd s _ _ _ fun a c x => ?_)
  dsimp only
  repeat' split
  all_goals exact ⟨_, _, rfl⟩

theorem execCtxDestroy_rest (fn : Fin 17) (q : Fin 8192) (s : State) : OnlyHost s (execCtxDestroy fn q s) := by
  refine .next ((RestStands.hostCmd s _ _ _ fun a c x => ?_).trans (.settleHif _ _))
  dsimp only
  repeat' split
  all_goals exact ⟨_, _, rfl⟩

theorem execSqCreate_rest (fn : Fin 17) (q : Fin 8192) (s : State) : OnlyHost s (execSqCreate fn q s) := by
  refine .next (.hostCmd s _ _ _ fun a c x => ?_)
  dsimp only
  repeat' split
  all_goals exact ⟨_, _, rfl⟩

theorem execSqDestroy_rest (fn : Fin 17) (q : Fin 8192) (s : State) : OnlyHost s (execSqDestroy fn q s) := by
  refine .next ((RestStands.hostCmd s _ _ _ fun a c x => ?_).trans (.settleHif _ _))
  dsimp only
  repeat' split
  all_goals exact ⟨_, _, rfl⟩

theorem execCqCreate_rest (fn : Fin 17) (q : Fin 8192) (s : State) : OnlyHost s (execCqCreate fn q s) := by
  refine .next (.hostCmd s _ _ _ fun a c x => ?_)
  dsimp only
  repeat' split
  all_goals exact ⟨_, _, rfl⟩

theorem execCqDestroy_rest (fn : Fin 17) (q : Fin 8192) (s : State) : OnlyHost s (execCqDestroy fn q s) := by
  refine .next (.hostCmd s _ _ _ fun a c x => ?_)
  dsimp only
  repeat' split
  all_goals exact ⟨_, _, rfl⟩

theorem execMemFree_rest (fn : Fin 17) (q : Fin 8192) (s : State) : OnlyHost s (execMemFree fn q s) := by
  refine .next (.hostCmd s _ _ _ fun a c x => ?_)
  dsimp only
  split
  · exact .refl a
  · exact .ite ((RestStands.updCtx a _ _ _).trans (.ofHif _ _)) (.updCtx a _ _ _)

theorem execMemMap_rest (fn : Fin 17) (q : Fin 8192) (s : State) : OnlyHost s (execMemMap fn q s) := by
  refine .next (.hostCmd s _ _ _ fun a c x => ?_)
  dsimp only
  split
  · exact .refl a
  · exact .ite (.refl a) (.ite (.refl a) (.ite (.refl a) (.updCtx a _ _ _)))

theorem execMemUnmap_rest (fn : Fin 17) (q : Fin 8192) (s : State) : OnlyHost s (execMemUnmap fn q s) := by
  refine .next (.hostCmd s _ _ _ fun a c x => ?_)
  dsimp only
  exact .ite (.refl a) (.ite (.refl a) (.updCtx a _ _ _))

theorem execMemImport_rest (fn : Fin 17) (q : Fin 8192) (s : State) : OnlyHost s (execMemImport fn q s) := by
  refine .next (.hostCmd s _ _ _ fun a c x => ?_)
  dsimp only
  split
  · exact .refl a
  · exact .ite (.refl a) (.ite (.refl a) (.updCtx a _ _ _))

theorem execFenceCreate_rest (fn : Fin 17) (q : Fin 8192) (s : State) : OnlyHost s (execFenceCreate fn q s) := by
  refine .next (.hostCmd s _ _ _ fun a c x => ?_)
  dsimp only
  split
  · exact .refl a
  · split
    · exact .refl a
    · exact (RestStands.updObjs a _ _).trans (.updCtx _ _ _ _)

theorem execFenceDestroy_rest (fn : Fin 17) (q : Fin 8192) (s : State) : OnlyHost s (execFenceDestroy fn q s) := by
  refine .next (.hostCmd s _ _ _ fun a c x => ?_)
  split
  · exact .refl a
  · exact .updCtx a _ _ _

theorem execFenceImport_rest (fn : Fin 17) (q : Fin 8192) (s : State) : OnlyHost s (execFenceImport fn q s) := by
  refine .next (.hostCmd s _ _ _ fun a c x => ?_)
  dsimp only
  split
  · exact .refl a
  · exact .ite (.refl a) (.ite (.refl a) (.updCtx a _ _ _))

theorem execHostNop_rest (fn : Fin 17) (q : Fin 8192) (s : State) : OnlyHost s (execHostNop fn q s) := by
  exact .next (.hostCmd s _ _ _ fun a _ _ => .refl a)

theorem execHostReservedOpcode_rest (fn : Fin 17) (q : Fin 8192) (s : State) : OnlyHost s (execHostReservedOpcode fn q s) := by
  unfold execHostReservedOpcode
  split
  · exact .next (.refl s)
  · split
    · split
      · exact .next (.hostCmd s _ _ _ fun a _ _ => .refl a)
      · exact .next (.refl s)
    · exact .next (.refl s)

theorem execCqInterruptTimer_rest (fn : Fin 17) (q : Fin 8192) (s : State) : OnlyHost s (execCqInterruptTimer fn q s) := by
  unfold execCqInterruptTimer
  dsimp only
  split
  · exact .next (.refl s)
  · split
    · exact .next (.refl s)
    · exact .next (.withHif s _)

theorem execFenceWaitSatisfied_rest (fn : Fin 17) (q : Fin 8192) (s : State) : OnlyHost s (execFenceWaitSatisfied fn q s) := by
  unfold execFenceWaitSatisfied
  dsimp only
  split
  · exact .next (.refl s)
  · exact .next (.ofHif s _)

theorem execSqTailDoorbell_rest (fn : Fin 17) (q : Fin 8192) (n : BitVec 32) (es : List (List Byte)) (s : State) : OnlyHost s (execSqTailDoorbell fn q n es s) := by
  unfold execSqTailDoorbell
  dsimp only
  split
  · exact .next (.refl s)
  · exact .ite (.next (.refl s)) (.ite (.next (.ofHif s _)) (.ite (fun _ h => nomatch h) (.next (.foldl (fun a _ => .settleHif a _) es s))))

theorem execCqHeadDoorbell_rest (fn : Fin 17) (q : Fin 8192) (n : BitVec 32) (s : State) : OnlyHost s (execCqHeadDoorbell fn q n s) := by
  unfold execCqHeadDoorbell
  dsimp only
  split
  · exact .next (.refl s)
  · exact .ite (.next (.refl s)) (.ite (.next (.ofHif s _)) (.next (.withHif s _)))

/-- Each command of the list is one of those above. -/
theorem exec_hostOnly_rest {fn : Fin 17} {q : Fin 8192} {c : Instr} (hc : HostOnly fn q c) (s : State) : OnlyHost s (exec c s) := by
  simp only [HostOnly, List.cons_append, List.nil_append, List.mem_cons, List.not_mem_nil, or_false] at hc
  rcases hc with rfl | rfl | rfl | rfl | rfl | rfl | rfl | rfl | rfl | rfl | rfl | rfl | rfl | rfl | rfl | rfl | rfl
  · exact execCtxCreate_rest fn q s
  · exact execCtxDestroy_rest fn q s
  · exact execSqCreate_rest fn q s
  · exact execSqDestroy_rest fn q s
  · exact execCqCreate_rest fn q s
  · exact execCqDestroy_rest fn q s
  · exact execMemFree_rest fn q s
  · exact execMemMap_rest fn q s
  · exact execMemUnmap_rest fn q s
  · exact execMemImport_rest fn q s
  · exact execFenceCreate_rest fn q s
  · exact execFenceDestroy_rest fn q s
  · exact execFenceImport_rest fn q s
  · exact execHostNop_rest fn q s
  · exact execHostReservedOpcode_rest fn q s
  · exact execCqInterruptTimer_rest fn q s
  · exact execFenceWaitSatisfied_rest fn q s

/-- From s to u nothing but the host interface and what leaves the module differs, or a token was drawn besides. -/
def RestStandsOrDraws (s u : State) : Prop := RestStands s u ∨ RestStands { s with sec := s.sec.draw.2 } u

/-- A host command that may draw a token draws at most that. -/
theorem RestStandsOrDraws.hostCmd (s : State) (fn q op : Nat) {f : State → Cmd → Nat → State × CmdEnd} (hf : ∀ a c x, RestStandsOrDraws a (f a c x).1) :
    RestStandsOrDraws s (s.hostCmd fn q op f) := by
  rcases s.hostCmd_cases fn q op f with h | ⟨c, x, _, _, ⟨st, h⟩ | h⟩ <;> rw [h]
  · exact .inl (.refl s)
  · exact .inl ((RestStands.ofHif s _).trans (.complete _ _ _ _ _ _ _))
  · rcases hf _ c x.ctx with hr | hr
    · exact .inl ((RestStands.ofHif s _).trans (.finishCmd _ _ _ hr))
    · exact .inr ((RestStands.ofHif { s with sec := s.sec.draw.2 } _).trans (.finishCmd _ _ _ hr))

theorem execMemExport_rest (fn : Fin 17) (q : Fin 8192) {s u : State} (hu : execMemExport fn q s = .next u) : RestStandsOrDraws s u := by
  obtain rfl := Host.Outcome.next.inj hu
  refine .hostCmd s _ _ _ fun a c x => ?_
  dsimp only
  split
  · exact .inl (.refl a)
  · split
    · exact .inl (.refl a)
    · split
      · exact .inl (.refl a)
      · exact .inr ⟨_, _, rfl⟩

theorem execFenceExport_rest (fn : Fin 17) (q : Fin 8192) {s u : State} (hu : execFenceExport fn q s = .next u) : RestStandsOrDraws s u := by
  obtain rfl := Host.Outcome.next.inj hu
  refine .hostCmd s _ _ _ fun a c x => ?_
  dsimp only
  split
  · exact .inl (.refl a)
  · split
    · exact .inl (.refl a)
    · split
      · exact .inl (.refl a)
      · exact .inr ⟨_, _, rfl⟩

theorem RestStands.eq {s u : State} (h : RestStands s u) : u = { s with hif := u.hif, out := u.out } := by
  obtain ⟨_, _, rfl⟩ := h
  rfl

/-- Settles O60: command by command, only the host interface and the drawn token move. -/
theorem hostCommandsKeepTheRest : Obligations.HostCommandsKeepTheRest := by
  intro fn q n es s u
  refine ⟨fun c hc hu => (exec_hostOnly_rest hc s u hu).eq, fun hu => (execSqTailDoorbell_rest fn q n es s u hu).eq,
    fun hu => (execCqHeadDoorbell_rest fn q n s u hu).eq, fun hu => ?_⟩
  have hdraws : RestStandsOrDraws s u := hu.elim (execMemExport_rest fn q) (execFenceExport_rest fn q)
  exact hdraws.imp RestStands.eq RestStands.eq

end Sys2Proof.Machine
end

section
/-! SUPPORT. Host commands that are ready: functions, doorbells, contexts, queues, objects, fences, copies and queries; the obligations on them. -/

namespace Sys2Proof.Machine

/-! ### Host commands that are ready -/

section
variable {s u : State} {fn q op ctx : Nat} {c : Cmd} {f : State → Cmd → Nat → State × CmdEnd}

/-- A command that is ready and ends at once completes. -/
theorem State.hostCmd_completes {st : Status} {r0 r1 : Nat} (h : HostReady s fn q op ctx c) (hf : f (started s fn q c) c ctx = (u, .done st r0 r1)) :
    s.hostCmd fn q op f = completes u fn q c st r0 r1 := by
  rw [State.hostCmd_ready f h, hf, finishCmd_done]

/-- A command that is ready and runs on leaves what it has done. -/
theorem State.hostCmd_runs (h : HostReady s fn q op ctx c) (hf : f (started s fn q c) c ctx = (u, .running)) : s.hostCmd fn q op f = u := by
  rw [State.hostCmd_ready f h, hf, finishCmd_running]

/-- A command that its checks at fetch refused completes with their status (R411). -/
theorem State.hostCmd_refused (f : State → Cmd → Nat → State × CmdEnd) {x : Sq} (hc : s.nextCmd fn q op = some c) (hx : (s.hif.fn fn).sq q = some x) (hbad : c.checked ≠ .done) :
    s.hostCmd fn q op f = completes (started s fn q c) fn q c c.checked 0 0 := by
  simp [State.hostCmd, hc, hx, hbad, started, completes]

end

/-! ### Functions, doorbells, interrupts and fence waits -/

theorem Fn.ctx_setCtx (f : Fn) (i : Nat) (x : Ctx) : (f.setCtx i (some x)).ctx i = some x := Store.get_set_same f.ctxs i (Option.some_ne_none x)

theorem Fn.cq_setCq (f : Fn) (i : Nat) (x : Cq) : (f.setCq i (some x)).cq i = some x := Store.get_set_same f.cqs i (Option.some_ne_none x)

theorem Fn.ne_reset_of_cq {f : Fn} {q : Nat} {x : Cq} (h : f.cq q = some x) : f ≠ .reset := by
  rintro rfl
  cases h

/-- What ENABLE makes of the function itself, whatever it does to the VFs (R407). -/
theorem State.enableFn_fn {s : State} {fn : Nat} (hoff : (s.hif.fn fn).enable = false) (htdi : (s.hif.fn fn).tdiError = false) :
    (s.enableFn fn).hif.fn fn = (s.hif.fn fn).enableNow := by
  have hon : (s.hif.fn fn).enableNow.enable = true := by
    unfold Fn.enableNow
    split
    · rfl
    · split
      · rfl
      · rfl
  have hne : (s.hif.fn fn).enableNow ≠ .reset := fun h => by simp [h, Fn.reset] at hon
  have hset := s.hif.fn_setFn fn hne
  simp only [State.enableFn, hoff, htdi, Bool.false_eq_true, or_self, if_false]
  split
  · exact hset
  · exact hset

theorem State.badDoorbell_dbErr (s : State) (fn : Nat) : ((s.badDoorbell fn).hif.fn fn).dbErr = true := by
  have hne : { s.hif.fn fn with dbErr := true } ≠ Fn.reset := fun h => nomatch congrArg Fn.dbErr h
  exact congrArg Fn.dbErr (s.hif.fn_setFn fn hne)

/-- A fetched entry whose SEQ is new joins the queue with what its checks say (R410, R411). -/
theorem Hif.fetch_new {h : Hif} {fn q : Nat} {x : Sq} (gone : Bool) {e : SubEntry} (hx : (h.fn fn).sq q = some x) (hunseen : (x.window.find? fun w => decide (w.1 = e.seq)) = none)
    (hnew : x.maxSeq < e.seq ∨ x.window = []) :
    h.fetch fn q gone e = (h.setFn fn ((h.fn fn).setSq q (some { x with
      head := (x.head + 1) % 2 ^ x.log2, maxSeq := e.seq, window := ((e.seq, none) :: x.window).take 1024,
      cmds := x.cmds ++ [⟨e, (h.check fn x.ctx gone e).1, (h.check fn x.ctx gone e).2, !e.waitEn, false, h.rangeMaps fn x.ctx e⟩] })), []) := by
  have hlater : ¬(e.seq ≤ x.maxSeq ∧ x.window ≠ []) := fun hold => hnew.elim (fun hlt => absurd hold.1 (Nat.not_le.2 hlt)) hold.2
  simp only [Hif.fetch, hx, hunseen, hlater, if_false]

/-- A head doorbell of a queue that holds no completion back only releases slots (R404). -/
theorem Cq.release_of_empty {x : Cq} (fn n : Nat) (h : x.waiting = []) :
    x.release fn n = ({ x with hostHead := n, used := x.used - (n + 2 ^ x.log2 - x.hostHead) % 2 ^ x.log2 }, []) := by
  simp [Cq.release, Cq.drain, h]

/-- Settles O39: command by command, with the queue's context live and its function not in TDI ERROR. -/
theorem functionsAndDoorbells : Obligations.FunctionsAndDoorbells := by
  intro fn q n es s
  dsimp only
  refine ⟨fun hup hoff htdi => ⟨fun hmajor hbare => ⟨s.enableFn fn, ?_, ?_⟩, fun hmajor => ⟨s.enableFn fn, ?_, ?_⟩⟩, fun hup hon => ?_, fun x d hup htdi hx hd hlive => ⟨fun hout => ⟨s.badDoorbell fn, ?_, s.badDoorbell_dbErr fn, rfl⟩, fun hin hlen => ?_, fun e => Hif.fetch_new _ hx⟩,
    fun x d hup htdi hx hd hlive => ⟨fun hout => ⟨s.badDoorbell fn, ?_, s.badDoorbell_dbErr fn, rfl⟩, fun hin hempty => ?_⟩, fun x hx hsince hvec => ⟨s.withHif (s.hif.setFn fn ((s.hif.fn fn).setCq q (some { x with since := 0 })), [.irq fn x.vector]), ?_, rfl, ?_⟩, fun x hx => ?_⟩
  · exact congrArg Host.Outcome.next (if_pos hup)
  · have hstart : (s.hif.fn fn).enableNow = Fn.start { s.hif.fn fn with enable := true } := by simp [Fn.enableNow, hmajor, hbare]
    beta_reduce
    rw [State.enableFn_fn hoff htdi, hstart]
    exact ⟨rfl, rfl, rfl, rfl, rfl, Fn.ctx_setCtx _ _ _, Fn.sq_setSq _ _ _, Fn.cq_setCq _ _ _⟩
  · exact congrArg Host.Outcome.next (if_pos hup)
  · have hrefused : (s.hif.fn fn).enableNow = { s.hif.fn fn with enable := true, ready := false, enStatus := .versionUnsupported, actMajor := 0, actMinor := 0 } := by
      simp [Fn.enableNow, hmajor]
    beta_reduce
    rw [State.enableFn_fn hoff htdi, hrefused]
    exact ⟨rfl, rfl⟩
  · exact congrArg Host.Outcome.next ((if_pos hup).trans (if_pos hon))
  · show execSqTailDoorbell fn q n es s = _
    simp [execSqTailDoorbell, hx, hd, hup, htdi, hlive, hout]
  · show execSqTailDoorbell fn q n es s = _
    simp [execSqTailDoorbell, hx, hd, hup, htdi, hlive, Nat.not_le.2 hin, hlen]
  · show execCqHeadDoorbell fn q n s = _
    simp [execCqHeadDoorbell, hx, hd, hup, htdi, hlive, hout]
  · show execCqHeadDoorbell fn q n s = _
    simp [execCqHeadDoorbell, hx, hd, hup, htdi, hlive, Nat.not_le.2 hin, Cq.release_of_empty _ _ hempty]
    rfl
  · show execCqInterruptTimer fn q s = _
    simp [execCqInterruptTimer, hx, hsince, hvec]
  · have hcq := (s.hif.fn fn).cq_setCq q { x with since := 0 }
    exact (congrArg (fun f : Fn => f.cq q) (s.hif.fn_setFn fn (Fn.ne_reset_of_cq hcq))).trans hcq
  · show execFenceWaitSatisfied fn q s = _
    simp [execFenceWaitSatisfied, hx]


/-! ### Contexts and queues -/

theorem Fn.ctxHandle_index {f : Fn} {h i : Nat} {x : Ctx} (hx : f.ctxHandle h = some (i, x)) : handleIndex h = i := by
  unfold Fn.ctxHandle at hx
  split at hx
  · obtain ⟨_, _, he⟩ := Option.map_eq_some_iff.1 hx
    exact congrArg Prod.fst he
  · cases hx

/-- Settles O40: each command is ready, its checks pass, and its effect is the one named. -/
theorem contextsAndQueuesComplete : Obligations.ContextsAndQueuesComplete := by
  intro fn q ctx i c s
  dsimp only
  refine ⟨fun hr hlen hfree => ?_, fun x hx hi => ⟨fun hr => ?_, fun hr => ?_⟩, fun x k y j hr hp hlo hhi hx hy hlive hown hroom hfree => ?_, fun x hr hx hi hd => ?_, fun x j hr hlo hhi hv hx hlive hroom hfree => ?_,
    fun x hr hx hi hused => ?_⟩
  · exact congrArg Host.Outcome.next (State.hostCmd_completes hr (by simp [Nat.not_le.2 hlen, hfree]))
  · have hadmin : ¬(handleKind (bits c.entry.p0 0 32) = 1 ∧ handleIndex (bits c.entry.p0 0 32) = 0) := fun h => hi ((Fn.ctxHandle_index hx).symm.trans h.2)
    exact congrArg (fun r : State => Host.Outcome.next (r.settleFn fn)) (State.hostCmd_runs hr (by simp only [hadmin, if_false, hx]))
  · have hadmin : ¬(handleKind (bits c.entry.p0 0 32) = 1 ∧ handleIndex (bits c.entry.p0 0 32) = 0) := fun h => hi ((Fn.ctxHandle_index hx).symm.trans h.2)
    exact congrArg (fun r : State => Host.Outcome.next (r.settleFn fn)) (State.hostCmd_runs hr (by simp only [hadmin, if_false, hx]))
  · have hbase : ¬(c.entry.p1 % 4096 ≠ 0 ∨ bits c.entry.p2 0 4 < 4 ∨ 12 < bits c.entry.p2 0 4) := by omega
    exact congrArg Host.Outcome.next (State.hostCmd_completes hr (by simp only [hbase, if_false, hx, hy, hlive, hown, ne_eq, not_true_eq_false, or_self, Bool.false_eq_true, Nat.not_le.2 hroom, hfree]))
  · exact congrArg (fun r : State => Host.Outcome.next (r.settleFn fn)) (State.hostCmd_runs hr (by simp [hx, hi, hd]))
  · have hbase : ¬(bits c.entry.p2 0 4 < 4 ∨ 12 < bits c.entry.p2 0 4 ∨ (fnVectors fn ≤ bits c.entry.p2 16 16 ∧ bits c.entry.p2 16 16 ≠ 0xFFFF)) := by omega
    exact congrArg Host.Outcome.next (State.hostCmd_completes hr (by simp only [hbase, if_false, hx, hlive, Bool.false_eq_true, Nat.not_le.2 hroom, hfree]))
  · exact congrArg Host.Outcome.next (State.hostCmd_completes hr (by simp [hx, hi, hused, ends]))

/-! ### Memory objects and fences -/

/-- Settles O41: each command is ready, its checks pass, and its effect is the one named. -/
theorem objectsAndFencesComplete : Obligations.ObjectsAndFencesComplete := by
  intro fn q ctx i c s
  dsimp only
  refine ⟨fun b hfn hr hlo hhi hrun hfree hworn => ?_, fun hheld => ⟨fun hr => ⟨fun hz => ?_, fun hz => ?_⟩, fun m hr hp hm hend htop hn hclear => ?_, fun m t hr hm ht => ?_⟩, fun hr hp hmapped => ?_,
    fun m x hr hi hm hk hg hz ht hx hnew => ?_, fun hr hv hp hvec hfree => ?_, fun hheld => ⟨fun hr => ?_, fun m hr hm ht => ?_⟩, fun m x hr hi hm hk hg ht hx hnew => ?_⟩
  · have hspace : objSpace fn = fnPart fn := if_neg hfn
    rw [hspace] at hrun hfree hworn
    have hsize : ¬(c.entry.p0 = 0 ∨ 524288 < c.entry.p0) := by omega
    exact congrArg Host.Outcome.next (State.hostCmd_completes hr (by simp only [hsize, if_false, hspace, hrun, hfree, hworn, List.foldl_nil]))
  · exact congrArg Host.Outcome.next (State.hostCmd_completes hr (by simp only [hheld, hz, Bool.false_eq_true, if_false, ends]))
  · exact congrArg Host.Outcome.next (State.hostCmd_completes hr (by simp only [hheld, hz, if_true, ends]))
  · have hpast : ¬ m.pages < bits c.entry.p2 0 32 + bits c.entry.p2 32 32 := by omega
    have hlast : ¬ 2 ^ 27 < c.entry.p1 / 2097152 + bits c.entry.p2 32 32 := by omega
    exact congrArg Host.Outcome.next (State.hostCmd_completes hr (by simp only [hheld, hp, hm, hpast, hlast, hclear, Nat.ne_of_gt hn, ne_eq, not_true_eq_false, decide_false, Bool.or_self, Bool.false_eq_true, if_false, ends]))
  · exact congrArg Host.Outcome.next (State.hostCmd_completes hr (by simp only [hheld, hm, ht]))
  · have hnone := Option.isNone_eq_false_iff.2 hmapped
    exact congrArg Host.Outcome.next (State.hostCmd_completes hr (by simp only [hp, hnone, ne_eq, not_true_eq_false, Bool.false_eq_true, if_false, ends]))
  · subst hi
    exact congrArg Host.Outcome.next (State.hostCmd_completes hr (by
      simp only [hm, hk, hg, hz, ht, hx, hnew, ne_eq, not_true_eq_false, or_self, decide_false, Bool.or_self, Bool.false_eq_true, if_false]))
  · have hargs : ¬(2 ^ 63 ≤ c.entry.p0 ∨ c.entry.p1 % 8 ≠ 0 ∨ (fnVectors fn ≤ bits c.entry.p2 0 16 ∧ bits c.entry.p2 0 16 ≠ 0xFFFF)) := by omega
    exact congrArg Host.Outcome.next (State.hostCmd_completes hr (by simp only [hargs, if_false, hfree]))
  · exact congrArg Host.Outcome.next (State.hostCmd_completes hr (by simp only [hheld, ends]))
  · exact congrArg Host.Outcome.next (State.hostCmd_completes hr (by simp only [hheld, hm, ht]; rfl))
  · subst hi
    exact congrArg Host.Outcome.next (State.hostCmd_completes hr (by
      simp only [hm, hk, hg, ht, hx, hnew, ne_eq, not_true_eq_false, or_self, decide_false, Bool.or_self, Bool.false_eq_true, if_false]))

/-! ### NOP, copies, queries and reserved entries -/

theorem length_natBytes (v n : Nat) : (natBytes v n).length = n := by
  induction n generalizing v with
  | zero => rfl
  | succ n ih => simp [natBytes, ih]

/-- A served selector is one result entry (R428). -/
theorem State.serveQuery_length (s : State) (fn : Nat) (sel : List Byte) : (s.serveQuery fn sel).length = 16 := by
  simp [State.serveQuery, length_natBytes]

/-- Settles O42: each command is ready and its effect is the one named; a query answers one entry for each selector. -/
theorem copiesQueriesAndReservedEntries : Obligations.CopiesQueriesAndReservedEntries := by
  intro fn q ctx c bs s
  dsimp only
  refine ⟨fun hr => ?_, fun hr hn hva hstaging => ⟨fun hin => ?_, fun hout hread hpos => ?_⟩, fun hr hlo hhi => ?_, fun x hup hx hnext hbad => ?_⟩
  · exact congrArg Host.Outcome.next (State.hostCmd_completes hr rfl)
  · exact congrArg Host.Outcome.next (State.hostCmd_completes hr (by simp [hn, hva, hstaging, hin, withHost, ends]))
  · exact congrArg Host.Outcome.next (State.hostCmd_completes hr (by simp [hn, hva, hstaging, hout, hread, Nat.ne_of_gt hpos, ends]))
  · have hsize : ¬(c.entry.p2 = 0 ∨ 4096 < c.entry.p2) := by omega
    refine ⟨_, congrArg Host.Outcome.next (State.hostCmd_completes hr (by simp only [hsize, if_false, withHost, ends]; rfl)), _, ?_, rfl⟩
    simp [List.length_flatten, Function.comp_def, State.serveQuery_length, Nat.mul_comm]
  · have hcmd : s.nextCmd fn q c.entry.opcode = some c := by simp [State.nextCmd, hup, hx, hnext]
    have hrefused : s.hostCmd fn q c.entry.opcode (fun a _ _ => ends a .versionUnsupported) = completes (started s fn q c) fn q c .versionUnsupported 0 0 :=
      hbad ▸ State.hostCmd_refused _ hcmd hx (by simp [hbad])
    calc exec (.hostReservedOpcode fn q) s = .next (s.hostCmd fn q c.entry.opcode fun a _ _ => ends a .versionUnsupported) := by
          show execHostReservedOpcode fn q s = _
          simp [execHostReservedOpcode, hx, hnext, hbad]
      _ = _ := congrArg Host.Outcome.next hrefused

end Sys2Proof.Machine
end

section
/-! SUPPORT. Firmware, log and time commands (R430 to R438, R447, R448, R458); the obligation on them. -/

namespace Sys2Proof.Machine

/-! ### Firmware commands (R430 to R438) -/

/-- A firmware command that is ready acts, is traced, and completes. -/
theorem State.fwCmd_completes {s u : State} {fn q op ctx : Nat} {c : Cmd} {mine : Cmd → Bool} {f : State → Cmd → State × Status × Nat × Nat} {st : Status} {r0 r1 : Nat}
    (h : HostReady s fn q op ctx c) (hmine : mine c = true) (hf : f (started s fn q c) c = (u, st, r0, r1)) :
    s.fwCmd fn q op mine f = completes (u.trace 0x0100 noPart 0 [op, st.code]) fn q c st r0 r1 := by
  have hnext : s.nextCmd fn q op = some c := h.1
  have hchecked : c.checked = .done := h.2.2.1
  simp only [State.fwCmd, hnext, hmine, hchecked, Bool.not_true, Bool.false_eq_true, if_false, ne_eq, not_true_eq_false]
  exact State.hostCmd_completes h (by simp only [hf])

/-- A NOW that is next in its queue resets when its checks pass (R438). -/
theorem State.nowResets_eq {s : State} {fn q ctx : Nat} {c : Cmd} (h : HostReady s fn q 0x63 ctx c) (hnow : c.entry.p0 = 1) :
    s.nowResets fn q = decide (s.nowStatus = .done) := by
  have hnext : s.nextCmd fn q 0x63 = some c := h.1
  have hchecked : c.checked = .done := h.2.2.1
  simp [State.nowResets, hnext, hchecked, hnow]

section
variable {s : State} {fn : Fin 17} {q : Fin 8192} {ctx : Nat} {c : Cmd}

/-- FW_WRITE of whole sectors programs the inactive slot, or is refused past its end (R437). -/
theorem execFwWrite_ready (hr : HostReady s fn q 0x61 ctx c) (bs : List Byte) (hoff : c.entry.p1 % 4096 = 0) (hn : c.entry.p2 % 4096 = 0) (hmax : c.entry.p2 ≤ 16777216) :
    execFwWrite fn q (some bs) s = .next (if fwSlotBytes < c.entry.p1 + c.entry.p2
      then completes ((started s fn q c).trace 0x0100 noPart 0 [0x61, Status.accessDenied.code]) fn q c .accessDenied 0 0
      else completes (State.trace { started s fn q c with fwm := s.fwm.program c.entry.p1 ((bs ++ List.replicate (c.entry.p2 - bs.length) 0).take c.entry.p2) }
        0x0100 noPart 0 [0x61, Status.done.code]) fn q c .done 0 0) := by
  have hargs : ¬(c.entry.p1 % 4096 ≠ 0 ∨ c.entry.p2 % 4096 ≠ 0 ∨ 16777216 < c.entry.p2) := by omega
  split
  next hpast => exact congrArg Host.Outcome.next (State.fwCmd_completes hr rfl (by simp only [hargs, if_false, hpast, if_true]))
  next hpast => exact congrArg Host.Outcome.next (State.fwCmd_completes hr rfl (by simp only [hargs, if_false, hpast]; rfl))

/-- FW_VERIFY judges the inactive slot (R431). -/
theorem execFwVerify_ready (hr : HostReady s fn q 0x62 ctx c) :
    let image := s.fwm.image s.fwm.inactive
    let st := (verifyImage s.sec.fuses s.fwTest image).2
    execFwVerify fn q s = .next (if st = .done
      then completes (State.trace { started s fn q c with fwm := { s.fwm with verified := true } } 0x0100 noPart 0 [0x62, Status.done.code]) fn q c .done (FwHeader.ofBytes image).version (FwHeader.ofBytes image).svn
      else completes ((started s fn q c).trace 0x0100 noPart 0 [0x62, st.code]) fn q c st 0 0) := by
  dsimp only
  split
  next hok => exact congrArg Host.Outcome.next (State.fwCmd_completes hr rfl (by
    have hstarted : (verifyImage (started s fn q c).sec.fuses (started s fn q c).fwTest ((started s fn q c).fwm.image (started s fn q c).fwm.inactive)).2 = .done := hok
    simp only [hstarted, if_true]
    rfl))
  next hbad => exact congrArg Host.Outcome.next (State.fwCmd_completes hr rfl (if_neg hbad))

/-- A NOW whose image is verified with no partition standing arms it, held at a level above NORMAL (R438). -/
theorem execNow_ready (hr : HostReady s fn q 0x63 ctx c) (hnow : c.entry.p0 = 1) (hver : s.fwm.verified = true) (hpart : s.anyPart = false) :
    execNow fn q s = .next (if s.pwr.level = 0
      then (completes (State.trace { started s fn q c with fwm := s.fwm.arm false } 0x0100 noPart 0 [0x63, Status.done.code]) fn q c .done 0 0).warmReset
      else completes (State.trace { started s fn q c with fwm := s.fwm.arm true } 0x0100 noPart 0 [0x63, Status.deferred.code]) fn q c .deferred 0 0) := by
  have hstatus : s.nowStatus = if s.pwr.level = 0 then .done else .deferred := by simp [State.nowStatus, hver, hpart]
  have hcmd : ∀ st, s.nowStatus = st → st ≠ .accessDenied → s.fwCmd fn q 0x63 (fun c => decide (c.entry.p0 = 1)) (fun a _ =>
      if a.nowStatus = .accessDenied then (a, .accessDenied, 0, 0) else ({ a with fwm := a.fwm.arm (decide (a.nowStatus = .deferred)) }, a.nowStatus, 0, 0)) =
      completes (State.trace { started s fn q c with fwm := s.fwm.arm (decide (st = .deferred)) } 0x0100 noPart 0 [0x63, st.code]) fn q c st 0 0 := by
    intro st hst hpass
    have hsame : (started s fn q c).nowStatus = st := hst
    exact State.fwCmd_completes hr (by simp [hnow]) (by simp only [hsame, hpass, if_false]; rfl)
  split
  next hlevel =>
    rw [if_pos hlevel] at hstatus
    have hresets : s.nowResets fn q = true := by rw [State.nowResets_eq hr hnow, hstatus]; rfl
    exact congrArg Host.Outcome.next ((if_pos hresets).trans (congrArg State.warmReset (hcmd .done hstatus (by decide))))
  next hlevel =>
    rw [if_neg hlevel] at hstatus
    have hresets : ¬ s.nowResets fn q = true := by rw [State.nowResets_eq hr hnow, hstatus]; decide
    exact congrArg Host.Outcome.next ((if_neg hresets).trans (hcmd .deferred hstatus (by decide)))

end

/-! ### The log and time by command (R447, R448, R456, R458) -/

theorem LogEntry.length_bytes (e : LogEntry) : e.bytes.length = 64 := by
  simp [LogEntry.bytes, length_natBytes, List.length_flatten, Function.comp_def]

/-- LOG_READ shows at most as many entries as asked for, each 64 B (R448). -/
theorem State.logBytes_length (s : State) (seq n : Nat) : (s.logBytes seq n).1.length = 64 * (s.logBytes seq n).2.1 ∧ (s.logBytes seq n).2.1 ≤ n := by
  refine ⟨?_, List.length_take_le _ _⟩
  simp [State.logBytes, List.length_flatten, Function.comp_def, LogEntry.length_bytes, Nat.mul_comm]

/-- From f to g only the log moves. -/
def Fwm.Logged (f g : Fwm) : Prop := g = { f with nextSeq := g.nextSeq, log := g.log, early := g.early, rates := g.rates }

theorem Fwm.Logged.trans {f g k : Fwm} (h : f.Logged g) (h' : g.Logged k) : f.Logged k := by
  unfold Fwm.Logged at *
  rw [h] at h'
  exact h'

section
variable {f g : Fwm} (h : f.Logged g)
include h

theorem Fwm.Logged.time : g.time = f.time := (congrArg Fwm.time h :)
theorem Fwm.Logged.slew : g.slew = f.slew := (congrArg Fwm.slew h :)
theorem Fwm.Logged.timeSet : g.timeSet = f.timeSet := (congrArg Fwm.timeSet h :)
theorem Fwm.Logged.source : g.source = f.source := (congrArg Fwm.source h :)

end

theorem Fwm.put_logged (f : Fwm) (ready : Bool) (time point part sev : Nat) (args : List Nat) : f.Logged (f.put ready time point part sev args) := by
  unfold Fwm.put
  cases ready <;> rfl

theorem Fwm.summary_logged (f : Fwm) (ready : Bool) (point : Nat) : f.Logged (f.summary ready point) := by
  unfold Fwm.summary
  dsimp only
  split
  · rfl
  · exact Fwm.Logged.trans (g := { f with rates := Store.set .none f.rates point .none }) rfl (Fwm.put_logged _ _ _ _ _ _ _)

theorem Fwm.trace_logged (f : Fwm) (ready : Bool) (point part sev : Nat) (args : List Nat) : f.Logged (f.trace ready point part sev args) := by
  unfold Fwm.trace
  split
  · rfl
  · extract_lets now f0 r
    have hstart : f.Logged f0 := by
      unfold f0
      split
      · rfl
      · exact f.summary_logged ready point
    split
    · refine hstart.trans (Fwm.Logged.trans (g := { f0 with rates := Store.set .none f0.rates point { r with second := now, written := r.written + 1 } }) rfl (Fwm.put_logged _ _ _ _ _ _ _))
    · exact hstart.trans rfl

/-- What a trace leaves of the firmware: all but its log (R447). -/
theorem State.trace_logged (s : State) (point part sev : Nat) (args : List Nat) : s.fwm.Logged (s.trace point part sev args).fwm := Fwm.trace_logged _ _ _ _ _ _

/-- TIME's source set: traced where it changes. -/
theorem State.setSource_logged (s : State) (src : Nat) : ({ s.fwm with source := src } : Fwm).Logged (s.setSource src).fwm := by
  unfold State.setSource
  split
  next h => rw [← h]; rfl
  next => exact State.trace_logged _ _ _ _ _

/-- The firmware of a state is as before its host command ended. -/
theorem completes_fwm (u : State) (fn q : Nat) (c : Cmd) (st : Status) (r0 r1 : Nat) : (completes u fn q c st r0 r1).fwm = u.fwm :=
  (congrArg State.fwm (u.complete_eq fn q c.entry.seq st r0 r1) :)

/-- TIME_SET on a grandmaster that follows no PTP master sets the counter (R458). -/
theorem execTimeSet_ready {s : State} {fn : Fin 17} {q : Fin 8192} {ctx : Nat} {c : Cmd} (hr : HostReady s fn q 0x68 ctx c) (hgm : s.fwm.gm = true) (hsource : s.fwm.source ≠ 1) :
    Answers (execTimeSet fn q s) fun u => u.fwm.time = c.entry.p0 % 2 ^ 64 ∧ u.fwm.slew = 0 ∧ u.fwm.timeSet = true ∧ u.fwm.source = 4 := by
  have hmay : ¬(s.fwm.source = 1 ∧ (s.fwm.masterClass = 6 ∨ s.fwm.masterClass = 7) ∨ (!s.fwm.gm) = true) := by simp [hgm, hsource]
  refine ⟨_, congrArg Host.Outcome.next (State.hostCmd_completes hr (if_neg hmay)), ?_⟩
  let f : Fwm := { s.fwm with time := c.entry.p0 % 2 ^ 64, slew := 0, timeSet := true }
  let b : State := State.trace { started s fn q c with fwm := f } 0x0500 noPart 0 [(((s.fwm.time : Int) - (c.entry.p0 : Int)) % 2 ^ 64).toNat]
  have htraced : f.Logged b.fwm := State.trace_logged _ _ _ _ _
  have hset : ({ b.fwm with source := 4 } : Fwm).Logged (b.setSource 4).fwm := b.setSource_logged 4
  beta_reduce
  rw [completes_fwm]
  exact ⟨hset.time.trans htraced.time, hset.slew.trans htraced.slew, hset.timeSet.trans htraced.timeSet, hset.source⟩

/-- Settles O44: each firmware command acts and is traced, the log and time commands act, and each completes. -/
theorem firmwareLogAndTimeCommandsComplete : Obligations.FirmwareLogAndTimeCommandsComplete := by
  refine ⟨fun fn q ctx c bs b stuck s => ?_, fun fn q ctx c s => ?_⟩
  · dsimp only
    refine ⟨fun hr => ?_, fun hr hoff hn hmax => ⟨fun hin => ?_, fun hpast => ?_⟩, execFwVerify_ready, fun hr => ⟨fun hop hver => ?_, fun hop hver => ?_, fun hop hver hpart hlevel => ?_, fun hop hver hpart hlevel => ?_, fun hop hpend => ?_⟩, fun hr hrun hpend => ⟨fun hlow => ?_, fun hrises => ?_⟩⟩
    · exact congrArg Host.Outcome.next (State.hostCmd_completes hr rfl)
    · exact (execFwWrite_ready hr bs hoff hn hmax).trans (congrArg Host.Outcome.next (if_neg (Nat.not_lt.2 hin)))
    · exact (execFwWrite_ready hr bs hoff hn hmax).trans (congrArg Host.Outcome.next (if_pos hpast))
    · exact congrArg Host.Outcome.next (State.fwCmd_completes hr (by simp [hop]) (if_neg (by simp [hver])))
    · exact congrArg Host.Outcome.next (State.fwCmd_completes hr (by simp [hop]) (if_pos (by simp [hver])))
    · exact (execNow_ready hr hop hver hpart).trans (congrArg Host.Outcome.next (if_pos hlevel))
    · exact (execNow_ready hr hop hver hpart).trans (congrArg Host.Outcome.next (if_neg hlevel))
    · exact congrArg Host.Outcome.next (State.fwCmd_completes hr (by simp [hop]) (by simp [hpend]))
    · exact congrArg Host.Outcome.next (State.fwCmd_completes hr rfl (by
        simp only [show (started s fn q c).fwm = s.fwm from rfl, show (started s fn q c).sec = s.sec from rfl, hrun, hpend, hlow,
          ne_eq, not_true_eq_false, if_false, decide_false, Bool.false_and, Bool.false_eq_true]))
    · exact congrArg Host.Outcome.next (State.fwCmd_completes hr rfl (by
        simp only [show (started s fn q c).fwm = s.fwm from rfl, show (started s fn q c).sec = s.sec from rfl, hrun, hpend, decide_eq_true hrises,
          ne_eq, not_true_eq_false, if_false, Bool.true_and, Bool.false_eq_true, if_true]))
  · dsimp only
    refine ⟨fun hr hlo hhi => ⟨?_, State.logBytes_length _ _ _⟩, fun hr => ?_, fun hr hloss => ?_, fun hr hgm hsource => execTimeSet_ready hr hgm hsource, fun hr => ?_⟩
    · have hsize : ¬(c.entry.p2 = 0 ∨ 65536 < c.entry.p2) := by omega
      exact congrArg Host.Outcome.next (State.hostCmd_completes hr (if_neg hsize))
    · exact congrArg Host.Outcome.next (State.hostCmd_completes hr rfl)
    · refine ⟨_, congrArg Host.Outcome.next (State.hostCmd_completes hr (if_neg hloss)), ?_⟩
      beta_reduce
      rw [completes_fwm]
      exact ⟨rfl, rfl, rfl, if_neg hloss, rfl⟩
    · exact congrArg Host.Outcome.next (State.hostCmd_completes hr rfl)

end Sys2Proof.Machine
end

section
/-! SUPPORT. Snapshot areas, holds, the census, the flash drain and flash reads (R377 to R388); the obligation on them. -/

namespace Sys2Proof.Machine

/-! ### Snapshot areas, holds, the census and the flash -/

theorem State.snap_updSnap (s : State) (p : Nat) (f : SnapPart → SnapPart) (h : f (s.snap p) ≠ .reset) : (s.updSnap p f).snap p = f (s.snap p) := Store.get_set_same _ _ h

theorem completes_snap (u : State) (fn q : Nat) (c : Cmd) (st : Status) (r0 r1 p : Nat) : (completes u fn q c st r0 r1).snap p = u.snap p :=
  (congrArg (fun a : State => a.snap p) (u.complete_eq fn q c.entry.seq st r0 r1) :)

/-- Records with room in flash are kept with their directory entry (R385). -/
theorem State.drainTo_room {s : State} {n base : Nat} {f : Flash} {recs : List (List Byte)} (p : Nat) (x : Copy) (hn : n = (recs.map List.length).sum)
    (h : s.flash.room s.flash.snaps.length n = some (base, f)) :
    s.drainTo p x recs = { s.updSnap p (fun y => { y with flashSt := .done }) with
      flash := { f.put base recs.flatten with snaps := f.snaps ++ [⟨x.session, x.serial, x.epoch, x.root, base, recordSpans base recs, true, x.stale⟩] } } := by
  subst hn
  simp only [State.drainTo, h]
  rfl

/-- A drain whose records have been read from the local area ends with them in flash (R385). -/
theorem execFlashDrainComplete_read {s a1 : State} {p : Fin 16} {l : Layout} {x : Copy} {recs : List (List Byte)} (hst : (s.snap p).flashSt = .active) (hl : s.layoutOf p = some l)
    (hx : (s.snap p).localCopy = some x) (hrecs : s.areaRecords p false (snapCount l) = (a1, .done, recs)) : execFlashDrainComplete p s = .next (a1.drainTo p x recs) := by
  obtain ⟨records, hrecords⟩ : ∃ records, records = State.areaRecords := ⟨_, rfl⟩
  unfold execFlashDrainComplete
  rw [← hrecords] at hrecs ⊢
  simp only [hst, ne_eq, not_true_eq_false, if_false, hl, hx, hrecs]

section
variable {s : State} {fn : Fin 17} {q : Fin 8192} {ctx : Nat} {c : Cmd} {l : Layout}

/-- What SNAP_CONFIG asks of its ranges before it looks at their size (R377). -/
theorem execSnapConfig_ready (hr : HostReady s fn q 0x40 ctx c) (hl : s.layoutOf (fnPart fn) = some l) (hfree : (s.snap (fnPart fn)).free = true) (hva : c.entry.p0 % 64 = 0) (hmv : c.entry.p2 % 64 = 0)
    (hlocal : (started s fn q c).allStaging (fnPart fn) ((started s fn q c).cmdMaps fn ctx c) c.entry.p0 c.entry.p1 = true)
    (hmirror : c.entry.p2 = 0 ∨ (started s fn q c).allStaging (fnPart fn) ((started s fn q c).cmdMaps fn ctx c) c.entry.p2 c.entry.p1 = true)
    (hclear : (l.snap.any fun r => overlaps r.1 r.2 c.entry.p0 c.entry.p1) = false) :
    (c.entry.p1 < (started s fn q c).areaNeed (fnPart fn) l → execSnapConfig fn q s = .next (completes (started s fn q c) fn q c .noResource ((started s fn q c).areaNeed (fnPart fn) l) 0)) ∧
    ((started s fn q c).areaNeed (fnPart fn) l ≤ c.entry.p1 → ∃ lm mm h, execSnapConfig fn q s = .next (completes { (started s fn q c).updSnap (fnPart fn) (fun y => { y.emptied with
      localArea := some (c.entry.p0, c.entry.p1), mirrorArea := if c.entry.p2 = 0 then none else some (c.entry.p2, c.entry.p1), localMap := lm, mirrorMap := mm }) with hif := h } fn q c .done 0 0)) := by
  have hlayout : (started s fn q c).layoutOf (fnPart fn) = some l := hl
  have hpass : ¬((!((started s fn q c).snap (fnPart fn)).free) = true ∨ c.entry.p0 % 64 ≠ 0 ∨ c.entry.p2 % 64 ≠ 0 ∨
      (started s fn q c).allStaging (fnPart fn) ((started s fn q c).cmdMaps fn ctx c) c.entry.p0 c.entry.p1 = false ∨
      (c.entry.p2 ≠ 0 ∧ (started s fn q c).allStaging (fnPart fn) ((started s fn q c).cmdMaps fn ctx c) c.entry.p2 c.entry.p1 = false) ∨
      (l.snap.any fun r => overlaps r.1 r.2 c.entry.p0 c.entry.p1) = true) := by
    have hstands : ((started s fn q c).snap (fnPart fn)).free = true := hfree
    rcases hmirror with hnone | hmirror
    · simp [hstands, hva, hlocal, hclear, hnone]
    · simp [hstands, hva, hmv, hlocal, hclear, hmirror]
  refine ⟨fun hsmall => congrArg Host.Outcome.next (State.hostCmd_completes hr (by simp only [hlayout, hpass, if_false, hsmall, if_true])), fun hlarge =>
    ⟨_, _, _, congrArg Host.Outcome.next (State.hostCmd_completes hr (by simp only [hlayout, hpass, if_false, Nat.not_lt.2 hlarge]; rfl))⟩⟩

end

/-- Settles O37: each command or event does what is named; an area configured is EMPTY at its ranges. -/
theorem snapshotCommandsComplete : Obligations.SnapshotCommandsComplete := by
  intro p fn q ctx c bs l s
  dsimp only
  refine ⟨fun k hlive => if_pos hlive, fun u hu => ?_, fun u hno hu => ?_, fun x a1 recs base f hst hl hx hrecs hroom => ?_, fun hr hl hfree hva hmv hlocal hmirror hclear => ⟨fun hlarge => ?_, ?_⟩,
    fun hr harea => ?_, fun hr => ?_, fun x hr hfind hkind hroot hstaging => ?_⟩
  · show execMirrorFillCheck p s = _
    simp only [execMirrorFillCheck, hu]
  · show execMirrorFillCheck p s = _
    simp only [execMirrorFillCheck, hno, hu]
  · refine ⟨a1.drainTo p x recs, ?_, ?_⟩
    · exact execFlashDrainComplete_read hst hl hx hrecs
    · rw [State.drainTo_room p x rfl hroom]
      exact ⟨rfl, rfl, rfl⟩
  · obtain ⟨lm, mm, h, he⟩ := (execSnapConfig_ready hr hl hfree hva hmv hlocal hmirror hclear).2 hlarge
    refine ⟨_, he, ?_⟩
    beta_reduce
    rw [completes_snap]
    have hset := (started s fn q c).snap_updSnap (fnPart fn) (fun y => { y.emptied with
      localArea := some (c.entry.p0, c.entry.p1), mirrorArea := if c.entry.p2 = 0 then none else some (c.entry.p2, c.entry.p1), localMap := lm, mirrorMap := mm })
      fun hreset => nomatch congrArg SnapPart.localArea hreset
    refine ⟨?_, ?_, ?_, ?_⟩
    · exact congrArg SnapPart.area hset
    · exact congrArg SnapPart.localArea hset
    · exact congrArg SnapPart.mirrorArea hset
    · exact congrArg SnapPart.localCopy hset
  · exact (execSnapConfig_ready hr hl hfree hva hmv hlocal hmirror hclear).1
  · have hstands : ((started s fn q c).snap (fnPart fn)).localArea.isNone = false := Option.isNone_eq_false_iff.2 harea
    exact congrArg Host.Outcome.next (State.hostCmd_completes hr (by simp only [hstands, Bool.false_eq_true, if_false, ends]))
  · exact congrArg Host.Outcome.next (State.hostCmd_completes hr rfl)
  · have hfound : (started s fn q c).flash.find ((started s fn q c).sessionId (fnPart fn)) (field bs 8 8) (field bs 0x10 8) = some x := hfind
    have hpass : ¬(field bs 0 1 ≠ 3 ∨ BitVec.ofNat 256 (field bs 0x18 32) ≠ x.root ∨
        (started s fn q c).allStaging (fnPart fn) ((started s fn q c).cmdMaps fn ctx c) c.entry.p1 (x.read (started s fn q c).flash).flatten.length = false) := by
      have hstaged : (started s fn q c).allStaging (fnPart fn) ((started s fn q c).cmdMaps fn ctx c) c.entry.p1 (x.read (started s fn q c).flash).flatten.length = true := hstaging
      simp only [hkind, hroot, hstaged, ne_eq, not_true_eq_false, Bool.true_eq_false, or_self, not_false_eq_true]
    exact congrArg Host.Outcome.next (State.hostCmd_completes hr (by simp only [withHost, hfound, hpass, if_false]; rfl))

end Sys2Proof.Machine
end

section
/-! SUPPORT. Fills and restores (R392, R393), with what reading and writing an image space leaves of the jobs; the obligation on them. -/

namespace Sys2Proof.Machine

/-! ### What reading and writing an image space leaves of the jobs -/

/-- From s to u every job keeps all but its run. -/
def JobsButRun (s u : State) : Prop := ∀ p, ∃ r, u.job p = { s.job p with run := r }

theorem JobsButRun.of_jobs {s u : State} (h : u.jobs = s.jobs) : JobsButRun s u := fun p =>
  ⟨(s.job p).run, congrArg (fun m => Store.get Job.reset m p) h⟩

theorem JobsButRun.refl (s : State) : JobsButRun s s := .of_jobs rfl

theorem JobsButRun.trans {s t u : State} (h : JobsButRun s t) (k : JobsButRun t u) : JobsButRun s u := by
  intro p
  obtain ⟨r, hr⟩ := h p
  obtain ⟨r', hr'⟩ := k p
  exact ⟨r', by rw [hr', hr]⟩

theorem JobsButRun.image {s u : State} (h : JobsButRun s u) (p : Nat) : (u.job p).image = (s.job p).image := by
  obtain ⟨r, hr⟩ := h p
  rw [hr]

theorem JobsButRun.step {s u : State} (h : JobsButRun s u) (p : Nat) : (u.job p).step = (s.job p).step := by
  obtain ⟨r, hr⟩ := h p
  rw [hr]

theorem JobsButRun.foldl {α : Type} {f : State → α → State} (hf : ∀ a x, JobsButRun a (f a x)) (xs : List α) (s : State) : JobsButRun s (xs.foldl f s) := by
  induction xs generalizing s with
  | nil => exact .refl s
  | cons x xs ih => exact (hf s x).trans (ih _)

/-- A fold that carries something beside the state. -/
theorem JobsButRun.foldl_fst {α β : Type} {f : State × β → α → State × β} (hf : ∀ a x, JobsButRun a.1 (f a x).1) (xs : List α) (r : State × β) :
    JobsButRun r.1 (xs.foldl f r).1 := by
  induction xs generalizing r with
  | nil => exact .refl r.1
  | cons x xs ih => exact (hf r x).trans (ih _)

theorem State.report_jobs (s : State) (cls source unit : Nat) (st : Status) (part detail : Nat) : (s.report cls source unit st part detail).jobs = s.jobs :=
  (congrArg State.jobs (s.report_noted cls source unit st part detail).eq :)

theorem State.treeReport_jobs (s : State) (pc slot level dpa : Nat) : (s.treeReport pc slot level dpa).jobs = s.jobs := by
  unfold State.treeReport
  dsimp only
  split
  · exact foldl_keeps (g := State.jobs) (fun a p => a.report_jobs _ _ _ _ _ _) _ s
  · split <;> exact State.report_jobs _ _ _ _ _ _ _

theorem State.stopRun_jobsButRun (s : State) (k : Nat) (st : Status) : JobsButRun s (s.stopRun k st) := by
  obtain ⟨-, hjobs⟩ | ⟨r, -, hjobs⟩ := s.stopRun_jobs k st
  · exact .of_jobs hjobs
  · intro p
    by_cases hpk : p = k
    · have hmarked : { s.job k with run := some r } ≠ Job.reset := fun e => Option.some_ne_none r (congrArg Job.run e)
      exact ⟨some r, hpk ▸ (congrArg (fun m => Store.get Job.reset m k) hjobs).trans (s.job_setJob k hmarked)⟩
    · exact ⟨(s.job p).run, (congrArg (fun m => Store.get Job.reset m p) hjobs).trans (Store.get_set_ne _ _ hpk)⟩

theorem State.treeFault_jobsButRun (s : State) (pc slot level dpa : Nat) : JobsButRun s (s.treeFault pc slot level dpa) := by
  unfold State.treeFault
  exact (JobsButRun.of_jobs (s.treeReport_jobs pc slot level dpa)).trans (.foldl (fun a p => a.stopRun_jobsButRun p _) _ _)

theorem State.afterLane_jobsButRun (s : State) (o : LaneOut) (dpa : Nat) : JobsButRun s (s.afterLane o dpa) := by
  unfold State.afterLane
  dsimp only
  split
  · exact JobsButRun.trans (t := { s with hbm := o.h }) (.of_jobs rfl) (State.treeFault_jobsButRun _ _ _ _ _)
  · exact .of_jobs rfl

theorem State.startRekey_jobs {s u : State} {p : Nat} (h : s.startRekey p = some u) : u.jobs = s.jobs := by
  unfold State.startRekey at h
  dsimp only at h
  split at h
  · cases h
  · split at h
    · cases h
    · cases h
      rfl

theorem State.hbmWrite_jobsButRun {s u : State} {o : Origin} {key dpa : Nat} {b : Bool} {ws : List (Option TWord)} {f : Fetch} {st : Status}
    (h : s.hbmWrite o key dpa b ws f = some (u, st)) : JobsButRun s u := by
  unfold State.hbmWrite at h
  dsimp only at h
  split at h
  · cases h
    exact s.afterLane_jobsButRun _ _
  · split at h
    · cases h
    · split at h
      next s1 hrekey =>
        cases h
        exact JobsButRun.trans (.of_jobs (State.startRekey_jobs hrekey)) (s1.afterLane_jobsButRun _ _)
      next => cases h
    · cases h
      exact s.afterLane_jobsButRun _ _

theorem State.vaLine_jobsButRun (s : State) (o : Origin) (p : Nat) (space : List MapRun) (va : Nat) : JobsButRun s (s.vaLine o p space va).1 := by
  unfold State.vaLine
  split
  · exact .refl s
  · exact s.afterLane_jobsButRun _ _

theorem State.vaRead_jobsButRun (s : State) (o : Origin) (p : Nat) (space : List MapRun) (va n : Nat) : JobsButRun s (s.vaRead o p space va n).s := by
  have hlines : ∀ k (s : State) va n, JobsButRun s (State.readLines o p space k s va n).1 := by
    intro k
    induction k with
    | zero => exact fun s _ _ => .refl s
    | succ k ih => exact fun s va n => (s.vaLine_jobsButRun o p space va).trans (ih _ _ _)
  exact hlines _ s va _

theorem State.vaPut_jobsButRun (s : State) (o : Origin) (p : Nat) (space : List MapRun) (va : Nat) (ws : List TWord) : JobsButRun s (s.vaPut o p space va ws).1 := by
  unfold State.vaPut
  dsimp only
  split
  · exact .refl s
  · split
    next hwrite => exact State.hbmWrite_jobsButRun hwrite
    next => exact .refl s

theorem State.vaWrite_jobsButRun (s : State) (o : Origin) (p : Nat) (space : List MapRun) (va : Nat) (ws : List TWord) : JobsButRun s (s.vaWrite o p space va ws).s := by
  have hlines : ∀ k (s : State) va ws, JobsButRun s (State.writeLines o p space k s va ws).1 := by
    intro k
    induction k with
    | zero => exact fun s _ _ => .refl s
    | succ k ih => exact fun s va ws => (s.vaPut_jobsButRun o p space va _).trans (ih _ _ _)
  exact hlines _ s va ws

/-! ### Areas and the restore (R381, R393) -/

theorem State.areaBytes_jobsButRun (s : State) (p : Nat) (mirror : Bool) (off n : Nat) : JobsButRun s (s.areaBytes p mirror off n).1 := by
  have hbulk : ∀ (b : Bulk) m, JobsButRun s b.s → JobsButRun s (b.bytes m).1 := by
    intro b m h
    unfold Bulk.bytes
    split
    · exact h
    · split <;> exact h
  unfold State.areaBytes
  split
  · exact .refl s
  · split
    · exact .refl s
    · exact hbulk _ _ (s.vaRead_jobsButRun _ _ _ _ _)

theorem State.areaRecords_jobsButRun (s : State) (p : Nat) (mirror : Bool) (c : Nat) : JobsButRun s (s.areaRecords p mirror c).1 := by
  refine JobsButRun.foldl_fst (fun acc _ => ?_) _ (s, Status.done, ([] : List (List Byte)), 0)
  split
  · exact .refl _
  · dsimp only
    split
    · exact acc.1.areaBytes_jobsButRun _ _ _ _
    · exact (acc.1.areaBytes_jobsButRun _ _ _ _).trans (State.areaBytes_jobsButRun _ _ _ _ _)

theorem State.putStream_jobsButRun (s : State) (p : Nat) (l : Layout) (stream : List Byte) : JobsButRun s (s.putStream p l stream).1 := by
  unfold State.putStream
  dsimp only
  refine JobsButRun.foldl_fst (β := Status × Nat) ?_ _ (s, Status.done, 0)
  intro acc q
  split
  · exact .refl _
  · dsimp only
    exact acc.1.vaWrite_jobsButRun (.sysChan p) p (s.job p).space q.1 (cleanWords ((stream.drop acc.2.2).take q.2))

theorem State.refill_jobs (s : State) (p : Nat) : (s.refill p).jobs = s.jobs := by
  unfold State.refill
  refine foldl_keeps (g := State.jobs) ?_ _ s
  exact fun a g => rfl

theorem State.loadRegion_jobsButRun (s : State) (p t : Nat) (r : Resident) : JobsButRun s (s.loadRegion p t r) := by
  unfold State.loadRegion
  exact (s.vaRead_jobsButRun _ _ _ _ _).trans (.of_jobs rfl)

theorem State.loadCommitted_jobsButRun (s : State) (p : Nat) : JobsButRun s (s.loadCommitted p) := by
  unfold State.loadCommitted
  dsimp only
  split
  · exact .refl s
  · refine .foldl (fun a l => ?_) _ s
    split
    · exact .foldl (fun x r => x.loadRegion_jobsButRun p _ r) _ a
    · exact .refl a

theorem State.labelRange_jobs (s : State) (p : Nat) (space : List MapRun) (va n label : Nat) : (s.labelRange p space va n label).jobs = s.jobs := by
  unfold State.labelRange
  split <;> rfl

theorem State.putLabels_jobs (s : State) (p : Nat) (d : Sched) : (s.putLabels p d).jobs = s.jobs := by
  unfold State.putLabels
  dsimp only
  refine (foldl_keeps (g := State.jobs) (fun a l => ?_) _ _).trans (foldl_keeps (g := State.jobs) (fun a i => a.labelRange_jobs _ _ _ _ _) _ s)
  split <;> rfl

theorem State.putPrograms_jobs (s : State) (p : Nat) (d : Sched) : (s.putPrograms p d).jobs = s.jobs := by
  unfold State.putPrograms
  refine foldl_keeps (g := State.jobs) (fun a i => ?_) _ s
  split <;> rfl

/-- A job with an image, changed and still with one, is the job then. -/
theorem State.job_updJob {s : State} {p : Nat} {f : Job → Job} {im : Image} (h : (f (s.job p)).image = some im) : (s.updJob p f).job p = f (s.job p) :=
  s.job_setJob p fun hreset => nomatch h.symm.trans (congrArg Job.image hreset)

/-- The schedule record applied leaves the image, and the step state that it holds (R393 step 4). -/
theorem State.putSched_job {s : State} {p : Nat} {im : Image} (d : Sched) (him : (s.job p).image = some im) :
    ((s.putSched p d).job p).image = some im ∧ ((s.putSched p d).job p).step = d.step := by
  unfold State.putSched
  extract_lets s1 s2 s3
  have h1 : s1.job p = { s.job p with step := d.step, lossPolicy := d.lossPolicy, lossInForce := d.lossPolicy, gfmtPolicy := d.gfmtPolicy, retryCfg := d.retry } :=
    State.job_updJob him
  have hjobs : s3.jobs = s1.jobs := (State.putPrograms_jobs _ p d).trans (State.putLabels_jobs _ p d)
  have h3 : s3.job p = s1.job p := congrArg (fun m => Store.get Job.reset m p) hjobs
  have himage : (s3.job p).image = some im := by rw [h3, h1]; exact him
  have hstep : (s3.job p).step = d.step := by rw [h3, h1]
  have h4 : (s3.updJob p fun j => { j with fresh := false }).job p = { s3.job p with fresh := false } := State.job_updJob himage
  have hload := (s3.updJob p fun j => { j with fresh := false }).loadCommitted_jobsButRun p
  exact ⟨(hload.image p).trans (h4 ▸ himage), (hload.step p).trans (h4 ▸ hstep)⟩

/-- A schedule record has no live copy: a restore writes copy 0 (R393). -/
theorem Sched.ofBytes_live (bs : List Byte) (quota ltiles pages owners : Nat) : (Sched.ofBytes bs quota ltiles pages owners).step.live = 0 := rfl

/-- Of a state and a status: if DONE, the image stands with copy 0 live. -/
def LeavesCopyZero (p : Nat) (im : Image) (r : State × Status) : Prop := r.2 = .done → (r.1.job p).image = some im ∧ (r.1.job p).step.live = 0

theorem LeavesCopyZero.of_ne {p : Nat} {im : Image} (s : State) {st : Status} (h : st ≠ .done) : LeavesCopyZero p im (s, st) := fun hdone => absurd hdone h

theorem LeavesCopyZero.ite {p : Nat} {im : Image} {c : Prop} [Decidable c] {a b : State × Status} (ha : c → LeavesCopyZero p im a) (hb : LeavesCopyZero p im b) :
    LeavesCopyZero p im (if c then a else b) := by
  split
  next hc => exact ha hc
  next => exact hb

/-- Steps 2 to 4 of a restore leave copy 0 live. openStates is held as a variable, which keeps the kernel from computing the count of the records. -/
theorem State.applyCopy_leavesCopyZero {s : State} {p serial epoch nonce : Nat} {l : Layout} {recs : List (List Byte)} {im : Image} (him : (s.job p).image = some im) :
    LeavesCopyZero p im (s.applyCopy p serial epoch nonce l recs) := by
  obtain ⟨f, hf⟩ : ∃ f, f = State.openStates := ⟨_, rfl⟩
  have htext : @State.applyCopy = @State.applyCopy := rfl
  conv at htext =>
    rhs
    delta State.applyCopy
  rw [htext]
  beta_reduce
  rw [← hf]
  dsimp only
  refine .ite (.of_ne _) (.ite (.of_ne _) (.ite (.of_ne _) fun _ => ?_))
  have hrefilled := JobsButRun.of_jobs ((s.updSnap p fun x => { x with area := .restoring }).refill_jobs p)
  have hput := fun stream => (hrefilled.trans (State.putStream_jobsButRun _ p l stream)).image p
  exact (State.putSched_job _ ((hput _).trans him)).imp_right fun hstep => (congrArg StepState.live hstep).trans (Sched.ofBytes_live _ _ _ _ _)

/-- A restore that ends DONE leaves copy 0 live, the area COMPLETE, and a run allowed again (R393). -/
theorem State.restoreFrom_done {s : State} {p serial epoch : Nat} {root : BitVec 256} (h : (s.restoreFrom p serial epoch root).2 = .done) :
    let u := (s.restoreFrom p serial epoch root).1
    (u.job p).restorePending = false ∧ (u.job p).step.live = 0 ∧ (u.snap p).area = .complete := by
  revert h
  fun_cases State.restoreFrom s p serial epoch root
  case case5 im him l s0 s1 st recs hread hst m nonce hopen hroot hshape s2 st2 happly s3 =>
    rintro rfl
    have hpending : (s0.job p).image = some im := (congrArg Job.image (State.job_updJob (f := fun j => { j with restorePending := true }) him)).trans him
    have hread1 := (s0.areaRecords_jobsButRun p false (snapCount l)).image p
    rw [hread] at hread1
    have happlied := State.applyCopy_leavesCopyZero (serial := serial) (epoch := epoch) (nonce := nonce) (l := l) (recs := recs) (hread1.trans hpending)
    rw [happly] at happlied
    obtain ⟨himage, hlive⟩ := happlied rfl
    have hjob : (s3.updJob p fun j => { j with restorePending := false }).job p = { s3.job p with restorePending := false } := State.job_updJob himage
    have hsnap := s2.snap_updSnap p (fun x => { x with area := .complete }) fun hreset => nomatch congrArg SnapPart.area hreset
    exact ⟨congrArg Job.restorePending hjob, (congrArg (fun j : Job => j.step.live) hjob).trans hlive, congrArg SnapPart.area hsnap⟩
  case case6 hbad _ => exact fun hdone => (hbad hdone).elim
  all_goals exact fun hdone => nomatch hdone

/-- A fill that ends DONE leaves its copy in the local area (R392). -/
theorem State.fillWith_done {s : State} {p serial epoch : Nat} {put : Bool} {recs : List (List Byte)} (h : (s.fillWith p serial epoch put recs).2 = .done) :
    ((s.fillWith p serial epoch put recs).1.snap p).area = .complete ∧ ((s.fillWith p serial epoch put recs).1.snap p).epoch = epoch := by
  revert h
  fun_cases State.fillWith s p serial epoch put recs
  case case1 =>
    intro _
    refine ⟨(congrArg SnapPart.area (State.snap_updSnap _ p _ ?_)).trans rfl, (congrArg SnapPart.epoch (State.snap_updSnap _ p _ ?_)).trans rfl⟩
    all_goals exact fun hreset => nomatch congrArg SnapPart.area hreset
  case case2 hbad => exact fun hdone => absurd hdone hbad

section
variable {s : State} {fn : Fin 17} {q : Fin 8192} {ctx : Nat} {c : Cmd}

/-- FILL_CHECK judges the records that lie in the local area (R392). areaRecords is held as a variable, which keeps the kernel from computing the count of the records. -/
theorem execFillCheck_ready {a1 : State} {l : Layout} {recs : List (List Byte)} (hr : HostReady s fn q 0x44 ctx c) (hl : s.layoutOf (fnPart fn) = some l) (hfree : (s.snap (fnPart fn)).free = true)
    (harea : (s.snap (fnPart fn)).localArea.isSome = true) (hrecs : (started s fn q c).areaRecords (fnPart fn) false (snapCount l) = (a1, .done, recs)) :
    let r := a1.fillWith (fnPart fn) c.entry.p1 c.entry.p2 false recs
    execFillCheck fn q s = .next (completes r.1 fn q c r.2 0 0) := by
  obtain ⟨records, hrecords⟩ : ∃ records, records = State.areaRecords := ⟨_, rfl⟩
  unfold execFillCheck
  rw [← hrecords] at hrecs ⊢
  have hlayout : (started s fn q c).layoutOf (fnPart fn) = some l := hl
  have hstands : ¬((!((started s fn q c).snap (fnPart fn)).free) = true ∨ ((started s fn q c).snap (fnPart fn)).localArea.isNone = true) := by
    have h1 : ((started s fn q c).snap (fnPart fn)).free = true := hfree
    have h2 : ((started s fn q c).snap (fnPart fn)).localArea.isNone = false := Option.isNone_eq_false_iff.2 harea
    simp [h1, h2]
  exact congrArg Host.Outcome.next (State.hostCmd_completes hr (by simp only [hlayout, hstands, if_false, hrecs]; rfl))

/-- RESTORE of the copy held while no run stands (R393). -/
theorem execRestore_ready {x : Copy} {bs : List Byte} (hr : HostReady s fn q 0x45 ctx c) (hsess : (s.part (fnPart fn)).sess = .active) (hrun : (s.job (fnPart fn)).run = none)
    (hcomplete : (s.snap (fnPart fn)).area = .complete) (hx : (s.snap (fnPart fn)).localCopy = some x) (hserial : x.serial = c.entry.p1) (hepoch : x.epoch = c.entry.p2)
    (hroot : x.root = BitVec.ofNat 256 (field bs 0 32)) :
    let r := (started s fn q c).restoreFrom (fnPart fn) c.entry.p1 c.entry.p2 x.root
    execRestore fn q (some bs) s = .next (completes (r.1.updSnap (fnPart fn) fun y => { y with lastStatus := r.2 }) fn q c r.2 0 0) := by
  have hpass : ¬(((started s fn q c).part (fnPart fn)).sess ≠ .active ∨ ((started s fn q c).job (fnPart fn)).run.isSome = true ∨ ((started s fn q c).snap (fnPart fn)).area ≠ .complete ∨
      (!match ((started s fn q c).snap (fnPart fn)).localCopy with
        | some y => decide (y.serial = c.entry.p1 ∧ y.epoch = c.entry.p2 ∧ y.root = BitVec.ofNat 256 (field bs 0 32))
        | none => false) = true) := by
    have h2 : ((started s fn q c).job (fnPart fn)).run = none := hrun
    have h3 : ((started s fn q c).snap (fnPart fn)).area = .complete := hcomplete
    have h4 : ((started s fn q c).snap (fnPart fn)).localCopy = some x := hx
    simp [hsess, h2, h3, h4, hserial, hepoch, hroot]
  refine congrArg Host.Outcome.next (State.hostCmd_completes hr ?_)
  rw [hroot]
  exact if_neg hpass

end

/-- Settles O38: a fill and a restore go through their checks; what each leaves when it ends DONE is the lemmas above. -/
theorem fillsAndRestoresComplete : Obligations.FillsAndRestoresComplete := by
  intro fn q ctx c bs l s
  dsimp only
  refine ⟨fun x hr hsrc hfind hfree harea => ⟨?_, State.fillWith_done⟩, fun b hr hsrc hout => ?_, fun a1 recs hr hl hfree harea hrecs => execFillCheck_ready hr hl hfree harea hrecs,
    fun x hr hsess hrun hcomplete hx hserial hepoch hroot => ⟨execRestore_ready hr hsess hrun hcomplete hx hserial hepoch hroot, State.restoreFrom_done⟩⟩
  · have hfound : (started s fn q c).flash.find ((started s fn q c).sessionId (fnPart fn)) c.entry.p1 c.entry.p2 = some x := hfind
    have hstands : ¬((!((started s fn q c).snap (fnPart fn)).free) = true ∨ ((started s fn q c).snap (fnPart fn)).localArea.isNone = true) := by
      have h1 : ((started s fn q c).snap (fnPart fn)).free = true := hfree
      have h2 : ((started s fn q c).snap (fnPart fn)).localArea.isNone = false := Option.isNone_eq_false_iff.2 harea
      simp [h1, h2]
    exact congrArg Host.Outcome.next (State.hostCmd_completes hr (by simp only [hsrc, hfound, hstands, if_false]; rfl))
  · exact congrArg Host.Outcome.next (State.hostCmd_runs hr (by simp only [hsrc, hout]; rfl))

end Sys2Proof.Machine
end

section
/-! SUPPORT. TIME and its sources (R455 to R458); the obligation on it. -/

namespace Sys2Proof.Machine

/-! ### TIME and its sources (R455 to R458) -/

section
variable {f g : Fwm} (h : f.Logged g)
include h

theorem Fwm.Logged.best : g.best = f.best := (congrArg Fwm.best h :)
theorem Fwm.Logged.masters : g.masters = f.masters := (congrArg Fwm.masters h :)
theorem Fwm.Logged.lastPps : g.lastPps = f.lastPps := (congrArg Fwm.lastPps h :)
theorem Fwm.Logged.lastSync : g.lastSync = f.lastSync := (congrArg Fwm.lastSync h :)
theorem Fwm.Logged.locked : g.locked = f.locked := (congrArg Fwm.locked h :)
theorem Fwm.Logged.port : g.port = f.port := (congrArg Fwm.port h :)
theorem Fwm.Logged.offset : g.offset = f.offset := (congrArg Fwm.offset h :)

end

/-- An offset removed: what TIME's registers hold of it, the source left as it is (R458). -/
theorem State.servo_fwm (s : State) (off : Int) :
    (s.servo off).fwm.offset = sat32 off ∧ (s.servo off).fwm.slew = (if 1000000 < off.natAbs then 0 else off) ∧ (s.servo off).fwm.source = s.fwm.source ∧
      (s.servo off).fwm.port = s.fwm.port ∧ (s.servo off).fwm.lastSync = s.fwm.lastSync ∧ (s.servo off).fwm.lastPps = s.fwm.lastPps := by
  unfold State.servo Fwm.correct
  dsimp only
  by_cases hstep : 1000000 < off.natAbs
  · simp only [hstep, if_true]
    have h := State.trace_logged { s with fwm := { s.fwm with
      time := (((s.fwm.time : Int) - off) % 2 ^ 64).toNat, slew := 0, offset := sat32 off, good := if off.natAbs ≤ 100 then Nat.min (s.fwm.good + 1) 16 else 0,
      locked := decide ((if off.natAbs ≤ 100 then Nat.min (s.fwm.good + 1) 16 else 0) = 16) } } 0x0500 noPart 0 [(off % 2 ^ 64).toNat]
    exact ⟨h.offset, h.slew, h.source, h.port, h.lastSync, h.lastPps⟩
  · simp only [hstep, if_false]
    exact ⟨rfl, rfl, rfl, rfl, rfl, rfl⟩

/-- With no PTP source, and whichever local one is taken, the masters and TIME stand (R457). -/
theorem State.localSource_logged (s : State) : ∃ locked good source, ({ s.fwm with locked := locked, good := good, source := source } : Fwm).Logged s.localSource.fwm := by
  unfold State.localSource
  extract_lets valid
  split
  · exact ⟨_, _, _, s.setSource_logged 3⟩
  · exact ⟨_, _, _, State.setSource_logged _ 0⟩

/-- With no pulse held TIME runs free (R457). -/
theorem State.localSource_free {s : State} (h : s.fwm.lastPps = none) : ({ s.fwm with locked := false, good := 0, source := 0 } : Fwm).Logged s.localSource.fwm := by
  simp only [State.localSource, h, Bool.false_eq_true, if_false]
  exact State.setSource_logged _ 0

/-- A Sync from the chosen port makes its master the source, and its offset is removed (R457). -/
theorem execPtpSync_chosen {s : State} {k : Fin 36} (origin corr : Nat) (hport : s.ptpPort k = true) (hbest : s.fwm.best = some k.val) :
    let o : Int := (s.fwm.time : Int) - ((origin + corr : Nat) : Int) - s.fwm.meanDelay
    Answers (execPtpSync k origin corr s) fun u => u.fwm.source = 1 ∧ u.fwm.port = k ∧ u.fwm.offset = sat32 o ∧ u.fwm.lastSync = some (k.val, origin + corr, s.fwm.time) ∧
      u.fwm.slew = (if 1000000 < o.natAbs then 0 else o) := by
  have htakes : ¬((!s.ptpPort k) = true ∨ s.fwm.best ≠ some k.val) := by simp [hport, hbest]
  refine ⟨_, if_neg htakes, ?_⟩
  beta_reduce
  have hset := State.setSource_logged { s with fwm := { s.fwm with
    port := k, lastSync := some (k.val, origin + corr, s.fwm.time), good := if decide (s.fwm.source ≠ 1 ∨ s.fwm.port ≠ k.val) then 0 else s.fwm.good,
    locked := s.fwm.locked && !decide (s.fwm.source ≠ 1 ∨ s.fwm.port ≠ k.val) } } 1
  obtain ⟨hoffset, hslew, hsource, hportKept, hsync, -⟩ := State.servo_fwm (State.setSource { s with fwm := { s.fwm with
    port := k, lastSync := some (k.val, origin + corr, s.fwm.time), good := if decide (s.fwm.source ≠ 1 ∨ s.fwm.port ≠ k.val) then 0 else s.fwm.good,
    locked := s.fwm.locked && !decide (s.fwm.source ≠ 1 ∨ s.fwm.port ≠ k.val) } } 1) ((s.fwm.time : Int) - ((origin + corr : Nat) : Int) - s.fwm.meanDelay)
  exact ⟨hsource.trans hset.source, hportKept.trans hset.port, hoffset, hsync.trans hset.lastSync, hslew⟩

/-- A good pulse becomes the source where no PTP source is held, and TIME is aligned to it (R457). -/
theorem execPpsPulse_good {s : State} {width : Nat} (hclk : s.pwr.runs clkTime = true) (hwidth : 100 ≤ width) (hnear : s.fwm.ppsOffset.natAbs ≤ 100000) (hno1 : s.fwm.source ≠ 1) (hno2 : s.fwm.source ≠ 2) :
    Answers (execPpsPulse width s) fun u => u.fwm.source = 3 ∧ u.fwm.lastPps = some s.fwm.mono ∧ u.fwm.slew = s.fwm.ppsOffset := by
  have hgood : ¬(width < 100 ∨ 100000 < s.fwm.ppsOffset.natAbs) := by omega
  refine ⟨(State.setSource { s with fwm := { s.fwm with lastPps := some s.fwm.mono } } 3).servo s.fwm.ppsOffset, ?_, ?_⟩
  · simp only [execPpsPulse, hclk, Bool.not_true, Bool.false_eq_true, if_false, hgood, hno1, hno2, or_self]
  have hset := State.setSource_logged { s with fwm := { s.fwm with lastPps := some s.fwm.mono } } 3
  obtain ⟨-, hslew, hsource, -, -, hpps⟩ := (State.setSource { s with fwm := { s.fwm with lastPps := some s.fwm.mono } } 3).servo_fwm s.fwm.ppsOffset
  have hsmall : ¬ 1000000 < s.fwm.ppsOffset.natAbs := by omega
  exact ⟨hsource.trans hset.source, hpps.trans hset.lastPps, hslew.trans (if_neg hsmall)⟩

/-- One port's share of a Sync interval (R456). -/
def State.syncPort (announce : Bool) (a : State) (k : Nat) : State :=
  if !a.ptpPort k then a
  else if a.fwm.best = some k then ({ a with fwm := { a.fwm with delayReq := Store.set 0 a.fwm.delayReq k a.fwm.time } }).emit [.ptp k 1 []]
  else a.emit ([.ptp k 0 [], .ptp k 8 (natBytes a.fwm.time 8)] ++ (if announce then [.ptp k 0xB (natBytes a.fwm.domain 1 ++ a.announced.bytes)] else []))

/-- From s to u only Delay_Req times are noted, and what left the module has left it. -/
def SyncSent (s u : State) : Prop := ∃ o r, u = { s with out := o ++ s.out, fwm := { s.fwm with delayReq := r } }

theorem SyncSent.trans {s t u : State} (h : SyncSent s t) (k : SyncSent t u) : SyncSent s u := by
  obtain ⟨o, r, rfl⟩ := h
  obtain ⟨o', r', rfl⟩ := k
  exact ⟨o' ++ o, r', by simp⟩

theorem State.syncPort_sent (announce : Bool) (a : State) (k : Nat) : SyncSent a (a.syncPort announce k) := by
  unfold State.syncPort
  split
  · exact ⟨[], a.fwm.delayReq, rfl⟩
  · split
    · exact ⟨_, _, rfl⟩
    · exact ⟨_, a.fwm.delayReq, rfl⟩

theorem State.syncPorts_sent (announce : Bool) (ks : List Nat) (s : State) : SyncSent s (ks.foldl (State.syncPort announce) s) := by
  induction ks generalizing s with
  | nil => exact ⟨[], s.fwm.delayReq, rfl⟩
  | cons k ks ih => exact (s.syncPort_sent announce k).trans (ih _)

/-- A port that is not the source's sends the two-step Sync's time (R456). -/
theorem State.syncPorts_mem {announce : Bool} {ks : List Nat} {s : State} {k : Nat} (hk : k ∈ ks) (hport : s.ptpPort k = true) (hbest : s.fwm.best ≠ some k) :
    Out.ptp k 8 (natBytes s.fwm.time 8) ∈ (ks.foldl (State.syncPort announce) s).out := by
  induction ks generalizing s with
  | nil => cases hk
  | cons j ks ih =>
    obtain ⟨o, r, hsent⟩ := s.syncPort_sent announce j
    rcases List.mem_cons.1 hk with rfl | hlater
    · have hnow : Out.ptp k 8 (natBytes s.fwm.time 8) ∈ (s.syncPort announce k).out := by
        simp [State.syncPort, hport, hbest, State.emit]
      obtain ⟨o', r', hrest⟩ := State.syncPorts_sent announce ks (s.syncPort announce k)
      rw [List.foldl_cons, hrest]
      exact List.mem_append_right _ hnow
    · have hthen := ih (s := s.syncPort announce j) hlater (by rw [hsent]; exact hport) (by rw [hsent]; exact hbest)
      have htime : (s.syncPort announce j).fwm.time = s.fwm.time := by rw [hsent]
      rwa [htime] at hthen

/-- Settles O48: event by event, with what each leaves of TIME read off the log's frame. -/
theorem timeFollowsItsSource : Obligations.TimeFollowsItsSource := by
  intro k origin corr received width data cs dom an t1 t2 s
  dsimp only
  refine ⟨execPtpSync_chosen origin corr, fun hport hbest => ?_, fun hport hbest hsync => ?_, fun hport hdom => ?_, fun hsource => ?_, fun hsource hpps => ?_, fun hclk => ⟨fun hbad => ?_, execPpsPulse_good hclk⟩, fun hsource => ?_, ?_⟩
  · exact congrArg Host.Outcome.next (if_pos (by simp [hport, hbest]))
  · show execPtpDelayResp k received s = _
    simp [execPtpDelayResp, hsync, hport, hbest]
  · have htakes : ¬((!s.ptpPort k) = true ∨ dom.val ≠ s.fwm.domain) := by simp [hport, hdom]
    refine ⟨_, if_neg htakes, ?_⟩
    beta_reduce
    split
    · obtain ⟨locked, good, source, hlocal⟩ := State.localSource_logged { s with fwm := { s.fwm with
        masters := Store.set none s.fwm.masters k (some cs), best := bestMaster (s.fwm.ownSet s.sec.fuses.serial).key (Store.set none s.fwm.masters k (some cs)) } }
      exact ⟨hlocal.masters, hlocal.best, hlocal.time⟩
    · exact ⟨rfl, rfl, rfl⟩
  · have hset := State.setSource_logged { s with fwm := { s.fwm with masters := [], best := none, heldSix := decide (s.fwm.ownClass = 6) } } 2
    exact ⟨_, congrArg Host.Outcome.next (if_pos hsource), hset.source, hset.masters, hset.best, hset.time⟩
  · have hfree := State.localSource_free (s := { s with fwm := { s.fwm with heldSix := false } }) hpps
    exact ⟨_, congrArg Host.Outcome.next (if_pos hsource), hfree.source, hfree.locked, hfree.time⟩
  · show execPpsPulse width s = _
    simp only [execPpsPulse, hclk, Bool.not_true, Bool.false_eq_true, if_false, hbad, if_true]
  · have hfree := State.localSource_free (s := { s with fwm := { s.fwm with lastPps := none } }) rfl
    exact ⟨_, congrArg Host.Outcome.next (if_pos hsource), hfree.source, hfree.locked, hfree.lastPps⟩
  · refine ⟨(List.range 32).foldl (State.syncPort an) s, rfl, ?_⟩
    obtain ⟨o, r, hsent⟩ := State.syncPorts_sent an (List.range 32) s
    refine ⟨by rw [hsent], by rw [hsent], fun j hj hport hbest => State.syncPorts_mem (List.mem_range.2 hj) hport hbest⟩

end Sys2Proof.Machine
end

section
/-! SUPPORT. Granule commands (Table 9.13); the obligation on them. -/

namespace Sys2Proof.Machine

/-! ### Granule commands (Table 9.13) -/

section
variable {h : Hbm} {g : Nat} (hg : g < 1013)
include hg

/-- CARVE of a FREE granule for a partition. -/
theorem Hbm.carve_free (p slot : Nat) (hfree : (h.gran g).state = .free) :
    (h.carve p g slot false).gran g = ⟨.filling, p, .prot⟩ ∧ (h.carve p g slot false).waiting = h.waiting ++ [⟨.fill, p, g, 0, 0⟩] ∧
      (h.carve p g slot false).lastStatus = .done ∧ (h.carve p g slot false).lines = h.lines := by
  have hmay : ¬((h.gran g).state ≠ .free ∨ 1013 ≤ g) := by simp [hfree, hg]
  have hset := Hbm.gran_setGran (h := h) (x := ⟨.filling, p, .prot⟩) hg (by simp [Gran.free])
  simp only [Hbm.carve, hmay, if_false, Bool.false_eq_true]
  exact ⟨hset, rfl, rfl, rfl⟩

/-- STAGE of a FREE granule. -/
theorem Hbm.stage_free (p : Nat) (hfree : (h.gran g).state = .free) :
    (h.stage p g).gran g = ⟨.filling, p, .staging⟩ ∧ (h.stage p g).waiting = h.waiting ++ [⟨.fill, p, g, 0, 0⟩] ∧ (h.stage p g).lastStatus = .done := by
  have hmay : ¬((h.gran g).state ≠ .free ∨ 1013 ≤ g) := by simp [hfree, hg]
  have hset := Hbm.gran_setGran (h := h) (x := ⟨.filling, p, .staging⟩) hg (by simp [Gran.free])
  simp only [Hbm.stage, hmay, if_false]
  exact ⟨hset, rfl, trivial⟩

/-- UNSTAGE of a STAGING granule. -/
theorem Hbm.unstage_staging (hst : (h.gran g).state = .staging) :
    (h.unstage g).gran g = ⟨.filling, (h.gran g).owner, .free⟩ ∧ (h.unstage g).waiting = h.waiting ++ [⟨.fill, (h.gran g).owner, g, 0, 0⟩] := by
  have hset := Hbm.gran_setGran (h := h) (x := ⟨.filling, (h.gran g).owner, .free⟩) hg (by simp [Gran.free])
  simp only [Hbm.unstage, hst, ne_eq, not_true_eq_false, if_false]
  exact ⟨hset, rfl⟩

/-- WIPE of a PROTECTED granule. -/
theorem Hbm.wipe_prot (hst : (h.gran g).state = .prot) :
    (h.wipe g).gran g = ⟨.wiping, (h.gran g).owner, .free⟩ ∧ (h.wipe g).waiting = h.waiting ++ [⟨.wipe, (h.gran g).owner, g, 0, 0⟩] := by
  have hset := Hbm.gran_setGran (h := h) (x := ⟨.wiping, (h.gran g).owner, .free⟩) hg (by simp [Gran.free])
  simp only [Hbm.wipe, hst, Nat.not_le.2 hg, if_false]
  exact ⟨hset, rfl⟩

end

/-- A retirement within the limits of R255 withdraws the granule that it takes, and its MIGRATE waits. -/
theorem Hbm.retire_takes {h : Hbm} {c g : Nat} (hg : g < 1013) (hnew : h.isRetired c = false) (hcount : h.retiredCount < 32) (hstack : h.stackRetired (c % 16) < 8) (htake : h.retireGran = some g) :
    (h.retire c false).1.retiring = h.retiring ++ [(c, g)] ∧ ((h.retire c false).1.gran g).state = .withdrawn ∧
      (h.retire c false).1.waiting = h.waiting ++ [⟨.migrate, 0, c, 0, 0⟩] := by
  have hwithin : ¬(32 ≤ h.retiredCount ∨ 8 ≤ h.stackRetired (c % 16)) := by omega
  have hset := Hbm.gran_setGran (h := h) (x := ⟨.withdrawn, 0, .withdrawn⟩) hg (by simp [Gran.free])
  simp only [Hbm.retire, Bool.false_and, Bool.false_eq_true, if_false, hnew, hwithin, htake]
  exact ⟨rfl, congrArg Gran.state hset, rfl⟩

/-- Settles O18: each command is taken, its granule as it must be, and leaves what its lemma says. -/
theorem granuleCommands : Obligations.GranuleCommands := by
  intro p g slot s hup hring hg
  have hcmd : ∀ f, s.mprCmd f = { s with hbm := f s.hbm } := fun f => State.mprCmd_up hup hring f
  refine ⟨fun hfree => ⟨_, congrArg Host.Outcome.next (hcmd _), Hbm.carve_free hg p slot hfree⟩, fun hfree => ⟨_, congrArg Host.Outcome.next (hcmd _), Hbm.stage_free hg p hfree⟩,
    fun hst => ⟨_, congrArg Host.Outcome.next (hcmd _), Hbm.unstage_staging hg hst⟩, fun hst => ⟨_, congrArg Host.Outcome.next (hcmd _), Hbm.wipe_prot hg hst⟩,
    fun pc hnew hcount hstack htake => ?_, fun pc b => congrArg Host.Outcome.next (hcmd _)⟩
  refine ⟨s.retirePc pc false, if_pos (by simp [hup, hring]), ?_⟩
  beta_reduce
  rw [State.retirePc_hbm]
  exact Hbm.retire_takes hg hnew hcount hstack htake

end Sys2Proof.Machine
end

section
/-! SUPPORT. Clock domains, idle timers and the power cap (R468, R469, R472); the obligation on them. -/

namespace Sys2Proof.Machine

/-! ### Clock domains and the power cap (R468, R469, R472) -/

/-- An idle field's clock stops one way or the other; power states and tiles are left alone. -/
theorem State.stopCore_stops (s : State) (f how : Nat) :
    (s.stopCore f how).pwr.coreStop = Store.set 0 s.pwr.coreStop f how ∧ (s.stopCore f how).pwr.state = s.pwr.state ∧ (s.stopCore f how).tiles = s.tiles := by
  unfold State.stopCore
  dsimp only
  split <;> exact ⟨rfl, rfl, rfl⟩

theorem exec_coreGateTimer_idle {s : State} {f : Fin 3} (hus : s.pwr.gateUs ≠ 0) (hrun : s.pwr.runs (3 + f.val) = true) (hidle : s.fieldIdle f = true) :
    Answers (exec (.coreGateTimer f) s) fun u => u.pwr.coreStop = Store.set 0 s.pwr.coreStop f 1 ∧ u.pwr.state = s.pwr.state ∧ u.tiles = s.tiles := by
  refine ⟨_, ?_, s.stopCore_stops f 1⟩
  show Host.Outcome.next (if _ then _ else _) = _
  rw [if_pos (by simp [hus, hrun, hidle])]

theorem exec_corePllOffTimer_idle {s : State} {f : Fin 3} (hms : s.pwr.pllMs ≠ 0) (hpast : s.boot.past 3 = true) (hon : Store.get 0 s.pwr.coreStop f ≠ 2)
    (hidle : s.fieldIdle f = true) :
    Answers (exec (.corePllOffTimer f) s) fun u => u.pwr.coreStop = Store.set 0 s.pwr.coreStop f 2 ∧ u.pwr.state = s.pwr.state ∧ u.tiles = s.tiles := by
  refine ⟨_, ?_, s.stopCore_stops f 2⟩
  show Host.Outcome.next (if _ then _ else _) = _
  rw [if_pos (by simp [hms, hpast, hon, hidle])]

/-- A stopped core clock that may wake runs again, its field no longer stopped. -/
theorem exec_clockWakeComplete_core {s : State} {f : Fin 3} {clk : Fin 17} (hclk : clk.val = f.val + 2) (hmay : s.mayWake (clk.val + 1) = true)
    (hstop : s.pwr.runs (clk.val + 1) = false) :
    exec (.clockWakeComplete clk) s
      = .next { s with pwr := { s.pwr with running := (s.pwr.startClk (clk.val + 1)).running, coreStop := Store.set 0 s.pwr.coreStop f 0 } } := by
  have hcore : 3 ≤ clk.val + 1 ∧ clk.val + 1 ≤ 5 := by omega
  have hfield : clk.val + 1 - 3 = f.val := by omega
  show execClockWakeComplete clk s = _
  unfold execClockWakeComplete
  dsimp only
  rw [if_pos (by simp [hmay, hstop]), if_pos hcore, hfield]
  rfl

/-- A stack enters self-refresh; with all sixteen there HBMC, HBMPHY and CRYPTO stop. -/
theorem exec_hbmSelfRefreshTimer_awake {s : State} {stack : Fin 16} (hus : s.pwr.srUs ≠ 0) (hpast : s.boot.past 3 = true)
    (hawake : bit s.pwr.selfRefresh stack = false) :
    let sr := setBits s.pwr.selfRefresh stack 1 1
    (sr ≠ 65535 → exec (.hbmSelfRefreshTimer stack) s = .next { s with pwr := { s.pwr with selfRefresh := sr } }) ∧
    (sr = 65535 → exec (.hbmSelfRefreshTimer stack) s
      = .next { s with pwr := { s.pwr with selfRefresh := sr, running := (((s.pwr.stopClk 7).stopClk 8).stopClk 9).running } }) := by
  intro sr
  have hrun : exec (.hbmSelfRefreshTimer stack) s = .next { s with pwr :=
      if sr = 65535 then ((({ s.pwr with selfRefresh := sr }.stopClk 7).stopClk 8).stopClk 9) else { s.pwr with selfRefresh := sr } } :=
    if_pos (by simp [hus, hpast, hawake])
  constructor <;> intro hsr
  · rw [hrun, if_neg hsr]
  · rw [hrun, if_pos hsr]
    rfl

theorem exec_setPwrCap_legal {s : State} {w : BitVec 16} (hup : s.aonUp = true) (hscr : s.scrapped = false) (hlegal : capLegal w.toNat = true) :
    exec (.setPwrCap w) s = .next (({ s with pwr := { s.pwr with cap := w.toNat } }).emit [.sideband sbReply .done [0]]) := by
  show execSetPwrCap w s = _
  unfold execSetPwrCap
  rw [if_neg (by simp [hup]), if_neg (by simp [hscr]), if_pos hlegal]
  rfl

theorem exec_setPwrCap_refused {s : State} {w : BitVec 16} (hup : s.aonUp = true) (hscr : s.scrapped = false) (hlegal : capLegal w.toNat = false) :
    Answers (exec (.setPwrCap w) s) fun u => u.pwr = s.pwr ∧ u.out = .sideband sbReply .done [pldmInvalidData] :: s.out := by
  refine ⟨(s.reply .done [pldmInvalidData]).refusal 1 0x02, ?_, rfl, rfl⟩
  show execSetPwrCap w s = _
  unfold execSetPwrCap
  rw [if_neg (by simp [hup]), if_neg (by simp [hscr]), if_neg (by simp [hlegal])]

/-- A sample of the cap controller while the main rails are up. -/
theorem exec_capControlSample_up {s : State} {x : Nat} (haon : s.pwr.aon = true) (hup : s.pwr.state ≠ .standby) (hx : x < 65536) :
    exec (.capControlSample x) s = .next { s with pwr := s.pwr.sample x } := by
  show Host.Outcome.next (if _ then { s with pwr := s.pwr.sample (x % 65536) } else _) = _
  rw [if_pos (by simp [haon, hup]), Nat.mod_eq_of_lt hx]

section
variable {p : Power} {x : Nat}

theorem Power.sample_above (hcap : p.cap < x) : p.sample x = { p with inW := x, duty := Nat.max 8 (p.duty - 1), below := 0 } := if_pos hcap

theorem Power.sample_belowCounted (hcap : x ≤ p.cap) (hlow : x * 100 < p.cap * 95) (hrow : p.below < 49) :
    p.sample x = { p with inW := x, below := p.below + 1 } := by
  unfold Power.sample
  rw [if_neg (by omega), if_pos hlow, if_pos (by omega)]

/-- The 50th sample in a row below 95% raises d by one, never above the level's ceiling. -/
theorem Power.sample_raises (hcap : x ≤ p.cap) (hlow : x * 100 < p.cap * 95) (hrow : p.below = 49) (hduty : p.duty < dutyCeiling p.level) :
    p.sample x = { p with inW := x, below := 0, duty := p.duty + 1 } := by
  have hone : max p.duty (min (p.duty + 1) (max 8 (dutyCeiling p.level))) = p.duty + 1 := by omega
  unfold Power.sample
  rw [if_neg (by omega), if_pos hlow, if_neg (by omega), hone]

theorem Power.sample_endsRow (hcap : x ≤ p.cap) (hhigh : p.cap * 95 ≤ x * 100) : p.sample x = { p with inW := x, below := 0 } := by
  unfold Power.sample
  rw [if_neg (by omega), if_neg (by omega)]

end

theorem exec_mgmtIdleTimer_standby {s : State} (haon : s.pwr.aon = true) (hst : s.pwr.state = .standby) :
    exec .mgmtIdleTimer s = .next { s with pwr := s.pwr.stopClk 15 } :=
  congrArg Host.Outcome.next (if_pos (by simp [haon, hst]))

theorem exec_pwrEmergRead_aon {s : State} (haon : s.pwr.aon = true) :
    exec .pwrEmergRead s = .next (({ s with pwr := { s.pwr with peak := 0 } }).emit [.readData s.pwr.emergWord]) :=
  if_neg (by simp [haon])

/-- Settles O29: timer by timer, then the cap's writes and the samples of its controller. -/
theorem clocksAndPowerCapAct : Obligations.ClocksAndPowerCapAct := by
  refine ⟨fun s f stack => ⟨exec_coreGateTimer_idle, exec_corePllOffTimer_idle, fun clk => exec_clockWakeComplete_core, exec_hbmSelfRefreshTimer_awake,
    exec_mgmtIdleTimer_standby, rfl, rfl⟩, fun s w x => ⟨fun hup hscr => ⟨exec_setPwrCap_legal hup hscr, exec_setPwrCap_refused hup hscr⟩, ?_, exec_pwrEmergRead_aon⟩⟩
  intro haon hup hx
  have hrun {p : Power} (hp : s.pwr.sample x = p) : exec (.capControlSample x) s = .next { s with pwr := p } :=
    hp ▸ exec_capControlSample_up haon hup hx
  exact ⟨fun hcap => hrun (Power.sample_above hcap), fun hcap hlow hrow => hrun (Power.sample_belowCounted hcap hlow hrow),
    fun hcap hlow hrow hduty => hrun (Power.sample_raises hcap hlow hrow hduty), fun hcap hhigh => hrun (Power.sample_endsRow hcap hhigh)⟩

end Sys2Proof.Machine
end

section
/-! SUPPORT. Emergency triggers (R460, R471, R474 to R476); the obligation on them. -/

namespace Sys2Proof.Machine

/-! ### The level that the triggers ask for (R474) -/

theorem foldl_max_le {m : Store Nat} {a l : Nat} : m.foldl (fun acc e => max acc e.2) a ≤ l ↔ a ≤ l ∧ ∀ e ∈ m, e.2 ≤ l := by
  induction m generalizing a with
  | nil => simp
  | cons e m ih => simp [ih, and_assoc]

section
variable {p : Power} {cause l : Nat}

theorem Power.askedLevel_le : p.askedLevel ≤ l ↔ ∀ e ∈ p.asked, e.2 ≤ l := by simp [Power.askedLevel, foldl_max_le]

/-- A trigger that asks for no less than all others decides the level asked for. -/
theorem Power.askedLevel_set (hl : l ≠ 0) (hasked : p.askedLevel ≤ l) : ({ p with asked := Store.set 0 p.asked cause l }).askedLevel = l := by
  apply Nat.le_antisymm
  · refine Power.askedLevel_le.2 fun e he => ?_
    obtain ⟨rfl, -⟩ | he := Store.mem_set he
    · exact Nat.le_refl l
    · exact Power.askedLevel_le.1 hasked e he
  · have hmem : (cause, l) ∈ Store.set 0 p.asked cause l := by
      have hget := Store.mem_of_get (d := 0) (Store.set 0 p.asked cause l) cause
      rw [Store.get_set_same _ _ hl] at hget
      exact hget.resolve_left hl
    exact (Power.askedLevel_le (p := { p with asked := _ })).1 (Nat.le_refl _) _ hmem

/-- A trigger that asks for more than the level in force raises it at once. -/
theorem Power.ask_raises (hlevel : p.level < l) (hasked : p.askedLevel ≤ l) :
    p.ask cause l = { p with asked := Store.set 0 p.asked cause l, level := l, peak := max p.peak l, cause := cause, lastCause := cause } := by
  have hl : l ≠ 0 := by omega
  have hget : max l (Store.get 0 p.asked cause) = l := by
    obtain hzero | hmem := Store.mem_of_get (d := 0) p.asked cause
    · rw [hzero, Nat.max_zero]
    · exact Nat.max_eq_left (Power.askedLevel_le.1 hasked _ hmem)
  have hset : ({ p with asked := Store.set 0 p.asked cause l }).askedLevel = l := Power.askedLevel_set hl hasked
  simp only [Power.ask, hget, hset, hlevel, if_true]

end

/-! ### The way into STANDBY (R475) -/

theorem State.fenceUp_pwr (s : State) (p : Nat) (fault : Bool) : (s.fenceUp p fault).pwr = s.pwr := by
  obtain ⟨x, hsends⟩ := s.fenceUp_sends p fault
  exact (congrArg State.pwr hsends.eq :)

/-- Following the runs changes the power state alone, which STANDBY overwrites. -/
theorem State.follow_standby (s : State) : s.follow.pwr.standby = s.pwr.standby := by
  unfold State.follow
  dsimp only
  split <;> rfl

theorem State.faultEnd_standby (s : State) (p : Nat) (peers : Bool) : (s.faultEnd p peers).pwr.standby = s.pwr.standby := by
  unfold State.faultEnd
  dsimp only
  split
  · rfl
  · rw [State.follow_standby, (State.endRun_calm _ _ _).pwr, (State.setJob_calm _ _ _).pwr, (State.updTiles_calm _ _ _).pwr]
    dsimp only
    rw [apply_ite State.pwr, State.fenceUp_pwr, State.abortAll, (State.emit_calm _ _).pwr, ite_self]

theorem State.endAll_standby (s : State) (st : Status) (peers : Bool) : (s.endAll st peers).pwr.standby = s.pwr.standby := by
  unfold State.endAll
  refine foldl_keeps (g := fun a : State => a.pwr.standby) (fun a p => ?_) _ s
  rw [State.faultEnd_standby, (State.stopRun_calm a p st).pwr]

/-- What a module in STANDBY has left. -/
structure State.InStandby (p : Power) (u : State) : Prop where
  pwr : u.pwr = p.standby
  boot : u.boot = ⟨some 0, true, none⟩
  hbm : u.hbm = .reset
  tiles : u.tiles = []

/-- A shutdown from any power state but STANDBY. -/
theorem State.shutDown_inStandby {s : State} (hup : s.pwr.state ≠ .standby) (cause unit source : Nat) (hardware entry : Bool) :
    (s.shutDown cause unit source hardware entry).InStandby
      { s.pwr with thermtrip := s.pwr.thermtrip || thermal cause, mainOpen := s.pwr.mainOpen || hardware } := by
  unfold State.shutDown
  rw [if_neg hup]
  refine ⟨?_, rfl, rfl, rfl⟩
  dsimp only [State.lose]
  rw [(State.emit_calm _ _).pwr]
  dsimp only
  rw [apply_ite State.pwr, apply_ite Power.standby, State.endAll_standby, ite_self, apply_ite State.pwr, (State.report_calm _ _ _ _ _ _ _).pwr, ite_self]
  rfl

/-- A trigger that raises the level to 4. -/
theorem State.askLevel_shuts {s : State} (hlevel : s.pwr.level < 4) (hasked : s.pwr.askedLevel < 4) (cause unit : Nat) (hardware : Bool) :
    s.askLevel cause 4 unit hardware = ({ s with pwr := s.pwr.ask cause 4 }).shutDown cause unit srcPwr hardware true :=
  if_pos ⟨hlevel, congrArg Power.level (Power.ask_raises hlevel hasked.le)⟩

/-- A rise or a fall is shown; unless held firmware may now start, nothing else follows. -/
theorem State.levelOuts_shows {s : State} {old : Nat} (hheld : s.pwr.level ≠ 0 ∨ s.fwm.held = false) :
    (s.levelOuts old).pwr = s.pwr ∧ (s.levelOuts old).boot = s.boot := by
  unfold State.levelOuts
  dsimp only
  rw [if_neg]
  · split
    · exact ⟨rfl, rfl⟩
    · split <;> exact ⟨rfl, rfl⟩
  · rintro ⟨-, hzero, hheld'⟩
    obtain hne | hfree := hheld
    · exact hne hzero
    · simp [apply_ite State.fwm, State.emit, hfree] at hheld'

/-- A trigger that raises the level below 4. -/
theorem State.askLevel_raises {s : State} {l : Nat} (hl : l < 4) (hlevel : s.pwr.level < l) (hasked : s.pwr.askedLevel ≤ l) (cause unit : Nat) (hardware : Bool) :
    (s.askLevel cause l unit hardware).pwr
        = { s.pwr with asked := Store.set 0 s.pwr.asked cause l, level := l, peak := max s.pwr.peak l, cause := cause, lastCause := cause } ∧
      (s.askLevel cause l unit hardware).boot = s.boot := by
  have hask := Power.ask_raises (cause := cause) hlevel hasked
  have hnew : (s.pwr.ask cause l).level = l := congrArg Power.level hask
  have hrun : s.askLevel cause l unit hardware = ({ s with pwr := s.pwr.ask cause l }).levelOuts s.pwr.level := by
    unfold State.askLevel
    dsimp only
    rw [hnew, if_neg (by omega), if_pos hlevel]
  obtain ⟨hpwr, hboot⟩ := State.levelOuts_shows (s := { s with pwr := s.pwr.ask cause l }) (old := s.pwr.level) (.inl (by rw [hnew]; omega))
  exact ⟨(congrArg State.pwr hrun).trans (hpwr.trans hask), (congrArg State.boot hrun).trans hboot⟩

/-! ### The triggers -/

section
variable {s : State}

/-- Level 4 by a cause that is no trigger of Table 17.6. -/
theorem State.forceDown_inStandby (hup : s.pwr.state ≠ .standby) (cause unit source : Nat) (hardware : Bool) :
    (s.forceDown cause unit source hardware).InStandby
      { s.pwr.force cause with thermtrip := s.pwr.thermtrip || thermal cause, mainOpen := s.pwr.mainOpen || hardware } :=
  State.shutDown_inStandby (s := { s with pwr := s.pwr.force cause }) hup cause unit source hardware true

/-- Level 4 by a trigger of Table 17.6. -/
theorem State.askLevel_inStandby (hup : s.pwr.state ≠ .standby) (hlevel : s.pwr.level < 4) (hasked : s.pwr.askedLevel < 4) (cause unit : Nat) (hardware : Bool) :
    (s.askLevel cause 4 unit hardware).InStandby
      { s.pwr.ask cause 4 with thermtrip := (s.pwr.ask cause 4).thermtrip || thermal cause, mainOpen := (s.pwr.ask cause 4).mainOpen || hardware } := by
  have hstate : (s.pwr.ask cause 4).state ≠ .standby := by rwa [Power.ask_raises hlevel hasked.le]
  rw [State.askLevel_shuts hlevel hasked]
  exact State.shutDown_inStandby (s := { s with pwr := s.pwr.ask cause 4 }) hstate cause unit srcPwr hardware true

/-- A trigger asks for level 4: STANDBY with its cause, the main path open when the hardware opens it. -/
theorem State.askLevel_off (hup : s.pwr.state ≠ .standby) (hlevel : s.pwr.level < 4) (hasked : s.pwr.askedLevel < 4) (cause unit : Nat) (hardware : Bool) :
    let u := s.askLevel cause 4 unit hardware
    (u.pwr.state = .standby ∧ u.boot = ⟨some 0, true, none⟩ ∧ u.pwr.level = 4 ∧ u.pwr.lastCause = cause ∧ u.hbm = .reset) ∧
      (hardware = true → u.pwr.mainOpen = true) := by
  have hoff := State.askLevel_inStandby hup hlevel hasked cause unit hardware
  have hask := Power.ask_raises (cause := cause) hlevel hasked.le
  refine ⟨⟨congrArg Power.state hoff.pwr, hoff.boot, ?_, ?_, hoff.hbm⟩, fun hhw => ?_⟩
  · exact (congrArg Power.level hoff.pwr).trans (congrArg Power.level hask)
  · exact (congrArg Power.lastCause hoff.pwr).trans (congrArg Power.lastCause hask)
  · exact (congrArg Power.mainOpen hoff.pwr).trans (by simp [Power.standby, Power.railsDown, hhw])

theorem exec_inputTrigger_off (haon : s.pwr.aon = true) (hup : s.pwr.state ≠ .standby) (hlevel : s.pwr.level < 4) (hasked : s.pwr.askedLevel < 4) :
    let off := fun (u : State) (c : Nat) => u.pwr.state = .standby ∧ u.boot = ⟨some 0, true, none⟩ ∧ u.pwr.level = 4 ∧ u.pwr.lastCause = c ∧ u.hbm = .reset
    (Answers (exec .inputOvervoltage s) fun u => off u 7 ∧ u.pwr.mainOpen = true) ∧ (Answers (exec .inputUndervoltage s) fun u => off u 6 ∧ u.pwr.mainOpen = true) ∧
      Answers (exec .leakNAssert s) fun u => off u 5 := by
  have hover := State.askLevel_off hup hlevel hasked 7 0 true
  have hunder := State.askLevel_off hup hlevel hasked 6 0 true
  have hleak := State.askLevel_off hup hlevel hasked 5 0 false
  exact ⟨⟨_, congrArg Host.Outcome.next (if_pos haon), hover.1, hover.2 rfl⟩, ⟨_, congrArg Host.Outcome.next (if_pos haon), hunder.1, hunder.2 rfl⟩,
    ⟨_, if_pos haon, hleak.1⟩⟩

/-- A cause that forces level 4: STANDBY, the cause and the fields of the power that STANDBY keeps. -/
theorem State.forceDown_off (hup : s.pwr.state ≠ .standby) (cause unit source : Nat) (hardware : Bool) :
    let u := s.forceDown cause unit source hardware
    (u.pwr.state = .standby ∧ u.boot = ⟨some 0, true, none⟩ ∧ u.pwr.level = 4 ∧ u.pwr.lastCause = cause ∧ u.hbm = .reset) ∧
      u.pwr.mainOpen = (s.pwr.mainOpen || hardware) ∧ u.pwr.tripArmed = s.pwr.tripArmed ∧ u.pwr.thermtrip = (s.pwr.thermtrip || thermal cause) ∧
      u.pwr.lastLoss = s.pwr.lastLoss := by
  have hoff := State.forceDown_inStandby hup cause unit source hardware
  exact ⟨⟨congrArg Power.state hoff.pwr, hoff.boot, congrArg Power.level hoff.pwr, congrArg Power.lastCause hoff.pwr, hoff.hbm⟩,
    congrArg Power.mainOpen hoff.pwr, (congrArg Power.tripArmed hoff.pwr :), congrArg Power.thermtrip hoff.pwr, (congrArg Power.lastLoss hoff.pwr :)⟩

theorem exec_inputOvercurrent_off (haon : s.pwr.aon = true) (hup : s.pwr.state ≠ .standby) :
    Answers (exec .inputOvercurrent s) fun u => (u.pwr.state = .standby ∧ u.boot = ⟨some 0, true, none⟩ ∧ u.pwr.level = 4 ∧ u.pwr.lastCause = 8 ∧ u.hbm = .reset) ∧
      u.pwr.mainOpen = true := by
  obtain ⟨hoff, hopen, -⟩ := State.forceDown_off hup 8 0 srcPwr true
  exact ⟨_, congrArg Host.Outcome.next (if_pos haon), hoff, hopen.trans (Bool.or_true _)⟩

theorem exec_hardwareThermalTrip_off (haon : s.pwr.aon = true) (hup : s.pwr.state ≠ .standby) (harmed : s.pwr.tripArmed = true) :
    Answers (exec .hardwareThermalTrip s) fun u =>
      (u.pwr.state = .standby ∧ u.boot = ⟨some 0, true, none⟩ ∧ u.pwr.level = 4 ∧ u.pwr.lastCause = 0x0E ∧ u.hbm = .reset) ∧
        u.pwr.tripArmed = false ∧ u.pwr.thermtrip = true := by
  obtain ⟨hoff, -, htrip, hthermal, -⟩ := State.forceDown_off (s := { s with pwr := { s.pwr with tripArmed := false } }) hup 0x0E 0 srcPwr true
  exact ⟨_, if_pos ⟨haon, harmed⟩, hoff, htrip, hthermal.trans (Bool.or_true _)⟩

/-- The domains with a PLL, and REF. -/
theorem exec_pllLockLoss_off {clk : Fin 17} (hup : s.pwr.state ≠ .standby) (hpll : clk.val + 1 ∈ [2, 3, 4, 5, 6, 7, 8, 9, 10, 13, 14, 16, 17])
    (hrun : s.pwr.runs (clk.val + 1) = true) :
    Answers (exec (.pllLockLoss clk) s) fun u =>
      (u.pwr.state = .standby ∧ u.boot = ⟨some 0, true, none⟩ ∧ u.pwr.level = 4 ∧ u.pwr.lastCause = 0x0F ∧ u.hbm = .reset) ∧ u.pwr.lastLoss = clk.val + 1 := by
  obtain ⟨hoff, -, -, -, hloss⟩ := State.forceDown_off (s := { s with pwr := { s.pwr.stopClk (clk.val + 1) with lastLoss := clk.val + 1 } })
    hup 0x0F (clk.val + 1) srcClk false
  refine ⟨_, if_pos ?_, hoff, hloss⟩
  have hdomain : clk.val + 1 = 2 ∨ (3 ≤ clk.val + 1 ∧ clk.val + 1 ≤ 10) ∨ clk.val + 1 = 13 ∨ clk.val + 1 = 14 ∨ clk.val + 1 = 16 ∨ clk.val + 1 = 17 := by
    simp only [List.mem_cons, List.not_mem_nil, or_false] at hpll
    omega
  rw [decide_eq_true hdomain, hrun]
  rfl

theorem exec_aonCrystalFail_first (haon : s.pwr.aon = true) (hgood : s.pwr.crystalFailed = false) :
    Answers (exec .aonCrystalFail s) fun u =>
      u.pwr = { s.pwr with crystalFailed := true, lastLoss := 1, lastCause := 0x0F } ∧ u.boot = s.boot ∧ u.hbm = s.hbm := by
  have hnoted := State.report_noted { s with pwr := { s.pwr with crystalFailed := true, lastLoss := 1, lastCause := 0x0F } } clsCorrected srcClk 1 .done noPart 0x0F
  exact ⟨_, if_neg (by simp [haon, hgood]), hnoted.pwr, hnoted.boot, hnoted.hbm⟩

/-- A reading whose level lies above the one in force and below 4. -/
theorem exec_emergencyTrigger_raises {cause : Fin 13} {reading l : Nat} (haon : s.pwr.aon = true) (hl : levelOf cause reading 0 = l) (hlow : l < 4)
    (hlevel : s.pwr.level < l) (hasked : s.pwr.askedLevel ≤ l) :
    Answers (exec (.emergencyTrigger cause reading) s) fun u =>
      u.pwr.level = l ∧ u.pwr.cause = cause.val ∧ u.pwr.lastCause = cause.val ∧ u.pwr.state = s.pwr.state ∧ u.boot = s.boot := by
  have hsensed : ∃ p : Power, exec (.emergencyTrigger cause reading) s = .next (({ s with pwr := p }).askLevel cause l 0 false) ∧
      p.level = s.pwr.level ∧ p.asked = s.pwr.asked ∧ p.state = s.pwr.state := by
    subst hl
    refine ⟨_, if_neg (by simp [haon] : ¬(!s.pwr.aon) = true), ?_⟩
    split
    · exact ⟨rfl, rfl, rfl⟩
    · split <;> exact ⟨rfl, rfl, rfl⟩
  obtain ⟨p, hexec, hplevel, hpasked, hpstate⟩ := hsensed
  have hasked' : p.askedLevel ≤ l := (congrArg (fun m : Store Nat => m.foldl (fun acc e => max acc e.2) 0) hpasked).trans_le hasked
  obtain ⟨hpwr, hboot⟩ := State.askLevel_raises (s := { s with pwr := p }) hlow (hplevel.trans_lt hlevel) hasked' cause.val 0 false
  exact ⟨_, hexec, congrArg Power.level hpwr, congrArg Power.cause hpwr, congrArg Power.lastCause hpwr, (congrArg Power.state hpwr).trans hpstate, hboot⟩

theorem exec_pwrBrakeNAssert_raises (haon : s.pwr.aon = true) (hlevel : s.pwr.level < 2) (hasked : s.pwr.askedLevel ≤ 2) :
    Answers (exec .pwrBrakeNAssert s) fun u => u.pwr.level = 2 ∧ u.pwr.cause = 9 ∧ u.pwr.state = s.pwr.state ∧ u.boot = s.boot := by
  obtain ⟨hpwr, hboot⟩ := State.askLevel_raises (l := 2) (by decide) hlevel hasked 9 0 false
  exact ⟨_, if_pos haon, congrArg Power.level hpwr, congrArg Power.cause hpwr, (congrArg Power.state hpwr :), hboot⟩

theorem Power.relax_level (p : Power) (rs : List (Nat × Nat)) : (p.relax rs).level = p.level := by
  unfold Power.relax
  refine foldl_keeps (g := Power.level) (fun _ _ => ?_) rs p
  rfl

/-- The level falls to what is still asked for; level 4 is latched. -/
theorem exec_emergencyLevelFall_falls {rs : List (Nat × Nat)} (haon : s.pwr.aon = true) (hfree : s.fwm.held = false) :
    (s.pwr.level < 4 → (s.pwr.relax rs).askedLevel < s.pwr.level → Answers (exec (.emergencyLevelFall rs) s) fun u =>
      u.pwr.level = (s.pwr.relax rs).askedLevel ∧ u.boot = s.boot) ∧
    (s.pwr.level = 4 → Answers (exec (.emergencyLevelFall rs) s) fun u => u.pwr.level = 4 ∧ u.boot = s.boot) := by
  obtain ⟨hpwr, hboot⟩ := State.levelOuts_shows (s := { s with pwr := s.pwr.fall rs }) (old := s.pwr.level) (.inr hfree)
  have hlevel := (s.pwr.relax_level rs)
  constructor
  · intro hlow hless
    refine ⟨_, congrArg Host.Outcome.next (if_pos haon), (congrArg Power.level hpwr).trans ?_, hboot⟩
    exact congrArg Power.level (if_pos ⟨hlevel.trans_lt hlow, hless.trans_eq hlevel.symm⟩)
  · intro hfour
    refine ⟨_, congrArg Host.Outcome.next (if_pos haon), (congrArg Power.level hpwr).trans ?_, hboot⟩
    exact (congrArg Power.level (if_neg fun hlow => by omega)).trans (hlevel.trans hfour)

end

/-- Settles O28: trigger by trigger; those of level 4 by what a shutdown leaves. -/
theorem emergencyTriggersAct : Obligations.EmergencyTriggersAct := by
  intro s clk cause reading l rs haon off
  exact ⟨fun hup => ⟨exec_inputTrigger_off haon hup, exec_inputOvercurrent_off haon hup, exec_hardwareThermalTrip_off haon hup, exec_pllLockLoss_off hup⟩,
    exec_aonCrystalFail_first haon, exec_emergencyTrigger_raises haon, exec_pwrBrakeNAssert_raises haon, exec_emergencyLevelFall_falls haon, rfl, rfl, rfl⟩

end Sys2Proof.Machine
end

section
/-! SUPPORT. Power requests, rails, losses, resets and PCIe messages (R399 to R401, R461 to R479); the obligation on them. -/

namespace Sys2Proof.Machine

/-! ### Rails and the start of phase 1 (R463, R464) -/

section
variable (p : Power)

theorem Power.startClks_eq (ns : List Nat) : p.startClks ns = { p with running := (p.startClks ns).running } := by
  have hrest : { p.startClks ns with running := 0 } = { p with running := 0 } := by
    unfold Power.startClks
    refine foldl_keeps (g := fun a : Power => { a with running := 0 }) (fun _ _ => ?_) ns p
    rfl
  exact congrArg (fun a : Power => { a with running := (p.startClks ns).running }) hrest

theorem Power.startNext_eq (scrapped : Bool) : p.startNext scrapped = { p with rails := (p.startNext scrapped).rails } := by
  have hrest : { p.startNext scrapped with rails := [] } = { p with rails := [] } := by
    unfold Power.startNext
    refine foldl_keeps (g := fun a : Power => { a with rails := [] }) (fun _ _ => ?_) _ p
    dsimp only
    split <;> rfl
  exact congrArg (fun a : Power => { a with rails := (p.startNext scrapped).rails }) hrest

/-- Only rails that are off are started. -/
theorem Power.rail_startNext {i : Nat} (hon : (p.rail i).state ≠ .off) (scrapped : Bool) : (p.startNext scrapped).rail i = p.rail i := by
  unfold Power.startNext
  refine foldl_keeps (g := fun a : Power => a.rail i) (fun a j => ?_) _ p
  dsimp only
  split
  case isFalse => rfl
  case isTrue h =>
    have hoff : (p.rail j).state = .off := by
      simp only [Bool.and_eq_true, decide_eq_true_eq] at h
      exact h.1.1
    have hne : i ≠ j := fun heq => hon (heq ▸ hoff)
    exact Store.get_set_ne _ _ hne

end

/-- An entry that a filter of a table keeps as another value for the same index reads as that value. -/
theorem Store.get_filterMap {α : Type} {d : α} {f : Nat × α → Option (Nat × α)} (hkey : ∀ e e', f e = some e' → e'.1 = e.1) {k : Nat} {v : α}
    (m : Store α) (hget : Store.get d m k ≠ d) (hkeep : f (k, Store.get d m k) = some (k, v)) : Store.get d (m.filterMap f) k = v := by
  induction m with
  | nil => exact absurd rfl hget
  | cons e m ih =>
    obtain ⟨j, w⟩ := e
    by_cases hk : k = j
    · subst hk
      simp only [Store.get, if_true] at hkeep
      simp [hkeep, Store.get]
    · simp only [Store.get, if_neg hk] at hget hkeep
      cases hf : f (j, w) with
      | none => simp [hf, ih hget hkeep]
      | some e' =>
        have hj : e'.1 = j := hkey _ _ hf
        obtain ⟨i, x⟩ := e'
        subst hj
        simp [hf, Store.get, hk, ih hget hkeep]

/-- A main rail with a cause keeps its cause and its faults when all main rails go down. -/
theorem Power.rail_railsDown {p : Power} {i : Nat} (hi : i ≠ 0) (hcause : (p.rail i).cause ≠ 0) :
    (p.railsDown.rail i).cause = (p.rail i).cause ∧ (p.railsDown.rail i).faults = (p.rail i).faults := by
  have hon : p.rail i ≠ .off := fun hoff => hcause (congrArg Rail.cause hoff)
  have hdown : p.railsDown.rail i = if (p.rail i).state = .locked then p.rail i else { p.rail i with state := .off, mv := 0, da := 0 } := by
    refine Store.get_filterMap (fun e e' he => ?_) p.rails hon ?_
    · split at he
      · cases he; rfl
      · split at he
        · cases he; rfl
        · split at he
          · cases he
          · cases he; rfl
    · show (if i = 0 then _ else if (p.rail i).state = .locked then _ else if (p.rail i).faults = 0 ∧ (p.rail i).cause = 0 then _ else _) = _
      by_cases hlock : (p.rail i).state = .locked
      · rw [if_neg hi, if_pos hlock, if_pos hlock]
        rfl
      · rw [if_neg hi, if_neg hlock, if_neg hlock, if_neg fun h => hcause h.2]
        rfl
  rw [hdown]
  split <;> exact ⟨rfl, rfl⟩

/-- Phase 1 begins. -/
theorem State.beginPhase1_starts (s : State) :
    s.beginPhase1.pwr.state = .starting ∧ s.beginPhase1.boot = ⟨some 1, false, none⟩ ∧ s.beginPhase1.pwr.pwrReq = s.pwr.pwrReq := by
  have hnext (p : Power) : (p.startNext s.scrapped).state = p.state ∧ (p.startNext s.scrapped).pwrReq = p.pwrReq := by
    rw [p.startNext_eq]
    exact ⟨rfl, rfl⟩
  have hclks (p : Power) : (p.startClks (phaseClocks 1)).state = p.state ∧ (p.startClks (phaseClocks 1)).pwrReq = p.pwrReq := by
    rw [p.startClks_eq]
    exact ⟨rfl, rfl⟩
  unfold State.beginPhase1
  exact ⟨(hnext _).1.trans (hclks _).1, rfl, (hnext _).2.trans (hclks _).2⟩

theorem State.warmReset_pwrReq (s : State) : s.warmReset.pwr.pwrReq = s.pwr.pwrReq := (State.beginPhase1_starts _).2.2

theorem State.levelOuts_pwrReq (s : State) (old : Nat) : (s.levelOuts old).pwr.pwrReq = s.pwr.pwrReq := by
  have hshown : ∀ (c d : Prop) [Decidable c] [Decidable d] (a b : List Out), (if c then s.emit a else if d then s.emit b else s).pwr = s.pwr := by
    intro c d _ _ a b
    simp only [apply_ite State.pwr, State.emit, ite_self]
  unfold State.levelOuts
  dsimp only
  rw [apply_ite State.pwr, apply_ite Power.pwrReq, State.warmReset_pwrReq, hshown, ite_self]

/-- A power-on that nothing forbids starts phase 1. -/
theorem State.powerOn_starts {s : State} (hlock : s.pwr.locked = false) (hst : s.pwr.state = .standby) (hasked : s.pwr.askedLevel < 4) :
    s.powerOn.2 = .done ∧ s.powerOn.1.pwr.state = .starting ∧ s.powerOn.1.boot = ⟨some 1, false, none⟩ ∧ s.powerOn.1.pwr.pwrReq = s.pwr.pwrReq := by
  unfold State.powerOn
  rw [if_neg (by simp [hlock]), if_neg (by simp [hst]), if_neg (by omega)]
  obtain ⟨hstate, hboot, hreq⟩ := State.beginPhase1_starts _
  refine ⟨rfl, hstate, hboot, hreq.trans ((State.levelOuts_pwrReq _ _).trans ?_)⟩
  dsimp only
  split <;> rfl

/-! ### Power requests, rails and the loss of the input -/

section
variable {s : State}

theorem exec_powerOn_requests (hup : s.aonUp = true) (hlock : s.pwr.locked = false) (hst : s.pwr.state = .standby) (hasked : s.pwr.askedLevel < 4) :
    let on := fun (u : State) => u.pwr.state = .starting ∧ u.boot = ⟨some 1, false, none⟩
    (s.pwr.pwrReq = false → Answers (exec .pwrReqRise s) fun u => on u ∧ u.pwr.pwrReq = true) ∧
      (s.pwr.aon = true → s.scrapped = false → Answers (exec .powerOn s) fun u => on u ∧ ∃ o, u.out = .sideband sbReply .done [] :: o) := by
  constructor
  · intro hreq
    obtain ⟨-, hstate, hboot, hkept⟩ := State.powerOn_starts (s := { s with pwr := { s.pwr with pwrReq := true } }) hlock hst hasked
    refine ⟨_, ?_, ⟨hstate, hboot⟩, hkept⟩
    exact congrArg Host.Outcome.next ((if_neg (by simp [hreq])).trans (if_pos hup))
  · intro haon hscr
    obtain ⟨hdone, hstate, hboot, -⟩ := State.powerOn_starts hlock hst hasked
    refine ⟨s.powerOn.1.reply .done [], ?_, ⟨hstate, hboot⟩, _, rfl⟩
    show execPowerOn s = _
    unfold execPowerOn
    rw [if_neg (by simp [haon]), if_neg (by simp [hup]), if_neg (by simp [hscr])]
    exact congrArg (fun st => Host.Outcome.next (s.powerOn.1.reply st [])) hdone

/-- What a power-off leaves. -/
theorem State.powerOff_off (hst : s.pwr.state ≠ .standby) :
    (s.powerOff.pwr.state = .standby ∧ s.powerOff.boot = ⟨some 0, true, none⟩ ∧ s.powerOff.pwr.level = 4 ∧ s.powerOff.pwr.lastCause = 0x10 ∧
      s.powerOff.hbm = .reset ∧ s.powerOff.tiles = []) ∧ s.powerOff.pwr.pwrReq = s.pwr.pwrReq := by
  have hoff := State.shutDown_inStandby (s := { s with pwr := s.pwr.force 0x10 }) hst 0x10 0 srcPwr false s.anyPart
  rw [State.powerOff, if_neg hst]
  exact ⟨⟨congrArg Power.state hoff.pwr, hoff.boot, congrArg Power.level hoff.pwr, congrArg Power.lastCause hoff.pwr, hoff.hbm, hoff.tiles⟩,
    (congrArg Power.pwrReq hoff.pwr :)⟩

theorem exec_powerOff_requests (hup : s.aonUp = true) (hst : s.pwr.state ≠ .standby) :
    let off := fun (u : State) (c : Nat) => u.pwr.state = .standby ∧ u.boot = ⟨some 0, true, none⟩ ∧ u.pwr.level = 4 ∧ u.pwr.lastCause = c ∧ u.hbm = .reset ∧ u.tiles = []
    (s.pwr.pwrReq = true → Answers (exec .pwrReqFall s) fun u => off u 0x10 ∧ u.pwr.pwrReq = false) ∧
      (s.pwr.aon = true → s.scrapped = false → Answers (exec .powerOff s) fun u => off u 0x10 ∧ ∃ o, u.out = .sideband sbReply .done [] :: o) := by
  constructor
  · intro hreq
    obtain ⟨hoff, hkept⟩ := State.powerOff_off (s := { s with pwr := { s.pwr with pwrReq := false } }) hst
    exact ⟨_, congrArg Host.Outcome.next ((if_neg (by simp [hreq])).trans (if_pos hup)), hoff, hkept⟩
  · intro haon hscr
    obtain ⟨hoff, -⟩ := State.powerOff_off hst
    refine ⟨s.powerOff.reply .done [], ?_, hoff, _, rfl⟩
    show execPowerOff s = _
    unfold execPowerOff
    rw [if_neg (by simp [haon]), if_neg (by simp [hup]), if_neg (by simp [hscr])]

theorem exec_railGood_ramping {rail : Fin 13} {mv da : Nat} (hramp : (s.pwr.rail rail).state = .ramping) :
    Answers (exec (.railGood rail mv da) s) fun u => (u.pwr.rail rail).state = .good ∧ (u.pwr.rail rail).mv = mv % 65536 ∧
      (u.pwr.rail rail).da = da % 65536 ∧ u.boot = s.boot := by
  let r : Rail := { s.pwr.rail rail with state := .good, mv := mv % 65536, da := da % 65536 }
  have hset : (s.pwr.setRail rail r).rail rail = r := Power.rail_setRail_same _ _ fun hoff => RailState.noConfusion (congrArg Rail.state hoff)
  have hrail : ((s.pwr.setRail rail r).startNext s.scrapped).rail rail = r :=
    (Power.rail_startNext _ (by rw [hset]; exact RailState.noConfusion) _).trans hset
  have hrun : ∃ os, exec (.railGood rail mv da) s = .next (({ s with pwr := (s.pwr.setRail rail r).startNext s.scrapped }).emit os) := by
    show ∃ os, execRailGood rail mv da s = _
    unfold execRailGood
    rw [if_neg (by simp [hramp])]
    dsimp only
    split
    · exact ⟨_, rfl⟩
    · exact ⟨[], rfl⟩
  obtain ⟨os, hexec⟩ := hrun
  exact ⟨_, hexec, congrArg Rail.state hrail, congrArg Rail.mv hrail, congrArg Rail.da hrail, rfl⟩

/-- A main rail that was good faults. -/
theorem exec_railFault_off {rail : Fin 13} {cause expired : Nat} (hmain : rail.val ≠ 0) (hgood : (s.pwr.rail rail).state = .good)
    (hcause : cause = 10 ∨ cause = 11) (hst : s.pwr.state ≠ .standby) :
    Answers (exec (.railFault rail cause expired) s) fun u =>
      (u.pwr.state = .standby ∧ u.boot = ⟨some 0, true, none⟩ ∧ u.pwr.level = 4 ∧ u.pwr.lastCause = cause ∧ u.hbm = .reset ∧ u.tiles = []) ∧
        u.pwr.mainOpen = true ∧ (u.pwr.rail rail).cause = cause ∧ (u.pwr.rail rail).faults = satAdd 8 ((s.pwr.rail rail).faults - expired) 1 := by
  let p := s.pwr.railFault rail cause expired
  have hzero : cause ≠ 0 := by omega
  have hcauseOf : (p.rail rail).cause = cause ∧ (p.rail rail).faults = satAdd 8 ((s.pwr.rail rail).faults - expired) 1 := by
    unfold p Power.railFault
    rw [Power.rail_setRail_same _ _ fun hoff => hzero (congrArg Rail.cause hoff)]
    exact ⟨rfl, rfl⟩
  have hoff := State.forceDown_inStandby (s := { s with pwr := p }) hst cause rail srcPwr true
  have hdown := Power.rail_railsDown (p := p) hmain (by rw [hcauseOf.1]; exact hzero)
  have hrail : (({ s with pwr := p }).forceDown cause rail srcPwr true).pwr.rail rail = p.railsDown.rail rail :=
    (congrArg (fun q : Power => q.rail rail) hoff.pwr :)
  refine ⟨_, ?_, ⟨congrArg Power.state hoff.pwr, hoff.boot, congrArg Power.level hoff.pwr, congrArg Power.lastCause hoff.pwr, hoff.hbm, hoff.tiles⟩,
    (congrArg Power.mainOpen hoff.pwr).trans (Bool.or_true _), ?_, ?_⟩
  · show execRailFault rail cause expired s = _
    unfold execRailFault
    rw [if_pos ⟨.inl hgood, by omega⟩, if_neg hmain]
    dsimp only
    rw [if_neg (by omega)]
  · exact (congrArg Rail.cause hrail).trans (hdown.1.trans hcauseOf.1)
  · exact (congrArg Rail.faults hrail).trans (hdown.2.trans hcauseOf.2)

end

/-! ### Resets and messages on the PCIe side (R277, R399 to R401) -/

/-- A warm reset: start-up from phase 1; the grant, the fuses, the power cap and the flash stand. -/
theorem State.warmReset_restarts (s : State) :
    let u := s.warmReset
    u.boot = ⟨some 1, false, none⟩ ∧ u.pwr.state = .starting ∧ u.parts = [] ∧ u.tiles = [] ∧ u.sec.slots = [] ∧ u.sec.grant = s.sec.grant ∧
      u.sec.rights = s.sec.rights ∧ u.sec.fuses = s.sec.fuses ∧ u.pwr.cap = s.pwr.cap ∧ u.flash = s.flash :=
  ⟨rfl, (State.beginPhase1_starts _).1, rfl, rfl, rfl, rfl, rfl, rfl, (Power.startNext_cap _ _).trans (Power.startClks_cap _ _), rfl⟩

/-- What the end of a function's work leaves. -/
def State.ground (s : State) : Hbm × Store Tile × Store Part := (s.hbm, s.tiles, s.parts)

theorem State.ground_iff {s u : State} : u.ground = s.ground ↔ u.hbm = s.hbm ∧ u.tiles = s.tiles ∧ u.parts = s.parts := by
  simp [State.ground]

theorem State.cancelRun_ground (s : State) (fn ctx : Nat) : (s.cancelRun fn ctx).ground = s.ground := by
  unfold State.cancelRun
  refine foldl_keeps (g := State.ground) (fun a p => ?_) _ s
  dsimp only
  split
  · rw [apply_ite State.ground]
    exact ite_self _
  · rfl

theorem State.settleHif_ground (s : State) (h : Hif × List Out) : (s.settleHif h).ground = s.ground := (congrArg State.ground (s.settleHif_eq h) :)

theorem State.killFn_ground (s : State) (fn : Nat) : (s.killFn fn).ground = s.ground := by
  unfold State.killFn
  exact (State.settleHif_ground _ _).trans (foldl_keeps (g := State.ground) (fun a c => a.cancelRun_ground fn c) _ s)

theorem State.resetFn_ground (s : State) (fn : Nat) : (s.resetFn fn).ground = s.ground := rfl

section
variable {s : State} (hup : s.boot.past 2 = true)
include hup

/-- A reset of one function: its registers go back, the memory, the tiles and the partitions stand. -/
theorem exec_vfFlr_up (vf : Fin 16) :
    let k := s.killFn (vf.val + 1)
    Answers (exec (.vfFlr vf) s) fun u => u.hif = k.hif.setFn (vf.val + 1) (k.hif.fn (vf.val + 1)).resetRegs ∧ u.hbm = s.hbm ∧ u.tiles = s.tiles ∧ u.parts = s.parts := by
  have hground := State.ground_iff.1 (s.killFn_ground (vf.val + 1))
  exact ⟨_, congrArg Host.Outcome.next (if_pos hup), rfl, hground⟩

theorem exec_tdiError_up (vf : Fin 16) :
    Answers (exec (.tdiError vf) s) fun u => (u.hif.fn (vf.val + 1)).tdiError = true ∧ u.hbm = s.hbm ∧ u.tiles = s.tiles ∧ u.parts = s.parts := by
  have hground := State.ground_iff.1 (s.killFn_ground (vf.val + 1))
  refine ⟨_, if_neg (by simp [hup]), ?_, hground⟩
  exact congrArg Fn.tdiError (Hif.fn_setFn _ _ fun hreset => Bool.noConfusion (congrArg Fn.tdiError hreset))

theorem exec_pfFlr_up :
    let k := (List.range 17).foldl (fun (a : State) f => (a.killFn f).resetFn f) s
    Answers (exec .pfFlr s) fun u => u.hif = { k.hif with vfEnable := false } ∧ u.hbm = s.hbm ∧ u.tiles = s.tiles ∧ u.parts = s.parts := by
  intro k
  have hground : k.ground = s.ground := foldl_keeps (f := fun (a : State) f => (a.killFn f).resetFn f) (g := State.ground)
    (fun a f => ((a.killFn f).resetFn_ground f).trans (a.killFn_ground f)) (List.range 17) s
  have hexec : exec .pfFlr s = .next { k with hif := { k.hif with vfEnable := false } } := if_neg (by simp [hup])
  clear_value k
  exact ⟨_, hexec, rfl, State.ground_iff.1 hground⟩

/-- A DOE message of a type that is answered. -/
theorem exec_doeMessage_up (req : SpdmReq) (data : List Byte) :
    exec (.doeMessage .ideKm req data) s = .next (s.emit [.doe data]) ∧ exec (.doeMessage .tdisp req data) s = .next (s.emit [.doe data]) ∧
      ∀ u b, s.spdm req = some (u, b) → exec (.doeMessage .spdm req data) s = .next (u.emit [.doe b]) := by
  have hrun : ¬(!s.boot.past 2) = true := by simp [hup]
  refine ⟨if_neg hrun, if_neg hrun, fun u b hspdm => ?_⟩
  refine (if_neg hrun).trans ?_
  show (match s.spdm req with | some (s1, b) => Host.Outcome.next (s1.emit [.doe b]) | none => .next s) = _
  rw [hspdm]

end

/-- Settles O27: requests, rails and losses of the input, then the resets and the messages. -/
theorem powerAndResetRequestsAct : Obligations.PowerAndResetRequestsAct := by
  constructor
  · intro s rail mv da cause expired on off dead
    have hdead : dead s.coldLoss := ⟨rfl, rfl, rfl, rfl, rfl, rfl, rfl, rfl, rfl⟩
    exact ⟨exec_powerOn_requests, exec_powerOff_requests, exec_railGood_ramping, exec_railFault_off, ⟨_, rfl, hdead⟩, ⟨_, rfl, hdead⟩, ⟨_, rfl, hdead, rfl⟩⟩
  · intro s vf fn tag req data warm
    exact ⟨fun hst => ⟨_, congrArg Host.Outcome.next (if_neg hst), s.warmReset_restarts⟩,
      fun hpast => ⟨_, congrArg Host.Outcome.next (if_pos hpast), s.warmReset_restarts⟩,
      fun hup => ⟨exec_vfFlr_up hup vf, exec_tdiError_up hup vf, exec_pfFlr_up hup, exec_doeMessage_up hup req data⟩, fun _ => rfl, rfl, rfl⟩

end Sys2Proof.Machine
end

section
/-! SUPPORT. What the records of a tile leave alone (R46, R49, R142, Table 5.7): the start of a record all but its own tile, the queues, the jobs and the fault record; its end also what the stop of a run touches; the obligation on them. -/

namespace Sys2Proof.Machine

/-! ### The start of a record -/

/-- From s to u only tile t, the queues, the jobs, the fault record, the log, the free values taken and what has left the module may differ. -/
structure TileMoves (t : Nat) (s u : State) : Prop where
  eq : u = { s with out := u.out, draws := u.draws, tiles := u.tiles, streams := u.streams, jobs := u.jobs, res := u.res, fwm := u.fwm }
  others : ∀ j, j ≠ t → u.tile j = s.tile j

section
variable {t : Nat}

theorem TileMoves.refl (s : State) : TileMoves t s s := ⟨rfl, fun _ _ => rfl⟩

theorem TileMoves.trans {s a u : State} (h : TileMoves t s a) (k : TileMoves t a u) : TileMoves t s u :=
  ⟨k.eq.trans (congrArg (fun (a : State) => { a with
      out := u.out, draws := u.draws, tiles := u.tiles, streams := u.streams, jobs := u.jobs, res := u.res, fwm := u.fwm }) h.eq),
    fun j hj => (k.others j hj).trans (h.others j hj)⟩

theorem TileMoves.foldl {α : Type} {f : State → α → State} (hf : ∀ a x, TileMoves t a (f a x)) (xs : List α) (s : State) : TileMoves t s (xs.foldl f s) := by
  induction xs generalizing s with
  | nil => exact .refl s
  | cons x xs ih => exact (hf s x).trans (ih _)

theorem TileMoves.ite {c : Prop} [Decidable c] {s a b : State} (ha : TileMoves t s a) (hb : TileMoves t s b) : TileMoves t s (if c then a else b) := by
  split
  · exact ha
  · exact hb

/-- The queues are not the tiles. -/
theorem TileMoves.setStreams (s : State) (q : Streams) : TileMoves t s { s with streams := q } := ⟨rfl, fun _ _ => rfl⟩

theorem TileMoves.updJob (s : State) (p : Nat) (f : Job → Job) : TileMoves t s (s.updJob p f) := ⟨rfl, fun _ _ => rfl⟩

theorem Noted.tileMoves {s u : State} (h : Noted s u) : TileMoves t s u := by
  have htiles := h.tiles
  refine ⟨?_, fun j _ => congrArg (fun m => Store.get Tile.reset m j) htiles⟩
  rw [h.eq]

theorem State.setTile_moves (s : State) (x : Tile) : TileMoves t s (s.setTile t x) := ⟨rfl, fun _ hj => s.tile_setTile_ne x hj⟩

theorem State.occupy_moves (s : State) (u : Nat) (f : InFlight) : TileMoves t s (s.occupy t u f) := s.setTile_moves _

theorem State.startMxe_moves (s : State) (i : Issued) : TileMoves t s (s.startMxe t i) := by
  have hdrawn : TileMoves t s s.draw.2 := ⟨rfl, fun _ _ => rfl⟩
  exact hdrawn.trans ((State.setTile_moves _ _).trans (State.occupy_moves _ _ _))

theorem State.startVec_moves (s : State) (i : Issued) : TileMoves t s (s.startVec t i) := by
  unfold State.startVec
  dsimp only
  refine TileMoves.trans ?_ (State.occupy_moves _ _ _)
  split
  · exact (s.setTile_moves _).trans (.updJob _ _ _)
  · exact s.setTile_moves _

theorem State.startDma_moves (s : State) (i : Issued) : TileMoves t s (s.startDma t i) := (s.setTile_moves _).trans (State.occupy_moves _ _ _)

theorem State.startSend_moves (s : State) (i : Issued) : TileMoves t s (s.startSend t i) := by
  unfold State.startSend
  dsimp only
  split
  · exact s.occupy_moves _ _
  · split
    · exact s.occupy_moves _ _
    · split
      · exact s.occupy_moves _ _
      · exact ((s.setTile_moves _).trans (State.occupy_moves _ _ _)).trans (.setStreams _ _)

theorem State.copyIn_moves (n : Nat) (s : State) : TileMoves t s (s.copyIn n t) := by
  induction n generalizing s with
  | zero => exact .refl s
  | succ n ih =>
    unfold State.copyIn
    dsimp only
    split
    · exact .refl s
    · split
      · exact .refl s
      · split
        · refine TileMoves.trans ?_ (ih _)
          refine TileMoves.trans ((s.setTile_moves _).trans (.setStreams _ _)) (.foldl (fun a _ => ?_) _ _)
          exact (Noted.trans (a.trace_noted _ _ _ _) (State.report_noted _ _ _ _ _ _ _)).tileMoves
        · exact .refl s

theorem State.chooseIn_moves (s : State) : TileMoves t s (s.chooseIn t) := by
  unfold State.chooseIn
  dsimp only
  split
  · split
    · exact .refl s
    · split
      · exact .refl s
      · split
        · exact .refl s
        · split
          · exact s.setTile_moves _
          · exact (s.setTile_moves _).trans (State.copyIn_moves _ _)
  · exact .refl s

theorem State.startRecv_moves (s : State) (i : Issued) : TileMoves t s (s.startRecv t i) := by
  unfold State.startRecv
  dsimp only
  exact .ite (s.occupy_moves _ _) (.ite (s.occupy_moves _ _) (((s.setTile_moves _).trans (State.occupy_moves _ _ _)).trans (State.chooseIn_moves _)))

/-- A record that starts on any of a tile's units. -/
theorem State.startUnit_moves (s : State) (u : Nat) (i : Issued) : TileMoves t s (s.startUnit t u i) := by
  unfold State.startUnit
  split
  · exact s.startMxe_moves i
  split
  · exact s.startVec_moves i
  split
  · exact s.startDma_moves i
  split
  · exact s.startSend_moves i
  split
  · exact s.startRecv_moves i
  · exact .refl s

theorem State.pump_moves (s : State) (u : Nat) : TileMoves t s (s.pump t u) := by
  unfold State.pump
  dsimp only
  split
  · exact (s.setTile_moves _).trans (State.startUnit_moves _ _ _)
  · exact .refl s

theorem State.take_moves {s a : State} {op : Nat} {i : Issued} (h : s.take t op = some (a, i)) : TileMoves t s a := by
  unfold State.take at h
  dsimp only at h
  split at h
  · cases h
    exact s.setTile_moves _
  · cases h

/-- A record dispatched, where the tile stands at one. -/
theorem State.dispatch_moves (s : State) (op u : Nat) : TileMoves t s (s.dispatch t op u) := by
  unfold State.dispatch
  split
  · exact .refl s
  next htaken => exact (State.take_moves htaken).trans ((State.setTile_moves _ _).trans (State.pump_moves _ _))

theorem State.dispatchVec_moves (s : State) (o : VecOp) : TileMoves t s (s.dispatchVec t o) := by
  unfold State.dispatchVec
  dsimp only
  split
  · exact s.dispatch_moves _ _
  · exact .refl s

end

/-- A vector row dispatches the vector record of its operation (R124 to R129). -/
theorem exec_vecRow {e : (Fin 156 → Instr) × VecOp} (he : e ∈ vecRows) (t : Fin 156) (s : State) : exec (e.1 t) s = .next (s.dispatchVec t e.2) := by
  simp only [vecRows, List.cons_append, List.nil_append, List.mem_cons, List.not_mem_nil, or_false] at he
  obtain rfl | rfl | rfl | rfl | rfl | rfl | rfl | rfl | rfl | rfl | rfl | rfl | rfl | rfl | rfl | rfl | rfl | rfl | rfl | rfl | rfl | rfl | rfl | rfl | rfl | rfl |
    rfl | rfl | rfl | rfl | rfl | rfl | rfl | rfl | rfl | rfl | rfl | rfl := he
  all_goals rfl

theorem exec_nop_moves {t : Fin 156} {s u : State} (h : exec (.nop t) s = .next u) : TileMoves t s u := by
  change execNop t s = .next u at h
  unfold execNop at h
  split at h
  · cases h
    exact .refl s
  next htaken =>
    cases h
    exact (State.take_moves htaken).trans (State.setTile_moves _ _)

theorem exec_loop_moves {t : Fin 156} {s u : State} (h : exec (.loop t) s = .next u) : TileMoves t s u := by
  change execLoop t s = .next u at h
  unfold execLoop at h
  dsimp only at h
  split at h
  · cases h
    exact s.setTile_moves _
  · cases h
    exact .refl s

/-- A command that starts records on a tile moves that tile alone. -/
theorem exec_startRow_moves {c : Fin 156 → Instr} (hc : c ∈ startRows) {t : Fin 156} {s u : State} (h : exec (c t) s = .next u) : TileMoves t s u := by
  have hsent : ∀ {a : State}, Host.Outcome.next a = (.next u : Result) → TileMoves t s a → TileMoves t s u := fun ha hm => Host.Outcome.next.inj ha ▸ hm
  rcases List.mem_append.1 hc with hrecord | hvec
  · simp only [List.mem_cons, List.not_mem_nil, or_false] at hrecord
    obtain rfl | rfl | rfl | rfl | rfl | rfl := hrecord
    · exact exec_nop_moves h
    · exact exec_loop_moves h
    all_goals exact hsent h (s.dispatch_moves _ _)
  · obtain ⟨e, he, rfl⟩ := List.mem_map.1 hvec
    rw [exec_vecRow he] at h
    exact hsent h (s.dispatchVec_moves _)

/-! ### The end of a record -/

/-- From s to u only what a start or the stop of a run touches may differ: the tiles, the queues, the jobs, the ports, the collectives, the fault record, the log, the free values taken and what has left the module. -/
structure TilesStop (s u : State) : Prop where
  eq : u = { s with out := u.out, draws := u.draws, tiles := u.tiles, streams := u.streams, jobs := u.jobs, links := u.links, coll := u.coll, res := u.res, fwm := u.fwm }

theorem TilesStop.refl (s : State) : TilesStop s s := ⟨rfl⟩

theorem TilesStop.trans {s a u : State} (h : TilesStop s a) (k : TilesStop a u) : TilesStop s u :=
  ⟨k.eq.trans (congrArg (fun (a : State) => { a with
      out := u.out, draws := u.draws, tiles := u.tiles, streams := u.streams, jobs := u.jobs, links := u.links, coll := u.coll, res := u.res, fwm := u.fwm }) h.eq)⟩

theorem TilesStop.foldl {α : Type} {f : State → α → State} (hf : ∀ a x, TilesStop a (f a x)) (xs : List α) (s : State) : TilesStop s (xs.foldl f s) := by
  induction xs generalizing s with
  | nil => exact .refl s
  | cons x xs ih => exact (hf s x).trans (ih _)

theorem TilesStop.ite {c : Prop} [Decidable c] {s a b : State} (ha : TilesStop s a) (hb : TilesStop s b) : TilesStop s (if c then a else b) := by
  split
  · exact ha
  · exact hb

theorem TileMoves.stop {t : Nat} {s u : State} (h : TileMoves t s u) : TilesStop s u := by
  refine ⟨?_⟩
  rw [h.eq]

theorem Noted.tilesStop {s u : State} (h : Noted s u) : TilesStop s u := (h.tileMoves (t := 0)).stop

theorem State.flushQueue_tilesStop (s : State) (i : Nat) : TilesStop s (s.flushQueue i) := by
  unfold State.flushQueue
  dsimp only
  split
  · exact ⟨rfl⟩
  · split <;> exact ⟨rfl⟩

theorem State.stopRun_tilesStop (s : State) (p : Nat) (st : Status) : TilesStop s (s.stopRun p st) := by
  unfold State.stopRun
  dsimp only
  split
  · exact .refl s
  · split
    · exact .refl s
    · have hmarked : ∀ j, TilesStop s (s.setJob p j) := fun _ => ⟨rfl⟩
      have hhalted : ∀ (a : State) ts, TilesStop a (a.updTiles ts Tile.stopDispatch) := fun a ts => .foldl (fun _ _ => ⟨rfl⟩) ts a
      exact (hmarked _).trans ((hhalted _ _).trans (TilesStop.trans ⟨rfl⟩ (.foldl State.flushQueue_tilesStop _ _)))

theorem State.stageFault_tilesStop (s : State) (t : Nat) (st : Status) (recIdx unit : Nat) : TilesStop s (s.stageFault t st recIdx unit) := by
  unfold State.stageFault
  dsimp only
  split
  · exact .refl s
  · split
    · exact .refl s
    · refine TilesStop.trans ?_ (State.stopRun_tilesStop _ _ _)
      split
      · exact (s.setTile_moves _).stop.trans (State.report_noted _ _ _ _ _ _ _).tilesStop
      · exact .refl s

theorem State.finish_tilesStop (s : State) (t u : Nat) (f : InFlight) (st : Status) : TilesStop s (s.finish t u f st) := by
  unfold State.finish
  have hleft : ∀ y, TilesStop s (s.setTile t y) := fun _ => (s.setTile_moves _).stop
  exact .ite (hleft _) ((hleft _).trans (State.stageFault_tilesStop _ _ _ _ _))

theorem State.completeUnit_tilesStop (s : State) (t u : Nat) (st : Option Status) : TilesStop s (s.completeUnit t u st) := by
  unfold State.completeUnit
  split
  · exact .refl s
  · exact (s.finish_tilesStop _ _ _ _).trans (State.pump_moves _ _).stop

theorem exec_qsendComplete_tilesStop {t : Fin 156} {s u : State} (h : exec (.qsendComplete t) s = .next u) : TilesStop s u := by
  change execQsendComplete t s = .next u at h
  unfold execQsendComplete at h
  dsimp only at h
  split at h
  · split at h <;> cases h
    · exact (s.setTile_moves _).stop.trans (State.completeUnit_tilesStop _ _ _ _)
    · exact .refl s
  · split at h
    · split at h <;> cases h
      · exact s.completeUnit_tilesStop _ _ _
      · exact .refl s
    · cases h
      exact .refl s

theorem exec_qrecvComplete_tilesStop {t : Fin 156} {s u : State} (h : exec (.qrecvComplete t) s = .next u) : TilesStop s u := by
  change execQrecvComplete t s = .next u at h
  unfold execQrecvComplete at h
  dsimp only at h
  split at h
  · split at h <;> cases h
    · exact (s.setTile_moves _).stop.trans (State.completeUnit_tilesStop _ _ _ _)
    · exact .refl s
  · split at h
    · split at h <;> cases h
      · exact s.completeUnit_tilesStop _ _ _
      · exact .refl s
    · cases h
      exact .refl s

theorem exec_endRow_tilesStop {c : Fin 156 → Instr} (hc : c ∈ endRows) {t : Fin 156} {s u : State} (h : exec (c t) s = .next u) : TilesStop s u := by
  simp only [endRows, List.mem_cons, List.not_mem_nil, or_false] at hc
  obtain rfl | rfl | rfl | rfl := hc
  · exact Host.Outcome.next.inj h ▸ s.completeUnit_tilesStop _ _ _
  · exact Host.Outcome.next.inj h ▸ s.completeUnit_tilesStop _ _ _
  · exact exec_qsendComplete_tilesStop h
  · exact exec_qrecvComplete_tilesStop h

/-- What neither a start nor an end of a record changes. -/
theorem TilesStop.kept {s u : State} (h : TilesStop s u) : u.hbm = s.hbm ∧ u.pageLabels = s.pageLabels ∧ u.sec = s.sec ∧ u.parts = s.parts ∧ u.snaps = s.snaps ∧
    u.flash = s.flash ∧ u.sys = s.sys ∧ u.hif = s.hif ∧ u.pwr = s.pwr ∧ u.boot = s.boot := by
  rw [h.eq]
  exact ⟨rfl, rfl, rfl, rfl, rfl, rfl, rfl, rfl, rfl, rfl⟩

/-- An instruction on the tile registers changes its tile alone. -/
theorem State.tileOp_frame (s : State) (t : Nat) (word : DWord) (top : Nat) :
    s.tileOp t word top = { s with tiles := (s.tileOp t word top).tiles } ∧ ∀ j, j ≠ t → (s.tileOp t word top).tile j = s.tile j := by
  unfold State.tileOp
  dsimp only
  split
  · exact ⟨rfl, fun _ hj => s.tile_setTile_ne _ hj⟩
  · exact ⟨rfl, fun _ _ => rfl⟩

/-- Settles O59: a start moves its own tile, an end stops at most its run, a tile-register instruction changes its tile. -/
theorem tileCommandsKeepTheRest : Obligations.TileCommandsKeepTheRest := by
  intro t v s u
  refine ⟨fun c hc h => ?start, fun c hc h => (exec_endRow_tilesStop hc h).kept, fun e he h => ?register⟩
  case start =>
    have hmoves := exec_startRow_moves hc h
    exact ⟨hmoves.stop.kept, (congrArg State.links hmoves.eq :), (congrArg State.coll hmoves.eq :), hmoves.others⟩
  case register =>
    rw [exec_tileRegRow he] at h
    exact Host.Outcome.next.inj h ▸ s.tileOp_frame t v e.2

end Sys2Proof.Machine
end

section
/-! SUPPORT. Records on the units of a tile (R46, R49, R106, R130, R185, R189, R199): what a unit leaves when it starts a record, and when it ends its only one. -/

namespace Sys2Proof.Machine

/-! ### The tile past its record -/

/-- The token a record takes is the dispatcher's. -/
theorem Tile.takeToken_eq (x : Tile) (r : Record) : x.takeToken r = { x with disp := (x.takeToken r).disp } := by
  unfold Tile.takeToken
  split <;> rfl

/-- A tile past its record differs in its dispatcher alone. -/
theorem pastRecord_eq (x : Tile) : pastRecord x = { x with disp := (pastRecord x).disp } := by
  unfold pastRecord
  rw [Tile.takeToken_eq]

/-- A signal is the dispatcher's. -/
theorem Tile.signalOf_eq (x : Tile) (i : Issued) : x.signalOf i = { x with disp := (x.signalOf i).disp } := by
  unfold Tile.signalOf
  split <;> rfl

/-- The dispatcher after a signal follows from the dispatcher before. -/
theorem Tile.signalOf_disp_congr {x y : Tile} (h : x.disp = y.disp) (i : Issued) : (x.signalOf i).disp = (y.signalOf i).disp := by
  unfold Tile.signalOf Tile.raiseToken
  split <;> simp only [h]

/-- Tile x past its record, its table of units as given. -/
def Tile.moved (x : Tile) (us : Store UnitState) : Tile := { x with disp := (pastRecord x).disp, units := us }

/-- A record for a free unit starts at once, on the tile past the record (R46). -/
theorem State.dispatch_starts {s : State} {t op u : Nat} {i : Issued} (h : AtRecord s t op i) (hu : UnitFree (s.tile t) u) :
    ∃ us, s.dispatch t op u = (s.setTile t ((s.tile t).moved us)).startUnit t u i := by
  obtain ⟨y, hstart, hy⟩ := State.dispatch_free h hu
  refine ⟨y.units, ?_⟩
  rw [pastRecord_eq] at hy
  exact hstart.trans (congrArg (fun z => (s.setTile t z).startUnit t u i) hy)

/-! ### A record that starts -/

/-- Tile x with record f behind those that unit u holds. -/
def Tile.holding (x : Tile) (u : Nat) (f : InFlight) : Tile := x.setUnit u { x.unit u with cur := (x.unit u).cur ++ [f] }

theorem Tile.mem_holding (x : Tile) (u : Nat) (f : InFlight) : f ∈ ((x.holding u f).unit u).cur := by
  have hheld : ({ x.unit u with cur := (x.unit u).cur ++ [f] } : UnitState) ≠ .idle := fun h =>
    List.append_ne_nil_of_right_ne_nil _ (List.cons_ne_nil _ _) (congrArg UnitState.cur h)
  rw [Tile.holding, Tile.unit_setUnit _ _ hheld]
  exact List.mem_append_right _ (List.mem_singleton_self f)

theorem inUnit_of_tile {s : State} {t n : Nat} {x : Tile} {f : InFlight} (h : s.tile t = x.holding n f) : InUnit s t n f := by
  rw [InUnit, h]
  exact x.mem_holding n f

section
variable {s : State} {t : Nat} {x : Tile} (hrun : x.stage.state = .running)
include hrun

/-- What a tile that runs reads as, once written. -/
theorem State.tile_setTile_running : (s.setTile t x).tile t = x := s.tile_setTile t (Tile.ne_reset hrun)

theorem State.occupy_setTile (u : Nat) (f : InFlight) : (s.setTile t x).occupy t u f = s.setTile t (x.holding u f) := by
  rw [State.occupy, State.updTile_eq, State.tile_setTile_running hrun, s.setTile_setTile t _ (Tile.ne_reset hrun)]
  rfl

/-- A matrix record: its result is in the tile, and a free value is taken (R87, R106). -/
theorem State.startMxe_setTile (i : Issued) : let r := runMxe x (bits i.a 0 22) s.draws
    (s.setTile t x).startMxe t i =
      State.setTile { s with draws := s.draws + 1 } t (Tile.holding { x with mem := r.mem, mxe := x.mxe.afterRun r } unitMxe ⟨i, r.status, r.cycles, r.banks⟩) := by
  intro r
  have htile : (s.setTile t x).draw.2.tile t = x := State.tile_setTile_running (s := s) hrun
  have hwrite : ∀ y, (s.setTile t x).draw.2.setTile t y = State.setTile { s with draws := s.draws + 1 } t y := fun y =>
    State.setTile_setTile { s with draws := s.draws + 1 } t y (Tile.ne_reset hrun)
  have hstart : (s.setTile t x).startMxe t i = ((s.setTile t x).draw.2.setTile t { x with mem := r.mem, mxe := x.mxe.afterRun r }).occupy t unitMxe ⟨i, r.status, r.cycles, r.banks⟩ := by
    unfold State.startMxe
    dsimp only
    rw [htile]
    rfl
  rw [hstart, hwrite]
  exact State.occupy_setTile (x := { x with mem := r.mem, mxe := x.mxe.afterRun r }) hrun _ _

/-- A vector record: its result is in the tile; a statistics word goes to the job alone (R130, R164). -/
theorem State.startVec_setTile (i : Issued) : let r := runVec x (bits i.a 0 22)
    ∃ a : State, a.hbm = s.hbm ∧ a.streams = s.streams ∧
      (s.setTile t x).startVec t i = a.setTile t (Tile.holding { x with mem := r.mem, vec := x.vec.afterRun r, nonfin := x.nonfin || r.nonfin } unitVec ⟨i, r.status, r.cycles, r.op⟩) := by
  intro r
  let y : Tile := { x with mem := r.mem, vec := x.vec.afterRun r, nonfin := x.nonfin || r.nonfin }
  have hy : y.stage.state = .running := hrun
  have hwritten : ∀ a : State, (a.setTile t x).setTile t y = a.setTile t y := fun a => a.setTile_setTile t y (Tile.ne_reset hrun)
  unfold State.startVec
  dsimp only
  rw [State.tile_setTile_running hrun]
  split
  next w p _ _ => exact ⟨s.updJob p fun j => { j with posted := j.posted ++ [w] }, rfl, rfl, by
    rw [hwritten]
    exact State.occupy_setTile (s := s.updJob p fun j => { j with posted := j.posted ++ [w] }) hy _ _⟩
  next => exact ⟨s, rfl, rfl, by
    rw [hwritten]
    exact State.occupy_setTile hy _ _⟩

/-- A DMA record: its program is fetched (R199). -/
theorem State.startDma_setTile (i : Issued) :
    (s.setTile t x).startDma t i = s.setTile t (Tile.holding { x with dma := x.dma.start (bits i.a 0 22) 0 x.mem.spaStep } unitDma ⟨i, .done, 0, 0⟩) := by
  unfold State.startDma
  dsimp only
  rw [State.tile_setTile_running hrun, s.setTile_setTile t _ (Tile.ne_reset hrun)]
  exact State.occupy_setTile (x := { x with dma := x.dma.start (bits i.a 0 22) 0 x.mem.spaStep }) hrun _ _

/-- A QSEND with a good buffer on a BOUND level queue asks for the lock (R185 step 1). -/
theorem State.startSend_setTile {i : Issued} {p e : Nat} (hpart : x.part = some p) (hfind : s.streams.find p (bits i.a 0 16) (bits i.a 16 3) = some e)
    (hbound : (s.streams.entry e).state = .bound) (hbuf : (x.checkBuf (bits i.b 0 22) false).2 = .done) : let d := (x.checkBuf (bits i.b 0 22) false).1
    (s.setTile t x).startSend t i =
      { s.setTile t (Tile.holding { x with ep := { x.ep with tx := some ⟨e, d.off, d.len / 64, 0, 0, false, true⟩ } } unitQout ⟨i, .done, 0, e⟩) with
        streams := { s.streams with asking := s.streams.asking ++ [⟨e, t, d.len / 64, x.label.toNat⟩] } } := by
  intro d
  have hqueue : (x.part.bind fun p => s.streams.find p (bits i.a 0 16) (bits i.a 16 3)) = some e := by rw [hpart]; exact hfind
  have hgood : ¬ (s.streams.entry e).state = .error := by rw [hbound]; decide
  unfold State.startSend
  simp only [State.tile_setTile_running hrun, State.setTile_streams, hqueue, hbuf, hgood, ne_eq, not_true_eq_false, if_false, s.setTile_setTile t _ (Tile.ne_reset hrun)]
  rw [State.occupy_setTile (by exact hrun)]

/-- A QRECV with a good buffer on a stream with nothing to take waits with nothing chosen (R189). -/
theorem State.startRecv_setTile {i : Issued} {p : Nat} (hpart : x.part = some p) (hgood : s.streams.broken p (bits i.a 0 16) = false)
    (hempty : s.streams.choose p (bits i.a 0 16) = none) (hbuf : (x.checkBuf (bits i.b 0 22) true).2 = .done) : let d := (x.checkBuf (bits i.b 0 22) true).1
    (s.setTile t x).startRecv t i =
      s.setTile t (Tile.holding { x with ep := { x.ep with rx := some ⟨bits i.a 0 16, d.off, d.len, none, 0, 0⟩ } } unitQin ⟨i, .done, 0, 0⟩) := by
  intro d
  let y : Tile := Tile.holding { x with ep := { x.ep with rx := some ⟨bits i.a 0 16, d.off, d.len, none, 0, 0⟩ } } unitQin ⟨i, .done, 0, 0⟩
  have hy : (s.setTile t y).tile t = y := State.tile_setTile_running (s := s) hrun
  have hwaits : (s.setTile t y).chooseIn t = s.setTile t y := by
    have hrx : y.ep.rx = some ⟨bits i.a 0 16, d.off, d.len, none, 0, 0⟩ := rfl
    have hypart : y.part = some p := hpart
    unfold State.chooseIn
    simp only [hy, hrx, hypart, Option.isSome_none, Bool.false_eq_true, if_false, State.setTile_streams, hempty]
  refine Eq.trans ?_ hwaits
  rw [← State.occupy_setTile (s := s) (x := { x with ep := { x.ep with rx := some ⟨bits i.a 0 16, d.off, d.len, none, 0, 0⟩ } }) hrun]
  unfold State.startRecv
  simp only [State.tile_setTile_running hrun, State.setTile_streams, hpart, hgood, hbuf, ne_eq, not_true_eq_false, if_false, Bool.false_eq_true,
    s.setTile_setTile t _ (Tile.ne_reset hrun), d]

end

/-! ### The only record of a unit ends -/

/-- Tile x once the only record of unit u has ended DONE with its signal (R49). -/
def Tile.ended (x : Tile) (u : Nat) (f : InFlight) : Tile := ((x.setUnit u .idle).noteStatus u f.tag .done).signalOf f.issued

/-- A last-status register is not a unit, the stage, the memories or the dispatcher. -/
theorem Tile.noteStatus_rest (x : Tile) (u tag : Nat) (st : Status) :
    (x.noteStatus u tag st).units = x.units ∧ (x.noteStatus u tag st).stage = x.stage ∧ (x.noteStatus u tag st).mem = x.mem ∧ (x.noteStatus u tag st).disp = x.disp := by
  unfold Tile.noteStatus
  repeat' split
  all_goals exact ⟨rfl, rfl, rfl, rfl⟩

theorem Tile.ended_stage (x : Tile) (u : Nat) (f : InFlight) : (x.ended u f).stage = x.stage :=
  (Tile.signalOf_stage _ _).trans ((x.setUnit u .idle).noteStatus_rest u f.tag .done).2.1

theorem Tile.ended_units (x : Tile) (u : Nat) (f : InFlight) : (x.ended u f).units = (x.setUnit u .idle).units :=
  (Tile.signalOf_units _ _).trans ((x.setUnit u .idle).noteStatus_rest u f.tag .done).1

theorem Tile.ended_mem (x : Tile) (u : Nat) (f : InFlight) : (x.ended u f).mem = x.mem :=
  (congrArg Tile.mem (Tile.signalOf_eq _ _)).trans ((x.setUnit u .idle).noteStatus_rest u f.tag .done).2.2.1

theorem Tile.ended_disp (x : Tile) (u : Nat) (f : InFlight) : (x.ended u f).disp = (x.signalOf f.issued).disp :=
  Tile.signalOf_disp_congr (y := x) ((x.setUnit u .idle).noteStatus_rest u f.tag .done).2.2.2 _

theorem Tile.ended_mxe (x : Tile) (f : InFlight) : (x.ended unitMxe f).mxe = { x.mxe with lastStatus := .done } := congrArg Tile.mxe (Tile.signalOf_eq _ _)
theorem Tile.ended_vec (x : Tile) (f : InFlight) : (x.ended unitVec f).vec = { x.vec with lastStatus := .done, lastOp := f.tag } := congrArg Tile.vec (Tile.signalOf_eq _ _)
theorem Tile.ended_sent (x : Tile) (f : InFlight) : (x.ended unitQout f).ep = { x.ep with txLast := .done } := congrArg Tile.ep (Tile.signalOf_eq _ _)
theorem Tile.ended_received (x : Tile) (f : InFlight) : (x.ended unitQin f).ep = { x.ep with rxLast := .done } := congrArg Tile.ep (Tile.signalOf_eq _ _)

section
variable {s : State} {t u : Nat} {f : InFlight} {st : Option Status}

theorem State.finish_done (h : Alone (s.tile t) u f) : s.finish t u f .done = s.setTile t ((s.tile t).ended u f) := by
  simp [State.finish, h.1, Tile.ended, UnitState.idle]

/-- The only record of a unit ends DONE, and nothing starts behind it. -/
theorem State.completeUnit_done (hrun : (s.tile t).stage.state = .running) (h : Alone (s.tile t) u f) (hst : st.getD f.status = .done) :
    s.completeUnit t u st = s.setTile t ((s.tile t).ended u f) := by
  have hended : ((s.tile t).ended u f).stage.state = .running := (congrArg Stage.state (Tile.ended_stage _ u f)).trans hrun
  have hidle : ((s.tile t).ended u f).unit u = .idle := (congrArg (fun m => Store.get UnitState.idle m u) (Tile.ended_units _ u f)).trans h.2
  have hpump : (s.setTile t ((s.tile t).ended u f)).pump t u = s.setTile t ((s.tile t).ended u f) := by
    simp only [State.pump, State.tile_setTile_running hended, hidle]
    rfl
  unfold State.completeUnit
  simp only [h.1, hst, State.finish_done h, hpump]

end

/-! ### What a record computes depends on the tile's memories, registers and guarded ranges alone -/

section
variable (x : Tile) (us : Store UnitState)

theorem Tile.checkBuf_moved (at_ : Nat) (recv : Bool) : (x.moved us).checkBuf at_ recv = x.checkBuf at_ recv := rfl

theorem runMxe_congr {x y : Tile} (hmem : y.mem = x.mem) (hregs : y.mxe = x.mxe) (hqueue : ∀ a n, y.inQueueArea a n = x.inQueueArea a n)
    (hcheck : ∀ (d : MxeDesc) b, d.check y b = d.check x b) (off draw : Nat) : runMxe y off draw = runMxe x off draw := by
  simp only [runMxe, hmem, hregs, hqueue, hcheck]

theorem runVec_congr {x y : Tile} (hmem : y.mem = x.mem) (hregs : y.vec = x.vec) (hqueue : ∀ a n, y.inQueueArea a n = x.inQueueArea a n)
    (hcheck : ∀ d : VecDesc, d.check y = d.check x) (hrun : ∀ (d : VecDesc) o, d.run o y = d.run o x) (off : Nat) : runVec y off = runVec x off := by
  simp only [runVec, hmem, hregs, hqueue, hcheck, hrun]

theorem runMxe_moved (off draw : Nat) : runMxe (x.moved us) off draw = runMxe x off draw :=
  runMxe_congr (x := x) (y := x.moved us) rfl rfl (fun _ _ => rfl) (fun _ _ => rfl) off draw

theorem runVec_moved (off : Nat) : runVec (x.moved us) off = runVec x off :=
  runVec_congr (x := x) (y := x.moved us) rfl rfl (fun _ _ => rfl) (fun _ => rfl) (fun _ _ => rfl) off

/-- A tile past its record is one moved, its units as they were. -/
theorem pastRecord_moved : pastRecord x = x.moved x.units := pastRecord_eq x

end

end Sys2Proof.Machine
end

section
/-! The statements on the records of the dispatcher, of the engines and of the queue units. -/

namespace Sys2Proof.Machine

section
variable {s : State} {t : Fin 156} {i : Issued}

/-- NOP: past its record, with its signal (R46). -/
theorem exec_nop_at (h : AtRecord s t recNop i) : exec (.nop t) s = .next (s.setTile t ((pastRecord (s.tile t)).signalOf i)) := by
  have hpast : (pastRecord (s.tile t)).stage.state = .running := by simpa using State.running_of_dispatching h.1
  show execNop t s = _
  simp only [execNop, State.take_at h, State.updTile_eq, State.tile_setTile_running hpast, s.setTile_setTile t _ (Tile.ne_reset hpast)]

/-- LOOP: in the body of its loop, with its signal (R52). -/
theorem exec_loop_at (h : AtRecord s t recLoop i) : let y := (s.tile t).takeToken (s.tile t).standing.1
    exec (.loop t) s = .next (s.setTile t ({ y with disp := y.disp.openLoop ((s.tile t).standing.1.frame y.disp.pc) }.signalOf i)) := by
  obtain ⟨hdisp, hop, htok, rfl⟩ := h
  show execLoop t s = _
  simp only [execLoop, hdisp, hop, htok, decide_true, Bool.and_self, if_true]

end

/-- Settles O1. -/
theorem nopAndLoopComplete : Obligations.NopAndLoopComplete := fun _ _ _ => ⟨exec_nop_at, exec_loop_at⟩

/-- Settles O2: the record starts on the tile past it, from which the engine computes what it would have before. -/
theorem mxeAndDmaRecordsStart : Obligations.MxeAndDmaRecordsStart := by
  refine fun t s i => ⟨fun h hu => ?mxe, fun h hu => ?dma⟩
  case mxe =>
    intro r
    obtain ⟨us, hstart⟩ := State.dispatch_starts h hu
    have hrun : ((s.tile t).moved us).stage.state = .running := State.running_of_dispatching h.1
    have hr : runMxe ((s.tile t).moved us) (bits i.a 0 22) s.draws = r := by
      rw [runMxe_moved, ← runMxe_moved (s.tile t) (s.tile t).units, ← pastRecord_moved]
    have hleft := State.startMxe_setTile (s := s) (t := t) hrun i
    rw [hr] at hleft
    let y := Tile.holding { (s.tile t).moved us with mem := r.mem, mxe := (s.tile t).mxe.afterRun r } unitMxe ⟨i, r.status, r.cycles, r.banks⟩
    have htile : (State.setTile { s with draws := s.draws + 1 } t y).tile t = y := State.tile_setTile_running (x := y) hrun
    refine ⟨_, congrArg Host.Outcome.next (hstart.trans hleft), ?_⟩
    exact ⟨(congrArg Tile.mem htile :), (congrArg Tile.mxe htile :), (congrArg Tile.disp htile :), inUnit_of_tile htile, rfl⟩
  case dma =>
    obtain ⟨us, hstart⟩ := State.dispatch_starts h hu
    have hrun : ((s.tile t).moved us).stage.state = .running := State.running_of_dispatching h.1
    let y := Tile.holding { (s.tile t).moved us with dma := (s.tile t).dma.start (bits i.a 0 22) 0 (s.tile t).mem.spaStep } unitDma ⟨i, .done, 0, 0⟩
    have htile : (s.setTile t y).tile t = y := State.tile_setTile_running (x := y) hrun
    refine ⟨_, congrArg Host.Outcome.next (hstart.trans (State.startDma_setTile hrun i)), ?_⟩
    exact ⟨(congrArg Tile.dma htile :), inUnit_of_tile htile, (congrArg Tile.disp htile :), (congrArg Tile.mem htile :)⟩

/-- A vector row at a record of its operation, on a free engine in stream mode: the record runs (R130, R133). -/
theorem exec_vecRow_runs {e : (Fin 156 → Instr) × VecOp} (he : e ∈ vecRows) {t : Fin 156} {s : State} {i : Issued} (h : AtRecord s t recVec i)
    (hstream : (s.tile t).streaming = true) (hop : (s.tile t).standingOp = e.2.code) (hu : UnitFree (s.tile t) unitVec) : let r := runVec (pastRecord (s.tile t)) (bits i.a 0 22)
    Answers (exec (e.1 t) s) fun u => (u.tile t).mem = r.mem ∧ (u.tile t).vec = (s.tile t).vec.afterRun r ∧ (u.tile t).nonfin = ((s.tile t).nonfin || r.nonfin) ∧
      (u.tile t).disp = (pastRecord (s.tile t)).disp ∧ InUnit u t unitVec ⟨i, r.status, r.cycles, r.op⟩ ∧ u.hbm = s.hbm ∧ u.streams = s.streams := by
  intro r
  obtain ⟨us, hstart⟩ := State.dispatch_starts h hu
  have hrun : ((s.tile t).moved us).stage.state = .running := State.running_of_dispatching h.1
  have hr : runVec ((s.tile t).moved us) (bits i.a 0 22) = r := by
    rw [runVec_moved, ← runVec_moved (s.tile t) (s.tile t).units, ← pastRecord_moved]
  obtain ⟨a, hhbm, hstreams, hleft⟩ := State.startVec_setTile (s := s) (t := t) hrun i
  rw [hr] at hleft
  let y := Tile.holding { (s.tile t).moved us with mem := r.mem, vec := (s.tile t).vec.afterRun r, nonfin := (s.tile t).nonfin || r.nonfin } unitVec ⟨i, r.status, r.cycles, r.op⟩
  have htile : (a.setTile t y).tile t = y := State.tile_setTile_running (x := y) hrun
  have hdispatch : s.dispatchVec t e.2 = a.setTile t y := by
    refine Eq.trans ?_ (hstart.trans hleft)
    simp [State.dispatchVec, hstream, hop]
  refine ⟨_, (exec_vecRow he t s).trans (congrArg Host.Outcome.next hdispatch), ?_⟩
  exact ⟨(congrArg Tile.mem htile :), (congrArg Tile.vec htile :), (congrArg Tile.nonfin htile :), (congrArg Tile.disp htile :), inUnit_of_tile htile, hhbm, hstreams⟩

section
variable {s : State} {t : Fin 156} {v : DWord}

/-- A VEC_MODE write that is accepted starts CLEARING (R141). -/
theorem exec_vecModeWrite_accepted (hup : s.clusterUp = true) (hlegal : bits v.toNat 0 2 ≤ 1) (hother : bits v.toNat 0 2 ≠ (s.tile t).vec.mode) (hok : (s.tile t).modeOk = true) :
    exec (.vecModeWrite t v) s =
      .next (s.setTile t { s.tile t with vec := { (s.tile t).vec with clearing := true, modeRefused := (s.tile t).vec.modeRefused && !bit v.toNat 2 } }) := by
  have hchange : ¬ (1 < bits v.toNat 0 2 ∨ (bits v.toNat 0 2 = (s.tile t).vec.mode ∧ (!(s.tile t).vec.clearing) = true)) := by
    rintro (h | ⟨h, -⟩)
    · omega
    · exact hother h
  show execVecModeWrite t v s = _
  unfold execVecModeWrite
  simp only [hup, hchange, hok, Bool.not_true, Bool.false_eq_true, if_false, if_true]
  rfl

/-- The end of CLEARING on a tile that no partition owns puts the other mode in force, with memories and tile registers cleared (R141). -/
theorem exec_vecClearComplete_unowned (hclearing : (s.tile t).vec.clearing = true) (hpart : (s.tile t).part = none) :
    exec (.vecClearComplete t) s =
      .next (s.setTile t { s.tile t with mem := .cleared, vec := { (s.tile t).vec with tg := [], clearing := false, mode := 1 - (s.tile t).vec.mode } }) := by
  show execVecClearComplete t s = _
  unfold execVecClearComplete
  simp only [hclearing, hpart, Bool.not_true, Bool.false_eq_true, if_false]
  rw [← hpart]
  rfl

/-- A tile-register instruction outside TILE mode sets ERR_MODE alone (R143). -/
theorem exec_tileInstructionDiscard_outside (hup : s.clusterUp = true) (hmode : (s.tile t).inTileMode = false) :
    exec (.tileInstructionDiscard t v) s = .next (s.setTile t { s.tile t with vec := { (s.tile t).vec with trErrMode := true } }) := by
  show execTileInstructionDiscard t v s = _
  unfold execTileInstructionDiscard
  simp only [hup, hmode, Bool.not_true, Bool.not_false, Bool.false_eq_true, if_false, if_true]

end

/-- Settles O3: the vector rows by the shared dispatch, the mode changes each by its branch. -/
theorem vectorRecordsAndModes : Obligations.VectorRecordsAndModes :=
  ⟨fun _ he _ _ _ => exec_vecRow_runs he, fun _ _ _ => ⟨exec_vecModeWrite_accepted, exec_vecClearComplete_unowned, exec_tileInstructionDiscard_outside⟩⟩

/-- Settles O4: the only record of its unit ends DONE, and nothing starts behind it. -/
theorem engineRecordsComplete : Obligations.EngineRecordsComplete := by
  refine fun t s f hrun hdone => ⟨fun halone => ?mxe, fun halone => ?vec⟩
  case mxe =>
    have hended := (congrArg Stage.state (Tile.ended_stage (s.tile t) unitMxe f)).trans hrun
    refine ⟨_, congrArg Host.Outcome.next (State.completeUnit_done hrun halone hdone), ?_⟩
    beta_reduce
    rw [State.tile_setTile_running hended]
    exact ⟨Tile.ended_mxe _ f, Tile.ended_disp _ _ f, Tile.ended_mem _ _ f, rfl⟩
  case vec =>
    have hended := (congrArg Stage.state (Tile.ended_stage (s.tile t) unitVec f)).trans hrun
    refine ⟨_, congrArg Host.Outcome.next (State.completeUnit_done hrun halone hdone), ?_⟩
    beta_reduce
    rw [State.tile_setTile_running hended]
    exact ⟨Tile.ended_vec _ f, Tile.ended_disp _ _ f, Tile.ended_mem _ _ f, rfl⟩

/-! ### Queue units -/

section
variable {s : State} {t : Fin 156} {i : Issued} {p : Nat} (hpart : (s.tile t).part = some p)
include hpart

/-- QSEND with a good buffer on a BOUND level queue asks for its lock (R185). -/
theorem exec_qsend_asks {e : Nat} (h : AtRecord s t recQsend i) (hu : UnitFree (s.tile t) unitQout) (hfind : s.streams.find p (bits i.a 0 16) (bits i.a 16 3) = some e)
    (hbound : (s.streams.entry e).state = .bound) (hbuf : ((s.tile t).checkBuf (bits i.b 0 22) false).2 = .done) : let d := ((s.tile t).checkBuf (bits i.b 0 22) false).1
    Answers (exec (.qsend t) s) fun u => (u.tile t).ep = { (s.tile t).ep with tx := some ⟨e, d.off, d.len / 64, 0, 0, false, true⟩ } ∧
      u.streams = { s.streams with asking := s.streams.asking ++ [⟨e, t, d.len / 64, (s.tile t).label.toNat⟩] } ∧ InUnit u t unitQout ⟨i, .done, 0, e⟩ := by
  intro d
  obtain ⟨us, hstart⟩ := State.dispatch_starts h hu
  have hrun : ((s.tile t).moved us).stage.state = .running := State.running_of_dispatching h.1
  let y := Tile.holding { (s.tile t).moved us with ep := { (s.tile t).ep with tx := some ⟨e, d.off, d.len / 64, 0, 0, false, true⟩ } } unitQout ⟨i, .done, 0, e⟩
  have htile : (s.setTile t y).tile t = y := State.tile_setTile_running (x := y) hrun
  refine ⟨_, congrArg Host.Outcome.next (hstart.trans (State.startSend_setTile hrun hpart hfind hbound hbuf)), (congrArg Tile.ep htile :), rfl, inUnit_of_tile htile⟩

/-- QRECV with a good buffer on a stream with nothing to take waits with nothing chosen (R189). -/
theorem exec_qrecv_waits (h : AtRecord s t recQrecv i) (hu : UnitFree (s.tile t) unitQin) (hgood : s.streams.broken p (bits i.a 0 16) = false)
    (hempty : s.streams.choose p (bits i.a 0 16) = none) (hbuf : ((s.tile t).checkBuf (bits i.b 0 22) true).2 = .done) : let d := ((s.tile t).checkBuf (bits i.b 0 22) true).1
    Answers (exec (.qrecv t) s) fun u => (u.tile t).ep = { (s.tile t).ep with rx := some ⟨bits i.a 0 16, d.off, d.len, none, 0, 0⟩ } ∧
      u.streams = s.streams ∧ InUnit u t unitQin ⟨i, .done, 0, 0⟩ := by
  intro d
  obtain ⟨us, hstart⟩ := State.dispatch_starts h hu
  have hrun : ((s.tile t).moved us).stage.state = .running := State.running_of_dispatching h.1
  let y := Tile.holding { (s.tile t).moved us with ep := { (s.tile t).ep with rx := some ⟨bits i.a 0 16, d.off, d.len, none, 0, 0⟩ } } unitQin ⟨i, .done, 0, 0⟩
  have htile : (s.setTile t y).tile t = y := State.tile_setTile_running (x := y) hrun
  refine ⟨_, congrArg Host.Outcome.next (hstart.trans (State.startRecv_setTile hrun hpart hgood hempty hbuf)), (congrArg Tile.ep htile :), rfl, inUnit_of_tile htile⟩

end

section
variable {s : State} {t : Fin 156} {f : InFlight} (hrun : (s.tile t).stage.state = .running)
include hrun

/-- A queue unit whose endpoint has done its work ends its only record DONE. -/
theorem State.completeUnit_endpoint {u : Nat} (ep : Endpoint) (halone : Alone (s.tile t) u f) :
    (s.setTile t { s.tile t with ep := ep }).completeUnit t u (some .done) = s.setTile t (Tile.ended { s.tile t with ep := ep } u f) := by
  let x : Tile := { s.tile t with ep := ep }
  have hx : x.stage.state = .running := hrun
  have htile : (s.setTile t x).tile t = x := State.tile_setTile_running hx
  have hdone := State.completeUnit_done (s := s.setTile t x) (t := t) (u := u) (f := f) (st := some .done) (by rw [htile]; exact hx) (by rw [htile]; exact halone) rfl
  rw [htile, s.setTile_setTile t _ (Tile.ne_reset hx)] at hdone
  exact hdone

/-- QSEND_COMPLETE once the last packet is injected (R187). -/
theorem exec_qsendComplete_sent {tx : TxState} (htx : (s.tile t).ep.tx = some tx) (hsent : tx.sent = tx.packets) (halone : Alone (s.tile t) unitQout f) :
    Answers (exec (.qsendComplete t) s) fun u =>
      (u.tile t).ep = { (s.tile t).ep with tx := none, txLast := .done } ∧ (u.tile t).disp = ((s.tile t).signalOf f.issued).disp ∧ u.streams = s.streams := by
  let x : Tile := { s.tile t with ep := { (s.tile t).ep with tx := none } }
  have hended : (x.ended unitQout f).stage.state = .running := (congrArg Stage.state (Tile.ended_stage x unitQout f)).trans hrun
  have hexec : execQsendComplete t s = .next (s.setTile t (x.ended unitQout f)) := by
    simp only [execQsendComplete, htx, hsent, if_true]
    exact congrArg Host.Outcome.next (State.completeUnit_endpoint hrun _ halone)
  refine ⟨_, hexec, ?_⟩
  beta_reduce
  rw [State.tile_setTile_running hended]
  exact ⟨Tile.ended_sent x f, (Tile.ended_disp x _ f).trans (Tile.signalOf_disp_congr (x := x) (y := s.tile t) rfl _), rfl⟩

/-- QRECV_COMPLETE once the last packet of its message is copied (R189). -/
theorem exec_qrecvComplete_copied {rx : RxState} (hrx : (s.tile t).ep.rx = some rx) (hchosen : rx.chosen.isSome = true) (hcopied : rx.copied = rx.packets)
    (halone : Alone (s.tile t) unitQin f) :
    Answers (exec (.qrecvComplete t) s) fun u =>
      (u.tile t).ep = { (s.tile t).ep with rx := none, rxLast := .done } ∧ (u.tile t).disp = ((s.tile t).signalOf f.issued).disp ∧ u.streams = s.streams := by
  let x : Tile := { s.tile t with ep := { (s.tile t).ep with rx := none } }
  have hended : (x.ended unitQin f).stage.state = .running := (congrArg Stage.state (Tile.ended_stage x unitQin f)).trans hrun
  have hexec : execQrecvComplete t s = .next (s.setTile t (x.ended unitQin f)) := by
    simp only [execQrecvComplete, hrx, hchosen, hcopied, and_self, if_true]
    exact congrArg Host.Outcome.next (State.completeUnit_endpoint hrun _ halone)
  refine ⟨_, hexec, ?_⟩
  beta_reduce
  rw [State.tile_setTile_running hended]
  exact ⟨Tile.ended_received x f, (Tile.ended_disp x _ f).trans (Tile.signalOf_disp_congr (x := x) (y := s.tile t) rfl _), rfl⟩

end

/-- Settles O7: the records that start, then the records that end. -/
theorem queueRecordsStartAndComplete : Obligations.QueueRecordsStartAndComplete :=
  ⟨fun _ _ _ _ hpart => ⟨fun _ => exec_qsend_asks hpart, exec_qrecv_waits hpart⟩,
    fun _ _ _ hrun => ⟨fun _ => exec_qsendComplete_sent hrun, fun _ => exec_qrecvComplete_copied hrun⟩⟩

end Sys2Proof.Machine
end

section
/-! SUPPORT. IMAGE_LOAD, RUN, INGEST and RELEASE (R40, R298, R305, R415): what one that ends DONE has done; the obligation on them. -/

namespace Sys2Proof.Machine

/-! ### A fold that may fail -/

/-- A fold that a failure ends keeps what each of its steps keeps. -/
theorem foldl_some_keeps {α β γ : Type} {f : Option β → α → Option β} {g : β → γ} (hnone : ∀ a, f none a = none) (hsome : ∀ b a c, f (some b) a = some c → g c = g b)
    (as : List α) {b c : β} (h : as.foldl f (some b) = some c) : g c = g b := by
  induction as generalizing b with
  | nil => exact congrArg g (Option.some.inj h).symm
  | cons a as ih =>
    rw [List.foldl_cons] at h
    cases hstep : f (some b) a with
    | none =>
      rw [hstep, foldl_fixed hnone] at h
      cases h
    | some d => exact (ih (hstep ▸ h)).trans (hsome b a d hstep)

/-! ### IMAGE_LOAD (R40) -/

theorem State.updTiles_loads (s : State) (ts : List Nat) (f : Tile → Tile) : Loads s (s.updTiles ts f) := Loads.foldl (f := fun (a : State) t => a.updTile t f) (fun _ _ => ⟨rfl, rfl⟩) ts s

section
variable {s u : State} {p va : Nat} {place : List Nat} {b : ImageBody} {space : List MapRun} {h : ImageHeader} {pol : Policy}

theorem State.bindQueue_jobs {stream level : Nat} {d : StreamDecl} (hu : s.bindQueue p place b stream d level = some u) : u.jobs = s.jobs := by
  revert hu
  fun_cases State.bindQueue <;> intro hu <;> cases hu <;> rfl

theorem State.bindStreams_jobs (hu : s.bindStreams p place b = some u) : u.jobs = s.jobs := by
  refine foldl_some_keeps (g := State.jobs) (fun n => ?_) (fun a n c hc => ?_) _ hu
  · split
    · rfl
    · exact foldl_fixed (fun _ => rfl) _
  · split at hc
    · rw [Option.some.inj hc]
    · exact foldl_some_keeps (g := State.jobs) (fun _ => rfl) (fun _ _ _ => State.bindQueue_jobs) _ hc

/-- A placed image makes the session ACTIVE; the steps count from 0, and the run stands. -/
theorem State.placeImage_some (hu : s.placeImage p va space h b place pol = some u) :
    (u.part p).sess = .active ∧ (u.job p).image.isSome = true ∧ (u.job p).step.stepNum = 0 ∧ (u.job p).run = (s.job p).run := by
  revert hu
  fun_cases State.placeImage s p va space h b place pol
  case case1 => exact fun hu => nomatch hu
  case case2 s1 hbound j im s2 s3 s4 s5 s6 =>
    intro hu
    obtain rfl := Option.some.inj hu
    have hplaced : s2.job p = _ := s1.job_setJob p fun e => Option.some_ne_none im (congrArg Job.image e)
    have hcleared : Loads s2 s3 := s2.updTiles_loads _ _
    have hloaded : Loads s3 s4 := by
      refine Loads.foldl (fun a l => ?_) _ s3
      split
      · exact (a.loadTile_loads p l _).trans ⟨rfl, rfl⟩
      · exact .refl a
    have hjob : (s6.sample p ((List.range 6).map fun r => (1, r))).job p = _ := ((hcleared.trans hloaded).job p).trans hplaced
    have hrun : j.run = (s.job p).run := congrArg (fun m => (Store.get Job.reset m p).run) (State.bindStreams_jobs hbound :)
    have hactive : SessState.active ≠ .none := by decide
    have hpart : s5.part p = _ := s4.part_updPart p hactive
    refine ⟨(congrArg Part.sess hpart :), ?_⟩
    rw [hjob]
    exact ⟨rfl, rfl, hrun⟩

end

theorem State.readImage_loads (s : State) (p : Nat) (maps : List MapRun) (va : Nat) : Loads s (s.readImage p maps va).1 := by
  have hread : ∀ (a : State) n, Loads a (a.vaRead (.sysChan p) p maps va n).s := fun a n => State.readLines_loads _ p maps _ a va _
  have hboth : ∀ m, Loads s ((s.vaRead (.sysChan p) p maps va 256).s.vaRead (.sysChan p) p maps va m).s := fun m => (hread s _).trans (hread _ m)
  fun_cases State.readImage s p maps va
  case case1 | case2 | case3 | case4 => exact hread s 256
  case case5 | case6 | case7 | case8 => exact hboth _

/-- An image load that ends DONE met no run, and has placed its image (R40). -/
theorem State.imageLoad_done {s u : State} {p ctx fn va : Nat} {blk : List Byte} {body : ImageBody} (hu : s.imageLoad p ctx fn va blk body = (u, .done)) :
    (u.part p).sess = .active ∧ (u.job p).image.isSome = true ∧ (u.job p).step.stepNum = 0 ∧ (u.job p).run = none := by
  revert hu
  fun_cases State.imageLoad s p ctx fn va blk body
  case case1 | case5 => exact fun hu => nomatch hu
  case case2 hbad | case3 hbad | case4 hbad => exact fun hu => absurd (congrArg Prod.snd hu) hbad
  case case6 maps hidle s1 _ _ hread _ _ _ _ _ _ _ _ s2 hplaced =>
    rintro ⟨⟩
    have hjob : s1.job p = s.job p := by simpa only [hread] using (s.readImage_loads p maps va).job p
    obtain ⟨hsess, himage, hstep, hrun⟩ := State.placeImage_some hplaced
    exact ⟨hsess, himage, hstep, by simpa [hrun, hjob] using hidle⟩

/-! ### RUN (R415) -/

theorem State.follow_jobs (s : State) : s.follow.jobs = s.jobs := by
  fun_cases State.follow s <;> rfl

theorem State.follow_out (s : State) : s.follow.out = s.out := by
  fun_cases State.follow s <;> rfl

/-! ### INGEST and RELEASE (R298, R305) -/

/-- An ingest that ends DONE has accepted every record. -/
theorem State.ingestMany_done {n : Nat} {s u : State} {p va k : Nat} {maps : List MapRun} (h : State.ingestMany n s p maps va = (u, .done, k)) : k = n := by
  revert h
  fun_induction State.ingestMany n s p maps va generalizing k
  case case1 => rintro ⟨⟩; rfl
  case case2 hbad => exact fun h => absurd (congrArg (fun r => r.2.1) h) hbad
  case case3 hrest ih => rintro ⟨⟩; rw [ih hrest]

/-- A release that ends DONE has written every record. -/
theorem State.releaseMany_done {n : Nat} {s u : State} {p form recipient nonce i src dst k : Nat} {maps : List MapRun}
    (h : State.releaseMany n s p form recipient nonce i maps src dst = (u, .done, k)) : k = n := by
  revert h
  fun_induction State.releaseMany n s p form recipient nonce i maps src dst generalizing k
  case case1 => rintro ⟨⟩; rfl
  case case2 hbad | case3 hbad => exact fun h => absurd (congrArg (fun r => r.2.1) h) hbad
  case case4 hrest ih => rintro ⟨⟩; rw [ih hrest]

theorem State.release_done {s u : State} {p src dst n form recipient k : Nat} {maps : List MapRun} (h : s.release p maps src dst n form recipient = (u, .done, k)) :
    k = n / 1048576 := by
  revert h
  fun_cases State.release s p maps src dst n form recipient
  case case1 | case2 | case3 | case4 | case5 => exact fun h => nomatch h
  case case6 => exact State.releaseMany_done

/-! ### The commands when they are ready -/

section
variable {s u : State} {fn : Fin 17} {q : Fin 8192} {ctx n : Nat} {c : Cmd} {st : Status}

theorem exec_imageLoad_ready {blk : List Byte} {body : ImageBody} (h : HostReady s fn q 0x26 ctx c)
    (hu : (started s fn q c).imageLoad (fnPart fn) ctx fn c.entry.p0 blk body = (u, st)) :
    exec (.imageLoad fn q (some blk) body) s = .next (completes (u.noteSession (fnPart fn) st) fn q c st 0 0) :=
  congrArg Host.Outcome.next (State.hostCmd_completes h (by simp only [withHost, hu, ends]))

theorem exec_run_ready (h : HostReady s fn q 0x27 ctx c) (himage : (s.job (fnPart fn)).image.isSome = true) (hrestore : (s.job (fnPart fn)).restorePending = false)
    (hrun : (s.job (fnPart fn)).run = none) (hp0 : c.entry.p0 ≠ 0) : let r : Run := ⟨(fn, q, c.entry.seq), c.entry.p0, bit c.entry.p1 0, 0, .release, none, 0xFFFF, 0, 0, false⟩
    exec (.run fn q) s = .next ((started s fn q c).setJob (fnPart fn) { s.job (fnPart fn) with run := some r }).follow := by
  intro r
  refine congrArg Host.Outcome.next (State.hostCmd_runs h ?_)
  have hjob : (started s fn q c).job (fnPart fn) = s.job (fnPart fn) := rfl
  have himage' : (s.job (fnPart fn)).image ≠ none := Option.isSome_iff_ne_none.1 himage
  simp [hjob, himage', hrestore, hrun, hp0, r]

theorem exec_ingest_ready (h : HostReady s fn q 0x28 ctx c) (hsess : (s.part (fnPart fn)).sess = .armed ∨ (s.part (fnPart fn)).sess = .active)
    (hu : (started s fn q c).ingestMany c.entry.p1 (fnPart fn) ((started s fn q c).cmdMaps fn ctx c) c.entry.p0 = (u, st, n)) :
    exec (.ingest fn q) s = .next (completes u fn q c st n 0) := by
  refine congrArg Host.Outcome.next (State.hostCmd_completes h ?_)
  have hopen : ¬ ((s.part (fnPart fn)).sess ≠ .armed ∧ (s.part (fnPart fn)).sess ≠ .active) := fun e => hsess.elim e.1 e.2
  simp only [started_part, hopen, if_false, hu]

theorem exec_release_ready (h : HostReady s fn q 0x29 ctx c)
    (hu : (started s fn q c).release (fnPart fn) ((started s fn q c).cmdMaps fn ctx c) c.entry.p0 c.entry.p1 (bits c.entry.p2 0 48) (bits c.entry.p2 48 8) (bits c.entry.p2 56 8) = (u, st, n)) :
    exec (.release fn q) s = .next (completes (u.noteSession (fnPart fn) st) fn q c st n 0) :=
  congrArg Host.Outcome.next (State.hostCmd_completes h (by simp only [hu]))

end

/-- Settles O25: each command completes with what its operation answers; what one that ends DONE has done is that operation's own law. -/
theorem imageRunIngestAndRelease : Obligations.ImageRunIngestAndRelease := by
  intro fn q ctx c blk body s a p
  refine ⟨fun a1 st h hu => ⟨exec_imageLoad_ready h hu, ?load⟩, fun h himage hrestore hrun hp0 => ?run, fun a1 st n h hsess hu => ⟨exec_ingest_ready h hsess hu, ?ingest⟩,
    fun a1 st k h hu => ⟨exec_release_ready h hu, ?release⟩⟩
  case load =>
    rintro rfl
    exact State.imageLoad_done hu
  case run =>
    refine ⟨_, exec_run_ready h himage hrestore hrun hp0, ?_, State.follow_out _⟩
    have hnew : ∀ r : Run, { s.job p with run := some r } ≠ Job.reset := fun r e => Option.some_ne_none r (congrArg Job.run e)
    exact congrArg Job.run ((congrArg (fun m => Store.get Job.reset m p) (State.follow_jobs _)).trans (State.job_setJob _ p (hnew _)))
  case ingest =>
    rintro rfl
    exact State.ingestMany_done hu
  case release =>
    rintro rfl
    exact State.release_done hu

end Sys2Proof.Machine
end

section
/-! SUPPORT. The step boundary (R37, R60 to R64, R157 to R160, R379): the end of a step and of a faulted run, the watchdog, the fence, the release and the snapshot. -/

namespace Sys2Proof.Machine

/-! ### STEP_END (R60) -/

theorem State.fenceTry_tiles (s : State) (p : Nat) : (s.fenceTry p).tiles = s.tiles := by
  fun_cases State.fenceTry s p
  · obtain ⟨_, hsends⟩ := s.fenceUp_sends p false
    exact hsends.tiles
  · rfl

theorem State.fenceTry_hbm (s : State) (p : Nat) : (s.fenceTry p).hbm = s.hbm := by
  fun_cases State.fenceTry s p
  · obtain ⟨_, hsends⟩ := s.fenceUp_sends p false
    exact (congrArg State.hbm hsends.eq :)
  · rfl

/-- A tile whose stage is not IDLE is not at reset. -/
theorem Tile.ne_reset_of_stage {x : Tile} (h : x.stage.state ≠ .idle) : x ≠ .reset := by
  rintro rfl
  exact h rfl

/-- A tile at STEP_END with its signal, where it has entered AT_STEP_END. -/
def Tile.steppedEnd (x : Tile) (i : Issued) : Tile := { x.signalOf i with stage := { x.stage with state := .atStepEnd } }

/-- STEP_END on a tile whose earlier records are complete: the tile ends its step, and the fence exchange is tried where a partition owns it (R60, R156). -/
theorem exec_stepEnd_at {s : State} {t : Fin 156} {i : Issued} (h : AtRecord s t recStepEnd i) (hdone : s.tileDone t = true) :
    Answers (exec (.stepEnd t) s) fun u => (u.tile t) = (pastRecord (s.tile t)).steppedEnd i ∧ u.hbm = s.hbm := by
  have hpast : (pastRecord (s.tile t)).stage.state = .running := by simpa using State.running_of_dispatching h.1
  have hended : (pastRecord (s.tile t)).steppedEnd i ≠ .reset := Tile.ne_reset_of_stage (fun e : StageState.atStepEnd = .idle => nomatch e)
  let v := s.setTile t ((pastRecord (s.tile t)).steppedEnd i)
  have hv : v.tile t = (pastRecord (s.tile t)).steppedEnd i := s.tile_setTile t hended
  have hexec : exec (.stepEnd t) s = match (s.tile t).part with
      | some p => .next (v.fenceTry p)
      | none => .next v := by
    show execStepEnd t s = _
    simp only [execStepEnd, hdone, if_true, State.take_at h, State.updTile_eq, State.tile_setTile_running hpast, s.setTile_setTile t _ (Tile.ne_reset hpast)]
    rfl
  rw [hexec]
  cases (s.tile t).part with
  | none => exact ⟨v, rfl, hv, rfl⟩
  | some p => exact ⟨v.fenceTry p, rfl, (congrArg (fun m => Store.get Tile.reset m t) (v.fenceTry_tiles p)).trans hv, v.fenceTry_hbm p⟩

/-! ### The end of a faulted run (R63) -/

theorem State.endRun_job {s : State} {p : Nat} {r : Run} (st : Status) (hrun : (s.job p).run = some r) (hjob : { s.job p with run := none } ≠ Job.reset) :
    (s.endRun p st).job p = { s.job p with run := none } := by
  simp only [State.endRun, hrun]
  exact (congrArg (fun m => Store.get Job.reset m p) (State.complete_jobs _ _ _ _ _ _ _)).trans (s.job_setJob p hjob)

/-- A job that has an outcome is not at reset. -/
theorem Job.ne_reset_of_outcome {j : Job} (h : j.step.lastOutcome ≠ 0) : j ≠ .reset := by
  rintro rfl
  exact h rfl

/-- A run that ends FAULTED leaves no run, and outcome FAULT. -/
theorem State.faultEnd_job {s : State} {p : Nat} {r : Run} (peers : Bool) (hrun : (s.job p).run = some r) :
    ((s.faultEnd p peers).job p).run = none ∧ ((s.faultEnd p peers).job p).step = { (s.job p).step with lastOutcome := 4 } := by
  fun_cases State.faultEnd s p peers
  case case1 h => exact absurd (h.symm.trans hrun) (Option.some_ne_none r).symm
  case case2 j _ _ _ st r1 _ _ _ _ s4 s5 =>
    have hj : s5.job p = _ := s4.job_setJob p (Job.ne_reset_of_outcome (by decide : (4 : Nat) ≠ 0))
    have hrun5 : (s5.job p).run = some r1 := congrArg Job.run hj
    have hstep5 : (s5.job p).step = { j.step with lastOutcome := 4 } := congrArg Job.step hj
    have hend := State.endRun_job (s := s5) st hrun5 (Job.ne_reset_of_outcome (by simp [hstep5]))
    have hfollow : (s5.endRun p st).follow.job p = { s5.job p with run := none } := (congrArg (fun m => Store.get Job.reset m p) (State.follow_jobs _)).trans hend
    exact ⟨congrArg Job.run hfollow, (congrArg Job.step hfollow).trans hstep5⟩

/-! ### The watchdog (R64) -/

/-- From s to u a tile that is not IDLE keeps its stage and its partition, and a run in progress is not ended. -/
structure KeepsStages (s u : State) : Prop where
  stage : ∀ t, (s.tile t).stage.state ≠ .idle → (u.tile t).stage = (s.tile t).stage
  part : ∀ t, (s.tile t).stage.state ≠ .idle → (u.tile t).part = (s.tile t).part
  run : ∀ p, (s.job p).run.isSome = true → (u.job p).run.isSome = true

theorem KeepsStages.refl (s : State) : KeepsStages s s := ⟨fun _ _ => rfl, fun _ _ => rfl, fun _ h => h⟩

theorem KeepsStages.trans {s t u : State} (h : KeepsStages s t) (k : KeepsStages t u) : KeepsStages s u := by
  have hidle : ∀ j, (s.tile j).stage.state ≠ .idle → (t.tile j).stage.state ≠ .idle := fun j hj => by rwa [h.stage j hj]
  exact ⟨fun j hj => (k.stage j (hidle j hj)).trans (h.stage j hj), fun j hj => (k.part j (hidle j hj)).trans (h.part j hj), fun p hp => k.run p (h.run p hp)⟩

theorem KeepsStages.foldl {α : Type} {f : State → α → State} (hf : ∀ a x, KeepsStages a (f a x)) (xs : List α) (s : State) : KeepsStages s (xs.foldl f s) := by
  induction xs generalizing s with
  | nil => exact .refl s
  | cons x xs ih => exact (hf s x).trans (ih _)

/-- What leaves the tiles and the jobs. -/
theorem KeepsStages.of_eq {s u : State} (htiles : u.tiles = s.tiles) (hjobs : u.jobs = s.jobs) : KeepsStages s u := by
  have htile : ∀ t, u.tile t = s.tile t := fun t => congrArg (fun m => Store.get Tile.reset m t) htiles
  have hjob : ∀ p, u.job p = s.job p := fun p => congrArg (fun m => Store.get Job.reset m p) hjobs
  exact ⟨fun t _ => by rw [htile], fun t _ => by rw [htile], fun p h => by rwa [hjob]⟩

theorem State.updTile_keepsStages (s : State) (t : Nat) {f : Tile → Tile} (hf : ∀ x, (f x).stage = x.stage ∧ (f x).part = x.part) : KeepsStages s (s.updTile t f) := by
  have hsame : (s.tile t).stage.state ≠ .idle → (s.updTile t f).tile t = f (s.tile t) := fun h =>
    s.tile_setTile t (Tile.ne_reset_of_stage (by rwa [(hf _).1]))
  have hother : ∀ j, j ≠ t → (s.updTile t f).tile j = s.tile j := fun j hj => s.tile_setTile_ne _ hj
  refine ⟨fun j hj => ?_, fun j hj => ?_, fun _ h => h⟩
  · by_cases hjt : j = t
    · subst hjt
      rw [hsame hj, (hf _).1]
    · rw [hother j hjt]
  · by_cases hjt : j = t
    · subst hjt
      rw [hsame hj, (hf _).2]
    · rw [hother j hjt]

theorem State.updTiles_keepsStages (s : State) (ts : List Nat) {f : Tile → Tile} (hf : ∀ x, (f x).stage = x.stage ∧ (f x).part = x.part) : KeepsStages s (s.updTiles ts f) :=
  KeepsStages.foldl (f := fun (a : State) t => a.updTile t f) (fun a t => a.updTile_keepsStages t hf) ts s

theorem Tile.stopDispatch_part (x : Tile) : x.stopDispatch.part = x.part := by
  unfold Tile.stopDispatch
  dsimp only
  repeat' split
  all_goals rfl

theorem State.flushQueue_keepsStages (s : State) (i : Nat) : KeepsStages s (s.flushQueue i) := by
  have hflushed : ∀ q, KeepsStages s { s with streams := q } := fun _ => .of_eq rfl rfl
  unfold State.flushQueue
  dsimp only
  split
  · refine (hflushed _).trans (State.updTile_keepsStages _ _ fun x => ?_)
    split
    · split <;> exact ⟨rfl, rfl⟩
    · exact ⟨rfl, rfl⟩
  · split <;> exact .of_eq rfl rfl

theorem State.setRun_keepsStages (s : State) (p : Nat) (r : Run) : KeepsStages s (s.setJob p { s.job p with run := some r }) := by
  refine ⟨fun _ _ => rfl, fun _ _ => rfl, fun q hq => ?_⟩
  by_cases hqp : q = p
  · subst hqp
    rw [s.job_setJob q fun e => Option.some_ne_none r (congrArg Job.run e)]
    rfl
  · exact (congrArg (fun j : Job => j.run.isSome) (Store.get_set_ne _ _ hqp)).trans hq

theorem State.stopRun_keepsStages (s : State) (p : Nat) (st : Status) : KeepsStages s (s.stopRun p st) := by
  fun_cases State.stopRun s p st
  case case1 | case2 => exact .refl s
  case case3 r _ _ _ _ s1 s2 =>
    have hstop : KeepsStages s1 (s1.updTiles (s.tilesOf p) Tile.stopDispatch) := s1.updTiles_keepsStages _ fun x => ⟨x.stopDispatch_stage, x.stopDispatch_part⟩
    have hs2 : KeepsStages s1 s2 := hstop.trans (.of_eq rfl rfl)
    exact ((s.setRun_keepsStages p _).trans hs2).trans (.foldl State.flushQueue_keepsStages _ _)

theorem State.report_keepsStages (s : State) (cls source unit : Nat) (st : Status) (part detail : Nat) : KeepsStages s (s.report cls source unit st part detail) :=
  .of_eq (s.report_noted _ _ _ _ _ _).tiles (s.report_jobs _ _ _ _ _ _)

/-- Tile t belongs to partition p, whose run is in progress, and stands at stage g. -/
structure State.StandsAt (s : State) (t p : Nat) (g : Stage) : Prop where
  part : (s.tile t).part = some p
  run : (s.job p).run.isSome = true
  stage : (s.tile t).stage = g

section
variable {s u : State} {t p : Nat} {g : Stage}

theorem State.StandsAt.keeps (h : s.StandsAt t p g) (hg : g.state ≠ .idle) (k : KeepsStages s u) : u.StandsAt t p g := by
  obtain ⟨hpart, hrun, rfl⟩ := h
  exact ⟨(k.part t hg).trans hpart, k.run p hrun, k.stage t hg⟩

/-- A stage fault of another tile, or of a tile that has faulted, leaves the stage (R63). -/
theorem State.StandsAt.stageFault_other {k : Nat} (h : s.StandsAt t p g) (hg : g.state ≠ .idle) (hk : k = t → g.fault ≠ .done) (st : Status) (recIdx unit : Nat) :
    (s.stageFault k st recIdx unit).StandsAt t p g := by
  fun_cases State.stageFault s k st recIdx unit
  case case1 | case2 => exact h
  case case3 x q _ _ _ s1 =>
    have hs1 : s1.StandsAt t p g := by
      by_cases hfault : x.stage.fault = .done
      · have hkt : t ≠ k := by
          rintro rfl
          exact hk rfl (h.stage ▸ hfault)
        have hset : ∀ y, (s.setTile k y).StandsAt t p g := fun y =>
          ⟨(congrArg Tile.part (s.tile_setTile_ne y hkt)).trans h.part, h.run, (congrArg Tile.stage (s.tile_setTile_ne y hkt)).trans h.stage⟩
        simp only [s1, hfault, if_true]
        exact (hset _).keeps hg (State.report_keepsStages _ _ _ _ _ _ _)
      · simp only [s1, hfault, if_false]
        exact h
    exact hs1.keeps hg (s1.stopRun_keepsStages q st)

/-- A stage fault of a tile that has none HALTS it with its status, record and unit (R63). -/
theorem State.StandsAt.stageFault_first (h : s.StandsAt t p g) (hg : g.fault = .done) (st : Status) (recIdx unit : Nat) :
    (s.stageFault t st recIdx unit).StandsAt t p { g with state := .halted, fault := st, faultRec := recIdx, faultUnit := unit } := by
  have hhalted : StageState.halted ≠ .idle := by decide
  fun_cases State.stageFault s t st recIdx unit
  case case1 hnone => exact absurd (hnone.symm.trans h.part) (Option.some_ne_none p).symm
  case case2 q hq hnone =>
    obtain rfl := Option.some.inj (hq.symm.trans h.part)
    exact absurd h.run (by simp [hnone])
  case case3 x q hq _ _ s1 =>
    obtain rfl := Option.some.inj (hq.symm.trans h.part)
    let y : Tile := { x with stage := { x.stage with state := .halted, fault := st, faultRec := recIdx, faultUnit := unit } }
    have hy : (s.setTile t y).tile t = y := s.tile_setTile t (Tile.ne_reset_of_stage hhalted)
    have hset : (s.setTile t y).StandsAt t q { g with state := .halted, fault := st, faultRec := recIdx, faultUnit := unit } :=
      ⟨(congrArg Tile.part hy).trans h.part, h.run, (congrArg Tile.stage hy).trans (by rw [← h.stage])⟩
    have hs1 : s1 = (s.setTile t y).report clsStep (unitSource unit) t st q 0 := if_pos ((congrArg Stage.fault h.stage).trans hg)
    rw [hs1]
    exact (hset.keeps hhalted (State.report_keepsStages _ _ _ _ _ _ _)).keeps hhalted (State.stopRun_keepsStages _ _ _)

/-- Stage faults of one status on many tiles: a tile that runs without a fault takes its own, once. -/
theorem State.StandsAt.stageFaults {st : Status} (hst : st ≠ .done) (hg : g.state ≠ .idle) (hfault : g.fault = .done) {o : Nat × Nat} (xs : List (Nat × Nat × Nat))
    (hmem : (t, o) ∈ xs) (honly : ∀ x ∈ xs, x.1 = t → x.2 = o) (h : s.StandsAt t p g) :
    (xs.foldl (fun (a : State) x => a.stageFault x.1 st x.2.2 x.2.1) s).StandsAt t p { g with state := .halted, fault := st, faultRec := o.2, faultUnit := o.1 } := by
  have hafter : ∀ (ys : List (Nat × Nat × Nat)) (a : State), a.StandsAt t p { g with state := .halted, fault := st, faultRec := o.2, faultUnit := o.1 } →
      (ys.foldl (fun (a : State) x => a.stageFault x.1 st x.2.2 x.2.1) a).StandsAt t p { g with state := .halted, fault := st, faultRec := o.2, faultUnit := o.1 } := by
    intro ys
    induction ys with
    | nil => exact fun _ ha => ha
    | cons y ys ih => exact fun a ha => ih _ (ha.stageFault_other (fun e => nomatch e) (fun _ => hst) _ _ _)
  induction xs generalizing s with
  | nil => cases hmem
  | cons x xs ih =>
    by_cases hx : x.1 = t
    · obtain rfl := honly x List.mem_cons_self hx
      subst hx
      exact hafter xs _ (h.stageFault_first hfault _ _ _)
    · have hrest : (t, o) ∈ xs := (List.mem_cons.1 hmem).resolve_left fun e => hx (congrArg Prod.fst e).symm
      exact ih hrest (fun y hy => honly y (List.mem_cons_of_mem _ hy)) (h.stageFault_other hg (fun e => absurd e hx) _ _ _)

end

/-- Tiles of a partition that are not at their step end, each with its oldest record (R64). -/
def State.lateTiles (s : State) (p : Nat) : List (Nat × Nat × Nat) :=
  (s.tilesOf p).filterMap fun t => if (s.tile t).stage.state = .atStepEnd then none else some (t, (s.tile t).oldest)

theorem State.mem_lateTiles {s : State} {p : Nat} {x : Nat × Nat × Nat} :
    x ∈ s.lateTiles p ↔ x.1 ∈ s.tilesOf p ∧ (s.tile x.1).stage.state ≠ .atStepEnd ∧ x.2 = (s.tile x.1).oldest := by
  obtain ⟨t, o⟩ := x
  simp only [State.lateTiles, List.mem_filterMap, Option.ite_none_left_eq_some, Option.some.injEq, Prod.mk.injEq]
  constructor
  · rintro ⟨k, hk, hlate, rfl, rfl⟩
    exact ⟨hk, hlate, rfl⟩
  · rintro ⟨ht, hlate, rfl⟩
    exact ⟨t, ht, hlate, rfl, rfl⟩

/-- The watchdog of a step with a late tile gives every late tile a stage fault TIMEOUT (R64). -/
theorem exec_stepWatchdogExpire_late {s : State} {p : Fin 16} {r : Run} {x : Nat × Nat × Nat} (hrun : (s.job p).run = some r) (hphase : r.phase = .step) (hlate : x ∈ s.lateTiles p) :
    exec (.stepWatchdogExpire p) s = .next ((s.lateTiles p).foldl (fun (a : State) x => a.stageFault x.1 .timeout x.2.2 x.2.1) s) := by
  have hsome : (s.lateTiles p).isEmpty = false := List.isEmpty_eq_false_iff.2 (List.ne_nil_of_mem hlate)
  show execStepWatchdogExpire p s = _
  simp only [execStepWatchdogExpire, hrun, hphase, ne_eq, not_true_eq_false, if_false]
  rw [State.lateTiles] at hsome
  rw [hsome]
  rfl

/-! ### The fence (R157, R160) -/

/-- A job whose step has an outcome keeps the step from s to u. -/
def KeepsStep (p : Nat) (s u : State) : Prop := (s.job p).step.lastOutcome ≠ 0 → (u.job p).step = (s.job p).step

section
variable {s t u : State} {p : Nat}

theorem KeepsStep.refl : KeepsStep p s s := fun _ => rfl

theorem KeepsStep.trans (h : KeepsStep p s t) (k : KeepsStep p t u) : KeepsStep p s u := fun hs => (k (by rwa [h hs])).trans (h hs)

theorem KeepsStep.of_jobs (h : u.jobs = s.jobs) : KeepsStep p s u := fun _ => congrArg (fun m => (Store.get Job.reset m p).step) h

theorem KeepsStep.foldl {α : Type} {f : State → α → State} (hf : ∀ a x, KeepsStep p a (f a x)) (xs : List α) (s : State) : KeepsStep p s (xs.foldl f s) := by
  induction xs generalizing s with
  | nil => exact .refl
  | cons x xs ih => exact (hf s x).trans (ih _)

/-- A change of the run alone. -/
theorem State.setRun_keepsStep (s : State) (p : Nat) (x : Option Run) : KeepsStep p s (s.setJob p { s.job p with run := x }) := fun h =>
  (congrArg Job.step (s.job_setJob p (Job.ne_reset_of_outcome (j := { s.job p with run := x }) h)) :)

theorem State.endRun_keepsStep (s : State) (p : Nat) (st : Status) : KeepsStep p s (s.endRun p st) := by
  fun_cases State.endRun s p st
  case case1 => exact .refl
  case case2 => exact (s.setRun_keepsStep p none).trans (.of_jobs (State.complete_jobs _ _ _ _ _ _ _))

theorem State.toRelease_keepsStep (s : State) (p : Nat) : KeepsStep p s (s.toRelease p) := by
  have hend : ∀ st, KeepsStep p s (s.endRun p st).follow := fun st => (s.endRun_keepsStep p st).trans (.of_jobs (State.follow_jobs _))
  fun_cases State.toRelease s p
  case case1 => exact .refl
  case case2 | case3 | case4 => exact hend _
  case case5 => exact s.setRun_keepsStep p _

theorem State.toMaintenance_keepsStep (s : State) (p : Nat) : KeepsStep p s (s.toMaintenance p) := by
  fun_cases State.toMaintenance s p
  · exact s.setRun_keepsStep p _
  · exact s.toRelease_keepsStep p

theorem State.toSnapshot_keepsStep (s : State) (p : Nat) (eligible : Bool) : KeepsStep p s (s.toSnapshot p eligible) := by
  fun_cases State.toSnapshot s p eligible
  · exact s.toMaintenance_keepsStep p
  · exact s.setRun_keepsStep p _
  · refine KeepsStep.trans ?_ (State.toMaintenance_keepsStep _ p)
    exact .of_jobs rfl

end

theorem State.traceFormats_jobs (s : State) (p : Nat) (a b : StepState) (words : List Nat) : (s.traceFormats p a b words).jobs = s.jobs :=
  (foldl_keeps (g := State.jobs) (fun (x : State) (c : Nat × Nat × Nat) => x.trace_jobs 0x0201 p 0 [c.1, c.2.1, c.2.2, b.stepNum]) _ _).trans
    (foldl_keeps (g := State.jobs) (fun (x : State) (_ : Nat) => x.trace_jobs 0x0202 p 0 []) _ s)

theorem State.interim_jobs (s : State) (r : Run) (st : Status) (step outcome : Nat) : (s.interim r st step outcome).jobs = s.jobs := by
  fun_cases State.interim s r st step outcome <;> rfl

theorem State.heldFlushes_jobs (s : State) (p : Nat) : (s.heldFlushes p).jobs = s.jobs :=
  foldl_keeps (g := State.jobs) (fun (a : State) (_ : Nat × Nat × Nat) => State.flushMany_jobs a _) _ _

theorem State.boundaryFlush_jobs (s : State) (p : Nat) : (s.boundaryFlush p).jobs = s.jobs := by
  refine (State.heldFlushes_jobs _ p).trans ((State.flushMany_jobs _ _).trans (foldl_keeps (g := State.jobs) (fun a t => ?_) _ s))
  dsimp only
  split <;> rfl

/-- A job that takes an outcome reads as written, its format changes reported. -/
theorem State.step_traceFormats (s : State) {p : Nat} {j : Job} (h : j.step.lastOutcome ≠ 0) (a b : StepState) (words : List Nat) :
    (((s.setJob p j).traceFormats p a b words).job p).step = j.step :=
  congrArg Job.step ((congrArg (fun m => Store.get Job.reset m p) (State.traceFormats_jobs _ p a b words)).trans (s.job_setJob p (Job.ne_reset_of_outcome h)))

/-- What follows a commit up to the flush of the boundary. -/
theorem State.afterCommit_keepsStep (s : State) (p : Nat) (r : Run) (st : Status) (step outcome : Nat) :
    KeepsStep p s (((s.loadCommitted p).interim r st step outcome).boundaryFlush p) := by
  refine KeepsStep.trans (fun _ => (s.loadCommitted_jobsButRun p).step p) (.of_jobs ?_)
  exact (State.boundaryFlush_jobs _ p).trans (State.interim_jobs _ r st step outcome)

/-- A fence word without NONFIN, TAINT, FAULT and MISMATCH commits the step (R157, R160). -/
theorem State.resolve_committed {s : State} {p : Nat} {w : Nat} (r : Run) (hw : bits w 0 4 = 0) :
    ((s.resolve p r w).job p).step.stepNum = ((s.job p).step.stepNum + 1) % 2 ^ 64 ∧ ((s.resolve p r w).job p).step.lastOutcome = outCommitted := by
  have hclear : ∀ k < 4, bit w k = false := fun k hk => by
    have := congrArg (fun n => n.testBit k) hw
    simpa [testBit_bits, hk, bit_eq_testBit] using this
  have hcommit : ∀ {a u : State} {y : StepState}, (a.job p).step = y → y.lastOutcome = outCommitted → y.stepNum = ((s.job p).step.stepNum + 1) % 2 ^ 64 → KeepsStep p a u →
      (u.job p).step.stepNum = ((s.job p).step.stepNum + 1) % 2 ^ 64 ∧ (u.job p).step.lastOutcome = outCommitted := by
    rintro a u y rfl hout hnum hkeeps
    have hstep := hkeeps (hout ▸ Nat.one_ne_zero)
    exact ⟨hstep ▸ hnum, hstep ▸ hout⟩
  fun_cases State.resolve s p r w
  case case1 hfault => simp [hclear] at hfault
  case case2 htaint _ _ _ _ => exact absurd htaint (by simp [hclear])
  case case3 hveto _ _ _ _ _ _ _ | case4 hveto _ _ _ _ _ _ _ => exact absurd hveto (by simp [hclear])
  case case5 s0 _ _ _ y _ s1 s2 _ => exact hcommit (s0.step_traceFormats Nat.one_ne_zero _ _ _) rfl rfl ((s1.afterCommit_keepsStep p _ _ _ _).trans (s2.toRelease_keepsStep p))
  case case6 s0 _ _ _ y _ s1 s2 _ => exact hcommit (s0.step_traceFormats Nat.one_ne_zero _ _ _) rfl rfl ((s1.afterCommit_keepsStep p _ _ _ _).trans (s2.toSnapshot_keepsStep p true))

/-- The fence of a run on this module alone resolves on its own word (R157). -/
theorem exec_stepFenceResolve_single {s : State} {p : Fin 16} {r : Run} (hrun : (s.job p).run = some r) (hreached : s.fenceReached p = true) (hsingle : s.multi p = false) :
    exec (.stepFenceResolve p) s = .next (s.resolve p r (s.fenceOwn p false)) := by
  show execStepFenceResolve p s = _
  simp [execStepFenceResolve, hrun, hreached, hsingle]

/-! ### The release (R60) -/

/-- What one step of a fold brings about, and every step keeps, holds after the fold. -/
theorem foldl_reaches {α β : Type} {f : β → α → β} {P : β → Prop} {x : α} (hstep : ∀ b, P (f b x)) (hkeep : ∀ b a, P b → P (f b a)) {as : List α} (hmem : x ∈ as) (b : β) :
    P (as.foldl f b) := by
  have hafter : ∀ (as : List α) b, P b → P (as.foldl f b) := fun as => by
    induction as with
    | nil => exact fun _ h => h
    | cons a as ih => exact fun b h => ih _ (hkeep b a h)
  induction as generalizing b with
  | nil => cases hmem
  | cons a as ih =>
    obtain rfl | hmem := List.mem_cons.1 hmem
    · exact hafter as _ (hstep b)
    · exact ih hmem _

/-- A tile as a release leaves it: RUNNING at record 0, with no fault and its latch clear. -/
structure Tile.Released (x : Tile) : Prop where
  state : x.stage.state = .running
  fault : x.stage.fault = .done
  pc : x.disp.pc = 0
  nonfin : x.nonfin = false

theorem Tile.release_released (x : Tile) (d : LTileDesc) (j : Job) (digest : BitVec 256) (delta : Nat) (glids : List Nat) : (x.release d j digest delta glids).Released :=
  ⟨rfl, rfl, rfl, rfl⟩

theorem State.updTile_released (s : State) (t : Nat) {f : Tile → Tile} (hf : ∀ x, (f x).Released) : ((s.updTile t f).tile t).Released := by
  rw [State.updTile_eq, State.tile_setTile_running (hf _).state]
  exact hf _

/-- A release of one tile leaves another that is released. -/
theorem State.updTile_keepsReleased {s : State} {t : Nat} (k : Nat) {f : Tile → Tile} (hf : ∀ x, (f x).Released) (h : (s.tile t).Released) : ((s.updTile k f).tile t).Released := by
  by_cases htk : t = k
  · exact htk ▸ s.updTile_released t hf
  · rwa [State.updTile_eq, s.tile_setTile_ne _ htk]

/-- The release of a partition: the run stands in its step, and every tile placed is released (R37 action 5). -/
theorem State.releaseStep_releases {s : State} {p : Nat} {im : Image} {r : Run} (himage : (s.job p).image = some im) (hrun : (s.job p).run = some r) :
    ((s.releaseStep p).job p).run = some { r with phase := .step } ∧
      ∀ (l t : Nat) (d : LTileDesc), (s.job p).place[l]? = some t → im.body.ltiles[l]? = some d → ((s.releaseStep p).tile t).Released := by
  fun_cases State.releaseStep s p
  case case1 j im' r' hr him s1 s2 j2 s3 =>
    obtain rfl := Option.some.inj (him.symm.trans himage)
    obtain rfl := Option.some.inj (hr.symm.trans hrun)
    refine ⟨congrArg Job.run (s3.job_setJob p fun e => Option.some_ne_none _ (congrArg Job.run e)), fun l t d hplace hd => ?_⟩
    have hl : l ∈ List.range j.place.length := List.mem_range.2 (List.getElem?_eq_some_iff.1 hplace).1
    refine foldl_reaches (P := fun a : State => (a.tile t).Released) (fun a => ?_) (fun a k ha => ?_) hl s2
    · have hplace' : j.place[l]? = some t := hplace
      simp only [hplace', hd]
      exact a.updTile_released t fun x => x.release_released _ _ _ _ _
    · split
      · exact State.updTile_keepsReleased _ (fun x => x.release_released _ _ _ _ _) ha
      · exact ha
  case case2 hnone => exact (hnone im r himage hrun).elim

theorem exec_stepRelease_ready {s : State} {p : Fin 16} {r : Run} (hrun : (s.job p).run = some r) (hphase : r.phase = .release) :
    exec (.stepRelease p) s = .next (s.releaseStep p) := by
  show execStepRelease p s = _
  simp only [execStepRelease, hrun, hphase, if_true]

/-! ### SNAPSHOT (R379) -/

/-- A capture that ends DONE is a COMPLETE copy of the job's step. -/
theorem State.capture_done {s u : State} {p : Nat} (h : s.capture p = (u, .done)) : (u.snap p).area = .complete ∧ (u.snap p).epoch = (s.job p).step.stepNum := by
  revert h
  fun_cases State.capture s p
  case case1 | case2 => exact fun h => nomatch h
  case case3 hbad | case4 hbad | case5 hbad => exact fun h => absurd (congrArg Prod.snd h) hbad
  case case6 =>
    rintro ⟨⟩
    refine ⟨(congrArg SnapPart.area (State.snap_updSnap _ p _ ?_)).trans rfl, (congrArg SnapPart.epoch (State.snap_updSnap _ p _ ?_)).trans rfl⟩
    all_goals exact fun hreset => nomatch congrArg SnapPart.area hreset

theorem exec_snapshot_captures {s a : State} {p : Fin 16} {r : Run} {st : Status} (hrun : (s.job p).run = some r) (hphase : r.phase = .snapshot) (hquiet : s.linksQuiet p = true)
    (hcapture : s.capture p = (a, st)) : exec (.snapshot p) s = .next (if st = .done then ((a.startCopies p).rekeySnapped p).afterSnapshot p else a.afterSnapshot p) := by
  show execSnapshot p s = _
  simp [execSnapshot, hrun, hphase, hquiet, hcapture]

/-- Settles O10: each event by its own law; a late tile by the stage fault that the watchdog gives it. -/
theorem stepsEndAndBegin : Obligations.StepsEndAndBegin := by
  refine ⟨fun t p s i r => ⟨fun h hdone => ?stepEnd, fun hrun hphase hquiet => ?faultEnd, fun hrun hphase hmem hpart hstate hfault => ?watchdog⟩,
    fun p s r hrun => ⟨fun hreached hsingle hclean => ?fence, fun im hphase himage => ?release, fun a st hphase hquiet hcapture => ?snapshot⟩⟩
  case stepEnd =>
    obtain ⟨u, hexec, htile, hhbm⟩ := exec_stepEnd_at h hdone
    refine ⟨u, hexec, ?_, ?_, hhbm⟩
    · rw [htile, Tile.steppedEnd, pastRecord_stage]
    · rw [htile, Tile.steppedEnd]
  case faultEnd =>
    refine ⟨_, ?_, s.faultEnd_job true hrun⟩
    show execRunFaultEnd p s = _
    simp only [execRunFaultEnd, hrun, hphase, hquiet, and_self, if_true]
  case watchdog =>
    have hlate : (t.val, (s.tile t).oldest) ∈ s.lateTiles p := State.mem_lateTiles.2 ⟨hmem, by rw [hstate]; decide, rfl⟩
    have honly : ∀ x ∈ s.lateTiles p, x.1 = t.val → x.2 = (s.tile t).oldest := fun x hx ht => ht ▸ (State.mem_lateTiles.1 hx).2.2
    have hstands : s.StandsAt t p (s.tile t).stage := ⟨hpart, by rw [hrun]; rfl, rfl⟩
    have hfaulted := hstands.stageFaults (st := .timeout) (by decide) (by rw [hstate]; decide) hfault (s.lateTiles p) hlate honly
    refine ⟨_, exec_stepWatchdogExpire_late hrun hphase hlate, ?_⟩
    beta_reduce
    rw [hfaulted.stage]
    exact ⟨rfl, rfl, rfl, rfl⟩
  case fence => exact ⟨_, exec_stepFenceResolve_single hrun hreached hsingle, State.resolve_committed r hclean⟩
  case release =>
    obtain ⟨hrunning, hreleased⟩ := State.releaseStep_releases himage hrun
    refine ⟨_, exec_stepRelease_ready hrun hphase, hrunning, fun l t d hplace hd => ?_⟩
    obtain ⟨hstate, hfault, hpc, hnonfin⟩ := hreleased l t d hplace hd
    exact ⟨hstate, hfault, hpc, hnonfin⟩
  case snapshot =>
    refine ⟨exec_snapshot_captures hrun hphase hquiet hcapture, ?_⟩
    rintro rfl
    exact State.capture_done hcapture

end Sys2Proof.Machine
end
